-- ==== Sys2Proof/Word.lean ====
section
/-!
DEFINITION. Words of the OC412: bytes, texts, the numbered things of section 1.5 (00_scope.md) and tables of fixed
size, which carry the proof of their size.
-/

namespace Sys2Proof

/-- A byte of a frame, a text or a layout (section 10.8). -/
abbrev Byte := BitVec 8

/-- A text: its character bytes in order (section 1.5, section 10.8). -/
abbrev Text := List Byte

/-- A 21-bit pager address; 0 stands for "none" in a group record (section 1.5, section 3.7). -/
abbrev Address := BitVec 21

/-- A callout number, 1 to 255; 0 only as the last-assigned number after cold start (R2). -/
abbrev CalloutNo := BitVec 8

/-- A token, 1 to 4095; 0 only as the last-issued token after cold start (R3). -/
abbrev Token := BitVec 12

/-- A SET value: bit k is set when k is in the set, k from 0 to 15 (section 10.8). -/
abbrev Set16 := BitVec 16

/-- A set of groups 0 to 15. -/
abbrev GroupSet := Set16

/-- Member number k + 1 (members are numbered 1 to 128). -/
abbrev MemberId := Fin 128

/-- Group number k. -/
abbrev GroupId := Fin 16

/-- Plan number k + 1 (plans are numbered 1 to 48). -/
abbrev PlanId := Fin 48

/-- Incident class k. -/
abbrev ClassId := Fin 64

/-- Zone k. -/
abbrev ZoneId := Fin 32

/-- Zone map k + 1 (maps are numbered 1 to 8). -/
abbrev MapId := Fin 8

/-- Slot k + 1 of the callout table (slots are numbered 1 to 8). -/
abbrev SlotId := Fin 8

/-- Site number k. -/
abbrev SiteId := Fin 6

/-- Siren pattern k + 1 (patterns are numbered 1 to 4). -/
abbrev PatternId := Fin 4

/-- A battery level in hundredths of a volt, 0.00 to 15.99 V (section 9.6). -/
abbrev Level := Fin 1600

/-- A table of `n` records, numbered from 0. -/
structure Table (n : Nat) (α : Type) where
  cells : List α
  size  : cells.length = n
deriving DecidableEq, Repr

namespace Table

variable {n : Nat} {α : Type}

def get (t : Table n α) (i : Fin n) : α :=
  t.cells.get ⟨i.val, by rw [t.size]; exact i.isLt⟩

def set (t : Table n α) (i : Fin n) (a : α) : Table n α :=
  ⟨t.cells.set i.val a, by rw [List.length_set]; exact t.size⟩

/-- All records alike. -/
def fill (n : Nat) (a : α) : Table n α :=
  ⟨List.replicate n a, List.length_replicate⟩

def map {β : Type} (f : α → β) (t : Table n α) : Table n β :=
  ⟨t.cells.map f, by rw [List.length_map]; exact t.size⟩

def update (t : Table n α) (i : Fin n) (f : α → α) : Table n α :=
  t.set i (f (t.get i))

end Table

/-- The numbers 0 to `n` - 1 as `Fin n`, ascending. -/
def ascending (n : Nat) : List (Fin n) :=
  (List.range n).filterMap fun k => if h : k < n then some ⟨k, h⟩ else none

/-- A set's members in ascending order, below `n`. -/
def membersOf (n : Nat) (s : Set16) : List (Fin n) :=
  (ascending n).filter fun k => s.getLsbD k.val

/-- The set that holds just these numbers. -/
def setOf (l : List Nat) : Set16 :=
  l.foldl (fun s k => s ||| (1#16 <<< k)) 0#16

end Sys2Proof
end

