-- ==== Sys2Proof/Syntax.lean ====
section
/-!
DEFINITION. The commands of the OC412: one constructor per row of spec/opcode_table.json, with the row's operands.
-/

namespace Sys2Proof

/-- The three lines (chapter 10). -/
inductive Line where
  | p
  | s
  | console
deriving DecidableEq, Repr

/-- The two supervised control lines (R184). -/
inductive ControlLine where
  | p
  | s
deriving DecidableEq, Repr

/-- A control line among the three lines. -/
def ControlLine.line : ControlLine → Line
  | .p => .p
  | .s => .s

/-- One operand or result value, by its kind (section 10.8): NUMBER 0, TEXT 1, SET 2, ABSENT 3. An operand may also
come with an unassigned kind code, which R182 refuses. -/
inductive Operand where
  | number (v : BitVec 32)
  | text (t : Text)
  | set (b : Set16)
  | absent
  | unassigned (kind : Byte)
deriving DecidableEq, Repr

/-- The causes of a cold start (R196). -/
inductive ColdCause where
  | power
  | resetInput
  | cutoff
deriving DecidableEq, Repr

/-- The commands. An order carries the line it arrives on and its operands in the order collected; a frame command
carries the bytes of one link frame; an event carries where it happens. -/
inductive Instr where
  | opening (line : Line) (frame : List Byte)
  | order (line : Line) (frame : List Byte)
  | operand (line : Line) (frame : List Byte)
  | gapTimerExpiry (line : Line)
  | endWithReply (line : Line)
  | supervisionTimerExpiry (line : ControlLine)
  | unknownOrder (line : Line) (code : Byte) (ops : List Operand)
  | alert (line : Line) (ops : List Operand)
  | add (line : Line) (ops : List Operand)
  | commit (line : Line) (ops : List Operand)
  | hold (line : Line) (ops : List Operand)
  | resume (line : Line) (ops : List Operand)
  | standDown (line : Line) (ops : List Operand)
  | depart (line : Line) (ops : List Operand)
  | siren (line : Line) (ops : List Operand)
  | sirenStop (line : Line) (ops : List Operand)
  | queryCallout (line : Line) (ops : List Operand)
  | queryCrew (line : Line) (ops : List Operand)
  | queryMember (line : Line) (ops : List Operand)
  | queryUnit (line : Line) (ops : List Operand)
  | readNotices (line : Line) (ops : List Operand)
  | ackNotice (line : Line) (ops : List Operand)
  | setMask (line : Line) (ops : List Operand)
  | setAvailability (line : Line) (ops : List Operand)
  | keep (line : Line) (ops : List Operand)
  | relayResponse (line : Line) (ops : List Operand)
  | bookOn (line : Line) (ops : List Operand)
  | editMember (line : Line) (ops : List Operand)
  | editGroup (line : Line) (ops : List Operand)
  | editAppliance (line : Line) (ops : List Operand)
  /-- The EDIT-PLAN parts carry the plan operand and the operands after the part code (R39). -/
  | editPlanDelete (line : Line) (plan : Operand) (ops : List Operand)
  | editPlanSettings (line : Line) (plan : Operand) (ops : List Operand)
  | editPlanGroups (line : Line) (plan : Operand) (ops : List Operand)
  | editPlanEntry (line : Line) (plan : Operand) (ops : List Operand)
  | editPlanRemoveEntry (line : Line) (plan : Operand) (ops : List Operand)
  | editPlanReport (line : Line) (plan : Operand) (ops : List Operand)
  | editClass (line : Line) (ops : List Operand)
  | editZone (line : Line) (ops : List Operand)
  | editSite (line : Line) (ops : List Operand)
  /-- The EDIT-UNIT parts carry the operands after the part code (R193). -/
  | editUnitGeneral (line : Line) (ops : List Operand)
  | editUnitPattern (line : Line) (ops : List Operand)
  | save (line : Line) (ops : List Operand)
  /-- The write ends, with a write failure or without (R194). -/
  | saveWriteEnd (failed : Bool)
  | queryStore (line : Line) (ops : List Operand)
  | clearStoreError (line : Line) (ops : List Operand)
  | restart (line : Line) (ops : List Operand)
  | warmRestart
  /-- A cold start for this cause, whose first battery sample is `sample` (R196). -/
  | coldStart (cause : ColdCause) (sample : Level)
  | resetInputHeld
  | accumulationTimerExpiry (slot : SlotId)
  | responseWindowExpiry (slot : SlotId)
  /-- The 58 bits presented at a site's return-frame input, most significant first (R191). `spoiled`: some part of
  the frame arrived while the site was keyed, or a warm restart was taken during its reception (R76, R95). -/
  | returnFrame (site : SiteId) (bits : BitVec 58) (spoiled : Bool)
  | channelClearAsserted (site : SiteId)
  | clearWaitExpiry (site : SiteId)
  | leadInEnd (site : SiteId)
  | burstEnd (site : SiteId)
  | creditAccrual (site : SiteId)
  | sirenOnTimeEnd
  | sirenPeriodBoundary
  | mainsPresentRises
  | mainsPresentFalls
  | batterySample (level : Level)
  | powerLoss
  | elapsedTimeSecond
deriving DecidableEq, Repr

end Sys2Proof
end

