-- ==== Sys2Proof/Decode.lean ====
section
/-!
DEFINITION. The command a word spells. spec/opcode_table.json gives no row any bits, so no word spells a command: a
command comes from outside, into the queue (DESIGN CHOICE, log entry 3).
-/

namespace Sys2Proof

/-- The command of a table word: none, for every word. -/
def decodeTableWord (_nbits _w : Nat) : Option Instr :=
  none

end Sys2Proof
end

