-- ==== Sys2Proof/Config.lean ====
section
/-!
DEFINITION. The fixed quantities of the OC412 (capacities, thresholds and default settings), each named by its rule, and
the free values: what the spec leaves open and the part goes on with. A free value has no body, so nothing about it can
be proved. A third one, `Config.sectionBytes`, stands beside its type in Machine/State.lean.
-/

namespace Sys2Proof.Config

/-- Queue entries (R135). -/
def queueEntries : Nat := 64
/-- Places of the demand list (R131). -/
def demandPlaces : Nat := 16
/-- Pages in one RELEASE batch at most (R26, R106). -/
def releaseRun : Nat := 16
/-- Members re-paged individually at most (R117). -/
def repageLimit : Nat := 16
/-- Response records of a callout at most (R73). -/
def responsePlaces : Nat := 32
/-- Held-back entries of a callout at most (R21). -/
def heldBackPlaces : Nat := 8
/-- Appliance entries of a callout at most (R12). -/
def applianceEntries : Nat := 3
/-- The step from one token to the next (R3). -/
def tokenStep : Token := 1237#12
/-- The gap timer, ms (R178). -/
def gapTime : Nat := 500
/-- Cutoff threshold, hundredths of a volt (R170, R171). -/
def cutoffLevel : Nat := 1050
/-- Recovery threshold, hundredths of a volt (R171). -/
def recoveryLevel : Nat := 1100
/-- Hysteresis of RESERVE, hundredths of a volt (R170). -/
def reserveHysteresis : Nat := 30
/-- The ceiling of an arrival estimate, minutes (R74). -/
def estimateCap : Nat := 99
/-- The longest ETA, minutes (R83). -/
def etaCap : Nat := 60
/-- The elapsed time stops here, seconds (R5). -/
def elapsedCap : Nat := 65535
/-- The sequence counter saturates here (R75). -/
def sequenceCap : Nat := 255
/-- Siren cycles at most (R166). -/
def sirenCycles : Nat := 15
/-- Paging data rate, bit/s (R145). -/
def bitRate : Nat := 2400
/-- Sync bits of a burst (R151, R191). -/
def syncBits : Nat := 96
/-- Bits of a page block (R153, R191). -/
def blockBits : Nat := 48

/-- Defaults of the UNIT section (section 11.1): accumulation window, reserve level and supervision period. -/
def defaultWindow : Nat := 8
def defaultReserveLevel : Nat := 116
def defaultPeriod : Nat := 30
/-- Station code 0000 (section 11.1). -/
def defaultStationCode : Text := [0x30#8, 0x30#8, 0x30#8, 0x30#8]

/-- The battery sense input at `State.reset`: 12.40 V. DESIGN CHOICE, log entry 6; unsafe. -/
def resetLevel : Level := ⟨1240, by decide⟩

/-! ## Free values -/

/-- Which frame of its reply a line is sending when the reply is broken off for the n-th time in all (R180). The spec gives
no bit rate and no event for the end of one frame, so this is free; taken modulo the number of frames (log entry 29). -/
opaque frameUnderWay : Line → Nat → Nat

/-- The milliseconds that frame still takes to its end (R180); free for the same reason (log entry 29). -/
opaque frameTime : Line → Nat → Nat

end Sys2Proof.Config
end

