-- ==== Sys2Proof/Machine/Check.lean ====
section
/-!
DEFINITION. Bits, and the check of R175, which link frames, page blocks, return frames and stored sections all carry.
-/

namespace Sys2Proof.Machine

open Sys2Proof

/-- The bits of a value, most significant first. -/
def bitsOf {w : Nat} (x : BitVec w) : List Bool :=
  (List.range w).map fun k => x.getLsbD (w - 1 - k)

/-- One data bit enters the check register (R175). -/
def checkBit (reg : BitVec 16) (b : Bool) : BitVec 16 :=
  if reg.msb != b then (reg <<< 1) ^^^ 0x1021#16 else reg <<< 1

/-- The check of a run of bits, starting from 0xFFFF, with no final inversion (R175). -/
def checkOf (bits : List Bool) : BitVec 16 :=
  bits.foldl checkBit 0xFFFF#16

def bitsOfBytes (bytes : List Byte) : List Bool :=
  bytes.flatMap bitsOf

end Sys2Proof.Machine
end

