-- ==== Sys2Proof/Machine/State.lean ====
section
/-!
DEFINITION. The state of the OC412, block by block (section 1.3 of 00_scope.md), as plain data; the reasons a step can
stop; and the state right after reset.
-/

namespace Sys2Proof.Machine

open Sys2Proof

/-! ## The plan resolver (chapter 2) -/

inductive Appliance where
  | a
  | b
  | c
  | d
deriving DecidableEq, Repr

/-- The four roles, in the order they are searched (section 1.5). -/
inductive Role where
  | oic
  | drv
  | ba
  | gen
deriving DecidableEq, Repr

/-- A number of members for each role: a requirement (section 2.2) or a shortfall (section 5.1). -/
structure RoleCounts where
  oic : Nat
  drv : Nat
  ba  : Nat
  gen : Nat
deriving DecidableEq, Repr

inductive SirenPolicy where
  | none
  | atLevel0
  | atLevel1
deriving DecidableEq, Repr

/-- A class table entry (section 2.1). -/
inductive ClassEntry where
  | unused
  | direct (plan : PlanId)
  | byZone (map : MapId)
deriving DecidableEq, Repr

/-- A zone map; `none` stands for plan number 0 (section 2.1). -/
structure ZoneMap where
  default : Option PlanId
  zones   : Table 32 (Option PlanId)
deriving DecidableEq, Repr

structure PlanEntry where
  main      : Appliance
  alternate : Option Appliance
  need      : RoleCounts
deriving DecidableEq, Repr

/-- A DEFINED plan record (section 2.2). -/
structure Plan where
  entries      : List PlanEntry
  primary      : GroupSet
  secondary    : GroupSet
  window       : Nat
  turnout      : Nat
  sirenPolicy  : SirenPolicy
  sirenPattern : PatternId
  template     : Text
deriving DecidableEq, Repr

/-- An appliance record (section 2.3). -/
structure ApplianceRecord where
  seats     : Nat
  inService : Bool
  committed : Option CalloutNo
deriving DecidableEq, Repr

structure Resolver where
  classes    : Table 64 ClassEntry
  maps       : Table 8 ZoneMap
  /-- `none`: the plan is UNDEFINED. -/
  plans      : Table 48 (Option Plan)
  appliances : Table 4 ApplianceRecord
deriving DecidableEq, Repr

/-! ## The roster (chapter 3) -/

inductive Availability where
  | available
  | offDuty
  | withheld
deriving DecidableEq, Repr

structure Qualifications where
  oic : Bool
  drv : Bool
  ba  : Bool
deriving DecidableEq, Repr

/-- A member record in use (section 3.1). -/
structure Member where
  callSign     : Text
  address      : Address
  quals        : Qualifications
  groups       : GroupSet
  availability : Availability
  engaged      : Option CalloutNo
deriving DecidableEq, Repr

/-- A group record; address 0 for none (section 3.7). -/
structure Group where
  address : Address
  enabled : Bool
deriving DecidableEq, Repr

structure Roster where
  /-- `none`: the record is not in use. -/
  members : Table 128 (Option Member)
  groups  : Table 16 Group
deriving DecidableEq, Repr

/-! ## Batches and the page queue (chapter 7) -/

inductive BatchKind where
  | alert
  | supplement
  | repage
  | escalate
  | release
  | standDown
deriving DecidableEq, Repr

inductive PageKind where
  | alert
  | repage
  | notRequired
  | standDown
deriving DecidableEq, Repr

/-- Whom a page is addressed to (R128). -/
inductive Addressee where
  | group (g : GroupId)
  | member (m : MemberId)
deriving DecidableEq, Repr

/-- A formed page (R129), with the group or member it was formed for (log entry 13). -/
structure Page where
  addressee : Addressee
  address   : Address
  kind      : PageKind
  token     : Token
  number    : CalloutNo
  cls       : ClassId
  zone      : ZoneId
  escalated : Bool
  text      : Text
deriving DecidableEq, Repr

/-- What a demand names: addressees, or the formed pages of a batch withdrawn before (R130). -/
inductive Content where
  | groups (gs : List GroupId)
  | members (ms : List MemberId)
  | formed (ps : List Page)
deriving DecidableEq, Repr

/-- The site restriction of a demand (R130). -/
inductive Restriction where
  | all
  | only (sites : List SiteId)
deriving DecidableEq, Repr

/-- The owning callout, named by number and token together (R128). -/
structure Owner where
  number : CalloutNo
  token  : Token
deriving DecidableEq, Repr

structure Demand where
  kind     : BatchKind
  owner    : Owner
  content  : Content
  restrict : Restriction
deriving DecidableEq, Repr

inductive PassOutcome where
  | done
  | forced
  | skippedAirtime
  | skippedReserve
deriving DecidableEq, Repr

/-- The condition of a site of a batch's list (R147). -/
inductive SiteCondition where
  | toServe
  | deferred
  | settled (o : PassOutcome)
deriving DecidableEq, Repr

structure SiteEntry where
  site      : SiteId
  condition : SiteCondition
deriving DecidableEq, Repr

/-- A batch in the queue (R133). The site list stands in the order of the remaining sites: a deferral moves a site to
the end (R149). -/
structure Batch where
  kind        : BatchKind
  owner       : Owner
  pages       : List Page
  sites       : List SiteEntry
  started     : Bool
  withdrawing : Bool
deriving DecidableEq, Repr

inductive EndForm where
  | complete
  | dropped
  | withdrawn
deriving DecidableEq, Repr

/-- A pass report (R136) or an end report (R137) on its way to the owning callout. -/
inductive Report where
  | pass (owner : Owner) (outcome : PassOutcome) (groups : GroupSet)
  | ended (owner : Owner) (kind : BatchKind) (form : EndForm) (failed : Bool)
deriving DecidableEq, Repr

structure PageQueue where
  /-- Batches in the order they entered; the first is the current batch (R135). -/
  queue   : List Batch
  /-- The demand list, oldest first (R131). -/
  demands : List Demand
  /-- The MODEL's own: reports made and not yet taken within the event under way; empty between events (R137). -/
  reports : List Report
deriving DecidableEq, Repr

/-! ## The callout table (chapters 1, 4, 5 and 6) -/

/-- The live states of a callout; FREE is a slot without one (section 1.3). -/
inductive CalloutState where
  | inOpen
  | alerting
  | counting
  | crewed
  | held
  | mobile
  | closing
deriving DecidableEq, Repr

inductive TimerMark where
  | running
  | frozen
  | stopped
deriving DecidableEq, Repr

/-- A callout's timer: its remaining milliseconds and its mark (R5). -/
structure Timer where
  remaining : Nat
  mark      : TimerMark
deriving DecidableEq, Repr

inductive BatchStatus where
  | none
  | outstanding
  | ended
deriving DecidableEq, Repr

/-- A place on an appliance: a required slot of a role, or a spare seat (section 5.1). -/
inductive Seat where
  | role (r : Role)
  | spare
deriving DecidableEq, Repr

/-- An entry of a frozen crew list (R103). -/
structure CrewMember where
  member   : MemberId
  seat     : Seat
  estimate : Nat
deriving DecidableEq, Repr

/-- An entry of a callout's appliance list (section 1.2). -/
structure ApplianceEntry where
  letter   : Appliance
  need     : RoleCounts
  departed : Bool
  crew     : List CrewMember
deriving DecidableEq, Repr

/-- A batch withdrawn by HOLD (R21). -/
structure HeldEntry where
  kind    : BatchKind
  content : Content
  owed    : Restriction
deriving DecidableEq, Repr

inductive ResponseKind where
  | attending
  | arrived
  | unavailable
  | withdrawn
  | released
deriving DecidableEq, Repr

/-- Where the last change of a record came from (section 4.1). -/
inductive Source where
  | site (s : SiteId)
  | line (l : Line)
deriving DecidableEq, Repr

structure Response where
  member     : MemberId
  kind       : ResponseKind
  eta        : Option Nat
  minute     : Nat
  estimate   : Option Nat
  sequence   : Option Nat
  source     : Source
  lastChange : Nat
deriving DecidableEq, Repr

inductive Assignment where
  | seated (letter : Appliance) (seat : Seat)
  | surplus
deriving DecidableEq, Repr

/-- A candidate's part of an assessment (section 5.1). -/
structure CandidatePart where
  member     : MemberId
  rank       : Nat
  estimate   : Nat
  assignment : Assignment
deriving DecidableEq, Repr

/-- An appliance entry's part of an assessment (section 5.1). -/
structure AppliancePart where
  letter    : Appliance
  seats     : Nat
  need      : RoleCounts
  /-- In slot order: OIC, DRV, BA, GEN, spare (R111). -/
  assigned  : List CrewMember
  filled    : Bool
  crewedAt  : Option Nat
  inTime    : Bool
  shortfall : RoleCounts
deriving DecidableEq, Repr

inductive CrewOutcome where
  | short
  | partly
  | crewed
deriving DecidableEq, Repr

structure Assessment where
  candidates : List CandidatePart
  entries    : List AppliancePart
  outcome    : CrewOutcome
deriving DecidableEq, Repr

/-- The six flags of a callout record (section 1.2). -/
structure CalloutFlags where
  substituted      : Bool
  applianceOmitted : Bool
  groupsOmitted    : Bool
  txDegraded       : Bool
  aidRequested     : Bool
  responseLost     : Bool
deriving DecidableEq, Repr

/-- A callout record (section 1.2). -/
structure Callout where
  number       : CalloutNo
  reference    : Text
  origin       : Line
  cls          : ClassId
  zone         : ZoneId
  plan         : PlanId
  window       : Nat
  turnout      : Nat
  sirenPolicy  : SirenPolicy
  sirenPattern : PatternId
  token        : Token
  state        : CalloutState
  prior        : Option CalloutState
  appliances   : List ApplianceEntry
  /-- The primary groups; one is marked PAGED when it also stands in `paged`, and DEMANDED otherwise. -/
  primary      : GroupSet
  paged        : GroupSet
  secondary    : GroupSet
  repaged      : List MemberId
  text         : Text
  alertStatus  : BatchStatus
  alertGroups  : GroupSet
  standDownGroups : Option GroupSet
  heldBack     : List HeldEntry
  responses    : List Response
  sequence     : Nat
  assessment   : Assessment
  level        : Fin 4
  exhausted    : Bool
  /-- Whole seconds since the ALERT was taken, and the milliseconds of the second under way (the MODEL's own). -/
  elapsed      : Nat
  elapsedMs    : Nat
  accumulation : Timer
  responseWindow : Timer
  flags        : CalloutFlags
deriving DecidableEq, Repr

/-- What a FREE slot keeps of the callout that last used it (R35). -/
structure Summary where
  number    : CalloutNo
  reference : Text
  origin    : Line
  cls       : ClassId
  zone      : ZoneId
  plan      : PlanId
  token     : Token
  elapsed   : Nat
  level     : Fin 4
  exhausted : Bool
  outcome   : CrewOutcome
  letters   : List Appliance
  departed  : List Appliance
  primary   : GroupSet
  paged     : GroupSet
  /-- Kept until the slot is taken again (R115). -/
  repaged   : List MemberId
  flags     : CalloutFlags
  responses : Nat
  endCode   : Nat
deriving DecidableEq, Repr

inductive Slot where
  | free (summary : Option Summary)
  | live (c : Callout)
deriving DecidableEq, Repr

structure CalloutTable where
  slots      : Table 8 Slot
  freeOrder  : List SlotId
  lastNumber : CalloutNo
  lastToken  : Token
deriving DecidableEq, Repr

/-! ## The site sequencer (chapter 8) -/

/-- A site record (section 8.1); the clear-wait limit is in tenths of a second. -/
structure SiteRecord where
  enabled        : Bool
  stationPowered : Bool
  leadIn         : Nat
  clearWait      : Nat
  ceiling        : Nat
  divisor        : Nat
  credit         : Nat
  accrual        : Nat
deriving DecidableEq, Repr

inductive Direction where
  | ascending
  | descending
deriving DecidableEq, Repr

/-- The sequencer's state (R145), with the milliseconds left of the wait, the lead-in or the burst, and the FORCED
mark of the pass. -/
inductive Sequencer where
  | idle
  | clearWait (site : SiteId) (left : Nat)
  | leadIn (site : SiteId) (forced : Bool) (left : Nat)
  | burst (site : SiteId) (forced : Bool) (left : Nat)
deriving DecidableEq, Repr

structure SiteUnit where
  records   : Table 6 SiteRecord
  direction : Direction
  sequencer : Sequencer
deriving DecidableEq, Repr

/-! ## The station output unit and the supply monitor (chapter 9) -/

structure Pattern where
  period : Nat
  onTime : Nat
  cycles : Nat
deriving DecidableEq, Repr

inductive Phase where
  | on
  | off
deriving DecidableEq, Repr

/-- A siren run in progress (R164); period and on-time of the period under way in seconds, time in milliseconds. -/
structure SirenRun where
  pattern : PatternId
  pending : Option PatternId
  cycles  : Nat
  phase   : Phase
  time    : Nat
  onTime  : Nat
  period  : Nat
deriving DecidableEq, Repr

inductive Lamp where
  | dark
  | called
  | crewed
deriving DecidableEq, Repr

structure StationOutput where
  /-- `none`: the siren run record is IDLE. -/
  run      : Option SirenRun
  patterns : Table 4 Pattern
  lamps    : Table 4 Lamp
deriving DecidableEq, Repr

inductive SupplyState where
  | mains
  | battery
  | reserve
deriving DecidableEq, Repr

structure Supply where
  state        : SupplyState
  lastSample   : Level
  /-- Tenths of a volt. -/
  reserveLevel : Nat
  /-- The MODEL's own: milliseconds to the next sample. -/
  sampleTimer  : Nat
deriving DecidableEq, Repr

/-! ## The line controllers (chapter 10) -/

inductive ExchangeState where
  | idle
  | opened
  | collecting
  | working
  | replying
deriving DecidableEq, Repr

/-- The refusal reasons a reply carries (section 1.5, section 10.8). -/
inductive Reason where
  | unknownOrder
  | notPermitted
  | badOperand
  | notFound
  | wrongState
  | duplicate
  | noPlan
  | noAppliance
  | tableFull
  | busy
deriving DecidableEq, Repr

/-- A reply: the REPLY frame's content and the results its RESULT frames carry (R179). -/
structure Reply where
  exchange : Byte
  /-- The refused flag and the reason; `none` when the order was taken. -/
  refused  : Option Reason
  notices  : Bool
  results  : List Operand
deriving DecidableEq, Repr

/-- The frame of a broken-off reply that is being sent to its end (R180), and the milliseconds it still takes. -/
structure Tail where
  frame : List Byte
  left  : Nat
deriving DecidableEq, Repr

structure LineController where
  state    : ExchangeState
  exchange : Byte
  code     : Byte
  declared : Nat
  operands : List Operand
  /-- Milliseconds left of the gap timer; `none` when stopped (R178). -/
  gap      : Option Nat
  reply    : Option Reply
  /-- The frame under way of a broken-off reply (R180). -/
  tail     : Option Tail
  /-- Bytes received and not yet read as a frame: the beginning of one, or bytes behind the last frame taken (R175). -/
  received : List Byte
  flags    : Set16
  mask     : Set16
deriving DecidableEq, Repr

/-- Line state and supervision timer of a control line (R184); `none` when stopped. -/
structure Supervision where
  up    : Bool
  timer : Option Nat
deriving DecidableEq, Repr

structure Lines where
  p       : LineController
  s       : LineController
  console : LineController
  superP  : Supervision
  superS  : Supervision
  /-- The MODEL's own: how often a reply has been broken off, which numbers the free values of R180 (log entry 29). -/
  breaks  : Nat
deriving DecidableEq, Repr

/-! ## Unit settings and the configuration store (chapter 11) -/

/-- The unit settings of the working copy that no other block holds (section 11.1); seconds. -/
structure UnitSettings where
  stationCode : Text
  window      : Nat
  aidPattern  : PatternId
  periodP     : Nat
  periodS     : Nat
deriving DecidableEq, Repr

structure UnitSection where
  settings     : UnitSettings
  reserveLevel : Nat
deriving DecidableEq, Repr

/-- A stored member record (section 3.1). -/
structure StoredMember where
  callSign : Text
  address  : Address
  quals    : Qualifications
  groups   : GroupSet
  withheld : Bool
deriving DecidableEq, Repr

structure RosterSection where
  members : Table 128 (Option StoredMember)
  groups  : Table 16 Group
deriving DecidableEq, Repr

structure PlansSection where
  plans   : Table 48 (Option Plan)
  classes : Table 64 ClassEntry
  maps    : Table 8 ZoneMap
deriving DecidableEq, Repr

structure StoredAppliance where
  seats     : Nat
  inService : Bool
deriving DecidableEq, Repr

/-- The configuration fields of a site record (section 8.1). -/
structure StoredSite where
  enabled        : Bool
  stationPowered : Bool
  leadIn         : Nat
  clearWait      : Nat
  ceiling        : Nat
  divisor        : Nat
deriving DecidableEq, Repr

structure StationSection where
  appliances : Table 4 StoredAppliance
  sites      : Table 6 StoredSite
  patterns   : Table 4 Pattern
deriving DecidableEq, Repr

inductive Section where
  | unit
  | roster
  | plans
  | station
deriving DecidableEq, Repr

/-- A snapshot of a section's working copy (R194). -/
inductive Snapshot where
  | unit (c : UnitSection)
  | roster (c : RosterSection)
  | plans (c : PlansSection)
  | station (c : StationSection)
deriving DecidableEq, Repr

end Sys2Proof.Machine

namespace Sys2Proof.Config

/-- The bytes of a section's contents, over which its length and check are computed (R192). The spec does not lay them
out: a free function, with no body (DESIGN CHOICE, log entry 20). -/
opaque sectionBytes : Sys2Proof.Machine.Snapshot → List Byte

end Sys2Proof.Config

namespace Sys2Proof.Machine

open Sys2Proof

inductive SectionState where
  | valid
  | defaulted
  | writing
  | failed
deriving DecidableEq, Repr

structure SectionStates where
  unit    : SectionState
  roster  : SectionState
  plans   : SectionState
  station : SectionState
deriving DecidableEq, Repr

/-- A stored section: its contents, and the length and the check written with them (R192). -/
structure StoredCopy (α : Type) where
  contents : α
  length   : Nat
  check    : BitVec 16
deriving DecidableEq, Repr

/-- The stored copies; `none` for a copy that is blank or that a SAVE has invalidated (R192, log entry 20). -/
structure StoredCopies where
  unit    : Option (StoredCopy UnitSection)
  roster  : Option (StoredCopy RosterSection)
  plans   : Option (StoredCopy PlansSection)
  station : Option (StoredCopy StationSection)
deriving DecidableEq, Repr

structure Store where
  stored : StoredCopies
  states : SectionStates
  /-- The snapshot being written; `none` when the store state is IDLE. -/
  busy   : Option Snapshot
  toggle : Bool
  error  : Bool
deriving DecidableEq, Repr

/-! ## The part and the machine -/

inductive StartCause where
  | power
  | resetInput
  | cutoff
  | warm
deriving DecidableEq, Repr

/-- Whether the part runs, and why not (R171, R196). `cutoff` holds the cause that the cold start ending it records. -/
inductive Condition where
  | running
  | cutoff (cause : StartCause)
  | resetHeld
  | off
deriving DecidableEq, Repr

/-- A RESTART order on its way to the warm restart (R196): its reply is being sent; or the reply was broken off and its
frame under way is being sent to its end; or the warm restart is due. -/
inductive RestartPhase where
  | none
  | replying
  | ending
  | due
deriving DecidableEq, Repr

/-- The input pins the blocks read (section 1.7 of 00_scope.md). -/
structure Pins where
  mainsPresent : Bool
  batterySense : Level
  channelClear : Table 6 Bool
deriving DecidableEq, Repr

/-- The OC412. -/
structure Part where
  condition : Condition
  cause     : StartCause
  restart   : RestartPhase
  pins      : Pins
  lines     : Lines
  settings  : UnitSettings
  resolver  : Resolver
  roster    : Roster
  table     : CalloutTable
  pages     : PageQueue
  sites     : SiteUnit
  station   : StationOutput
  supply    : Supply
  store     : Store
deriving DecidableEq, Repr

/-- The machine: the part, and the commands waiting for it, first in first out. -/
structure State extends Part where
  pending : List Instr
deriving DecidableEq, Repr

/-- The spec names nothing that stops the machine for good: every command is taken, refused by a reply, or finds
nothing to act on. So no meaning faults, and there is no reason to name (safe). -/
inductive Fault where
deriving DecidableEq, Repr

/-- Why a command has no outcome. -/
inductive Refusal where
  /-- Raised by an arm of `exec` whose command has no meaning yet; no arm uses it. Safe: the machine stops where the
  hardware goes on. -/
  | notModelled (mnemonic : String)
deriving DecidableEq, Repr

/-! ## Cold-start defaults -/

/-- The UNIT section when its check fails (section 11.1). -/
def UnitSection.default : UnitSection where
  settings :=
    { stationCode := Config.defaultStationCode, window := Config.defaultWindow, aidPattern := 0,
      periodP := Config.defaultPeriod, periodS := Config.defaultPeriod }
  reserveLevel := Config.defaultReserveLevel

/-- The ROSTER section when its check fails (R71). -/
def RosterSection.default : RosterSection where
  members := Table.fill 128 none
  groups := Table.fill 16 { address := 0#21, enabled := false }

/-- The PLANS section when its check fails (R51). -/
def PlansSection.default : PlansSection where
  plans := Table.fill 48 none
  classes := Table.fill 64 .unused
  maps := Table.fill 8 { default := none, zones := Table.fill 32 none }

/-- The STATION section when its check fails (R51, R161, R174). -/
def StationSection.default : StationSection where
  appliances := Table.fill 4 { seats := 4, inService := true }
  sites := Table.fill 6
    { enabled := false, stationPowered := false, leadIn := 150, clearWait := 20, ceiling := 36000, divisor := 10 }
  patterns := Table.fill 4 { period := 10, onTime := 4, cycles := 3 }

/-- A line controller after cold start: IDLE, every flag clear but RESTART (code 9), every code in the mask (R190).
Exchange number, code and count have no stated value: zero, log entry 8. -/
def LineController.cold : LineController where
  state := .idle
  exchange := 0#8
  code := 0#8
  declared := 0
  operands := []
  gap := none
  reply := none
  tail := none
  received := []
  flags := 0x0200#16
  mask := 0x03FF#16

/-- The line controllers after cold start: P and S DOWN with their timers stopped (R190). -/
def Lines.cold (breaks : Nat) : Lines where
  p := .cold
  s := .cold
  console := .cold
  superP := { up := false, timer := none }
  superS := { up := false, timer := none }
  breaks := breaks

/-- The callout table after cold start (R1, R2, R3). -/
def CalloutTable.cold : CalloutTable where
  slots := Table.fill 8 (.free none)
  freeOrder := [0, 1, 2, 3, 4, 5, 6, 7]
  lastNumber := 0#8
  lastToken := 0#12

/-- The page queue after cold start (R144). -/
def PageQueue.cold : PageQueue where
  queue := []
  demands := []
  reports := []

/-- The plan resolver as a cold start loads it, with nothing committed (R51). -/
def Resolver.load (plans : PlansSection) (station : StationSection) : Resolver where
  classes := plans.classes
  maps := plans.maps
  plans := plans.plans
  appliances := station.appliances.map fun a => { seats := a.seats, inService := a.inService, committed := none }

/-- A member as a cold start loads it: WITHHELD by its stored mark and AVAILABLE otherwise, engaged on nothing (R71). -/
def StoredMember.load (m : StoredMember) : Member where
  callSign := m.callSign
  address := m.address
  quals := m.quals
  groups := m.groups
  availability := if m.withheld then .withheld else .available
  engaged := none

/-- The roster as a cold start loads it (R71). -/
def Roster.load (c : RosterSection) : Roster where
  members := c.members.map (Option.map StoredMember.load)
  groups := c.groups

/-- A site as a cold start loads it: credit at the ceiling, accrual count 0 (R161). -/
def StoredSite.load (c : StoredSite) : SiteRecord where
  enabled := c.enabled
  stationPowered := c.stationPowered
  leadIn := c.leadIn
  clearWait := c.clearWait
  ceiling := c.ceiling
  divisor := c.divisor
  credit := c.ceiling
  accrual := 0

/-- The site unit after cold start (R161). -/
def SiteUnit.load (c : StationSection) : SiteUnit where
  records := c.sites.map StoredSite.load
  direction := .ascending
  sequencer := .idle

/-- The station output unit after cold start (R174). -/
def StationOutput.load (c : StationSection) : StationOutput where
  run := none
  patterns := c.patterns
  lamps := Table.fill 4 .dark

/-- The supply state a cold start settles from its inputs and the reserve level just loaded (R174). -/
def SupplyState.settle (mains : Bool) (sample : Level) (reserveLevel : Nat) : SupplyState :=
  if mains then .mains
  else if sample.val < reserveLevel * 10 then .reserve
  else .battery

/-- The supply monitor after cold start (R174). -/
def Supply.load (c : UnitSection) (mains : Bool) (sample : Level) : Supply where
  state := .settle mains sample c.reserveLevel
  lastSample := sample
  reserveLevel := c.reserveLevel
  sampleTimer := 1000

/-- The state of a section a cold start has read (R192). -/
def SectionState.ofCopy {α : Type} : Option α → SectionState
  | some _ => .valid
  | none => .defaulted

/-- The length and the check of a copy are those computed over its contents, whose bytes are `bytes` (R175, R192). -/
def StoredCopy.passes {α : Type} (bytes : α → List Byte) (c : StoredCopy α) : Bool :=
  c.length == (bytes c.contents).length && c.check == checkOf (bitsOfBytes (bytes c.contents))

/-- What a cold start reads from a stored section: its contents when its check passes (R192). -/
def readCopy {α : Type} (bytes : α → List Byte) : Option (StoredCopy α) → Option α
  | some c => if c.passes bytes then some c.contents else none
  | none => none

def StoredCopies.readUnit (c : StoredCopies) : Option UnitSection :=
  readCopy (fun x => Config.sectionBytes (.unit x)) c.unit

def StoredCopies.readRoster (c : StoredCopies) : Option RosterSection :=
  readCopy (fun x => Config.sectionBytes (.roster x)) c.roster

def StoredCopies.readPlans (c : StoredCopies) : Option PlansSection :=
  readCopy (fun x => Config.sectionBytes (.plans x)) c.plans

def StoredCopies.readStation (c : StoredCopies) : Option StationSection :=
  readCopy (fun x => Config.sectionBytes (.station x)) c.station

/-- The store after cold start: the copies as they stand, each section VALID or DEFAULTED (R192, R195). -/
def Store.load (copies : StoredCopies) : Store where
  stored := copies
  states := { unit := .ofCopy copies.readUnit, roster := .ofCopy copies.readRoster, plans := .ofCopy copies.readPlans,
              station := .ofCopy copies.readStation }
  busy := none
  toggle := false
  error := false

/-- Every block at its cold-start value, loaded from the stored copies (R192, R196 steps 3 and 4). The sample timer begins
its full second here, after a cutoff as after a cold start (DESIGN CHOICE, log entry 4; unsafe). -/
def Part.loaded (condition : Condition) (cause : StartCause) (pins : Pins) (breaks : Nat) (copies : StoredCopies) :
    Part :=
  let unit := copies.readUnit.getD UnitSection.default
  let roster := copies.readRoster.getD RosterSection.default
  let plans := copies.readPlans.getD PlansSection.default
  let station := copies.readStation.getD StationSection.default
  { condition := condition
    cause := cause
    restart := .none
    pins := pins
    lines := .cold breaks
    settings := unit.settings
    resolver := .load plans station
    roster := .load roster
    table := .cold
    pages := .cold
    sites := .load station
    station := .load station
    supply := .load unit pins.mainsPresent pins.batterySense
    store := .load copies }

/-- A blank store: no section is there, so none passes its check. -/
def StoredCopies.blank : StoredCopies where
  unit := none
  roster := none
  plans := none
  station := none

/-- The input pins at `State.reset`: mains present, 12.40 V, no channel clear. DESIGN CHOICE, log entry 6; unsafe. -/
def Pins.reset : Pins where
  mainsPresent := true
  batterySense := Config.resetLevel
  channelClear := Table.fill 6 false

/-- The machine right after reset: a cold start of cause POWER (R196) from a blank store (DESIGN CHOICE, log entry 7;
unsafe), with no command waiting. -/
def State.reset : State where
  toPart := .loaded .running .power .reset 0 .blank
  pending := []

end Sys2Proof.Machine
end

