-- ==== Sys2Proof/Machine/Formats.lean ====
section
/-!
DEFINITION. The layouts that cross the part's boundary (section 10.8): link frames and how a receiver finds them, operand
and result values, reply frames, page blocks and bursts, and the return frame.
-/

namespace Sys2Proof.Machine

open Sys2Proof

/-! ## Numbers as bytes -/

/-- The bytes of a number, most significant first, for `n` bytes (section 10.8). -/
def bytesOf (n : Nat) (x : Nat) : List Byte :=
  (List.range n).map fun k => BitVec.ofNat 8 (x / 256 ^ (n - 1 - k))

/-- The number that bytes spell, most significant first. -/
def natOfBytes (bytes : List Byte) : Nat :=
  bytes.foldl (fun acc b => acc * 256 + b.toNat) 0

/-! ## Link frames (R175) -/

/-- The check of a frame, over its kind, its length and its payload. -/
def linkCheck (kind : Byte) (payload : List Byte) : BitVec 16 :=
  checkOf (bitsOfBytes (kind :: BitVec.ofNat 8 payload.length :: payload))

/-- The bytes of a link frame, sync included. -/
def linkFrame (kind : Byte) (payload : List Byte) : List Byte :=
  [0xC3#8, 0x3C#8, kind, BitVec.ofNat 8 payload.length] ++ payload ++ bytesOf 2 (linkCheck kind payload).toNat

/-- The operand an OPERAND payload spells; `none` when its length does not suit its kind (R175, section 10.8). -/
def operandOfPayload : List Byte → Option Operand
  | [] => none
  | kind :: value =>
    if kind = 0#8 then
      if value.length = 4 then some (.number (BitVec.ofNat 32 (natOfBytes value))) else none
    else if kind = 1#8 then
      match value with
      | [] => none
      | n :: text => if text.length = n.toNat then some (.text text) else none
    else if kind = 2#8 then
      if value.length = 2 then some (.set (BitVec.ofNat 16 (natOfBytes value))) else none
    else if kind = 3#8 then
      if value = [] then some .absent else none
    else some (.unassigned kind)

/-- The length of a payload suits the kind of its frame (R175). -/
def lengthSuits (kind : Byte) (payload : List Byte) : Bool :=
  if kind = 1#8 then payload.length == 5
  else if kind = 2#8 then payload.length == 2
  else if kind = 3#8 then (operandOfPayload payload).isSome
  else true

/-- The bytes from the first sync on, 0xC3 followed by 0x3C; of bytes without one, a last 0xC3 that may begin it. -/
def seekSync : List Byte → List Byte
  | [] => []
  | [a] => if a = 0xC3#8 then [a] else []
  | a :: b :: rest => if a = 0xC3#8 ∧ b = 0x3C#8 then a :: b :: rest else seekSync (b :: rest)

/-- The receiver at work for a frame of this kind, for up to `n` frames (R175): from a sync it reads the kind, the length,
the payload and the check; a frame that is discarded, or of another kind, is passed over and the next sync is looked for
behind it, or behind the length when that is above 40 (log entry 2). The answer is the payload of the first frame of the
kind that is not discarded, and the bytes not yet read as a frame. -/
def hearFor : Nat → Byte → List Byte → Option (List Byte) × List Byte
  | 0, _, bytes => (none, bytes)
  | n + 1, kind, bytes =>
    match seekSync bytes with
    | s1 :: s2 :: k :: len :: rest =>
      if 40 < len.toNat then hearFor n kind rest
      else if rest.length < len.toNat + 2 then (none, s1 :: s2 :: k :: len :: rest)
      else
        let payload := rest.take len.toNat
        let check := (rest.drop len.toNat).take 2
        let behind := rest.drop (len.toNat + 2)
        if k = kind ∧ check = bytesOf 2 (linkCheck k payload).toNat ∧ lengthSuits k payload = true then
          (some payload, behind)
        else hearFor n kind behind
    | short => (none, short)

/-- The receiver at work on all the bytes: each frame read takes four of them or more. -/
def hear (kind : Byte) (bytes : List Byte) : Option (List Byte) × List Byte :=
  hearFor (bytes.length + 1) kind bytes

/-- The payload of the first frame of this kind that the bytes hold whole and that is not discarded (R175). -/
def linkPayload (kind : Byte) (bytes : List Byte) : Option (List Byte) :=
  (hear kind bytes).1

/-- The bytes a receiver keeps after that frame, or of the beginning of a frame (R175). -/
def unread (kind : Byte) (bytes : List Byte) : List Byte :=
  (hear kind bytes).2

/-- An OPENING: the station code and the exchange number; its length must be 5 (R175, section 10.8). -/
def openingOf (bytes : List Byte) : Option (List Byte × Byte) :=
  match linkPayload 1#8 bytes with
  | some [a, b, c, d, x] => some ([a, b, c, d], x)
  | _ => none

/-- An ORDER: the order code and the operand count; its length must be 2 (R175, section 10.8). -/
def orderOf (bytes : List Byte) : Option (Byte × Nat) :=
  match linkPayload 2#8 bytes with
  | some [code, count] => some (code, count.toNat)
  | _ => none

/-- An OPERAND frame's operand (R175). -/
def operandOf (bytes : List Byte) : Option Operand :=
  match linkPayload 3#8 bytes with
  | some payload => operandOfPayload payload
  | none => none

/-- The kind byte and value bytes of an operand or result (section 10.8). -/
def operandBytes : Operand → List Byte
  | .number v => 0#8 :: bytesOf 4 v.toNat
  | .text t => 1#8 :: BitVec.ofNat 8 t.length :: t
  | .set b => 2#8 :: bytesOf 2 b.toNat
  | .absent => [3#8]
  | .unassigned k => [k]

/-- The reason codes (section 10.8). -/
def Reason.code : Reason → Byte
  | .unknownOrder => 1#8
  | .notPermitted => 2#8
  | .badOperand => 3#8
  | .notFound => 4#8
  | .wrongState => 5#8
  | .duplicate => 6#8
  | .noPlan => 7#8
  | .noAppliance => 8#8
  | .tableFull => 9#8
  | .busy => 11#8

/-- The status byte: bit 7 refused, bit 6 notices pending (section 10.8). -/
def Reply.status (r : Reply) : Byte :=
  (if r.refused.isSome then 0x80#8 else 0#8) ||| (if r.notices then 0x40#8 else 0#8)

/-- The REPLY frame (section 10.8). -/
def Reply.frame (r : Reply) : List Byte :=
  linkFrame 4#8
    [r.exchange, r.status, (r.refused.map Reason.code).getD 0#8, BitVec.ofNat 8 r.results.length]

/-- The RESULT frame of index `k` (section 10.8). -/
def resultFrame (k : Nat) (v : Operand) : List Byte :=
  linkFrame 5#8 (BitVec.ofNat 8 k :: operandBytes v)

/-- RESULT frames numbered from `k`. -/
def resultFrames : Nat → List Operand → List (List Byte)
  | _, [] => []
  | k, v :: rest => resultFrame k v :: resultFrames (k + 1) rest

/-- The frames of a reply in the order sent: the REPLY, then one RESULT per result, numbered from 1 (R179). -/
def Reply.frames (r : Reply) : List (List Byte) :=
  r.frame :: resultFrames 1 r.results

/-! ## Pages on the air (R151, R153, R191) -/

/-- The text blocks of a text: one for each four characters or part of four. -/
def textBlocks (t : Text) : Nat :=
  (t.length + 3) / 4

/-- The bits of a page: two blocks and its text blocks, 48 bits each (R153). -/
def Page.bits (p : Page) : Nat :=
  (2 + textBlocks p.text) * Config.blockBits

/-- The burst length B of a batch's pages: 96 sync bits and the bits of every page (R153). -/
def burstLength (pages : List Page) : Nat :=
  pages.foldl (fun n p => n + p.bits) Config.syncBits

/-- ⌈B × 1000 / 2400⌉, the milliseconds a burst of B bits is charged for (R153). -/
def burstTime (pages : List Page) : Nat :=
  (burstLength pages * 1000 + (Config.bitRate - 1)) / Config.bitRate

/-- The airtime A of a pass with this lead-in, 0 for a joined turn (R153). -/
def airtime (leadIn : Nat) (pages : List Page) : Nat :=
  leadIn + burstTime pages

/-- A 48-bit block: 32 data bits followed by their check (R191). -/
def blockOf (data : List Bool) : List Bool :=
  data ++ bitsOf (checkOf data)

def PageKind.code : PageKind → BitVec 3
  | .alert => 1#3
  | .repage => 2#3
  | .notRequired => 3#3
  | .standDown => 4#3

/-- The page address block (section 10.8). -/
def Page.addressBlock (p : Page) : List Bool :=
  blockOf (bitsOf p.address ++ bitsOf p.kind.code ++ bitsOf (BitVec.ofNat 3 (textBlocks p.text)) ++ bitsOf 0#5)

/-- The page header block (section 10.8). -/
def Page.headerBlock (p : Page) : List Bool :=
  blockOf (bitsOf p.token ++ bitsOf p.number ++ bitsOf (BitVec.ofNat 6 p.cls.val)
    ++ bitsOf (BitVec.ofNat 5 p.zone.val) ++ [p.escalated])

/-- One text block of each four characters, the last filled out with spaces (R191); `n` blocks. -/
def textBlockBits : Nat → Text → List Bool
  | 0, _ => []
  | n + 1, t => blockOf (bitsOfBytes ((t ++ List.replicate 4 0x20#8).take 4)) ++ textBlockBits n (t.drop 4)

/-- A page's blocks in the order of R151. -/
def Page.blocks (p : Page) : List Bool :=
  p.addressBlock ++ p.headerBlock ++ textBlockBits (textBlocks p.text) p.text

/-- 64 bits alternating 1 and 0, beginning with 1, and the 32-bit word 0x5A3CE1B4 (R191). -/
def syncWord : List Bool :=
  (List.replicate 32 [true, false]).flatten ++ bitsOf 0x5A3CE1B4#32

/-- The burst of a batch's pages (R151). -/
def burstOf (pages : List Page) : List Bool :=
  syncWord ++ pages.flatMap Page.blocks

/-! ## The return frame (section 4.2, section 10.8) -/

structure ReturnFrame where
  address : Address
  token   : Token
  code    : BitVec 3
  eta     : BitVec 6
  check   : BitVec 16
deriving DecidableEq, Repr

/-- The fields of the 58 bits presented at a return-frame input (section 10.8). -/
def ReturnFrame.ofBits (b : BitVec 58) : ReturnFrame where
  address := b.extractLsb' 37 21
  token := b.extractLsb' 25 12
  code := b.extractLsb' 22 3
  eta := b.extractLsb' 16 6
  check := b.extractLsb' 0 16

/-- The check of a return frame, over its 42 data bits (R191). -/
def ReturnFrame.expected (f : ReturnFrame) : BitVec 16 :=
  checkOf (bitsOf f.address ++ bitsOf f.token ++ bitsOf f.code ++ bitsOf f.eta)

/-- The 58 bits of a return frame with its own check. -/
def returnFrameBits (address : Address) (token : Token) (code : BitVec 3) (eta : BitVec 6) : BitVec 58 :=
  let f : ReturnFrame := { address := address, token := token, code := code, eta := eta, check := 0#16 }
  address ++ token ++ code ++ eta ++ f.expected

end Sys2Proof.Machine
end

