-- ==== Sys2Proof/Machine/Operands.lean ====
section
/-!
DEFINITION. Operand forms: text cleaning (section 1.5), how an order reads its operands by kind and range (R182), and
how results are written (section 10.8).
-/

namespace Sys2Proof.Machine

open Sys2Proof

/-! ## Text -/

/-- The characters of section 10.8: space, hyphen, full stop, slash, digits and upper-case letters. -/
def isTextByte (b : Byte) : Bool :=
  let n := b.toNat
  n == 0x20 || (0x2D ≤ n && n ≤ 0x39) || (0x41 ≤ n && n ≤ 0x5A)

/-- Any other character is replaced by a space (section 1.5). -/
def cleanByte (b : Byte) : Byte :=
  if isTextByte b then b else 0x20#8

def clean (t : Text) : Text :=
  t.map cleanByte

/-- A text cleaned, and cut to `n` characters (section 1.5). -/
def cleanCut (n : Nat) (t : Text) : Text :=
  clean (t.take n)

/-- The decimal digits of a number below 1000, without leading zeros. -/
def decimal (n : Nat) : Text :=
  let digit (k : Nat) : Byte := BitVec.ofNat 8 (0x30 + k % 10)
  if n < 10 then [digit n]
  else if n < 100 then [digit (n / 10), digit n]
  else [digit (n / 100), digit (n / 10), digit n]

/-- Words separated by single spaces (R111). -/
def spaced : List Text → Text
  | [] => []
  | [w] => w
  | w :: rest => w ++ 0x20#8 :: spaced rest

def Appliance.letter : Appliance → Byte
  | .a => 0x41#8
  | .b => 0x42#8
  | .c => 0x43#8
  | .d => 0x44#8

def applianceOfByte (b : Byte) : Option Appliance :=
  if b = 0x41#8 then some .a
  else if b = 0x42#8 then some .b
  else if b = 0x43#8 then some .c
  else if b = 0x44#8 then some .d
  else none

def lettersOf (l : List Appliance) : Text :=
  l.map Appliance.letter

/-! ## Reading operands. `none` is BAD_OPERAND (R182); an order given fewer operands takes the missing ones as ABSENT. -/

def operandAt (ops : List Operand) (k : Nat) : Operand :=
  ops.getD k .absent

/-- A NUMBER that may be absent. -/
def optNumber (ops : List Operand) (k : Nat) : Option (Option Int) :=
  match operandAt ops k with
  | .number v => some (some v.toInt)
  | .absent => some none
  | _ => none

/-- A TEXT that may be absent. -/
def optText (ops : List Operand) (k : Nat) : Option (Option Text) :=
  match operandAt ops k with
  | .text t => some (some t)
  | .absent => some none
  | _ => none

/-- A SET that may be absent. -/
def optSet (ops : List Operand) (k : Nat) : Option (Option Set16) :=
  match operandAt ops k with
  | .set b => some (some b)
  | .absent => some none
  | _ => none

/-- A required NUMBER. -/
def needNumber (ops : List Operand) (k : Nat) : Option Int :=
  match operandAt ops k with
  | .number v => some v.toInt
  | _ => none

/-- A required TEXT. -/
def needText (ops : List Operand) (k : Nat) : Option Text :=
  match operandAt ops k with
  | .text t => some t
  | _ => none

/-- A required SET. -/
def needSet (ops : List Operand) (k : Nat) : Option Set16 :=
  match operandAt ops k with
  | .set b => some b
  | _ => none

/-- A number within its range. -/
def within (lo hi : Nat) (x : Int) : Option Nat :=
  if (lo : Int) ≤ x ∧ x ≤ (hi : Int) then some x.toNat else none

/-- A required NUMBER within its range. -/
def needWithin (ops : List Operand) (k lo hi : Nat) : Option Nat :=
  match needNumber ops k with
  | some x => within lo hi x
  | none => none

/-- A NUMBER within its range when given. -/
def optWithin (ops : List Operand) (k lo hi : Nat) : Option (Option Nat) :=
  match optNumber ops k with
  | some (some x) => (within lo hi x).map some
  | some none => some none
  | none => none

/-- The thing numbered `x`, where the `n` things are numbered from `lo`. -/
def numbered (n lo : Nat) (x : Int) : Option (Fin n) :=
  if h : (lo : Int) ≤ x ∧ (x - lo).toNat < n then some ⟨(x - lo).toNat, h.2⟩ else none

/-- A required NUMBER that names one of `n` things numbered from `lo`. -/
def needIndex (ops : List Operand) (k n lo : Nat) : Option (Fin n) :=
  match needNumber ops k with
  | some x => numbered n lo x
  | none => none

/-- A NUMBER that names one of `n` things numbered from `lo`, when given. -/
def optIndex (ops : List Operand) (k n lo : Nat) : Option (Option (Fin n)) :=
  match optNumber ops k with
  | some (some x) => (numbered n lo x).map some
  | some none => some none
  | none => none

/-- A NUMBER flag, 1 or 0, when given. -/
def optFlag (ops : List Operand) (k : Nat) : Option (Option Bool) :=
  match optWithin ops k 0 1 with
  | some (some n) => some (some (n == 1))
  | some none => some none
  | none => none

/-- A required TEXT of one letter A to D (log entry 17). -/
def needLetter (ops : List Operand) (k : Nat) : Option Appliance :=
  match needText ops k with
  | some [b] => applianceOfByte b
  | _ => none

/-- Required letters: the main, or the main and an alternate distinct from it (R40, log entry 17). -/
def needLetters (ops : List Operand) (k : Nat) : Option (Appliance × Option Appliance) :=
  match needText ops k with
  | some [b] => (applianceOfByte b).map fun m => (m, none)
  | some [b, c] =>
    match applianceOfByte b, applianceOfByte c with
    | some m, some x => if m = x then none else some (m, some x)
    | _, _ => none
  | _ => none

/-- Every operand from place `k` on is absent. -/
def absentFrom (ops : List Operand) (k : Nat) : Bool :=
  (ops.drop k).all fun o => o == .absent

/-! ## Writing results -/

def num (n : Nat) : Operand :=
  .number (BitVec.ofNat 32 n)

def optNum : Option Nat → Operand
  | some n => num n
  | none => .absent

def flag (b : Bool) : Operand :=
  num (if b then 1 else 0)

/-- Milliseconds as whole seconds, rounded up (R34). -/
def secondsUp (ms : Nat) : Nat :=
  (ms + 999) / 1000

end Sys2Proof.Machine
end

