-- ==== Sys2Proof/Machine/Flags.lean ====
section
/-!
DEFINITION. Notice flags, masks and attention (section 10.5), and the codes the queries give for states, kinds and
flags.
-/

namespace Sys2Proof.Machine

open Sys2Proof

/-! ## Access to the line controllers -/

def Lines.ctl (ls : Lines) : Line → LineController
  | .p => ls.p
  | .s => ls.s
  | .console => ls.console

def Lines.setCtl (ls : Lines) (l : Line) (c : LineController) : Lines :=
  match l with
  | .p => { ls with p := c }
  | .s => { ls with s := c }
  | .console => { ls with console := c }

/-- The same change at each of the three controllers. -/
def Lines.all (f : LineController → LineController) (ls : Lines) : Lines :=
  { ls with p := f ls.p, s := f ls.s, console := f ls.console }

/-! ## Notices -/

inductive Notice where
  | callout
  | response
  | crew
  | aid
  | exhausted
  | tx
  | lines
  | supply
  | store
  | restart
deriving DecidableEq, Repr

/-- The flag codes of section 10.5. -/
def Notice.code : Notice → Nat
  | .callout => 0
  | .response => 1
  | .crew => 2
  | .aid => 3
  | .exhausted => 4
  | .tx => 5
  | .lines => 6
  | .supply => 7
  | .store => 8
  | .restart => 9

/-- The set that holds one notice's code. -/
def Notice.bit (n : Notice) : Set16 :=
  1#16 <<< n.code

/-- The ten flag codes. -/
def allNotices : Set16 :=
  0x03FF#16

/-- AID and EXHAUSTED count toward attention whatever the mask holds (R186). -/
def alwaysEnabled : Set16 :=
  Notice.aid.bit ||| Notice.exhausted.bit

def LineController.raise (n : Notice) (c : LineController) : LineController :=
  { c with flags := c.flags ||| n.bit }

/-- Raising a notice sets its flag on each of the three lines (R186). -/
def Lines.raise (n : Notice) (ls : Lines) : Lines :=
  ls.all (LineController.raise n)

/-- A line's attention: on when one of its flags is set and enabled by its mask, or is AID or EXHAUSTED (R186). -/
def LineController.attention (c : LineController) : Bool :=
  c.flags &&& (c.mask ||| alwaysEnabled) != 0#16

/-! ## Codes -/

/-- The state codes of R34; FREE is 0. -/
def CalloutState.code : CalloutState → Nat
  | .inOpen => 1
  | .alerting => 2
  | .counting => 3
  | .crewed => 4
  | .held => 5
  | .mobile => 6
  | .closing => 7

def Slot.stateCode : Slot → Nat
  | .free _ => 0
  | .live c => c.state.code

def originCode : Line → Nat
  | .p => 0
  | .s => 1
  | .console => 2

def CrewOutcome.code : CrewOutcome → Nat
  | .short => 0
  | .partly => 1
  | .crewed => 2

def BatchStatus.code : BatchStatus → Nat
  | .none => 0
  | .outstanding => 1
  | .ended => 2

/-- The flags of result 20 of QUERY-CALLOUT (R34). -/
def CalloutFlags.toSet (f : CalloutFlags) : Set16 :=
  (if f.substituted then 1#16 else 0#16) ||| (if f.applianceOmitted then 2#16 else 0#16)
    ||| (if f.groupsOmitted then 4#16 else 0#16) ||| (if f.txDegraded then 8#16 else 0#16)
    ||| (if f.aidRequested then 16#16 else 0#16) ||| (if f.responseLost then 32#16 else 0#16)

def ResponseKind.code : ResponseKind → Nat
  | .attending => 1
  | .arrived => 2
  | .unavailable => 3
  | .withdrawn => 4
  | .released => 5

/-- The source codes of section 4.1. -/
def Source.code : Source → Nat
  | .site s => s.val
  | .line .p => 6
  | .line .s => 7
  | .line .console => 8

def Role.code : Role → Nat
  | .oic => 0
  | .drv => 1
  | .ba => 2
  | .gen => 3

def Seat.code : Seat → Nat
  | .role r => r.code
  | .spare => 4

def Availability.code : Availability → Nat
  | .available => 0
  | .offDuty => 1
  | .withheld => 2

/-- Qualifications as a SET: OIC 0, DRV 1, BA 2 (R63, R70). -/
def Qualifications.toSet (q : Qualifications) : Set16 :=
  (if q.oic then 1#16 else 0#16) ||| (if q.drv then 2#16 else 0#16) ||| (if q.ba then 4#16 else 0#16)

def Qualifications.ofSet (b : Set16) : Qualifications where
  oic := b.getLsbD 0
  drv := b.getLsbD 1
  ba := b.getLsbD 2

def SirenPolicy.code : SirenPolicy → Nat
  | .none => 0
  | .atLevel0 => 1
  | .atLevel1 => 2

def SirenPolicy.ofCode : Nat → SirenPolicy
  | 0 => .none
  | 1 => .atLevel0
  | _ => .atLevel1

def Lamp.code : Lamp → Nat
  | .dark => 0
  | .called => 1
  | .crewed => 2

def SupplyState.code : SupplyState → Nat
  | .mains => 0
  | .battery => 1
  | .reserve => 2

def BatchKind.code : BatchKind → Nat
  | .alert => 0
  | .supplement => 1
  | .repage => 2
  | .escalate => 3
  | .release => 4
  | .standDown => 5

def StartCause.code : StartCause → Nat
  | .power => 0
  | .resetInput => 1
  | .cutoff => 2
  | .warm => 3

def SectionState.code : SectionState → Nat
  | .valid => 0
  | .defaulted => 1
  | .writing => 2
  | .failed => 3

def Section.code : Section → Nat
  | .unit => 0
  | .roster => 1
  | .plans => 2
  | .station => 3

def Direction.code : Direction → Nat
  | .ascending => 0
  | .descending => 1

end Sys2Proof.Machine
end

