-- ==== Sys2Proof/Machine/Ops.lean ====
section
/-!
DEFINITION. The named operations the meanings share: access to the blocks, notices, callout records and their timers,
engagement, commitment, lamps and siren requests.
-/

namespace Sys2Proof.Machine

open Sys2Proof

/-! ## One update per block -/

def Part.onLines (f : Lines → Lines) (p : Part) : Part := { p with lines := f p.lines }
def Part.onSettings (f : UnitSettings → UnitSettings) (p : Part) : Part := { p with settings := f p.settings }
def Part.onResolver (f : Resolver → Resolver) (p : Part) : Part := { p with resolver := f p.resolver }
def Part.onRoster (f : Roster → Roster) (p : Part) : Part := { p with roster := f p.roster }
def Part.onTable (f : CalloutTable → CalloutTable) (p : Part) : Part := { p with table := f p.table }
def Part.onPages (f : PageQueue → PageQueue) (p : Part) : Part := { p with pages := f p.pages }
def Part.onSites (f : SiteUnit → SiteUnit) (p : Part) : Part := { p with sites := f p.sites }
def Part.onStation (f : StationOutput → StationOutput) (p : Part) : Part := { p with station := f p.station }
def Part.onSupply (f : Supply → Supply) (p : Part) : Part := { p with supply := f p.supply }
def Part.onStore (f : Store → Store) (p : Part) : Part := { p with store := f p.store }

/-- An event is taken only while the part runs: while it is cut off, held in reset or without power it receives
nothing and no block works (R171, R190, R196). -/
def Part.whenRunning (f : Part → Part) (p : Part) : Part :=
  if p.condition = .running then f p else p

/-- The outcome of a command whose effect on the part is `f`: the next state, the queue of commands untouched. -/
def State.taking (f : Part → Part) (s : State) : Host.Outcome State Fault Refusal :=
  .next { s with toPart := f s.toPart }

/-! ## Notices -/

/-- Raise a notice on all three lines (R186). -/
def Part.raise (n : Notice) (p : Part) : Part :=
  p.onLines (Lines.raise n)

def Part.raiseIf (b : Bool) (n : Notice) (p : Part) : Part :=
  if b then p.raise n else p

/-! ## Slots and callouts -/

def slotIds : List SlotId := [0, 1, 2, 3, 4, 5, 6, 7]
def siteIds : List SiteId := [0, 1, 2, 3, 4, 5]
def applianceIds : List Appliance := [.a, .b, .c, .d]

def Appliance.index : Appliance → Fin 4
  | .a => 0
  | .b => 1
  | .c => 2
  | .d => 3

def Part.slot (i : SlotId) (p : Part) : Slot :=
  p.table.slots.get i

/-- The callout a slot holds, when it is live. -/
def Slot.callout? : Slot → Option Callout
  | .live c => some c
  | .free _ => none

def Part.callout? (i : SlotId) (p : Part) : Option Callout :=
  (p.slot i).callout?

def Part.setSlot (i : SlotId) (x : Slot) (p : Part) : Part :=
  p.onTable fun t => { t with slots := t.slots.set i x }

/-- Change the callout of a slot, when it is live. -/
def Part.modify (i : SlotId) (f : Callout → Callout) (p : Part) : Part :=
  match p.slot i with
  | .live c => p.setSlot i (.live (f c))
  | .free _ => p

/-- The live callouts with their slots, in slot order. -/
def Part.live (p : Part) : List (SlotId × Callout) :=
  slotIds.filterMap fun i => (p.callout? i).map fun c => (i, c)

/-- The slot of the non-FREE callout that satisfies `q`, the first in slot order. -/
def Part.findLive (q : Callout → Bool) (p : Part) : Option SlotId :=
  slotIds.find? fun i => match p.slot i with
    | .live c => q c
    | .free _ => false

/-- The non-FREE callout of a number given in an order (section 1.3). -/
def Part.findNumber (x : Int) (p : Part) : Option SlotId :=
  p.findLive fun c => (c.number.toNat : Int) == x

def Part.findCallout (n : CalloutNo) (p : Part) : Option SlotId :=
  p.findLive fun c => c.number == n

def Part.findOwner (o : Owner) (p : Part) : Option SlotId :=
  p.findLive fun c => c.number == o.number && c.token == o.token

def Callout.owner (c : Callout) : Owner where
  number := c.number
  token := c.token

def Callout.withFlags (f : CalloutFlags → CalloutFlags) (c : Callout) : Callout :=
  { c with flags := f c.flags }

/-- Elapsed minutes: the elapsed seconds divided by 60, rounded down (R5). -/
def Callout.minutes (c : Callout) : Nat :=
  c.elapsed / 60

/-- The primary groups marked DEMANDED. -/
def Callout.demanded (c : Callout) : GroupSet :=
  c.primary &&& ~~~c.paged

/-- The primary groups marked PAGED. -/
def Callout.pagedPrimary (c : Callout) : GroupSet :=
  c.primary &&& c.paged

def Callout.hasAppliance (ap : Appliance) (c : Callout) : Bool :=
  c.appliances.any fun e => e.letter == ap

/-- A change of a callout's state raises the CALLOUT notice (R6). -/
def Part.enter (i : SlotId) (st : CalloutState) (p : Part) : Part :=
  (p.modify i fun c => { c with state := st }).raise .callout

/-- TX_DEGRADED is set on the callout and the TX notice is raised. -/
def Part.degrade (i : SlotId) (p : Part) : Part :=
  (p.modify i (Callout.withFlags fun f => { f with txDegraded := true })).raise .tx

/-! ## Timers (R5, R16) -/

def Timer.stopped : Timer where
  remaining := 0
  mark := .stopped

/-- A timer started afresh with this many seconds. -/
def Timer.start (seconds : Nat) : Timer where
  remaining := seconds * 1000
  mark := .running

/-- A running timer is frozen and keeps its remaining time; a stopped one stays stopped. -/
def Timer.freeze (t : Timer) : Timer :=
  if t.mark = .running then { t with mark := .frozen } else t

/-- A frozen timer runs on from its remaining time. -/
def Timer.thaw (t : Timer) : Timer :=
  if t.mark = .frozen then { t with mark := .running } else t

/-- The response window is started, loaded with the full copied response window (R16). -/
def Callout.startWindow (c : Callout) : Callout :=
  { c with responseWindow := .start c.window }

def Callout.stopWindow (c : Callout) : Callout :=
  { c with responseWindow := .stopped }

/-! ## The roster -/

def Part.member? (m : MemberId) (p : Part) : Option Member :=
  p.roster.members.get m

def Part.setMember (m : MemberId) (x : Option Member) (p : Part) : Part :=
  p.onRoster fun r => { r with members := r.members.set m x }

def Part.modifyMember (m : MemberId) (f : Member → Member) (p : Part) : Part :=
  match p.member? m with
  | some x => p.setMember m (some (f x))
  | none => p

def Part.setAvailability (m : MemberId) (a : Availability) (p : Part) : Part :=
  p.modifyMember m fun x => { x with availability := a }

/-- The member becomes engaged on this callout (R56). -/
def Part.engage (m : MemberId) (n : CalloutNo) (p : Part) : Part :=
  p.modifyMember m fun x => { x with engaged := some n }

/-- The member is no longer engaged on this callout (R56). -/
def Member.leave (n : CalloutNo) (x : Member) : Member :=
  if x.engaged = some n then { x with engaged := none } else x

def Part.disengage (m : MemberId) (n : CalloutNo) (p : Part) : Part :=
  p.modifyMember m (Member.leave n)

/-- Every member engaged on this callout is disengaged (R29, R30, R32). -/
def Part.disengageAll (n : CalloutNo) (p : Part) : Part :=
  p.onRoster fun r => { r with members := r.members.map (Option.map (Member.leave n)) }

/-- The in-use members with their numbers, ascending. -/
def Part.inUse (p : Part) : List (MemberId × Member) :=
  (ascending 128).filterMap fun m => (p.member? m).map fun x => (m, x)

def Member.isAvailable (x : Member) : Bool :=
  x.availability == .available

def Member.belongs (g : GroupId) (x : Member) : Bool :=
  x.groups.getLsbD g.val

/-- The in-use members of a group. -/
def Part.groupMembers (g : GroupId) (p : Part) : List (MemberId × Member) :=
  p.inUse.filter fun mx => mx.2.belongs g

/-- The group judgement (R68): the group is enabled and an in-use member of it is AVAILABLE. -/
def Part.judge (p : Part) (g : GroupId) : Bool :=
  (p.roster.groups.get g).enabled && (p.groupMembers g).any fun mx => mx.2.isAvailable

/-- Of a set of groups, those judged *yes*. -/
def Part.judgedYes (p : Part) (gs : GroupSet) : GroupSet :=
  setOf (((membersOf 16 gs).filter p.judge).map Fin.val)

/-- The in-use member whose pager address is this one (R53). -/
def Part.memberAt (a : Address) (p : Part) : Option MemberId :=
  (p.inUse.find? fun mx => mx.2.address == a).map Prod.fst

/-! ## Appliances and their commitment (chapter 2) -/

def RoleCounts.sum (r : RoleCounts) : Nat :=
  r.oic + r.drv + r.ba + r.gen

def RoleCounts.count (r : RoleCounts) : Role → Nat
  | .oic => r.oic
  | .drv => r.drv
  | .ba => r.ba
  | .gen => r.gen

def Part.appliance (ap : Appliance) (p : Part) : ApplianceRecord :=
  p.resolver.appliances.get ap.index

def Part.setCommitted (ap : Appliance) (n : Option CalloutNo) (p : Part) : Part :=
  p.onResolver fun r =>
    { r with appliances := r.appliances.update ap.index fun x => { x with committed := n } }

/-- Every appliance committed to this callout is released (R48). -/
def Part.uncommitAll (n : CalloutNo) (p : Part) : Part :=
  p.onResolver fun r =>
    { r with appliances := r.appliances.map fun x =>
        if x.committed = some n then { x with committed := none } else x }

/-- Free for a commitment attempt, and fitting the entry's requirement sum (R45). -/
def Part.usable (p : Part) (need : RoleCounts) (ap : Appliance) : Bool :=
  let x := p.appliance ap
  x.inService && x.committed == none && need.sum ≤ x.seats

/-- What a commitment attempt hands to the callout table (R47). -/
structure Attempt where
  committed   : List (Appliance × RoleCounts)
  substituted : Bool
  omitted     : Bool
deriving DecidableEq, Repr

def Attempt.has (t : Attempt) (ap : Appliance) : Bool :=
  t.committed.any fun x => x.1 == ap

def Attempt.take (ap : Appliance) (need : RoleCounts) (t : Attempt) : Attempt :=
  { t with committed := t.committed ++ [(ap, need)] }

/-- One plan entry is settled, against the callout that receives it: `held` says which appliances its list already
holds, none for a new ALERT (R45, R46). -/
def Part.settleEntry (p : Part) (held : Appliance → Bool) (t : Attempt) (e : PlanEntry) : Attempt :=
  let ok ap := p.usable e.need ap && !t.has ap
  if held e.main then t
  else if ok e.main then t.take e.main e.need
  else match e.alternate with
    | none => { t with omitted := true }
    | some x =>
      if held x then t
      else if ok x then { t.take x e.need with substituted := true }
      else { t with omitted := true }

/-- A commitment attempt: the plan's entries in entry order (R45, R46). -/
def Part.attempt (p : Part) (held : Appliance → Bool) (pl : Plan) : Attempt :=
  pl.entries.foldl (p.settleEntry held) { committed := [], substituted := false, omitted := false }

/-- The effective plan of a zone in a map (R38). -/
def ZoneMap.effective (m : ZoneMap) (z : ZoneId) : Option PlanId :=
  match m.zones.get z with
  | some n => some n
  | none => m.default

/-- The plan of an ALERT: its override, or the class table's and zone map's answer; `none` when there is no candidate
or the candidate is UNDEFINED (R44). -/
def Part.resolvePlan (p : Part) (override : Option PlanId) (cls : ClassId) (zone : ZoneId) : Option (PlanId × Plan) :=
  let candidate := match override with
    | some n => some n
    | none => match p.resolver.classes.get cls with
      | .unused => none
      | .direct n => some n
      | .byZone m => (p.resolver.maps.get m).effective zone
  match candidate with
  | none => none
  | some n => (p.resolver.plans.get n).map fun pl => (n, pl)

/-! ## Turnout lamps (R169) -/

/-- The lamp an appliance shows: DARK when uncommitted or departed, and otherwise by *filled*. -/
def Part.lampFor (p : Part) (ap : Appliance) : Lamp :=
  match (p.appliance ap).committed with
  | none => .dark
  | some n =>
    match (p.findCallout n).bind fun i => p.callout? i with
    | none => .called
    | some c =>
      if c.appliances.any (fun e => e.letter == ap && e.departed) then .dark
      else if c.assessment.entries.any (fun e => e.letter == ap && e.filled) then .crewed
      else .called

/-- Every lamp is set within the event that changes one of its conditions. -/
def Part.refreshLamps (p : Part) : Part :=
  p.onStation fun o =>
    { o with lamps := ⟨[p.lampFor .a, p.lampFor .b, p.lampFor .c, p.lampFor .d], rfl⟩ }

/-! ## Siren requests (R164, R165) -/

/-- A period of a run begins under this pattern, in ON (R164). -/
def Part.beginPeriod (p : Part) (pat : PatternId) (pending : Option PatternId) (cycles : Nat) : SirenRun :=
  let x := p.station.patterns.get pat
  { pattern := pat, pending := pending, cycles := cycles, phase := .on, time := 0, onTime := x.onTime,
    period := x.period }

def Part.setRun (r : Option SirenRun) (p : Part) : Part :=
  p.onStation fun o => { o with run := r }

inductive SirenOutcome where
  | started
  | merged
  | dropped
deriving DecidableEq, Repr

def SirenOutcome.code : SirenOutcome → Nat
  | .started => 0
  | .merged => 1
  | .dropped => 2

/-- A request merged into a run in progress (R165). -/
def SirenRun.merge (r : SirenRun) (pat : PatternId) (cycles : Nat) : SirenRun :=
  { r with cycles := max r.cycles cycles, pending := if pat = r.pattern then none else some pat }

/-- What the station output unit answers to a request (R165). -/
def Part.sirenOutcome (p : Part) : SirenOutcome :=
  if p.supply.state = .reserve then .dropped
  else match p.station.run with
    | none => .started
    | some _ => .merged

/-- A siren request (R165). -/
def Part.sirenRequest (pat : PatternId) (cycles : Nat) (p : Part) : Part :=
  if p.supply.state = .reserve then p
  else match p.station.run with
    | none => p.setRun (some (p.beginPeriod pat none cycles))
    | some r => p.setRun (some (r.merge pat cycles))

/-- A request that takes the pattern's own number of cycles (section 9.3). -/
def Part.sirenOwnCycles (pat : PatternId) (p : Part) : Part :=
  p.sirenRequest pat (p.station.patterns.get pat).cycles

/-- Both control lines are DOWN (R185). -/
def Part.localWorking (p : Part) : Bool :=
  !p.lines.superP.up && !p.lines.superS.up

end Sys2Proof.Machine
end

