-- ==== Sys2Proof/Machine/Assess.lean ====
section
/-!
DEFINITION. The crew assessor (chapter 5): candidates and their order, the required slots, the spare seats, and the
outcome of a callout, computed from scratch from the inputs R96 names.
-/

namespace Sys2Proof.Machine

open Sys2Proof

/-! ## Candidates and their order (R98, R99) -/

def ResponseKind.active : ResponseKind → Bool
  | .attending => true
  | .arrived => true
  | .unavailable => false
  | .withdrawn => false
  | .released => false

def Response.active (r : Response) : Bool :=
  r.kind.active

structure Candidate where
  member   : MemberId
  estimate : Nat
  sequence : Nat
deriving DecidableEq, Repr

/-- The member stands on the frozen crew of a departed entry of the callout. -/
def Callout.onFrozenCrew (m : MemberId) (c : Callout) : Bool :=
  c.appliances.any fun e => e.departed && e.crew.any fun x => x.member == m

/-- The order of the candidates: arrival estimate, then sequence number, then member number, smallest first (R99). -/
def Candidate.before (x y : Candidate) : Bool :=
  x.estimate < y.estimate
    || (x.estimate == y.estimate
      && (x.sequence < y.sequence || (x.sequence == y.sequence && x.member.val < y.member.val)))

def Candidate.insert (x : Candidate) : List Candidate → List Candidate
  | [] => [x]
  | y :: rest => if x.before y then x :: y :: rest else y :: Candidate.insert x rest

def rankOrder (l : List Candidate) : List Candidate :=
  l.foldr Candidate.insert []

/-- The candidates of a callout in rank order (R98, R99). -/
def Callout.candidates (c : Callout) : List Candidate :=
  rankOrder ((c.responses.filter fun r => r.active && !c.onFrozenCrew r.member).map fun r =>
    { member := r.member, estimate := r.estimate.getD 0, sequence := r.sequence.getD 0 })

/-! ## Required slots (R100) -/

def Qualifications.holds (q : Qualifications) : Role → Bool
  | .oic => q.oic
  | .drv => q.drv
  | .ba => q.ba
  | .gen => true

/-- One slot of a role fewer. -/
def RoleCounts.takeOne (r : RoleCounts) : Role → RoleCounts
  | .oic => { r with oic := r.oic - 1 }
  | .drv => { r with drv := r.drv - 1 }
  | .ba => { r with ba := r.ba - 1 }
  | .gen => { r with gen := r.gen - 1 }

def roles : List Role := [.oic, .drv, .ba, .gen]

/-- The seats of an entry not yet given: its required slots by role, and its free seats. -/
structure OpenEntry where
  letter   : Appliance
  departed : Bool
  need     : RoleCounts
  free     : Nat
deriving DecidableEq, Repr

/-- The first unfilled required slot of an entry the qualifications fit, in role order. -/
def OpenEntry.slotFor (q : Qualifications) (e : OpenEntry) : Option Role :=
  if e.departed then none else roles.find? fun r => q.holds r && 0 < e.need.count r

/-- The required slot a candidate takes, and the entries after it: entries in list order, departed ones passed over. -/
def takeSlot (q : Qualifications) : List OpenEntry → Option (Appliance × Role) × List OpenEntry
  | [] => (none, [])
  | e :: rest =>
    match e.slotFor q with
    | some r => (some (e.letter, r), { e with need := e.need.takeOne r } :: rest)
    | none =>
      let (found, rest') := takeSlot q rest
      (found, e :: rest')

/-- The required step: one pass over the candidates in rank order. Each candidate comes back with the slot it took, or
none when it waits. -/
def requiredStep (quals : MemberId → Qualifications) :
    List Candidate → List OpenEntry → List (Candidate × Option (Appliance × Role)) × List OpenEntry
  | [], es => ([], es)
  | x :: rest, es =>
    let (found, es') := takeSlot (quals x.member) es
    let (later, es'') := requiredStep quals rest es'
    ((x, found) :: later, es'')

/-! ## Spare seats (R101) -/

/-- A free seat of the first entry that is not departed and still has one. -/
def takeSpare : List OpenEntry → Option Appliance × List OpenEntry
  | [] => (none, [])
  | e :: rest =>
    if !e.departed && 0 < e.free then (some e.letter, { e with free := e.free - 1 } :: rest)
    else
      let (found, rest') := takeSpare rest
      (found, e :: rest')

/-- The spare step: one pass over the waiting candidates in rank order. -/
def spareStep : List (Candidate × Option (Appliance × Role)) → List OpenEntry → List (Candidate × Assignment)
  | [], _ => []
  | (x, some (l, r)) :: rest, es => (x, .seated l (.role r)) :: spareStep rest es
  | (x, none) :: rest, es =>
    match takeSpare es with
    | (some l, es') => (x, .seated l .spare) :: spareStep rest es'
    | (none, es') => (x, .surplus) :: spareStep rest es'

/-- Ranks, 1 for the first. -/
def ranked : Nat → List (Candidate × Assignment) → List CandidatePart
  | _, [] => []
  | k, (x, asg) :: rest =>
    { member := x.member, rank := k, estimate := x.estimate, assignment := asg } :: ranked (k + 1) rest

/-! ## The outcome (R102 to R104) -/

/-- The members in one kind of place, in the order given. -/
def seatedAs (st : Seat) (l : List CrewMember) : List CrewMember :=
  l.filter fun x => x.seat == st

/-- Members in slot order: OIC, DRV, BA, GEN, then the spare seats (R111). -/
def slotOrder (l : List CrewMember) : List CrewMember :=
  seatedAs (.role .oic) l ++ seatedAs (.role .drv) l ++ seatedAs (.role .ba) l ++ seatedAs (.role .gen) l
    ++ seatedAs .spare l

/-- The candidates assigned to an appliance, in rank order, with the place each holds: what DEPART freezes (R25). -/
def crewOn (letter : Appliance) (cs : List CandidatePart) : List CrewMember :=
  cs.filterMap fun x =>
    match x.assignment with
    | .seated l st => if l = letter then some { member := x.member, seat := st, estimate := x.estimate } else none
    | .surplus => none

/-- The requirement less the members in each role's slots. -/
def shortfallOf (need : RoleCounts) (crew : List CrewMember) : RoleCounts where
  oic := need.oic - (seatedAs (.role .oic) crew).length
  drv := need.drv - (seatedAs (.role .drv) crew).length
  ba := need.ba - (seatedAs (.role .ba) crew).length
  gen := need.gen - (seatedAs (.role .gen) crew).length

/-- The largest arrival estimate among the members in required slots. -/
def crewedTime (crew : List CrewMember) : Nat :=
  crew.foldl (fun t x => if x.seat = .spare then t else max t x.estimate) 0

/-- An entry's part, from the members assigned to it or from its frozen crew list (R102, R103). -/
def appliancePart (turnout seats : Nat) (e : ApplianceEntry) (crew : List CrewMember) : AppliancePart :=
  let short := shortfallOf e.need crew
  let filled := short.sum == 0
  let time := crewedTime crew
  { letter := e.letter, seats := seats, need := e.need, assigned := slotOrder crew, filled := filled,
    crewedAt := if filled then some time else none, inTime := filled && time ≤ turnout, shortfall := short }

/-- CREWED when every entry is in time, PARTIAL when some are, SHORT when none is (R104). -/
def outcomeOf (l : List AppliancePart) : CrewOutcome :=
  if l.all AppliancePart.inTime then .crewed
  else if l.any AppliancePart.inTime then .partly
  else .short

/-- The assessment of a callout from its inputs: its turnout limit, appliance list and responses, the seats of each
appliance, and the members' qualifications (R96). -/
def assess (seats : Appliance → Nat) (quals : MemberId → Qualifications) (c : Callout) : Assessment :=
  let opened : List OpenEntry := c.appliances.map fun e =>
    { letter := e.letter, departed := e.departed, need := e.need, free := seats e.letter - e.need.sum }
  let (slots, left) := requiredStep quals c.candidates opened
  let cs := ranked 1 (spareStep slots left)
  let entries := c.appliances.map fun e =>
    appliancePart c.turnout (seats e.letter) e (if e.departed then e.crew else crewOn e.letter cs)
  { candidates := cs, entries := entries, outcome := outcomeOf entries }

def Part.quals (p : Part) (m : MemberId) : Qualifications :=
  match p.member? m with
  | some x => x.quals
  | none => { oic := false, drv := false, ba := false }

/-- The assessment of a callout as the part now stands. -/
def Part.assessment (p : Part) (c : Callout) : Assessment :=
  assess (fun ap => (p.appliance ap).seats) p.quals c

/-- The SURPLUS candidates of an assessment, in rank order. -/
def Assessment.surplus (a : Assessment) : List MemberId :=
  (a.candidates.filter fun x => x.assignment == .surplus).map CandidatePart.member

end Sys2Proof.Machine
end

