-- ==== Sys2Proof/Machine/Queue.lean ====
section
/-!
DEFINITION. The page queue and the site sequencer (chapters 7 and 8): demands and admission, withdrawal, turns, the
keying and the end of a pass. Reports to the callouts are left in `pages.reports`; Machine/Callouts.lean takes them.
-/

namespace Sys2Proof.Machine

open Sys2Proof

/-! ## Batches -/

def Content.count : Content → Nat
  | .groups gs => gs.length
  | .members ms => ms.length
  | .formed ps => ps.length

/-- The size of a demand: 1 plus its addressees or formed pages (R130). -/
def Demand.size (d : Demand) : Nat :=
  1 + d.content.count

/-- The queue entries a batch holds: its head and its pages (R133). -/
def Batch.entries (b : Batch) : Nat :=
  1 + b.pages.length

def PageQueue.used (q : PageQueue) : Nat :=
  (q.queue.map Batch.entries).sum

/-- The queue has room for a demand (R133). -/
def PageQueue.room (q : PageQueue) (d : Demand) : Bool :=
  q.used + d.size ≤ Config.queueEntries

def SiteEntry.remaining (e : SiteEntry) : Bool :=
  match e.condition with
  | .settled _ => false
  | .toServe => true
  | .deferred => true

/-- The remaining sites of a batch, in their order (R147). -/
def Batch.remaining (b : Batch) : List SiteEntry :=
  b.sites.filter SiteEntry.remaining

/-- Every site of the batch is settled: its end report is made. -/
def Batch.over (b : Batch) : Bool :=
  b.remaining == []

def SiteEntry.failed (e : SiteEntry) : Bool :=
  match e.condition with
  | .settled .done => false
  | .settled _ => true
  | .toServe => false
  | .deferred => false

/-- Some site was settled FORCED, SKIPPED_AIRTIME or SKIPPED_RESERVE (R137). -/
def Batch.failed (b : Batch) : Bool :=
  b.sites.any SiteEntry.failed

def Addressee.group? : Addressee → Option GroupId
  | .group g => some g
  | .member _ => none

/-- The groups a batch carries (R136). -/
def Batch.groups (b : Batch) : GroupSet :=
  setOf ((b.pages.filterMap fun x => x.addressee.group?).map Fin.val)

/-- The call-out kinds (R128). -/
def BatchKind.callOut : BatchKind → Bool
  | .alert => true
  | .supplement => true
  | .repage => true
  | .escalate => true
  | .release => false
  | .standDown => false

def BatchKind.pageKind : BatchKind → PageKind
  | .alert => .alert
  | .supplement => .alert
  | .repage => .repage
  | .escalate => .alert
  | .release => .notRequired
  | .standDown => .standDown

/-- REPAGE and ESCALATE pages have the escalated mark set (R128). -/
def BatchKind.escalated : BatchKind → Bool
  | .repage => true
  | .escalate => true
  | .alert => false
  | .supplement => false
  | .release => false
  | .standDown => false

/-! ## Pages (R129, R134) -/

/-- A page to one addressee, with the header and text of the owning callout's record. -/
def pageFor (k : BatchKind) (c : Callout) (who : Addressee) (address : Address) : Page where
  addressee := who
  address := address
  kind := k.pageKind
  token := c.token
  number := c.number
  cls := c.cls
  zone := c.zone
  escalated := k.escalated
  text := if k.callOut then c.text else []

/-- The pages formed from a demand's addressees: one to each group's address, and one to each member in use. -/
def Part.pagesFor (p : Part) (k : BatchKind) (c : Callout) : Content → List Page
  | .groups gs => gs.map fun g => pageFor k c (.group g) (p.roster.groups.get g).address
  | .members ms => ms.filterMap fun m => (p.member? m).map fun x => pageFor k c (.member m) x.address
  | .formed ps => ps

/-- The pages of a demand at its admission (R134). -/
def Part.formPages (p : Part) (d : Demand) : List Page :=
  match d.content with
  | .formed ps => ps
  | content =>
    match (p.findOwner d.owner).bind fun i => p.callout? i with
    | some c => p.pagesFor d.kind c content
    | none => []

/-! ## Site lists (R147) -/

def Direction.flip : Direction → Direction
  | .ascending => .descending
  | .descending => .ascending

def Direction.order : Direction → List SiteId
  | .ascending => siteIds
  | .descending => siteIds.reverse

/-- A station-powered site is not used in RESERVE (R172). -/
def Part.inhibited (p : Part) (k : SiteId) : Bool :=
  p.supply.state == .reserve && (p.sites.records.get k).stationPowered

/-- The sites listed in this direction: those enabled, less the station-powered ones in RESERVE. -/
def Part.siteList (p : Part) (d : Direction) : List SiteId :=
  d.order.filter fun k => (p.sites.records.get k).enabled && !p.inhibited k

def Restriction.allows : Restriction → SiteId → Bool
  | .all, _ => true
  | .only l, k => l.contains k

/-! ## Demands and admission (R131 to R133) -/

def Part.report (r : Report) (p : Part) : Part :=
  p.onPages fun q => { q with reports := q.reports ++ [r] }

/-- Admission of a demand for which the queue has room: the direction flips, the pages are formed, and the batch enters
the queue behind every batch there, or ends at once when it has no page or no site (R133, R147). -/
def Part.admission (d : Demand) (p : Part) : Part :=
  let pages := p.formPages d
  let direction := p.sites.direction.flip
  let sites := (p.siteList direction).filter d.restrict.allows
  let p := p.onSites fun u => { u with direction := direction }
  if pages = [] then p.report (.ended d.owner d.kind .complete false)
  else if sites = [] then p.report (.ended d.owner d.kind .complete true)
  else p.onPages fun q =>
    { q with queue := q.queue ++
        [{ kind := d.kind, owner := d.owner, pages := pages,
           sites := sites.map fun k => { site := k, condition := .toServe },
           started := false, withdrawing := false }] }

/-- Admission is tried for the head of the demand list, and again for the new head, until one finds no room. -/
def Part.admitFrom : List Demand → Part → Part
  | [], p => p.onPages fun q => { q with demands := [] }
  | d :: rest, p =>
    if p.pages.room d then Part.admitFrom rest (p.admission d)
    else p.onPages fun q => { q with demands := d :: rest }

/-- Admission after entries were freed (R133). -/
def Part.tryAdmissions (p : Part) : Part :=
  Part.admitFrom p.pages.demands p

/-- A demand handed to the page queue is admitted at once, joins the demand list, or is dropped (R131). -/
def Part.demand (d : Demand) (p : Part) : Part :=
  if p.pages.demands = [] && p.pages.room d then p.admission d
  else if p.pages.demands.length < Config.demandPlaces then
    p.onPages fun q => { q with demands := q.demands ++ [d] }
  else p.report (.ended d.owner d.kind .dropped true)

/-- A demand of a callout for groups, in ascending group number, with the restriction ALL (R128, R130). -/
def Part.demandGroups (k : BatchKind) (o : Owner) (gs : GroupSet) (p : Part) : Part :=
  p.demand { kind := k, owner := o, content := .groups (membersOf 16 gs), restrict := .all }

/-- A demand of a callout for members, in the order given, with the restriction ALL. -/
def Part.demandMembers (k : BatchKind) (o : Owner) (ms : List MemberId) (p : Part) : Part :=
  p.demand { kind := k, owner := o, content := .members ms, restrict := .all }

/-- RELEASE batches for runs of up to 16 members, in the order given; a callout's 32 records make at most two
(R26, R106). -/
def Part.demandReleases (o : Owner) (ms : List MemberId) (p : Part) : Part :=
  let one (l : List MemberId) (p : Part) : Part := if l = [] then p else p.demandMembers .release o l
  one (ms.drop Config.releaseRun) (one (ms.take Config.releaseRun) p)

/-! ## The sequencer (chapter 8) -/

def Part.setSequencer (x : Sequencer) (p : Part) : Part :=
  p.onSites fun u => { u with sequencer := x }

/-- The site concerned, in every state but IDLE (R145). -/
def Sequencer.site? : Sequencer → Option SiteId
  | .idle => none
  | .clearWait k _ => some k
  | .leadIn k _ _ => some k
  | .burst k _ _ => some k

/-- The keyed site: the site in LEAD_IN or BURST (R145, R157). -/
def Sequencer.keyed? : Sequencer → Option SiteId
  | .idle => none
  | .clearWait _ _ => none
  | .leadIn k _ _ => some k
  | .burst k _ _ => some k

def Part.siteKeyed (p : Part) (k : SiteId) : Bool :=
  p.sites.sequencer.keyed? == some k

def Part.updateSite (k : SiteId) (f : SiteRecord → SiteRecord) (p : Part) : Part :=
  p.onSites fun u => { u with records := u.records.update k f }

/-- The pass's airtime is debited at its start (R146). -/
def Part.debit (k : SiteId) (cost : Nat) (p : Part) : Part :=
  p.updateSite k fun r => { r with credit := r.credit - cost }

/-- Change the current batch. -/
def Part.onCurrent (f : Batch → Batch) (p : Part) : Part :=
  p.onPages fun q => match q.queue with
    | [] => q
    | b :: rest => { q with queue := f b :: rest }

def Part.current? (p : Part) : Option Batch :=
  p.pages.queue.head?

def Batch.start (b : Batch) : Batch :=
  { b with started := true }

def Batch.setSite (k : SiteId) (x : SiteCondition) (b : Batch) : Batch :=
  { b with sites := b.sites.map fun e => if e.site = k then { e with condition := x } else e }

/-- The site becomes deferred and stands behind every other remaining site (R149). -/
def Batch.defer (k : SiteId) (b : Batch) : Batch :=
  { b with sites := (b.sites.filter fun e => e.site != k) ++ [{ site := k, condition := .deferred }] }

/-- The site is keyed with a lead-in and the pass's airtime is debited (R150). -/
def Part.keySite (k : SiteId) (forced : Bool) (p : Part) : Part :=
  match p.current? with
  | none => p
  | some b =>
    let r := p.sites.records.get k
    ((p.debit k (airtime r.leadIn b.pages)).onCurrent Batch.start).setSequencer (.leadIn k forced r.leadIn)

/-- A joined pass: no lead-in, no clear check, the burst begins at once (R152). -/
def Part.joinSite (k : SiteId) (p : Part) : Part :=
  match p.current? with
  | none => p
  | some b =>
    ((p.debit k (airtime 0 b.pages)).onCurrent Batch.start).setSequencer (.burst k false (burstTime b.pages))

/-- A site of the current batch is settled and reported; the last one is followed by the end report (R136, R156). -/
def Part.settle (k : SiteId) (o : PassOutcome) (p : Part) : Part :=
  match p.current? with
  | none => p
  | some b =>
    let b' := b.setSite k (.settled o)
    let p := (p.onCurrent fun _ => b').report (.pass b.owner o b.groups)
    if b'.over then p.report (.ended b.owner b.kind .complete b'.failed) else p

/-- How a turn at a site is decided (R149). -/
inductive Turn where
  | skipReserve
  | skipAirtime
  | putBack
  | go
deriving DecidableEq, Repr

/-- The checks of a turn at entry `e` of batch `b`, for a pass of airtime `cost` (R149). -/
def Part.turnCheck (p : Part) (b : Batch) (e : SiteEntry) (cost : Nat) : Turn :=
  let r := p.sites.records.get e.site
  if p.inhibited e.site then .skipReserve
  else if r.ceiling < cost then .skipAirtime
  else if r.credit < cost then
    if e.condition = .toServe && 1 < b.remaining.length then .putBack else .skipAirtime
  else .go

/-- A turn at a site with credit enough: the clear check of R150. -/
def Part.clearCheck (k : SiteId) (p : Part) : Part :=
  if p.pins.channelClear.get k then p.keySite k false
  else p.setSequencer (.clearWait k ((p.sites.records.get k).clearWait * 100))

/-- An ordinary turn, taken in IDLE, at the first remaining site of the current batch (R148, R149). -/
def Part.turn (p : Part) : Part :=
  match p.current? with
  | none => p
  | some b =>
    match b.remaining with
    | [] => p
    | e :: _ =>
      match p.turnCheck b e (airtime (p.sites.records.get e.site).leadIn b.pages) with
      | .skipReserve => p.settle e.site .skippedReserve
      | .skipAirtime => p.settle e.site .skippedAirtime
      | .putBack => p.onCurrent (Batch.defer e.site)
      | .go => p.clearCheck e.site

/-- The current batch leaves the queue: its entries are freed and admission is tried (R135). -/
def Part.leaveQueue (p : Part) : Part :=
  (p.onPages fun q => { q with queue := q.queue.tail }).tryAdmissions

/-- After the last site of a batch, with site `k` still keyed: a joined turn when the batch that is now current begins
on it, and otherwise the site is unkeyed (R152). -/
def Part.joinOrUnkey (k : SiteId) (p : Part) : Part :=
  match p.current? with
  | none => p.setSequencer .idle
  | some b =>
    match b.remaining with
    | [] => p.setSequencer .idle
    | e :: _ =>
      if e.site = k then
        match p.turnCheck b e (airtime 0 b.pages) with
        | .skipReserve => (p.setSequencer .idle).settle k .skippedReserve
        | .skipAirtime => (p.setSequencer .idle).settle k .skippedAirtime
        | .putBack => (p.setSequencer .idle).onCurrent (Batch.defer k)
        | .go => p.joinSite k
      else p.setSequencer .idle

/-- The pass that ends settles its site. A withdrawing batch abandons its remaining sites and ends WITHDRAWN; otherwise
the last site brings the COMPLETE end (R136, R140, R151). -/
def Part.endPass (k : SiteId) (forced : Bool) (p : Part) : Part :=
  let o := if forced then PassOutcome.forced else PassOutcome.done
  match p.current? with
  | none => p
  | some b =>
    if b.withdrawing then
      let b' := { b.setSite k (.settled o) with
        sites := (b.setSite k (.settled o)).sites.filter fun e => !e.remaining }
      ((p.onCurrent fun _ => b').report (.pass b.owner o b.groups)).report
        (.ended b.owner b.kind .withdrawn b'.failed)
    else p.settle k o

/-! ## Withdrawal (R138 to R140, R154) -/

/-- A batch or demand handed back by a withdrawal, and whether any site of it had failed. -/
structure Returned where
  entry  : HeldEntry
  failed : Bool
deriving DecidableEq, Repr

/-- A waiting demand is handed back as it waits, with ALL; one made again at RESUME that holds formed pages is handed back
with those pages (R138; DEDUCED, log entry 11; unsafe). -/
def Demand.handBack (d : Demand) : Returned where
  entry := { kind := d.kind, content := d.content, owed := .all }
  failed := false

/-- An unstarted batch owes every site (R139). -/
def Batch.handBackWhole (b : Batch) : Returned where
  entry := { kind := b.kind, content := .formed b.pages, owed := .all }
  failed := b.failed

/-- The sites a started batch still owes: those not settled DONE or FORCED, less that of a pass in progress (R140). -/
def Batch.owed (b : Batch) (inProgress : Option SiteId) : List SiteId :=
  siteIds.filter fun k => inProgress != some k && b.sites.any fun e => e.site == k && match e.condition with
    | .settled .done => false
    | .settled .forced => false
    | _ => true

def Batch.handBackStarted (b : Batch) (inProgress : Option SiteId) : Returned where
  entry := { kind := b.kind, content := .formed b.pages, owed := .only (b.owed inProgress) }
  failed := b.failed && inProgress.isNone

/-- A batch or demand the request names. -/
def named (o : Owner) (kinds : BatchKind → Bool) (owner : Owner) (k : BatchKind) : Bool :=
  owner == o && kinds k

/-- The current batch is withdrawn: what is handed back, and the part without it or with it marked withdrawing (R138 to
R140). A batch that has ended is not found (R142). DESIGN CHOICE, unsafe (log entry 33): a batch already withdrawing is not
found either, so a second withdrawal within its pass hands nothing of it back; R138 does not say. -/
def Part.withdrawCurrent (o : Owner) (kinds : BatchKind → Bool) (p : Part) : List Returned × Part :=
  match p.pages.queue with
  | [] => ([], p)
  | b :: rest =>
    if named o kinds b.owner b.kind && !b.withdrawing && !b.over then
      match p.sites.sequencer.keyed? with
      | some k => ([b.handBackStarted (some k)], p.onCurrent fun x => { x with withdrawing := true })
      | none =>
        let back := if b.started then b.handBackStarted none else b.handBackWhole
        ([back], (p.setSequencer .idle).onPages fun q => { q with queue := rest })
    else ([], p)

/-- The batches behind the current one are removed whole (R139). -/
def Part.withdrawBehind (o : Owner) (kinds : BatchKind → Bool) (p : Part) : List Returned × Part :=
  match p.pages.queue with
  | [] => ([], p)
  | b :: rest =>
    let gone (x : Batch) := named o kinds x.owner x.kind
    ((rest.filter gone).map Batch.handBackWhole,
     p.onPages fun q => { q with queue := b :: rest.filter fun x => !gone x })

/-- The demands waiting are removed (R138). -/
def Part.withdrawDemands (o : Owner) (kinds : BatchKind → Bool) (p : Part) : List Returned × Part :=
  let gone (d : Demand) := named o kinds d.owner d.kind
  ((p.pages.demands.filter gone).map Demand.handBack,
   p.onPages fun q => { q with demands := q.demands.filter fun d => !gone d })

/-- A withdrawal request: what is handed back, in the order the page queue held it (batches in the queue first, oldest
first, then pending demands), and the part after it, admission tried for the head (R138). -/
def Part.withdraw (o : Owner) (kinds : BatchKind → Bool) (p : Part) : List Returned × Part :=
  let (demands, p) := p.withdrawDemands o kinds
  let (behind, p) := p.withdrawBehind o kinds
  let (current, p) := p.withdrawCurrent o kinds
  (current ++ behind ++ demands, p.tryAdmissions)

end Sys2Proof.Machine
end

