-- ==== Sys2Proof/Machine/Callouts.lean ====
section
/-!
DEFINITION. The callout table at work (chapters 1 and 5): releases, reassessment and the changes of state it brings,
leaving OPEN, becoming FREE, the reports of the page queue, and the work that follows within one event.
-/

namespace Sys2Proof.Machine

open Sys2Proof

/-! ## Records changed by the part (R91) -/

/-- A record becomes RELEASED; one already RELEASED is left as it is. -/
def Response.release (elapsed : Nat) (r : Response) : Response :=
  if r.kind = .released then r
  else { r with kind := .released, eta := none, estimate := none, lastChange := elapsed }

/-- A record becomes WITHDRAWN, with the source of the event that caused it. -/
def Response.withdraw (source : Source) (elapsed : Nat) (r : Response) : Response :=
  { r with kind := .withdrawn, eta := none, estimate := none, source := source, lastChange := elapsed }

def Callout.mapRecords (who : MemberId → Bool) (f : Response → Response) (c : Callout) : Callout :=
  { c with responses := c.responses.map fun r => if who r.member then f r else r }

/-- The records of these members become RELEASED and the members are disengaged; the RESPONSE notice is raised when a
record changed (R91, R93). -/
def Part.releaseMembers (i : SlotId) (ms : List MemberId) (p : Part) : Part :=
  match p.callout? i with
  | none => p
  | some c =>
    let changed := c.responses.any fun r => ms.contains r.member && r.kind != .released
    let p := p.modify i (Callout.mapRecords ms.contains (Response.release c.elapsed))
    (ms.foldl (fun p m => p.disengage m c.number) p).raiseIf changed .response

/-- The members whose records on a callout are active, in response-list order. -/
def Callout.activeMembers (c : Callout) : List MemberId :=
  (c.responses.filter Response.active).map Response.member

/-! ## Reassessment and the state it brings (R18 to R20, R97, R105, R106) -/

/-- The assessment is computed afresh; the CREW notice tells a change of outcome (R96, R105). -/
def Part.recompute (i : SlotId) (p : Part) : Part :=
  match p.callout? i with
  | none => p
  | some c =>
    let a := p.assessment c
    (p.modify i fun c => { c with assessment := a }).raiseIf (a.outcome != c.assessment.outcome) .crew

/-- Entry into CREWED: the window is stopped and the surplus of the current assessment is released (R19, R106). -/
def Part.enterCrewed (i : SlotId) (p : Part) : Part :=
  let p := (p.enter i .crewed).modify i Callout.stopWindow
  match p.callout? i with
  | none => p
  | some c =>
    let surplus := c.assessment.surplus
    if surplus = [] then p
    else ((p.releaseMembers i surplus).demandReleases c.owner surplus).recompute i

/-- Entry into COUNTING with the response window started at full length (R16). -/
def Part.enterCounting (i : SlotId) (p : Part) : Part :=
  (p.enter i .counting).modify i Callout.startWindow

/-- The callout table takes the current outcome according to the callout's state (R18); entering ALERTING or COUNTING
with the outcome CREWED goes on the same way (R7). -/
def Part.takeOutcome (i : SlotId) (p : Part) : Part :=
  match p.callout? i with
  | none => p
  | some c =>
    match c.state with
    | .alerting | .counting => if c.assessment.outcome = .crewed then p.enterCrewed i else p
    | .crewed => if c.assessment.outcome = .crewed then p else p.enterCounting i
    | .inOpen | .held | .mobile | .closing => p

/-- A recomputation and what it sets off; none runs in CLOSING (R97, R105). -/
def Part.reassess (i : SlotId) (p : Part) : Part :=
  match p.callout? i with
  | none => p
  | some c => if c.state = .closing then p else (p.recompute i).takeOutcome i

/-! ## Leaving OPEN (R14) -/

/-- An OPEN callout leaves OPEN. -/
def Part.leaveOpen (i : SlotId) (p : Part) : Part :=
  match p.callout? i with
  | none => p
  | some c =>
    let kept := p.judgedYes c.primary
    let p := p.modify i fun c =>
      { c with primary := kept, paged := c.paged &&& kept, accumulation := .stopped,
               flags := { c.flags with groupsOmitted := c.flags.groupsOmitted || kept != c.primary } }
    let p :=
      if kept = 0#16 then (p.modify i fun c => { c with alertStatus := .ended }).enterCounting i
      else
        ((p.modify i fun c => { c with alertGroups := kept, alertStatus := .outstanding }).demandGroups
          .alert c.owner kept).enter i .alerting
    let p := if c.sirenPolicy = .atLevel0 then p.sirenOwnCycles c.sirenPattern else p
    p.takeOutcome i

/-! ## Withdrawal for a callout -/

/-- A callout's withdrawal request. A batch that leaves within it with a failed site sets TX_DEGRADED by its WITHDRAWN
report (R137, R138), which is taken here, before the rest of the rule that withdraws (DESIGN CHOICE, log entry 31;
unsafe). -/
def Part.withdrawFor (i : SlotId) (kinds : BatchKind → Bool) (p : Part) : List Returned × Part :=
  match p.callout? i with
  | none => ([], p)
  | some c =>
    let (back, p) := p.withdraw c.owner kinds
    (back, if back.any Returned.failed then p.degrade i else p)

def everyKind : BatchKind → Bool := fun _ => true

/-! ## Becoming FREE (R32, R35) -/

def Callout.summarise (c : Callout) (endCode : Nat) : Summary where
  number := c.number
  reference := c.reference
  origin := c.origin
  cls := c.cls
  zone := c.zone
  plan := c.plan
  token := c.token
  elapsed := c.elapsed
  level := c.level
  exhausted := c.exhausted
  outcome := c.assessment.outcome
  letters := c.appliances.map ApplianceEntry.letter
  departed := (c.appliances.filter ApplianceEntry.departed).map ApplianceEntry.letter
  primary := c.primary
  paged := c.paged
  repaged := c.repaged
  flags := c.flags
  responses := c.responses.length
  endCode := endCode

/-- A callout becomes FREE: its waiting batches are withdrawn, its members disengaged, its appliances uncommitted, its
summary written, and its slot joins the end of the free order (R1, R32). -/
def Part.becomeFree (i : SlotId) (endCode : Nat) (p : Part) : Part :=
  let p := (p.withdrawFor i everyKind).2
  match p.callout? i with
  | none => p
  | some c =>
    (((p.disengageAll c.number).uncommitAll c.number).onTable fun t =>
      { t with slots := t.slots.set i (.free (some (c.summarise endCode))), freeOrder := t.freeOrder ++ [i] }).raise
        .callout

/-! ## Reports (R15, R136, R137) -/

/-- A completed pass marks PAGED the groups it carried that stand in the primary groups (R136). -/
def Callout.markPaged (gs : GroupSet) (c : Callout) : Callout :=
  { c with paged := c.paged ||| (gs &&& c.primary) }

def PassOutcome.completed : PassOutcome → Bool
  | .done => true
  | .forced => true
  | .skippedAirtime => false
  | .skippedReserve => false

/-- An ALERT batch ends (R15). -/
def Part.alertEnded (i : SlotId) (p : Part) : Part :=
  let p := p.modify i fun c => { c with alertStatus := .ended }
  match p.callout? i with
  | none => p
  | some c => if c.state = .alerting then (p.enterCounting i).takeOutcome i else p

/-- What the end of a batch or demand sets off at its callout, TX_DEGRADED apart (R15, R32). -/
def Part.batchEnded (i : SlotId) (kind : BatchKind) (p : Part) : Part :=
  match p.callout? i with
  | none => p
  | some c =>
    match kind with
    | .alert => p.alertEnded i
    | .standDown => if c.state = .closing then p.becomeFree i 3 else p
    | .supplement | .repage | .escalate | .release => p

/-- A report is taken by the non-FREE callout whose number and token both match, and ignored when none does (R15). -/
def Part.takeReport (r : Report) (p : Part) : Part :=
  match r with
  | .pass o outcome gs =>
    match p.findOwner o with
    | none => p
    | some i => if outcome.completed then p.modify i (Callout.markPaged gs) else p
  | .ended o kind form failed =>
    match p.findOwner o with
    | none => p
    | some i =>
      let p := if failed then p.degrade i else p
      match form with
      | .complete | .dropped => p.batchEnded i kind
      | .withdrawn => p

/-! ## The work that follows within one event -/

/-- One step of that work, in this order: a report made is taken by its callout; else, with the sequencer IDLE, a
current batch all of whose sites are settled leaves the queue; else a turn is taken (R137, R148; log entry 9). `none`
when nothing is left to do. -/
def Part.workStep (p : Part) : Option Part :=
  match p.pages.reports with
  | r :: rest => some ((p.onPages fun q => { q with reports := rest }).takeReport r)
  | [] =>
    if p.sites.sequencer = .idle then
      match p.pages.queue with
      | [] => none
      | b :: _ => if b.over then some p.leaveQueue else if b.withdrawing then none else some p.turn
    else none

/-- Up to `n` steps of it. -/
def Part.workFor : Nat → Part → Part
  | 0, p => p
  | n + 1, p =>
    match p.workStep with
    | none => p
    | some p' => Part.workFor n p'

/-! The steps that can be left: each step of work lowers `workLeft` (Laws/Finish.lean), so that many steps do all of it. -/

/-- Steps an end report can still bring: for an ALERT, two RELEASE demands of an entry into CREWED among them. -/
def BatchKind.endWork : BatchKind → Nat
  | .alert => 50
  | .standDown => 2
  | .supplement | .repage | .escalate | .release => 1

def Report.work : Report → Nat
  | .pass _ _ _ => 1
  | .ended _ k _ _ => k.endWork

/-- A site to serve may be deferred, settled and reported. -/
def SiteEntry.work (e : SiteEntry) : Nat :=
  match e.condition with
  | .toServe => 3
  | .deferred => 2
  | .settled _ => 0

def Batch.work (b : Batch) : Nat :=
  (b.sites.map SiteEntry.work).sum + (if b.over then 0 else b.kind.endWork) + 2

/-- Six sites at most, and the end. -/
def Demand.work (d : Demand) : Nat :=
  20 + d.kind.endWork

def PageQueue.work (q : PageQueue) : Nat :=
  (q.queue.map Batch.work).sum + (q.demands.map Demand.work).sum + (q.reports.map Report.work).sum

/-- An idle sequencer can still take a turn (R148). -/
def Sequencer.turns : Sequencer → Nat
  | .idle => 1
  | .clearWait _ _ | .leadIn _ _ _ | .burst _ _ _ => 0

def Part.workLeft (p : Part) : Nat :=
  p.pages.work + p.sites.sequencer.turns

/-- All of it: what is left to do at the end of an event's rule is done within the event (R137, R148). -/
def Part.work (p : Part) : Part :=
  Part.workFor p.workLeft p

/-- The end of an event: the work that follows, and the lamps (R137, R148, R169). -/
def Part.finish (p : Part) : Part :=
  p.work.refreshLamps

end Sys2Proof.Machine
end

