-- ==== Sys2Proof/Machine/Orders.lean ====
section
/-!
DEFINITION. How an order is worked and answered (R179 to R183): the checks every order shares, the verdict of an
order's own rule, and the reply.
-/

namespace Sys2Proof.Machine

open Sys2Proof

/-- What an order comes to: refused with a reason and the results a refusal carries, or taken with the part after it
and its results (R183). -/
inductive Verdict where
  | refused (why : Reason) (results : List Operand)
  | taken (p : Part) (results : List Operand)
deriving DecidableEq, Repr

def refuse (why : Reason) : Verdict :=
  .refused why []

def badOperand : Verdict :=
  refuse .badOperand

/-- The lines an order is taken from (section 10.3). -/
def anyLine : Line → Bool := fun _ => true
def controlOnly : Line → Bool := fun l => l != .console
def consoleOnly : Line → Bool := fun l => l == .console

/-- The checks that come before an order's own: the line (R181), the declared operand count above 8 or above the number
of operands the order has (R182). -/
def checked (permitted : Bool) (arity declared : Nat) (body : Verdict) : Verdict :=
  if !permitted then refuse .notPermitted
  else if 8 < declared || arity < declared then badOperand
  else body

/-- The line controller of a line, changed. -/
def Part.onLine (l : Line) (f : LineController → LineController) (p : Part) : Part :=
  p.onLines fun ls => ls.setCtl l (f (ls.ctl l))

def Part.ctl (p : Part) (l : Line) : LineController :=
  p.lines.ctl l

/-- The frame a line is sending: one of its reply's, which one being free (R180, log entry 29). -/
def Part.frameUnderWay (l : Line) (p : Part) : List Byte :=
  let frames := ((p.ctl l).reply.map Reply.frames).getD []
  frames.getD (Config.frameUnderWay l p.lines.breaks % frames.length) []

/-- A reply is broken off: the frame being sent is sent to its end and the frames not yet begun are dropped (R180). The
frame of an earlier break that is still being sent goes on, for then no frame of this reply has begun. -/
def Part.breakReply (l : Line) (p : Part) : Part :=
  if (p.ctl l).state = .replying then
    let sent : Tail := { frame := p.frameUnderWay l, left := Config.frameTime l p.lines.breaks }
    (p.onLine l fun c => { c with tail := some (c.tail.getD sent), reply := none }).onLines fun ls =>
      { ls with breaks := ls.breaks + 1 }
  else p

/-- The exchange in progress is broken off (R180); a warm restart that the broken reply ordered waits for the end of the
frame being sent (R196). -/
def Part.breakOff (l : Line) (p : Part) : Part :=
  let q := p.breakReply l
  if l = .console ∧ (p.ctl l).state = .replying ∧ p.restart = .replying then { q with restart := .ending } else q

/-- The controller holds the complete order and hands it over (R179). -/
def LineController.work (code : Byte) (declared : Nat) (ops : List Operand) (c : LineController) : LineController :=
  { c with state := .working, code := code, declared := declared, operands := ops, gap := none }

/-- The REPLY is formed and the controller enters REPLYING; the notices-pending flag is this line's attention as it
stands after the order (R179). -/
def Part.sendReply (l : Line) (refused : Option Reason) (results : List Operand) (p : Part) : Part :=
  p.onLine l fun c =>
    { c with state := .replying
             reply := some { exchange := c.exchange, refused := refused, notices := c.attention, results := results } }

def Part.answer (l : Line) (v : Verdict) (p : Part) : Part :=
  match v with
  | .refused why results => p.sendReply l (some why) results
  | .taken p' results => p'.sendReply l none results

/-- A complete order is worked and answered within one event (R179). -/
def Part.workOrder (l : Line) (code : Byte) (declared : Nat) (ops : List Operand) (order : Part → Verdict)
    (p : Part) : Part :=
  let p := (p.breakOff l).onLine l (LineController.work code declared ops)
  p.answer l (order p)

/-- The command of an order: the event in which its exchange completes on the line (log entry 1). -/
def Part.orderEvent (l : Line) (code : Byte) (ops : List Operand) (order : Part → Verdict) : Part → Part :=
  Part.whenRunning (Part.workOrder l code ops.length ops order)

/-- The slot and record of the non-FREE callout an operand names. -/
def Part.lookup (x : Int) (p : Part) : Option (SlotId × Callout) :=
  (p.findNumber x).bind fun i => (p.callout? i).map fun c => (i, c)

/-- The two results of the callout orders: the callout number and the state code after the order, FREE 0 (R183). -/
def Part.calloutResults (n : CalloutNo) (p : Part) : List Operand :=
  [num n.toNat, num (match p.findCallout n with
    | some i => (p.slot i).stateCode
    | none => 0)]

/-- A callout order taken: the work that follows is done and the results are read after it. -/
def Part.takenFor (n : CalloutNo) (p : Part) : Verdict :=
  .taken p.finish (p.finish.calloutResults n)

end Sys2Proof.Machine
end

