-- ==== Sys2Proof/Machine/CalloutOrders.lean ====
section
/-!
DEFINITION. The orders on callouts (chapter 1): ALERT, ADD, COMMIT, HOLD, RESUME, STAND-DOWN, DEPART and
QUERY-CALLOUT.
-/

namespace Sys2Proof.Machine

open Sys2Proof

/-! ## Numbers and tokens (R2, R3) -/

/-- The first value not in use, stepping on; eight callouts are live at most, so 16 steps are ample. -/
def firstUnused {w : Nat} (used : BitVec w → Bool) (next : BitVec w → BitVec w) : Nat → BitVec w → BitVec w
  | 0, x => x
  | k + 1, x => if used x then firstUnused used next k (next x) else x

/-- One more, wrapping from 255 to 1. -/
def nextNumber (n : CalloutNo) : CalloutNo :=
  if n = 255#8 then 1#8 else n + 1#8

def nextToken (t : Token) : Token :=
  t + Config.tokenStep

/-- The number of a newly created callout (R2). -/
def Part.newNumber (p : Part) : CalloutNo :=
  firstUnused (fun n => p.live.any fun ic => ic.2.number == n) nextNumber 16 (nextNumber p.table.lastNumber)

/-- The token of a newly created callout (R3). -/
def Part.newToken (p : Part) : Token :=
  firstUnused (fun t => t == 0#12 || p.live.any fun ic => ic.2.token == t) nextToken 16 (nextToken p.table.lastToken)

/-! ## ALERT (R4, R8 to R10) -/

structure AlertArgs where
  reference : Text
  cls       : ClassId
  zone      : ZoneId
  override  : Option PlanId
  text      : Option Text
  atOnce    : Bool
deriving DecidableEq, Repr

/-- The operands of an ALERT, cleaned and cut (R8); `none` is BAD_OPERAND. -/
def alertArgs (ops : List Operand) : Option AlertArgs :=
  match needText ops 0, needIndex ops 1 64 0, needIndex ops 2 32 0, optIndex ops 3 48 1, optText ops 4, optFlag ops 5 with
  | some ref, some cls, some zone, some override, some text, some atOnce =>
    let ref := cleanCut 12 ref
    if ref.all (fun b => b == 0x20#8) then none
    else some { reference := ref, cls := cls, zone := zone, override := override,
                text := text.map (cleanCut 24), atOnce := atOnce.getD false }
  | _, _, _, _, _, _ => none

def noFlags : CalloutFlags where
  substituted := false
  applianceOmitted := false
  groupsOmitted := false
  txDegraded := false
  aidRequested := false
  responseLost := false

/-- The record of a callout made from an ALERT (R4), its assessment still to be computed. -/
def Part.newCallout (p : Part) (l : Line) (x : AlertArgs) (plan : PlanId) (pl : Plan) (t : Attempt) : Callout where
  number := p.newNumber
  reference := x.reference
  origin := l
  cls := x.cls
  zone := x.zone
  plan := plan
  window := pl.window
  turnout := pl.turnout
  sirenPolicy := pl.sirenPolicy
  sirenPattern := pl.sirenPattern
  token := p.newToken
  state := .inOpen
  prior := none
  appliances := t.committed.map fun y => { letter := y.1, need := y.2, departed := false, crew := [] }
  primary := pl.primary
  paged := 0#16
  secondary := pl.secondary &&& ~~~pl.primary
  repaged := []
  text := x.text.getD pl.template
  alertStatus := .none
  alertGroups := 0#16
  standDownGroups := none
  heldBack := []
  responses := []
  sequence := 0
  assessment := { candidates := [], entries := [], outcome := .short }
  level := 0
  exhausted := false
  elapsed := 0
  elapsedMs := 0
  accumulation := .start p.settings.window
  responseWindow := { remaining := pl.window * 1000, mark := .stopped }
  flags := { noFlags with substituted := t.substituted, applianceOmitted := t.omitted }

/-- Each appliance of an attempt records the callout it is committed to (R47). -/
def Part.commitAll (n : CalloutNo) (l : List (Appliance × RoleCounts)) (p : Part) : Part :=
  l.foldl (fun p y => p.setCommitted y.1 (some n)) p

/-- A FREE slot whose summary carries the number just assigned loses its summary (R2), and with it the list of re-paged
members, which R115 keeps until the slot is taken (DESIGN CHOICE, log entry 32; unsafe). -/
def Slot.forget (n : CalloutNo) : Slot → Slot
  | .free (some s) => if s.number = n then .free none else .free (some s)
  | x => x

/-- The slot at the head of the free order is taken and filled; the callout enters OPEN (R1, R9). -/
def Part.createCallout (i : SlotId) (c : Callout) (p : Part) : Part :=
  let p := p.onTable fun t =>
    { slots := (t.slots.map (Slot.forget c.number)).set i (.live c), freeOrder := t.freeOrder.tail,
      lastNumber := c.number, lastToken := c.token }
  let p := (p.commitAll c.number (c.appliances.map fun e => (e.letter, e.need))).modify i fun c =>
    { c with assessment := p.assessment c }
  p.raise .callout

/-- Appliances are appended in the order committed; one that would make the list exceed three, and every one after it,
is handed back and APPLIANCE_OMITTED is set (R12). -/
def Part.appendAppliances (i : SlotId) : List (Appliance × RoleCounts) → Part → Part
  | [], p => p
  | (ap, need) :: rest, p =>
    match p.callout? i with
    | none => p
    | some c =>
      if c.hasAppliance ap then Part.appendAppliances i rest p
      else if c.appliances.length < Config.applianceEntries then
        Part.appendAppliances i rest (p.modify i fun c =>
          { c with appliances := c.appliances ++ [{ letter := ap, need := need, departed := false, crew := [] }] })
      else
        (((ap, need) :: rest).foldl (fun p y => p.setCommitted y.1 none) p).modify i
          (Callout.withFlags fun f => { f with applianceOmitted := true })

/-- A plan's appliances are committed for an ADD or a merged ALERT and added to the callout (R12, R46, R47). -/
def Part.addPlanAppliances (i : SlotId) (c : Callout) (pl : Plan) (p : Part) : Part :=
  let t := p.attempt (fun ap => c.hasAppliance ap) pl
  ((p.commitAll c.number t.committed).appendAppliances i t.committed).modify i (Callout.withFlags fun f =>
    { f with substituted := f.substituted || t.substituted, applianceOmitted := f.applianceOmitted || t.omitted })

/-- A plan's secondary groups that are not primary join the secondary groups (R11, R17). -/
def Callout.addSecondary (gs : GroupSet) (c : Callout) : Callout :=
  { c with secondary := c.secondary ||| (gs &&& ~~~c.primary) }

/-- Groups join the primary groups marked DEMANDED; one already there keeps its mark. -/
def Callout.addPrimary (gs : GroupSet) (c : Callout) : Callout :=
  { c with primary := c.primary ||| gs, paged := c.paged &&& c.primary }

/-- The accumulation timer restarts at its full length. -/
def Part.restartAccumulation (i : SlotId) (p : Part) : Part :=
  p.modify i fun c => { c with accumulation := .start p.settings.window }

/-- A reassessment when the appliance list has changed (R97). -/
def Part.reassessIfGrown (i : SlotId) (before : Callout) (p : Part) : Part :=
  match p.callout? i with
  | none => p
  | some c => if c.appliances = before.appliances then p else p.reassess i

/-- An ADD or a merged ALERT in OPEN (R10, R11). -/
def Part.addInOpen (i : SlotId) (c : Callout) (pl : Option Plan) (given : GroupSet) (p : Part) : Part :=
  let p := match pl with
    | some pl => ((p.addPlanAppliances i c pl).modify i (Callout.addPrimary (pl.primary ||| given))).modify i
        (Callout.addSecondary pl.secondary)
    | none => p.modify i (Callout.addPrimary given)
  (p.restartAccumulation i).reassessIfGrown i c

/-- The four results of an ALERT created or merged (R183). -/
def Part.alertResults (outcome : Nat) (i : SlotId) (p : Part) : List Operand :=
  match p.callout? i with
  | some c => [num outcome, num c.number.toNat, num c.token.toNat, num c.state.code]
  | none => [num outcome, num 0, num 0, num 0]

/-- An ALERT whose reference equals that of the non-FREE callout `c` in slot `i` (R10). -/
def Part.duplicateAlert (x : AlertArgs) (i : SlotId) (c : Callout) (p : Part) : Verdict :=
  if c.state = .inOpen then
    let pl := (p.resolvePlan x.override x.cls x.zone).map Prod.snd
    let p := p.addInOpen i c pl 0#16
    let p := (if x.atOnce then p.leaveOpen i else p).finish
    .taken p (p.alertResults 1 i)
  else .refused .duplicate [num c.number.toNat]

/-- An ALERT with no duplicate (R8, R9, R45, R47). -/
def Part.freshAlert (l : Line) (x : AlertArgs) (p : Part) : Verdict :=
  match p.table.freeOrder with
  | [] => refuse .tableFull
  | i :: _ =>
    match p.resolvePlan x.override x.cls x.zone with
    | none => refuse .noPlan
    | some (n, pl) =>
      let t := p.attempt (fun _ => false) pl
      if t.committed = [] then refuse .noAppliance
      else
        let p := p.createCallout i (p.newCallout l x n pl t)
        let p := (if x.atOnce then p.leaveOpen i else p).finish
        .taken p (p.alertResults 0 i)

/-- ALERT (R8 to R10). -/
def alertOrder (l : Line) (declared : Nat) (ops : List Operand) (p : Part) : Verdict :=
  checked (anyLine l) 6 declared <|
    match alertArgs ops with
    | none => badOperand
    | some x =>
      match (p.findLive fun c => c.reference == x.reference).bind fun i => (p.callout? i).map fun c => (i, c) with
      | some (i, c) => p.duplicateAlert x i c
      | none => p.freshAlert l x

/-! ## ADD (R11, R12, R17) -/

/-- A supplement: an ADD in ALERTING, COUNTING or CREWED (R17). The secondary groups are read after the kept groups have
joined the primary groups, so a group of both the plan's sets that is judged *no* and left out joins the secondary groups
(DESIGN CHOICE, log entry 30; unsafe). -/
def Part.supplement (i : SlotId) (c : Callout) (pl : Option Plan) (given : GroupSet) (p : Part) : Part :=
  let p := match pl with
    | some pl => p.addPlanAppliances i c pl
    | none => p
  let asked := ((pl.map Plan.primary).getD 0#16 ||| given) &&& ~~~c.primary
  let kept := p.judgedYes asked
  let p := p.modify i fun c =>
    { (c.addPrimary kept).addSecondary ((pl.map Plan.secondary).getD 0#16) with
      flags := { c.flags with groupsOmitted := c.flags.groupsOmitted || kept != asked } }
  let p := if kept = 0#16 then p else p.demandGroups .supplement c.owner kept
  p.reassessIfGrown i c

/-- ADD (R11). -/
def addOrder (l : Line) (declared : Nat) (ops : List Operand) (p : Part) : Verdict :=
  checked (anyLine l) 3 declared <|
    match needNumber ops 0, optIndex ops 1 48 1, optSet ops 2 with
    | some x, some plan, some given =>
      if plan = none ∧ given = none then badOperand
      else match p.lookup x with
        | none => refuse .notFound
        | some (i, c) =>
          let pl := plan.bind fun n => p.resolver.plans.get n
          let undefinedPlan := plan.isSome && pl.isNone
          match c.state with
          | .held | .mobile | .closing => refuse .wrongState
          | .inOpen =>
            if undefinedPlan then refuse .noPlan
            else (p.addInOpen i c pl (given.getD 0#16)).takenFor c.number
          | .alerting | .counting | .crewed =>
            if undefinedPlan then refuse .noPlan
            else (p.supplement i c pl (given.getD 0#16)).takenFor c.number
    | _, _, _ => badOperand

/-! ## COMMIT (R13) -/

/-- The one operand of the orders that only name a callout. -/
def onCallout (ops : List Operand) (p : Part) (body : SlotId → Callout → Verdict) : Verdict :=
  match needNumber ops 0 with
  | none => badOperand
  | some x =>
    match p.lookup x with
    | none => refuse .notFound
    | some (i, c) => body i c

def commitOrder (l : Line) (declared : Nat) (ops : List Operand) (p : Part) : Verdict :=
  checked (anyLine l) 1 declared <| onCallout ops p fun i c =>
    if c.state = .inOpen then (p.leaveOpen i).takenFor c.number else refuse .wrongState

/-! ## HOLD (R21) -/

/-- An entry of the held-back list is not made when it would owe no site. -/
def HeldEntry.owesNothing (e : HeldEntry) : Bool :=
  e.owed == .only []

/-- A callout enters HELD from the state it is in (R21). -/
def Part.hold (i : SlotId) (c : Callout) (p : Part) : Part :=
  let p := (p.modify i fun c =>
    { c with prior := some c.state
             accumulation := if c.state = .inOpen then c.accumulation.freeze else c.accumulation
             responseWindow := if c.state = .counting then c.responseWindow.freeze else c.responseWindow }).enter i .held
  let (back, p) := p.withdrawFor i BatchKind.callOut
  let made := (back.map Returned.entry).filter fun e => !e.owesNothing
  let kept := made.take Config.heldBackPlaces
  let alertGone := c.alertStatus = .outstanding && back.any (fun b => b.entry.kind == .alert)
    && !kept.any fun e => e.kind == .alert
  let p := p.modify i fun c =>
    { c with heldBack := kept, alertStatus := if alertGone then .ended else c.alertStatus }
  if Config.heldBackPlaces < made.length then p.degrade i else p

def holdOrder (l : Line) (declared : Nat) (ops : List Operand) (p : Part) : Verdict :=
  checked (anyLine l) 1 declared <| onCallout ops p fun i c =>
    match c.state with
    | .inOpen | .alerting | .counting | .crewed => (p.hold i c).takenFor c.number
    | .held | .mobile | .closing => refuse .wrongState

/-! ## RESUME (R23) -/

/-- The demand made again from an entry of the held-back list (R23, R130). -/
def HeldEntry.demand (o : Owner) (e : HeldEntry) : Demand where
  kind := e.kind
  owner := o
  content := e.content
  restrict := e.owed

/-- The state is reconciled with the outcome and the alert batch status (the table of R23). -/
def Part.reconcile (i : SlotId) (prior : CalloutState) (p : Part) : Part :=
  match p.callout? i with
  | none => p
  | some c =>
    match prior with
    | .alerting => if c.alertStatus = .ended then (p.enterCounting i).takeOutcome i else p.takeOutcome i
    | .counting => p.takeOutcome i
    | .crewed => if c.assessment.outcome = .crewed then p.enterCrewed i else p.enterCounting i
    | .inOpen | .held | .mobile | .closing => p

/-- A HELD callout returns to its prior state (R23). -/
def Part.resume (i : SlotId) (c : Callout) (prior : CalloutState) (p : Part) : Part :=
  let p := p.enter i prior
  let p := p.modify i fun c =>
    { c with prior := none, heldBack := [], accumulation := c.accumulation.thaw,
             responseWindow := c.responseWindow.thaw,
             alertStatus := if c.heldBack.any (fun e => e.kind == .alert) then .outstanding else c.alertStatus }
  let p := c.heldBack.foldl (fun p e => p.demand (e.demand c.owner)) p
  p.reconcile i prior

def resumeOrder (l : Line) (declared : Nat) (ops : List Operand) (p : Part) : Verdict :=
  checked (anyLine l) 1 declared <| onCallout ops p fun i c =>
    match c.state, c.prior with
    | .held, some prior => (p.resume i c prior).takenFor c.number
    | _, _ => refuse .wrongState

/-! ## DEPART (R25, R26) -/

/-- The ATTENDING members on no frozen crew, in response-list order (R26). -/
def Callout.unusedAttending (c : Callout) : List MemberId :=
  (c.responses.filter fun r => r.kind == .attending && !c.onFrozenCrew r.member).map Response.member

/-- Entry into MOBILE (R26). -/
def Part.enterMobile (i : SlotId) (p : Part) : Part :=
  let p := (p.enter i .mobile).modify i Callout.stopWindow
  let p := (p.withdrawFor i BatchKind.callOut).2
  let p := p.modify i fun c => { c with alertStatus := .ended }
  match p.callout? i with
  | none => p
  | some c =>
    let unused := c.unusedAttending
    if unused = [] then p
    else ((p.releaseMembers i unused).demandReleases c.owner unused).recompute i

/-- An entry departs with its current assignment as its crew. -/
def Callout.freeze (ap : Appliance) (c : Callout) : Callout :=
  { c with appliances := c.appliances.map fun e =>
      if e.letter = ap then { e with departed := true, crew := crewOn ap c.assessment.candidates } else e }

/-- DEPART takes effect: the crew is frozen, the entry departs, the assessment is recomputed, and the callout's state is
settled, by entry into MOBILE when every entry has departed (R25, R108). -/
def Part.depart (i : SlotId) (ap : Appliance) (p : Part) : Part :=
  let p := (p.modify i (Callout.freeze ap)).recompute i
  match p.callout? i with
  | none => p
  | some c => if c.appliances.all ApplianceEntry.departed then p.enterMobile i else p.takeOutcome i

def departOrder (l : Line) (declared : Nat) (ops : List Operand) (p : Part) : Verdict :=
  checked (consoleOnly l) 2 declared <|
    match needNumber ops 0, needLetter ops 1 with
    | some x, some ap =>
      match p.lookup x with
      | none => refuse .notFound
      | some (i, c) =>
        match c.appliances.find? fun e => e.letter == ap with
        | none => refuse .notFound
        | some e =>
          match c.state with
          | .alerting | .counting | .crewed =>
            if e.departed then refuse .wrongState else (p.depart i ap).takenFor c.number
          | .inOpen | .held | .mobile | .closing => refuse .wrongState
    | _, _ => badOperand

/-! ## STAND-DOWN (R29 to R31) -/

/-- The groups carried by a pass of this callout still in progress (R30). -/
def Part.groupsOnAir (o : Owner) (p : Part) : GroupSet :=
  match p.sites.sequencer.keyed?, p.current? with
  | some _, some b => if b.owner = o then b.groups else 0#16
  | _, _ => 0#16

/-- A STAND-DOWN of an OPEN or MOBILE callout frees the slot at once: these members' records are released, and no page
is sent (R29). -/
def Part.standDownSilent (i : SlotId) (who : List MemberId) (endCode : Nat) (p : Part) : Part :=
  ((p.withdrawFor i everyKind).2.releaseMembers i who).becomeFree i endCode

/-- A STAND-DOWN in ALERTING, COUNTING, CREWED or HELD (R30). -/
def Part.standDownPaged (i : SlotId) (c : Callout) (p : Part) : Part :=
  let p := (p.withdrawFor i everyKind).2
  let p := p.modify i fun c => { c with heldBack := [], prior := none, accumulation := .stopped,
                                        responseWindow := .stopped }
  let p := ((p.releaseMembers i c.activeMembers).disengageAll c.number).uncommitAll c.number
  let groups := c.pagedPrimary ||| p.groupsOnAir c.owner
  if groups = 0#16 then p.becomeFree i 4
  else ((p.modify i fun c => { c with standDownGroups := some groups }).demandGroups
    .standDown c.owner groups).enter i .closing

def standDownOrder (l : Line) (declared : Nat) (ops : List Operand) (p : Part) : Verdict :=
  checked (anyLine l) 1 declared <| onCallout ops p fun i c =>
    match c.state with
    | .inOpen => (p.standDownSilent i (c.responses.map Response.member) 1).takenFor c.number
    | .mobile => (p.standDownSilent i c.activeMembers 2).takenFor c.number
    | .alerting | .counting | .crewed | .held => (p.standDownPaged i c).takenFor c.number
    | .closing => refuse .wrongState

/-! ## QUERY-CALLOUT (R34, R35) -/

/-- The slot that holds a number, live or by its summary. -/
def Slot.holds (x : Int) : Slot → Bool
  | .live c => (c.number.toNat : Int) == x
  | .free (some s) => (s.number.toNat : Int) == x
  | .free none => false

/-- The escalation result: the level, plus 4 if exhausted. -/
def levelResult (level : Fin 4) (exhausted : Bool) : Operand :=
  num (level.val + if exhausted then 4 else 0)

/-- A timer's remaining time in seconds, rounded up; absent when it is not shown. -/
def timerResult (shown : Bool) (t : Timer) : Operand :=
  if shown then num (secondsUp t.remaining) else .absent

def Callout.details (i : SlotId) (c : Callout) : List Operand :=
  [num (i.val + 1), num c.number.toNat, num c.state.code,
   if c.state = .held then optNum (c.prior.map CalloutState.code) else .absent,
   num (originCode c.origin), .text c.reference, num c.cls.val, num c.zone.val, num (c.plan.val + 1),
   num c.token.toNat, num c.elapsed,
   timerResult (c.state = .inOpen || (c.state = .held && c.prior = some .inOpen)) c.accumulation,
   timerResult (c.responseWindow.mark != .stopped) c.responseWindow,
   levelResult c.level c.exhausted, num c.assessment.outcome.code,
   .text (lettersOf (c.appliances.map ApplianceEntry.letter)),
   .text (lettersOf ((c.appliances.filter ApplianceEntry.departed).map ApplianceEntry.letter)),
   .set c.pagedPrimary, .set c.demanded, .set c.flags.toSet, num c.responses.length, .absent,
   num c.alertStatus.code]

def Summary.details (i : SlotId) (s : Summary) : List Operand :=
  [num (i.val + 1), num s.number.toNat, num 0, .absent, num (originCode s.origin), .text s.reference, num s.cls.val,
   num s.zone.val, num (s.plan.val + 1), num s.token.toNat, num s.elapsed, .absent, .absent,
   levelResult s.level s.exhausted, num s.outcome.code, .text (lettersOf s.letters), .text (lettersOf s.departed),
   .set (s.primary &&& s.paged), .set (s.primary &&& ~~~s.paged), .set s.flags.toSet, num s.responses, num s.endCode,
   .absent]

def Slot.details (i : SlotId) : Slot → List Operand
  | .live c => c.details i
  | .free (some s) => s.details i
  | .free none => []

/-- The overview: the callout numbers of slots 1 to 8, 0 for FREE, then their state codes. -/
def Part.slotOverview (p : Part) : List Operand :=
  (slotIds.map fun i => num (match p.slot i with
    | .live c => c.number.toNat
    | .free _ => 0)) ++ slotIds.map fun i => num (p.slot i).stateCode

def queryCalloutOrder (l : Line) (declared : Nat) (ops : List Operand) (p : Part) : Verdict :=
  checked (anyLine l) 1 declared <|
    match optNumber ops 0 with
    | none => badOperand
    | some none => .taken p p.slotOverview
    | some (some x) =>
      if x < 1 ∨ 255 < x then badOperand
      else match slotIds.find? fun i => (p.slot i).holds x with
        | none => refuse .notFound
        | some i => .taken p ((p.slot i).details i)

/-! ## The meanings -/

/-- ALERT, order code 1. -/
def execAlert (l : Line) (ops : List Operand) (s : State) : Host.Outcome State Fault Refusal :=
  s.taking (Part.orderEvent l 1#8 ops (alertOrder l ops.length ops))

/-- ADD, order code 2. -/
def execAdd (l : Line) (ops : List Operand) (s : State) : Host.Outcome State Fault Refusal :=
  s.taking (Part.orderEvent l 2#8 ops (addOrder l ops.length ops))

/-- COMMIT, order code 3. -/
def execCommit (l : Line) (ops : List Operand) (s : State) : Host.Outcome State Fault Refusal :=
  s.taking (Part.orderEvent l 3#8 ops (commitOrder l ops.length ops))

/-- HOLD, order code 4. -/
def execHold (l : Line) (ops : List Operand) (s : State) : Host.Outcome State Fault Refusal :=
  s.taking (Part.orderEvent l 4#8 ops (holdOrder l ops.length ops))

/-- RESUME, order code 5. -/
def execResume (l : Line) (ops : List Operand) (s : State) : Host.Outcome State Fault Refusal :=
  s.taking (Part.orderEvent l 5#8 ops (resumeOrder l ops.length ops))

/-- STAND-DOWN, order code 6. -/
def execStandDown (l : Line) (ops : List Operand) (s : State) : Host.Outcome State Fault Refusal :=
  s.taking (Part.orderEvent l 6#8 ops (standDownOrder l ops.length ops))

/-- QUERY-CALLOUT, order code 9. -/
def execQueryCallout (l : Line) (ops : List Operand) (s : State) : Host.Outcome State Fault Refusal :=
  s.taking (Part.orderEvent l 9#8 ops (queryCalloutOrder l ops.length ops))

/-- DEPART, order code 20. -/
def execDepart (l : Line) (ops : List Operand) (s : State) : Host.Outcome State Fault Refusal :=
  s.taking (Part.orderEvent l 20#8 ops (departOrder l ops.length ops))

end Sys2Proof.Machine
end

