-- ==== Sys2Proof/Machine/Responses.lean ====
section
/-!
DEFINITION. Responses (chapter 4): applying a response, RELAY-RESPONSE, BOOK-ON, return frames and duty reports, and a
member's change of availability (chapter 3).
-/

namespace Sys2Proof.Machine

open Sys2Proof

/-! ## The response list -/

def Callout.record? (m : MemberId) (c : Callout) : Option Response :=
  c.responses.find? fun r => r.member == m

def Callout.replaceRecord (r : Response) (c : Callout) : Callout :=
  { c with responses := c.responses.map fun x => if x.member = r.member then r else x }

/-- The list without the inactive record nearest its front (R92). -/
def evictOne : List Response → List Response
  | [] => []
  | r :: rest => if r.active then r :: evictOne rest else rest

/-- The list has a place for a new record, or can make one (R92). -/
def Callout.hasRoom (c : Callout) : Bool :=
  c.responses.length < Config.responsePlaces || c.responses.any fun r => !r.active

/-- A new record joins the end of the list, an inactive one making way for it when the list is full (R73, R92). -/
def Callout.addRecord (r : Response) (c : Callout) : Callout :=
  { c with responses :=
      (if c.responses.length < Config.responsePlaces then c.responses else evictOne c.responses) ++ [r] }

/-- The counter after a fresh sequence number is given (R75). -/
def Callout.nextSequence (c : Callout) : Nat :=
  min (c.sequence + 1) Config.sequenceCap

/-! ## Responses and their records (R82 to R87) -/

inductive ResponseForm where
  /-- With the ETA after normalising. -/
  | attend (eta : Option Nat)
  | unavailable
  | bookOn
deriving DecidableEq, Repr

/-- An ETA of 0 becomes absent, and one above 60 becomes 60 (R83). -/
def normaliseEta (e : Nat) : Option Nat :=
  if e = 0 then none else some (min e Config.etaCap)

def ResponseForm.attends : ResponseForm → Bool
  | .attend _ => true
  | .unavailable => false
  | .bookOn => false

/-- ATTEND and BOOK-ON engage the member (R84, R82). -/
def ResponseForm.engages : ResponseForm → Bool
  | .attend _ => true
  | .bookOn => true
  | .unavailable => false

def ResponseForm.kind : ResponseForm → ResponseKind
  | .attend _ => .attending
  | .unavailable => .unavailable
  | .bookOn => .arrived

def ResponseForm.eta : ResponseForm → Option Nat
  | .attend e => e
  | .unavailable => none
  | .bookOn => none

/-- The arrival estimate a response gives at this minute, capped at 99 (R74). -/
def ResponseForm.estimate (f : ResponseForm) (minute turnout : Nat) : Option Nat :=
  match f with
  | .attend (some e) => some (min (minute + e) Config.estimateCap)
  | .attend none => some (min (minute + turnout) Config.estimateCap)
  | .bookOn => some (min minute Config.estimateCap)
  | .unavailable => none

/-- The response is identical to the record (R87). -/
def ResponseForm.repeats (f : ResponseForm) (r : Response) : Bool :=
  match f with
  | .attend e => r.kind == .attending && r.eta == e
  | .unavailable => r.kind == .unavailable
  | .bookOn => false

/-- A response takes a fresh sequence number when it makes an active record of none or of an inactive one (R75). -/
def needsSequence (f : ResponseForm) (old : Option Response) : Bool :=
  f.engages && !(old.map Response.active).getD false

/-- The record of member `m` after the response (R74, R75, R82, R84, R85). -/
def Callout.responseRecord (c : Callout) (m : MemberId) (f : ResponseForm) (source : Source)
    (old : Option Response) : Response where
  member := m
  kind := f.kind
  eta := f.eta
  minute := c.minutes
  estimate := f.estimate c.minutes c.turnout
  sequence := if needsSequence f old then some c.nextSequence else old.bind Response.sequence
  source := source
  lastChange := c.elapsed

/-- The record is created or changed in its place, and the sequence counter moves when a fresh number is given. -/
def Callout.putResponse (m : MemberId) (f : ResponseForm) (source : Source) (c : Callout) : Callout :=
  let old := c.record? m
  let r := c.responseRecord m f source old
  let c := if needsSequence f old then { c with sequence := c.nextSequence } else c
  match old with
  | some _ => c.replaceRecord r
  | none => c.addRecord r

/-! ## Applying a response (R83) -/

/-- The outcome codes of R80. -/
inductive Applied where
  | taken
  | ignored
  | notRequired
  | lost
deriving DecidableEq, Repr

def Applied.code : Applied → Nat
  | .taken => 0
  | .ignored => 1
  | .notRequired => 2
  | .lost => 3

/-- The callout, other than the one in slot `i`, the member is engaged on. -/
def Part.engagedElsewhere (p : Part) (i : SlotId) (m : MemberId) : Option (SlotId × Callout) :=
  ((p.member? m).bind Member.engaged).bind fun n =>
    (p.findCallout n).bind fun j => if j = i then none else (p.callout? j).map fun c => (j, c)

/-- The member is ARRIVED on the callout. -/
def Callout.hasArrived (m : MemberId) (c : Callout) : Bool :=
  ((c.record? m).map fun r => r.kind == .arrived).getD false

/-- The member is ARRIVED on another callout (R88). -/
def Part.arrivedElsewhere (p : Part) (i : SlotId) (m : MemberId) : Bool :=
  ((p.engagedElsewhere i m).map fun jc => jc.2.hasArrived m).getD false

/-- An OFF_DUTY member who answers is set AVAILABLE (R61). -/
def Part.setOnDuty (m : MemberId) (p : Part) : Part :=
  p.modifyMember m fun x => if x.availability = .offDuty then { x with availability := .available } else x

/-- A member's active record on callout `i` becomes WITHDRAWN and the member is disengaged (R54, R88, R91). -/
def Part.withdrawMember (i : SlotId) (c : Callout) (m : MemberId) (source : Source) (p : Part) : Part :=
  (p.modify i (Callout.mapRecords (fun x => x == m) (Response.withdraw source c.elapsed))).disengage m c.number

/-- A NOT_REQUIRED page is demanded for one member (R89, R90). -/
def Part.notRequired (c : Callout) (m : MemberId) (p : Part) : Part :=
  p.demandMembers .release c.owner [m]

/-- A response that finds no room is lost (R92). -/
def Part.loseResponse (i : SlotId) (p : Part) : Part :=
  (p.modify i (Callout.withFlags fun f => { f with responseLost := true })).raise .response

/-- The record an ATTEND to a MOBILE callout makes of the member's record: RELEASED, as the member's own response
(R90; log entry 14). -/
def Callout.releasedRecord (c : Callout) (m : MemberId) (source : Source) (old : Option Response) : Response where
  member := m
  kind := .released
  eta := none
  minute := c.minutes
  estimate := none
  sequence := old.bind Response.sequence
  source := source
  lastChange := c.elapsed

/-- An ATTEND to a MOBILE callout, the member's record not ARRIVED (R90). One lost for want of room is answered LOST, its
page is demanded, and it leaves an OFF_DUTY member OFF_DUTY (DESIGN CHOICE, log entry 15; unsafe). -/
def Part.attendMobile (i : SlotId) (c : Callout) (m : MemberId) (source : Source) (p : Part) : Part × Applied :=
  match c.record? m with
  | none =>
    if c.hasRoom then
      (((((p.setOnDuty m).modify i (Callout.addRecord (c.releasedRecord m source none))).raise .response).notRequired
        c m), .notRequired)
    else ((p.loseResponse i).notRequired c m, .lost)
  | some r =>
    let p := p.setOnDuty m
    if r.kind = .released then (p.notRequired c m, .notRequired)
    else
      let p := (p.modify i (Callout.replaceRecord (c.releasedRecord m source (some r)))).raise .response
      let p := if r.active then (p.disengage m c.number).reassess i else p
      (p.notRequired c m, .notRequired)

/-- A response that reaches step 8 of R83 is taken. -/
def Part.takeResponse (i : SlotId) (c : Callout) (m : MemberId) (f : ResponseForm) (source : Source) (p : Part) :
    Part :=
  let left := if f.engages then p.engagedElsewhere i m else none
  let p := if f.engages then p.setOnDuty m else p
  let p := match left with
    | some (j, x) => p.withdrawMember j x m source
    | none => p
  let p := p.modify i (Callout.putResponse m f source)
  let p := if f.engages then p.engage m c.number else p.disengage m c.number
  let p := match left with
    | some (j, _) => p.reassess j
    | none => p
  (p.reassess i).raise .response

/-- The steps of R83, for a response that has found callout `c` in slot `i` and member `m`. -/
def Part.applyResponse (i : SlotId) (c : Callout) (m : MemberId) (f : ResponseForm) (source : Source) (p : Part) :
    Part × Applied :=
  let withheld := ((p.member? m).map fun x => x.availability == .withheld).getD false
  if f.attends && withheld then (p.notRequired c m, .notRequired)
  else if c.hasArrived m then (p, .ignored)
  else if f.attends && c.state == .mobile then p.attendMobile i c m source
  else if ((c.record? m).map f.repeats).getD false then (p, .ignored)
  else if f.attends && p.arrivedElsewhere i m then (p, .ignored)
  else if (c.record? m).isNone && !c.hasRoom then (p.loseResponse i, .lost)
  else (p.takeResponse i c m f source, .taken)

/-! ## RELAY-RESPONSE and BOOK-ON (R79 to R82) -/

/-- The six results of R80, read after the response has been applied. -/
def Part.responseResults (i : SlotId) (m : MemberId) (n : CalloutNo) (a : Applied) (p : Part) : List Operand :=
  let r := (p.callout? i).bind fun c => c.record? m
  let active := r.bind fun r => if r.active then some r else none
  [num (m.val + 1), num n.toNat, num a.code, optNum (r.map fun r => r.kind.code),
   optNum (active.bind Response.sequence), optNum (active.bind Response.estimate)]

/-- A response that arrives in an order is applied and answered. -/
def Part.orderedResponse (i : SlotId) (c : Callout) (m : MemberId) (f : ResponseForm) (l : Line) (p : Part) :
    Verdict :=
  let (p, a) := p.applyResponse i c m f (.line l)
  .taken p.finish (p.finish.responseResults i m c.number a)

/-- RELAY-RESPONSE (R79). -/
def relayOrder (l : Line) (declared : Nat) (ops : List Operand) (p : Part) : Verdict :=
  checked (controlOnly l) 4 declared <|
    match needIndex ops 0 128 1, needWithin ops 1 1 255, needWithin ops 2 0 1, optNumber ops 3 with
    | some m, some n, some code, some eta =>
      if eta.getD 0 < 0 then badOperand
      else if (p.member? m).isNone then refuse .notFound
      else match p.lookup n with
        | none => refuse .notFound
        | some (i, c) =>
          if c.state = .closing then refuse .wrongState
          else
            let f := if code = 0 then ResponseForm.attend (normaliseEta ((eta.getD 0).toNat)) else .unavailable
            p.orderedResponse i c m f l
    | _, _, _, _ => badOperand

/-- ALERTING, COUNTING, CREWED and HELD: the states among which BOOK-ON may choose its callout (R81). -/
def CalloutState.bookable : CalloutState → Bool
  | .alerting => true
  | .counting => true
  | .crewed => true
  | .held => true
  | .inOpen => false
  | .mobile => false
  | .closing => false

/-- The callout of a BOOK-ON whose callout operand is absent (R81). -/
def Part.chooseBooking (m : MemberId) (p : Part) : Option (SlotId × Callout) :=
  match ((p.member? m).bind Member.engaged).bind p.findCallout with
  | some i => (p.callout? i).map fun c => (i, c)
  | none =>
    match p.live.filter fun ic => ic.2.state.bookable with
    | [ic] => some ic
    | _ => none

/-- The checks of a BOOK-ON on its callout, and its application (R81, R82). -/
def Part.bookOnTo (m : MemberId) (x : Member) (l : Line) (ic : SlotId × Callout) (p : Part) : Verdict :=
  if ic.2.state = .mobile ∨ ic.2.state = .closing ∨ x.availability = .withheld ∨ p.arrivedElsewhere ic.1 m = true then
    refuse .wrongState
  else p.orderedResponse ic.1 ic.2 m .bookOn l

/-- BOOK-ON (R81). -/
def bookOnOrder (l : Line) (declared : Nat) (ops : List Operand) (p : Part) : Verdict :=
  checked (consoleOnly l) 2 declared <|
    match needIndex ops 0 128 1, optWithin ops 1 1 255 with
    | some m, some (some n) =>
      match p.member? m, p.lookup n with
      | some x, some ic => p.bookOnTo m x l ic
      | _, _ => refuse .notFound
    | some m, some none =>
      match p.chooseBooking m with
      | none => badOperand
      | some ic =>
        match p.member? m with
        | none => refuse .notFound
        | some x => p.bookOnTo m x l ic
    | _, _ => badOperand

/-! ## Availability (R54, R55, R60) -/

/-- A member's availability is set; a member who leaves AVAILABLE is first withdrawn from the engaged callout, which is
reassessed (R54, R55). -/
def Part.changeAvailability (m : MemberId) (v : Availability) (source : Source) (p : Part) : Part :=
  match p.member? m with
  | none => p
  | some x =>
    if x.availability = v then p
    else
      let engaged := if x.availability = .available && v != .available then x.engaged else none
      match (engaged.bind p.findCallout).bind fun i => (p.callout? i).map fun c => (i, c) with
      | none => p.setAvailability m v
      | some (i, c) =>
        (((p.withdrawMember i c m source).setAvailability m v).reassess i).raise .response

/-- The member is ARRIVED on the engaged callout. -/
def Part.isArrived (m : MemberId) (x : Member) (p : Part) : Bool :=
  (((x.engaged.bind p.findCallout).bind p.callout?).map fun c => c.hasArrived m).getD false

/-- A pager duty report (R60). -/
def Part.dutyReport (m : MemberId) (off : Bool) (k : SiteId) (p : Part) : Part :=
  match p.member? m with
  | none => p
  | some x =>
    match x.availability, off with
    | .withheld, _ => p
    | .available, true => if p.isArrived m x then p else p.changeAvailability m .offDuty (.site k)
    | .offDuty, false => p.changeAvailability m .available (.site k)
    | .available, false => p
    | .offDuty, true => p

/-! ## Return frames (R76 to R78) -/

/-- A frame that passed R76, from member `m`, with a token other than 0 and code ATTEND or UNAVAILABLE (R78). -/
def Part.frameResponse (k : SiteId) (m : MemberId) (fr : ReturnFrame) (p : Part) : Part :=
  match p.findLive fun c => c.token == fr.token with
  | none => p
  | some i =>
    match p.callout? i with
    | none => p
    | some c =>
      if c.state = .closing then p
      else
        let f := if fr.code = 0#3 then ResponseForm.attend (normaliseEta fr.eta.toNat) else .unavailable
        (p.applyResponse i c m f (.site k)).1

/-- A frame that passed R76 is examined (R77). -/
def Part.matchFrame (k : SiteId) (fr : ReturnFrame) (p : Part) : Part :=
  if 4 ≤ fr.code.toNat then p
  else match p.memberAt fr.address with
    | none => p
    | some m =>
      if fr.token = 0#12 then
        if fr.code = 2#3 then p.dutyReport m true k
        else if fr.code = 3#3 then p.dutyReport m false k
        else p
      else if fr.code = 0#3 ∨ fr.code = 1#3 then p.frameResponse k m fr
      else p

/-- A return frame at a site is discarded when some part of it arrived while the site was keyed or when its check fails,
and examined otherwise (R76). -/
def Part.receiveFrame (k : SiteId) (bits : BitVec 58) (spoiled : Bool) (p : Part) : Part :=
  let fr := ReturnFrame.ofBits bits
  if spoiled || p.siteKeyed k || fr.check != fr.expected then p
  else (p.matchFrame k fr).finish

/-! ## The meanings -/

/-- RETURN_FRAME (R76, R77). -/
def execReturnFrame (k : SiteId) (bits : BitVec 58) (spoiled : Bool) (s : State) :
    Host.Outcome State Fault Refusal :=
  s.taking (Part.whenRunning (Part.receiveFrame k bits spoiled))

/-- RELAY-RESPONSE, order code 18. -/
def execRelayResponse (l : Line) (ops : List Operand) (s : State) : Host.Outcome State Fault Refusal :=
  s.taking (Part.orderEvent l 18#8 ops (relayOrder l ops.length ops))

/-- BOOK-ON, order code 19. -/
def execBookOn (l : Line) (ops : List Operand) (s : State) : Host.Outcome State Fault Refusal :=
  s.taking (Part.orderEvent l 19#8 ops (bookOnOrder l ops.length ops))

end Sys2Proof.Machine
end

