-- ==== Sys2Proof/Machine/RosterOrders.lean ====
section
/-!
DEFINITION. The roster's orders (chapter 3): SET-AVAILABILITY, EDIT-MEMBER, EDIT-GROUP and QUERY-MEMBER.
-/

namespace Sys2Proof.Machine

open Sys2Proof

/-! ## SET-AVAILABILITY (R58, R59) -/

def Availability.ofCode : Nat → Availability
  | 0 => .available
  | 1 => .offDuty
  | _ => .withheld

def Part.isWithheld (p : Part) (m : MemberId) : Bool :=
  ((p.member? m).map fun x => x.availability == .withheld).getD false

/-- The check R58 places before BAD_OPERAND: a control centre can neither withhold a member nor lift a withholding. -/
def Part.withholdingBarred (p : Part) (l : Line) (ops : List Operand) : Bool :=
  controlOnly l
    && (needWithin ops 1 2 2 == some 2 || ((needIndex ops 0 128 1).map p.isWithheld).getD false)

/-- The three results of R59. -/
def Part.availabilityResults (m : MemberId) (p : Part) : List Operand :=
  match p.member? m with
  | some x => [num (m.val + 1), num x.availability.code, num (x.engaged.getD 0#8).toNat]
  | none => [num (m.val + 1), num 0, num 0]

def setAvailabilityOrder (l : Line) (declared : Nat) (ops : List Operand) (p : Part) : Verdict :=
  if p.withholdingBarred l ops then refuse .notPermitted
  else checked (anyLine l) 2 declared <|
    match needIndex ops 0 128 1, needWithin ops 1 0 2 with
    | some m, some code =>
      match p.member? m with
      | none => refuse .notFound
      | some x =>
        if controlOnly l && code == 1 && p.isArrived m x then refuse .wrongState
        else
          let p := (p.changeAvailability m (.ofCode code) (.line l)).finish
          .taken p (p.availabilityResults m)
    | _, _ => badOperand

/-! ## QUERY-MEMBER (R70) -/

/-- How many non-FREE callouts hold a record of the member. -/
def Part.recordsOf (p : Part) (m : MemberId) : Nat :=
  (p.live.filter fun ic => (ic.2.record? m).isSome).length

/-- The nine results of R70 for a member in use. -/
def Part.memberResults (m : MemberId) (p : Part) : List Operand :=
  match p.member? m with
  | none => [num (m.val + 1)]
  | some x =>
    let record := ((x.engaged.bind p.findCallout).bind p.callout?).bind fun c => c.record? m
    [num (m.val + 1), .text x.callSign, num x.address.toNat, .set x.quals.toSet, .set x.groups,
     num x.availability.code, num (x.engaged.getD 0#8).toNat, optNum (record.map fun r => r.kind.code),
     num (p.recordsOf m)]

/-- The five counts of R70. -/
def Part.rosterCounts (p : Part) : List Operand :=
  let having (q : Member → Bool) : Operand := num (p.inUse.filter fun mx => q mx.2).length
  [num p.inUse.length, having Member.isAvailable, having fun x => x.availability == .offDuty,
   having fun x => x.availability == .withheld, having fun x => x.engaged.isSome]

def queryMemberOrder (l : Line) (declared : Nat) (ops : List Operand) (p : Part) : Verdict :=
  checked (anyLine l) 1 declared <|
    match optIndex ops 0 128 1 with
    | none => badOperand
    | some none => .taken p p.rosterCounts
    | some (some m) => if (p.member? m).isNone then refuse .notFound else .taken p (p.memberResults m)

/-! ## EDIT-MEMBER (R63 to R65) -/

structure MemberEdit where
  member   : MemberId
  delete   : Bool
  callSign : Option Text
  address  : Option Address
  quals    : Option Qualifications
  groups   : Option GroupSet
deriving DecidableEq, Repr

def memberEdit (ops : List Operand) : Option MemberEdit :=
  match needIndex ops 0 128 1, optFlag ops 1, optText ops 2, optWithin ops 3 1 2097151, optSet ops 4, optSet ops 5 with
  | some m, some del, some sign, some address, some quals, some groups =>
    let del := del.getD false
    if del && (sign.isSome || address.isSome || quals.isSome || groups.isSome) then none
    else if 8 ≤ (quals.getD 0#16).toNat then none
    else some { member := m, delete := del, callSign := sign.map (cleanCut 8),
                address := address.map (BitVec.ofNat 21), quals := quals.map Qualifications.ofSet, groups := groups }
  | _, _, _, _, _, _ => none

/-- The address stands in another in-use member's record or in a group record (R63). -/
def Part.addressTaken (p : Part) (m : MemberId) (a : Address) : Bool :=
  p.inUse.any (fun mx => mx.1 != m && mx.2.address == a) || p.roster.groups.cells.any fun g => g.address == a

/-- A member record created (R64). -/
def MemberEdit.create (e : MemberEdit) (a : Address) : Member where
  callSign := e.callSign.getD []
  address := a
  quals := e.quals.getD { oic := false, drv := false, ba := false }
  groups := e.groups.getD 0#16
  availability := .available
  engaged := none

/-- Each given field replaces the field held (R64). -/
def MemberEdit.change (e : MemberEdit) (x : Member) : Member :=
  { x with callSign := e.callSign.getD x.callSign, address := e.address.getD x.address,
           quals := e.quals.getD x.quals, groups := e.groups.getD x.groups }

/-- A change of an in-use member; when the qualifications change and the member is engaged, the engaged callout is
reassessed (R65). -/
def Part.changeMember (e : MemberEdit) (x : Member) (p : Part) : Part :=
  let p := p.setMember e.member (some (e.change x))
  if (e.change x).quals = x.quals then p
  else match x.engaged.bind p.findCallout with
    | some i => p.reassess i
    | none => p

def editMemberOrder (l : Line) (declared : Nat) (ops : List Operand) (p : Part) : Verdict :=
  checked (consoleOnly l) 6 declared <|
    match memberEdit ops with
    | none => badOperand
    | some e =>
      match p.member? e.member with
      | none =>
        match e.address with
        | none => refuse .notFound
        | some a =>
          if p.addressTaken e.member a then refuse .duplicate
          else
            let p := (p.setMember e.member (some (e.create a))).finish
            .taken p (p.memberResults e.member)
      | some x =>
        if e.delete then
          if x.engaged.isSome || 0 < p.recordsOf e.member then refuse .wrongState
          else .taken (p.setMember e.member none) [num (e.member.val + 1)]
        else if (e.address.map (p.addressTaken e.member)).getD false then refuse .duplicate
        else
          let p := (p.changeMember e x).finish
          .taken p (p.memberResults e.member)

/-! ## EDIT-GROUP (R67) -/

/-- The five results of R67. -/
def Part.groupResults (g : GroupId) (p : Part) : List Operand :=
  let x := p.roster.groups.get g
  [num g.val, num x.address.toNat, flag x.enabled, num (p.groupMembers g).length,
   num ((p.groupMembers g).filter fun mx => mx.2.isAvailable).length]

/-- The group is among the primary groups of a non-FREE callout. -/
def Part.groupInCall (p : Part) (g : GroupId) : Bool :=
  p.live.any fun ic => ic.2.primary.getLsbD g.val

/-- The address stands in an in-use member's record or in another group's. -/
def Part.groupAddressTaken (p : Part) (g : GroupId) (a : Address) : Bool :=
  p.inUse.any (fun mx => mx.2.address == a)
    || (ascending 16).any fun k => k != g && (p.roster.groups.get k).address == a

def editGroupOrder (l : Line) (declared : Nat) (ops : List Operand) (p : Part) : Verdict :=
  checked (consoleOnly l) 3 declared <|
    match needIndex ops 0 16 0, optWithin ops 1 0 2097151, optFlag ops 2 with
    | some g, some address, some enabled =>
      let x := p.roster.groups.get g
      let address := address.map (BitVec.ofNat 21)
      let y : Group := { address := address.getD x.address, enabled := enabled.getD x.enabled }
      if address = none ∧ enabled = none then .taken p (p.groupResults g)
      else if y.enabled = true ∧ y.address = 0#21 then badOperand
      else if y.address ≠ x.address ∧ p.groupInCall g = true then refuse .wrongState
      else if address ≠ none ∧ y.address ≠ 0#21 ∧ p.groupAddressTaken g y.address = true then refuse .duplicate
      else
        let p := p.onRoster fun r => { r with groups := r.groups.set g y }
        .taken p (p.groupResults g)
    | _, _, _ => badOperand

/-! ## The meanings -/

/-- SET-AVAILABILITY, order code 16. -/
def execSetAvailability (l : Line) (ops : List Operand) (s : State) : Host.Outcome State Fault Refusal :=
  s.taking (Part.orderEvent l 16#8 ops (setAvailabilityOrder l ops.length ops))

/-- QUERY-MEMBER, order code 11. -/
def execQueryMember (l : Line) (ops : List Operand) (s : State) : Host.Outcome State Fault Refusal :=
  s.taking (Part.orderEvent l 11#8 ops (queryMemberOrder l ops.length ops))

/-- EDIT-MEMBER, order code 21. -/
def execEditMember (l : Line) (ops : List Operand) (s : State) : Host.Outcome State Fault Refusal :=
  s.taking (Part.orderEvent l 21#8 ops (editMemberOrder l ops.length ops))

/-- EDIT-GROUP, order code 22. -/
def execEditGroup (l : Line) (ops : List Operand) (s : State) : Host.Outcome State Fault Refusal :=
  s.taking (Part.orderEvent l 22#8 ops (editGroupOrder l ops.length ops))

end Sys2Proof.Machine
end

