-- ==== Sys2Proof/Machine/PlanOrders.lean ====
section
/-!
DEFINITION. The plan resolver's orders (chapter 2): EDIT-CLASS, EDIT-ZONE, the six parts of EDIT-PLAN and
EDIT-APPLIANCE.
-/

namespace Sys2Proof.Machine

open Sys2Proof

/-- A plan number as a result, 0 for none. -/
def planResult (n : Option PlanId) : Operand :=
  num ((n.map fun n => n.val + 1).getD 0)

/-! ## EDIT-CLASS (R37) -/

/-- The entry a form and a value spell; the outer `none` is BAD_OPERAND, the inner one a read. -/
def classEdit (form value : Option Int) : Option (Option ClassEntry) :=
  match form with
  | none => if value.isNone then some none else none
  | some f =>
    if f = 0 then (if value.isNone then some (some .unused) else none)
    else if f = 1 then (value.bind (numbered 48 1)).map fun n => some (.direct n)
    else if f = 2 then (value.bind (numbered 8 1)).map fun m => some (.byZone m)
    else none

def classResults (k : ClassId) (e : ClassEntry) : List Operand :=
  match e with
  | .unused => [num k.val, num 0, .absent]
  | .direct n => [num k.val, num 1, num (n.val + 1)]
  | .byZone m => [num k.val, num 2, num (m.val + 1)]

def Part.setClass (k : ClassId) (e : ClassEntry) (p : Part) : Part :=
  p.onResolver fun r => { r with classes := r.classes.set k e }

def editClassOrder (l : Line) (declared : Nat) (ops : List Operand) (p : Part) : Verdict :=
  checked (consoleOnly l) 3 declared <|
    match needIndex ops 0 64 0, optNumber ops 1, optNumber ops 2 with
    | some k, some form, some value =>
      match classEdit form value with
      | none => badOperand
      | some none => .taken p (classResults k (p.resolver.classes.get k))
      | some (some e) => .taken (p.setClass k e) (classResults k e)
    | _, _, _ => badOperand

/-! ## EDIT-ZONE (R38) -/

/-- The zone entry addressed, or the map's default when the zone is absent. -/
def ZoneMap.addressed (m : ZoneMap) : Option ZoneId → Option PlanId
  | some z => m.zones.get z
  | none => m.default

def ZoneMap.effectiveAt (m : ZoneMap) : Option ZoneId → Option PlanId
  | some z => m.effective z
  | none => m.default

def ZoneMap.setAt (m : ZoneMap) (z : Option ZoneId) (n : Option PlanId) : ZoneMap :=
  match z with
  | some z => { m with zones := m.zones.set z n }
  | none => { m with default := n }

def zoneResults (k : MapId) (z : Option ZoneId) (m : ZoneMap) : List Operand :=
  [num (k.val + 1), optNum (z.map Fin.val), planResult (m.addressed z), planResult (m.effectiveAt z)]

def editZoneOrder (l : Line) (declared : Nat) (ops : List Operand) (p : Part) : Verdict :=
  checked (consoleOnly l) 3 declared <|
    match needIndex ops 0 8 1, optIndex ops 1 32 0, optWithin ops 2 0 48 with
    | some k, some z, some plan =>
      let m := p.resolver.maps.get k
      match plan with
      | none => .taken p (zoneResults k z m)
      | some n =>
        let m := m.setAt z (numbered 48 1 n)
        .taken (p.onResolver fun r => { r with maps := r.maps.set k m }) (zoneResults k z m)
    | _, _, _ => badOperand

/-! ## EDIT-PLAN (R39 to R42) -/

def entryResults (e : PlanEntry) : List Operand :=
  [.text (e.main.letter :: (e.alternate.map Appliance.letter).toList), num e.need.oic, num e.need.drv, num e.need.ba,
   num e.need.gen]

/-- The results of every taken part (R39). -/
def planResults (n : PlanId) : Option Plan → List Operand
  | none => [num (n.val + 1), num 0]
  | some pl =>
    [num (n.val + 1), num 1, num pl.entries.length, num pl.window, num pl.turnout, num pl.sirenPolicy.code,
     num (pl.sirenPattern.val + 1), .text pl.template, .set pl.primary, .set pl.secondary]
      ++ pl.entries.flatMap entryResults

def Part.plan? (n : PlanId) (p : Part) : Option Plan :=
  p.resolver.plans.get n

def Part.setPlan (n : PlanId) (x : Option Plan) (p : Part) : Part :=
  p.onResolver fun r => { r with plans := r.plans.set n x }

/-- A part taken: the plan's record after it, and its results. -/
def Part.planTaken (n : PlanId) (x : Option Plan) (p : Part) : Verdict :=
  .taken (p.setPlan n x) (planResults n x)

/-- The DELETE part (R42): no further operands. -/
def planDelete (n : PlanId) (ops : List Operand) (p : Part) : Verdict :=
  if 0 < ops.length then badOperand
  else match p.plan? n with
    | none => refuse .notFound
    | some _ => p.planTaken n none

/-- The SETTINGS part (R41): response window, turnout limit, siren policy, siren pattern, template text. -/
def planSettings (n : PlanId) (ops : List Operand) (p : Part) : Verdict :=
  if 5 < ops.length then badOperand
  else match optWithin ops 0 60 900, optWithin ops 1 1 30, optWithin ops 2 0 2, optIndex ops 3 4 1, optText ops 4 with
    | some window, some turnout, some policy, some pattern, some text =>
      match p.plan? n with
      | none => refuse .notFound
      | some pl => p.planTaken n (some
          { pl with window := window.getD pl.window, turnout := turnout.getD pl.turnout,
                    sirenPolicy := (policy.map SirenPolicy.ofCode).getD pl.sirenPolicy,
                    sirenPattern := pattern.getD pl.sirenPattern,
                    template := (text.map (cleanCut 24)).getD pl.template })
    | _, _, _, _, _ => badOperand

/-- The GROUPS part (R41): primary groups, secondary groups. -/
def planGroups (n : PlanId) (ops : List Operand) (p : Part) : Verdict :=
  if 2 < ops.length then badOperand
  else match optSet ops 0, optSet ops 1 with
    | some primary, some secondary =>
      match p.plan? n with
      | none => refuse .notFound
      | some pl => p.planTaken n (some
          { pl with primary := primary.getD pl.primary, secondary := secondary.getD pl.secondary })
    | _, _ => badOperand

/-- A plan that becomes DEFINED with its first entry (section 2.2, R40). -/
def Plan.define (e : PlanEntry) : Plan where
  entries := [e]
  primary := 0#16
  secondary := 0#16
  window := 300
  turnout := 10
  sirenPolicy := .none
  sirenPattern := 0
  template := []

/-- The plan with the given entry at a place (from 0): replaced there, or appended one past the last. -/
def Plan.putEntry (k : Nat) (e : PlanEntry) (pl : Plan) : Plan :=
  { pl with entries := pl.entries.take k ++ e :: pl.entries.drop (k + 1) }

/-- The main is the main of another entry of the plan, other than the one at place `k` (R40). -/
def mainElsewhere (k : Nat) (ap : Appliance) (es : List PlanEntry) : Bool :=
  (es.take k ++ es.drop (k + 1)).any fun e => e.main == ap

/-- The requirement sum is within the seats of the main, and of the alternate when one is named (R40). -/
def Part.seatsSuffice (p : Part) (e : PlanEntry) : Bool :=
  e.need.sum ≤ (p.appliance e.main).seats
    && ((e.alternate.map fun x => decide (e.need.sum ≤ (p.appliance x).seats)).getD true)

/-- The ENTRY part (R40): entry index, appliance letters, OIC, DRV, BA and GEN counts. -/
def planEntry (n : PlanId) (ops : List Operand) (p : Part) : Verdict :=
  let es := ((p.plan? n).map Plan.entries).getD []
  if 6 < ops.length then badOperand
  else match needWithin ops 0 1 (min 3 (es.length + 1)), needLetters ops 1, needWithin ops 2 0 1, needWithin ops 3 0 1,
      needWithin ops 4 0 4, needWithin ops 5 0 4 with
    | some k, some (main, alternate), some oic, some drv, some ba, some gen =>
      let e : PlanEntry := { main := main, alternate := alternate, need := { oic := oic, drv := drv, ba := ba, gen := gen } }
      if e.need.sum = 0 ∨ p.seatsSuffice e = false ∨ mainElsewhere (k - 1) main es = true then badOperand
      else match p.plan? n with
        | none => p.planTaken n (some (.define e))
        | some pl => p.planTaken n (some (pl.putEntry (k - 1) e))
    | _, _, _, _, _, _ => badOperand

/-- The REMOVE-ENTRY part (R42): entry index. -/
def planRemoveEntry (n : PlanId) (ops : List Operand) (p : Part) : Verdict :=
  if 1 < ops.length then badOperand
  else match needWithin ops 0 1 3 with
    | none => badOperand
    | some k =>
      match p.plan? n with
      | none => refuse .notFound
      | some pl =>
        if pl.entries.length < k then badOperand
        else if pl.entries.length = 1 then refuse .wrongState
        else p.planTaken n (some { pl with entries := pl.entries.eraseIdx (k - 1) })

/-- The REPORT part (R39): no further operands. -/
def planReport (n : PlanId) (ops : List Operand) (p : Part) : Verdict :=
  if 0 < ops.length then badOperand else .taken p (planResults n (p.plan? n))

/-- EDIT-PLAN with its plan operand and one part (R39). The count covers the plan, the part code and the part's
operands. -/
def editPlanPart (l : Line) (declared : Nat) (plan : Operand) (body : PlanId → Part → Verdict) (p : Part) : Verdict :=
  checked (consoleOnly l) 8 declared <|
    match needIndex [plan] 0 48 1 with
    | none => badOperand
    | some n => body n p

/-- EDIT-PLAN, order code 24, by its part code (R39). -/
def editPlanOrder (l : Line) (declared : Nat) (ops : List Operand) (p : Part) : Verdict :=
  let rest := ops.drop 2
  editPlanPart l declared (operandAt ops 0) (fun n p =>
    match needWithin ops 1 0 5 with
    | some 0 => planDelete n rest p
    | some 1 => planSettings n rest p
    | some 2 => planGroups n rest p
    | some 3 => planEntry n rest p
    | some 4 => planRemoveEntry n rest p
    | some 5 => planReport n rest p
    | _ => badOperand) p

/-! ## EDIT-APPLIANCE (R43) -/

/-- Some entry of a DEFINED plan that names the appliance needs more than these seats. -/
def Part.planNeedsMore (p : Part) (ap : Appliance) (seats : Nat) : Bool :=
  p.resolver.plans.cells.any fun x => match x with
    | none => false
    | some pl => pl.entries.any fun e => (e.main == ap || e.alternate == some ap) && seats < e.need.sum

def Part.applianceResults (ap : Appliance) (p : Part) : List Operand :=
  let x := p.appliance ap
  [.text [ap.letter], num x.seats, flag x.inService, num (x.committed.getD 0#8).toNat]

def editApplianceOrder (l : Line) (declared : Nat) (ops : List Operand) (p : Part) : Verdict :=
  checked (consoleOnly l) 3 declared <|
    match needLetter ops 0, optWithin ops 1 2 6, optFlag ops 2 with
    | some ap, some seats, some inService =>
      let x := p.appliance ap
      if (seats.map (p.planNeedsMore ap)).getD false then badOperand
      else if x.committed.isSome && (seats.isSome || inService.isSome) then refuse .wrongState
      else
        let y : ApplianceRecord := { x with seats := seats.getD x.seats, inService := inService.getD x.inService }
        let p := p.onResolver fun r => { r with appliances := r.appliances.set ap.index y }
        .taken p (p.applianceResults ap)
    | _, _, _ => badOperand

/-! ## The meanings -/

/-- EDIT-PLAN, order code 24, as a command of one part: the exchange's operands are the plan, the part code and the
part's operands. -/
def planEvent (l : Line) (part : Nat) (plan : Operand) (ops : List Operand)
    (body : PlanId → List Operand → Part → Verdict) : Part → Part :=
  Part.orderEvent l 24#8 (plan :: num part :: ops) (editPlanPart l (ops.length + 2) plan fun n => body n ops)

/-- EDIT-PLAN, part 0. -/
def execEditPlanDelete (l : Line) (plan : Operand) (ops : List Operand) (s : State) :
    Host.Outcome State Fault Refusal :=
  s.taking (planEvent l 0 plan ops planDelete)

/-- EDIT-PLAN, part 1. -/
def execEditPlanSettings (l : Line) (plan : Operand) (ops : List Operand) (s : State) :
    Host.Outcome State Fault Refusal :=
  s.taking (planEvent l 1 plan ops planSettings)

/-- EDIT-PLAN, part 2. -/
def execEditPlanGroups (l : Line) (plan : Operand) (ops : List Operand) (s : State) :
    Host.Outcome State Fault Refusal :=
  s.taking (planEvent l 2 plan ops planGroups)

/-- EDIT-PLAN, part 3. -/
def execEditPlanEntry (l : Line) (plan : Operand) (ops : List Operand) (s : State) :
    Host.Outcome State Fault Refusal :=
  s.taking (planEvent l 3 plan ops planEntry)

/-- EDIT-PLAN, part 4. -/
def execEditPlanRemoveEntry (l : Line) (plan : Operand) (ops : List Operand) (s : State) :
    Host.Outcome State Fault Refusal :=
  s.taking (planEvent l 4 plan ops planRemoveEntry)

/-- EDIT-PLAN, part 5. -/
def execEditPlanReport (l : Line) (plan : Operand) (ops : List Operand) (s : State) :
    Host.Outcome State Fault Refusal :=
  s.taking (planEvent l 5 plan ops planReport)

/-- EDIT-CLASS, order code 25. -/
def execEditClass (l : Line) (ops : List Operand) (s : State) : Host.Outcome State Fault Refusal :=
  s.taking (Part.orderEvent l 25#8 ops (editClassOrder l ops.length ops))

/-- EDIT-ZONE, order code 26. -/
def execEditZone (l : Line) (ops : List Operand) (s : State) : Host.Outcome State Fault Refusal :=
  s.taking (Part.orderEvent l 26#8 ops (editZoneOrder l ops.length ops))

/-- EDIT-APPLIANCE, order code 23. -/
def execEditAppliance (l : Line) (ops : List Operand) (s : State) : Host.Outcome State Fault Refusal :=
  s.taking (Part.orderEvent l 23#8 ops (editApplianceOrder l ops.length ops))

end Sys2Proof.Machine
end

