-- ==== Sys2Proof/Machine/CrewQuery.lean ====
section
/-!
DEFINITION. QUERY-CREW (R110 to R112).
-/

namespace Sys2Proof.Machine

open Sys2Proof

/-- An entry's eleven results (R111). -/
def entrySummary (e : ApplianceEntry) (x : AppliancePart) : List Operand :=
  [.text [x.letter.letter], flag e.departed, num x.seats, flag x.filled, optNum x.crewedAt, flag x.inTime,
   num x.shortfall.oic, num x.shortfall.drv, num x.shortfall.ba, num x.shortfall.gen,
   .text (spaced (x.assigned.map fun y => decimal (y.member.val + 1)))]

/-- The crew summary (R111). -/
def Callout.crewSummary (c : Callout) : List Operand :=
  [num c.number.toNat, num c.state.code, num c.assessment.outcome.code, num c.turnout, num c.responses.length,
   num c.assessment.candidates.length, num c.assessment.surplus.length]
    ++ (c.appliances.zip c.assessment.entries).flatMap fun ex => entrySummary ex.1 ex.2

/-- The place of a member in the response list, the oldest as 1. -/
def placeOf (m : MemberId) : Nat → List Response → Option Nat
  | _, [] => none
  | k, r :: rest => if r.member = m then some k else placeOf m (k + 1) rest

/-- A member's frozen place: the departed appliance and the crew list entry. -/
def Callout.frozenPlace (m : MemberId) (c : Callout) : Option (Appliance × CrewMember) :=
  c.appliances.findSome? fun e =>
    if e.departed then (e.crew.find? fun x => x.member == m).map fun x => (e.letter, x) else none

def Assignment.letter? : Assignment → Option Appliance
  | .seated l _ => some l
  | .surplus => none

/-- The assignment codes: OIC 0, DRV 1, BA 2, GEN 3, SPARE 4, SURPLUS 5 (R112). -/
def Assignment.code : Assignment → Nat
  | .seated _ st => st.code
  | .surplus => 5

def letterResult : Option Appliance → Operand
  | some ap => .text [ap.letter]
  | none => .absent

/-- The member detail (R112). -/
def Callout.memberDetail (m : MemberId) (c : Callout) : List Operand :=
  let r := c.record? m
  let x := c.assessment.candidates.find? fun x => x.member == m
  let f := c.frozenPlace m
  [num (m.val + 1), optNum (placeOf m 1 c.responses), optNum (r.map fun r => r.kind.code),
   optNum (r.bind Response.eta), optNum (r.map Response.minute), optNum (r.bind Response.estimate),
   optNum (r.bind Response.sequence), optNum (r.map fun r => r.source.code), optNum (r.map Response.lastChange),
   optNum (x.map CandidatePart.rank), letterResult (x.bind fun x => x.assignment.letter?),
   optNum (x.map fun x => x.assignment.code), letterResult (f.map Prod.fst), optNum (f.map fun f => f.2.seat.code),
   optNum (f.map fun f => f.2.estimate)]

/-- QUERY-CREW (R110). -/
def queryCrewOrder (l : Line) (declared : Nat) (ops : List Operand) (p : Part) : Verdict :=
  checked (anyLine l) 3 declared <|
    match needWithin ops 0 1 255, optIndex ops 1 128 1, optWithin ops 2 1 32 with
    | some n, some m, some place =>
      if m.isSome && place.isSome then badOperand
      else match p.lookup n with
        | none => refuse .notFound
        | some (_, c) =>
          match m, place with
          | none, none => .taken p c.crewSummary
          | some m, _ =>
            if (c.record? m).isNone && (c.frozenPlace m).isNone then refuse .notFound
            else .taken p (c.memberDetail m)
          | none, some k =>
            match c.responses[k - 1]? with
            | none => refuse .notFound
            | some r => .taken p (c.memberDetail r.member)
    | _, _, _ => badOperand

/-- QUERY-CREW, order code 10. -/
def execQueryCrew (l : Line) (ops : List Operand) (s : State) : Host.Outcome State Fault Refusal :=
  s.taking (Part.orderEvent l 10#8 ops (queryCrewOrder l ops.length ops))

end Sys2Proof.Machine
end

