-- ==== Sys2Proof/Machine/SiteOrders.lean ====
section
/-!
DEFINITION. EDIT-SITE and the events of the site sequencer (chapter 8): channel clear, clear-wait expiry, lead-in end,
burst end and credit accrual.
-/

namespace Sys2Proof.Machine

open Sys2Proof

/-! ## EDIT-SITE (R158, R159) -/

structure SiteEdit where
  enabled        : Option Bool
  stationPowered : Option Bool
  leadIn         : Option Nat
  clearWait      : Option Nat
  ceiling        : Option Nat
  divisor        : Option Nat
deriving DecidableEq, Repr

def siteEdit (ops : List Operand) : Option SiteEdit :=
  match optFlag ops 1, optFlag ops 2, optWithin ops 3 50 500, optWithin ops 4 5 100, optWithin ops 5 1000 60000,
      optWithin ops 6 2 100 with
  | some enabled, some powered, some leadIn, some wait, some ceiling, some divisor =>
    some { enabled := enabled, stationPowered := powered, leadIn := leadIn, clearWait := wait, ceiling := ceiling,
           divisor := divisor }
  | _, _, _, _, _, _ => none

/-- The order is a read. -/
def SiteEdit.isRead (e : SiteEdit) : Bool :=
  e == { enabled := none, stationPowered := none, leadIn := none, clearWait := none, ceiling := none, divisor := none }

/-- Credit and accrual count under a new ceiling: lowered to or below the credit, or raised from the credit (R159). -/
def SiteRecord.setCeiling (c : Nat) (r : SiteRecord) : SiteRecord :=
  if c ≤ r.credit then { r with ceiling := c, credit := c, accrual := 0 }
  else if r.credit = r.ceiling then { r with ceiling := c, accrual := 0 }
  else { r with ceiling := c }

/-- A changed divisor sets the accrual count to 0 (R159). -/
def SiteRecord.setDivisor (d : Nat) (r : SiteRecord) : SiteRecord :=
  if d = r.divisor then r else { r with divisor := d, accrual := 0 }

/-- Every given field is set together (R159). -/
def SiteEdit.apply (e : SiteEdit) (r : SiteRecord) : SiteRecord :=
  let r := { r with enabled := e.enabled.getD r.enabled, stationPowered := e.stationPowered.getD r.stationPowered,
                    leadIn := e.leadIn.getD r.leadIn, clearWait := e.clearWait.getD r.clearWait }
  let r := match e.ceiling with
    | some c => r.setCeiling c
    | none => r
  match e.divisor with
  | some d => r.setDivisor d
  | none => r

/-- Site state: idle 0, in CLEAR_WAIT 1, keyed 2 (R159). -/
def Sequencer.siteCode (x : Sequencer) (k : SiteId) : Nat :=
  if x.site? = some k then (if x.keyed? = some k then 2 else 1) else 0

/-- The eleven results of R159. -/
def Part.siteResults (k : SiteId) (p : Part) : List Operand :=
  let r := p.sites.records.get k
  [num k.val, flag r.enabled, flag r.stationPowered, num r.leadIn, num r.clearWait, num r.ceiling, num r.divisor,
   num r.credit, num r.accrual, num (p.sites.sequencer.siteCode k), num p.sites.direction.code]

def editSiteOrder (l : Line) (declared : Nat) (ops : List Operand) (p : Part) : Verdict :=
  checked (consoleOnly l) 7 declared <|
    match needIndex ops 0 6 0, siteEdit ops with
    | some k, some e =>
      if e.isRead then .taken p (p.siteResults k)
      else if p.sites.sequencer.site? = some k then refuse .wrongState
      else
        let p := p.updateSite k e.apply
        .taken p (p.siteResults k)
    | _, _ => badOperand

/-! ## The sequencer's events -/

/-- The channel-clear input is asserted; in that site's CLEAR_WAIT the site is keyed with the clear mark clear (R150). -/
def Part.channelClear (k : SiteId) (p : Part) : Part :=
  let p := { p with pins := { p.pins with channelClear := p.pins.channelClear.set k true } }
  match p.sites.sequencer with
  | .clearWait j _ => if p.condition = .running ∧ j = k then p.keySite k false else p
  | .idle | .leadIn _ _ _ | .burst _ _ _ => p

/-- The clear-wait limit passes: the site is keyed all the same and the pass is marked FORCED (R150). -/
def Part.clearWaitExpires (k : SiteId) (p : Part) : Part :=
  match p.sites.sequencer with
  | .clearWait j _ => if j = k then p.keySite k true else p
  | .idle | .leadIn _ _ _ | .burst _ _ _ => p

/-- The lead-in ends and the burst begins (R151). -/
def Part.leadInEnds (k : SiteId) (p : Part) : Part :=
  match p.sites.sequencer with
  | .leadIn j forced _ =>
    if j = k then p.setSequencer (.burst k forced (burstTime ((p.current?.map Batch.pages).getD []))) else p
  | .idle | .clearWait _ _ | .burst _ _ _ => p

/-- The last bit of a burst has been sent: the site is settled and reported. After the last site of the batch its
reports are taken, the batch leaves, and a join is decided; otherwise the site is unkeyed (R151, R152, log entry 9). -/
def Part.passEnds (k : SiteId) (forced : Bool) (p : Part) : Part :=
  let p := p.endPass k forced
  if (p.current?.map Batch.over).getD false then
    ((p.work.leaveQueue).joinOrUnkey k).finish
  else (p.setSequencer .idle).finish

def Part.burstEnds (k : SiteId) (p : Part) : Part :=
  match p.sites.sequencer with
  | .burst j forced _ => if j = k then p.passEnds k forced else p
  | .idle | .clearWait _ _ | .leadIn _ _ _ => p

/-- The accrual count returns to 0 and the credit rises by 1 ms, up to the ceiling (R146). -/
def SiteRecord.accrue (r : SiteRecord) : SiteRecord :=
  { r with accrual := 0, credit := if r.credit < r.ceiling then r.credit + 1 else r.credit }

/-- A station-powered site's clear wait ends when RESERVE begins, and the site is settled SKIPPED_RESERVE (R155). -/
def Part.endInhibitedWait (p : Part) : Part :=
  match p.sites.sequencer with
  | .clearWait k _ => if p.inhibited k then (p.setSequencer .idle).settle k .skippedReserve else p
  | .idle | .leadIn _ _ _ | .burst _ _ _ => p

/-! ## The meanings -/

/-- EDIT-SITE, order code 27. -/
def execEditSite (l : Line) (ops : List Operand) (s : State) : Host.Outcome State Fault Refusal :=
  s.taking (Part.orderEvent l 27#8 ops (editSiteOrder l ops.length ops))

/-- CHANNEL_CLEAR_ASSERTED (R150). The pin moves whether the part runs or not. -/
def execChannelClearAsserted (k : SiteId) (s : State) : Host.Outcome State Fault Refusal :=
  s.taking (Part.channelClear k)

/-- CLEAR_WAIT_EXPIRY (R150). -/
def execClearWaitExpiry (k : SiteId) (s : State) : Host.Outcome State Fault Refusal :=
  s.taking (Part.whenRunning (Part.clearWaitExpires k))

/-- LEAD_IN_END (R151). -/
def execLeadInEnd (k : SiteId) (s : State) : Host.Outcome State Fault Refusal :=
  s.taking (Part.whenRunning (Part.leadInEnds k))

/-- BURST_END (R151, R152). -/
def execBurstEnd (k : SiteId) (s : State) : Host.Outcome State Fault Refusal :=
  s.taking (Part.whenRunning (Part.burstEnds k))

/-- CREDIT_ACCRUAL (R146). -/
def execCreditAccrual (k : SiteId) (s : State) : Host.Outcome State Fault Refusal :=
  s.taking (Part.whenRunning (Part.updateSite k SiteRecord.accrue))

end Sys2Proof.Machine
end

