-- ==== Sys2Proof/Machine/StationOrders.lean ====
section
/-!
DEFINITION. The siren's orders and events (chapter 9): SIREN, SIREN-STOP, the on-time's end and the period boundary.
-/

namespace Sys2Proof.Machine

open Sys2Proof

/-- The four results of SIREN (R166). -/
def Part.sirenResults (o : SirenOutcome) (p : Part) : List Operand :=
  match p.station.run with
  | none => [num o.code, .absent, .absent, num 0]
  | some r => [num o.code, num (r.pattern.val + 1), optNum (r.pending.map fun n => n.val + 1), num r.cycles]

/-- SIREN (R166): cycles above 15 are clamped, and absent cycles take the pattern's own. -/
def sirenOrder (l : Line) (declared : Nat) (ops : List Operand) (p : Part) : Verdict :=
  checked (anyLine l) 2 declared <|
    match needIndex ops 0 4 1, optNumber ops 1 with
    | some pat, some cycles =>
      match cycles with
      | none =>
        let p' := p.sirenOwnCycles pat
        .taken p' (p'.sirenResults p.sirenOutcome)
      | some x =>
        if x < 1 then badOperand
        else
          let p' := p.sirenRequest pat (min x.toNat Config.sirenCycles)
          .taken p' (p'.sirenResults p.sirenOutcome)
    | _, _ => badOperand

/-- SIREN-STOP (R167). -/
def sirenStopOrder (l : Line) (declared : Nat) (_ops : List Operand) (p : Part) : Verdict :=
  checked (anyLine l) 0 declared <| .taken (p.setRun none) [flag p.station.run.isSome]

/-- The on-time passes and the phase becomes OFF (R164). -/
def Part.onTimeEnds (p : Part) : Part :=
  match p.station.run with
  | none => p
  | some r => if r.phase = .on then p.setRun (some { r with phase := .off, time := 0 }) else p

/-- A period boundary: the cycles fall by one; the run ends, or the pending pattern takes effect, and the next period
begins (R164). -/
def Part.periodEnds (p : Part) : Part :=
  match p.station.run with
  | none => p
  | some r =>
    if r.cycles ≤ 1 then p.setRun none
    else p.setRun (some (p.beginPeriod (r.pending.getD r.pattern) none (r.cycles - 1)))

/-! ## The meanings -/

/-- SIREN, order code 7. -/
def execSiren (l : Line) (ops : List Operand) (s : State) : Host.Outcome State Fault Refusal :=
  s.taking (Part.orderEvent l 7#8 ops (sirenOrder l ops.length ops))

/-- SIREN-STOP, order code 8. -/
def execSirenStop (l : Line) (ops : List Operand) (s : State) : Host.Outcome State Fault Refusal :=
  s.taking (Part.orderEvent l 8#8 ops (sirenStopOrder l ops.length ops))

/-- SIREN_ON_TIME_END (R164). -/
def execSirenOnTimeEnd (s : State) : Host.Outcome State Fault Refusal :=
  s.taking (Part.whenRunning Part.onTimeEnds)

/-- SIREN_PERIOD_BOUNDARY (R164). -/
def execSirenPeriodBoundary (s : State) : Host.Outcome State Fault Refusal :=
  s.taking (Part.whenRunning Part.periodEnds)

end Sys2Proof.Machine
end

