-- ==== Sys2Proof/Machine/NoticeOrders.lean ====
section
/-!
DEFINITION. The line controllers' own orders (chapter 10): READ-NOTICES, ACK-NOTICE, SET-MASK and KEEP.
-/

namespace Sys2Proof.Machine

open Sys2Proof

/-- READ-NOTICES (R187). -/
def readNoticesOrder (l : Line) (declared : Nat) (_ops : List Operand) (p : Part) : Verdict :=
  checked (anyLine l) 0 declared <|
    .taken p [.set (p.ctl l).flags, .set (p.ctl l).mask, flag (p.ctl l).attention]

/-- A required SET of flag codes 0 to 9 (R188, R189). -/
def noticeSet (ops : List Operand) : Option Set16 :=
  match needSet ops 0 with
  | some b => if b &&& ~~~allNotices = 0#16 then some b else none
  | none => none

/-- ACK-NOTICE clears the named flags on its own line (R188). -/
def ackNoticeOrder (l : Line) (declared : Nat) (ops : List Operand) (p : Part) : Verdict :=
  checked (anyLine l) 1 declared <|
    match noticeSet ops with
    | none => badOperand
    | some b =>
      .taken (p.onLine l fun c => { c with flags := c.flags &&& ~~~b }) [.set ((p.ctl l).flags &&& ~~~b)]

/-- SET-MASK replaces its own line's mask (R189). -/
def setMaskOrder (l : Line) (declared : Nat) (ops : List Operand) (p : Part) : Verdict :=
  checked (anyLine l) 1 declared <|
    match noticeSet ops with
    | none => badOperand
    | some b => .taken (p.onLine l fun c => { c with mask := b }) [.set b]

/-- KEEP does nothing but reply (R185). -/
def keepOrder (l : Line) (declared : Nat) (_ops : List Operand) (p : Part) : Verdict :=
  checked (controlOnly l) 0 declared <| .taken p []

/-! ## The meanings -/

/-- READ-NOTICES, order code 13. -/
def execReadNotices (l : Line) (ops : List Operand) (s : State) : Host.Outcome State Fault Refusal :=
  s.taking (Part.orderEvent l 13#8 ops (readNoticesOrder l ops.length ops))

/-- ACK-NOTICE, order code 14. -/
def execAckNotice (l : Line) (ops : List Operand) (s : State) : Host.Outcome State Fault Refusal :=
  s.taking (Part.orderEvent l 14#8 ops (ackNoticeOrder l ops.length ops))

/-- SET-MASK, order code 15. -/
def execSetMask (l : Line) (ops : List Operand) (s : State) : Host.Outcome State Fault Refusal :=
  s.taking (Part.orderEvent l 15#8 ops (setMaskOrder l ops.length ops))

/-- KEEP, order code 17. -/
def execKeep (l : Line) (ops : List Operand) (s : State) : Host.Outcome State Fault Refusal :=
  s.taking (Part.orderEvent l 17#8 ops (keepOrder l ops.length ops))

end Sys2Proof.Machine
end

