-- ==== Sys2Proof/Machine/StoreOrders.lean ====
section
/-!
DEFINITION. The unit settings and the configuration store (chapter 11): the two parts of EDIT-UNIT, SAVE and the end of
its write, QUERY-STORE, CLEAR-STORE-ERROR, RESTART and QUERY-UNIT.
-/

namespace Sys2Proof.Machine

open Sys2Proof

/-! ## EDIT-UNIT (R193) -/

/-- A station code when given: a TEXT of four bytes, then cleaned (R193). -/
def optStationCode (ops : List Operand) (k : Nat) : Option (Option Text) :=
  match optText ops k with
  | some (some t) => if t.length = 4 then some (some (clean t)) else none
  | some none => some none
  | none => none

structure GeneralEdit where
  stationCode  : Option Text
  window       : Option Nat
  aidPattern   : Option PatternId
  reserveLevel : Option Nat
  periodP      : Option Nat
  periodS      : Option Nat
deriving DecidableEq, Repr

def generalEdit (ops : List Operand) : Option GeneralEdit :=
  match optStationCode ops 0, optWithin ops 1 2 30, optIndex ops 2 4 1, optWithin ops 3 108 126, optWithin ops 4 5 120,
      optWithin ops 5 5 120 with
  | some code, some window, some aid, some level, some periodP, some periodS =>
    some { stationCode := code, window := window, aidPattern := aid, reserveLevel := level, periodP := periodP,
           periodS := periodS }
  | _, _, _, _, _, _ => none

def GeneralEdit.settings (e : GeneralEdit) (u : UnitSettings) : UnitSettings where
  stationCode := e.stationCode.getD u.stationCode
  window := e.window.getD u.window
  aidPattern := e.aidPattern.getD u.aidPattern
  periodP := e.periodP.getD u.periodP
  periodS := e.periodS.getD u.periodS

/-- Every given field is set together. -/
def Part.editGeneral (e : GeneralEdit) (p : Part) : Part :=
  (p.onSettings e.settings).onSupply fun u => { u with reserveLevel := e.reserveLevel.getD u.reserveLevel }

/-- The six values of the GENERAL part. -/
def Part.generalResults (p : Part) : List Operand :=
  [.text p.settings.stationCode, num p.settings.window, num (p.settings.aidPattern.val + 1), num p.supply.reserveLevel,
   num p.settings.periodP, num p.settings.periodS]

/-- The GENERAL part: station code, accumulation window, aid siren pattern, reserve level, supervision periods. -/
def unitGeneral (ops : List Operand) (p : Part) : Verdict :=
  if 6 < ops.length then badOperand
  else match generalEdit ops with
    | none => badOperand
    | some e => .taken (p.editGeneral e) (p.editGeneral e).generalResults

/-- A pattern with the given fields replaced; the on-time that stands must be at least 1 and below the period that
stands (R163, log entry 25). -/
def Pattern.edited (period onTime cycles : Option Nat) (x : Pattern) : Option Pattern :=
  let y : Pattern := { period := period.getD x.period, onTime := onTime.getD x.onTime, cycles := cycles.getD x.cycles }
  if 1 ≤ y.onTime ∧ y.onTime < y.period then some y else none

/-- The four values of the PATTERN part. -/
def patternResults (k : PatternId) (x : Pattern) : List Operand :=
  [num (k.val + 1), num x.period, num x.onTime, num x.cycles]

def Part.setPattern (k : PatternId) (x : Pattern) (p : Part) : Part :=
  p.onStation fun o => { o with patterns := o.patterns.set k x }

/-- The PATTERN part: pattern number, period, on-time, cycles. An on-time above 59 fits no period. -/
def unitPattern (ops : List Operand) (p : Part) : Verdict :=
  if 4 < ops.length then badOperand
  else match needIndex ops 0 4 1, optWithin ops 1 2 60, optWithin ops 2 1 59, optWithin ops 3 1 15 with
    | some k, some period, some onTime, some cycles =>
      match (p.station.patterns.get k).edited period onTime cycles with
      | none => badOperand
      | some x => .taken (p.setPattern k x) (patternResults k x)
    | _, _, _, _ => badOperand

/-- EDIT-UNIT with one part; the count covers the part code and the part's operands. -/
def editUnitPart (l : Line) (declared : Nat) (body : Part → Verdict) (p : Part) : Verdict :=
  checked (consoleOnly l) 7 declared (body p)

/-- EDIT-UNIT, order code 28, by its part code (R193). -/
def editUnitOrder (l : Line) (declared : Nat) (ops : List Operand) (p : Part) : Verdict :=
  editUnitPart l declared (fun p =>
    match needWithin ops 0 0 1 with
    | some 0 => unitGeneral (ops.drop 1) p
    | some 1 => unitPattern (ops.drop 1) p
    | _ => badOperand) p

/-! ## Snapshots and the stored copies (R192, R194) -/

def Member.toStored (x : Member) : StoredMember where
  callSign := x.callSign
  address := x.address
  quals := x.quals
  groups := x.groups
  withheld := x.availability == .withheld

def SiteRecord.toStored (r : SiteRecord) : StoredSite where
  enabled := r.enabled
  stationPowered := r.stationPowered
  leadIn := r.leadIn
  clearWait := r.clearWait
  ceiling := r.ceiling
  divisor := r.divisor

/-- The snapshot of a section's working copy (R194). -/
def Part.snapshot (p : Part) : Section → Snapshot
  | .unit => .unit { settings := p.settings, reserveLevel := p.supply.reserveLevel }
  | .roster => .roster { members := p.roster.members.map (Option.map Member.toStored), groups := p.roster.groups }
  | .plans => .plans { plans := p.resolver.plans, classes := p.resolver.classes, maps := p.resolver.maps }
  | .station => .station
    { appliances := p.resolver.appliances.map fun a => { seats := a.seats, inService := a.inService }
      sites := p.sites.records.map SiteRecord.toStored
      patterns := p.station.patterns }

def Snapshot.section : Snapshot → Section
  | .unit _ => .unit
  | .roster _ => .roster
  | .plans _ => .plans
  | .station _ => .station

/-- The stored copy of a section fails its check from now on (R192). -/
def StoredCopies.invalidate (c : StoredCopies) : Section → StoredCopies
  | .unit => { c with unit := none }
  | .roster => { c with roster := none }
  | .plans => { c with plans := none }
  | .station => { c with station := none }

/-- A section as it is written: the contents with their length and check, over the bytes they are laid out in (R192). -/
def StoredCopy.write {α : Type} (bytes : List Byte) (x : α) : StoredCopy α where
  contents := x
  length := bytes.length
  check := checkOf (bitsOfBytes bytes)

/-- The stored copy of a section is the snapshot. -/
def StoredCopies.put (c : StoredCopies) (x : Snapshot) : StoredCopies :=
  let bytes := Config.sectionBytes x
  match x with
  | .unit x => { c with unit := some (.write bytes x) }
  | .roster x => { c with roster := some (.write bytes x) }
  | .plans x => { c with plans := some (.write bytes x) }
  | .station x => { c with station := some (.write bytes x) }

def SectionStates.get (s : SectionStates) : Section → SectionState
  | .unit => s.unit
  | .roster => s.roster
  | .plans => s.plans
  | .station => s.station

def SectionStates.set (s : SectionStates) (k : Section) (x : SectionState) : SectionStates :=
  match k with
  | .unit => { s with unit := x }
  | .roster => { s with roster := x }
  | .plans => { s with plans := x }
  | .station => { s with station := x }

def sectionOf : Nat → Section
  | 0 => .unit
  | 1 => .roster
  | 2 => .plans
  | _ => .station

/-! ## SAVE (R194) -/

/-- A SAVE begins: the snapshot is taken and the stored copy invalidated. -/
def Store.beginSave (x : Snapshot) (st : Store) : Store :=
  { st with stored := st.stored.invalidate x.section, states := st.states.set x.section .writing, busy := some x }

def saveOrder (l : Line) (declared : Nat) (ops : List Operand) (p : Part) : Verdict :=
  checked (consoleOnly l) 1 declared <|
    match needWithin ops 0 0 3 with
    | none => badOperand
    | some k =>
      if p.store.error then refuse .wrongState
      else if p.store.busy.isSome then refuse .busy
      else .taken (p.onStore (Store.beginSave (p.snapshot (sectionOf k)))) [num k, num 1]

/-- The write ends without failure. -/
def Store.endSave (x : Snapshot) (st : Store) : Store :=
  { st with stored := st.stored.put x, states := st.states.set x.section .valid, busy := none }

/-- The write ends with a write failure; the stored copy is left invalid. -/
def Store.failSave (x : Snapshot) (st : Store) : Store :=
  { st with states := st.states.set x.section .failed, busy := none, error := true }

/-- The end of a write under way; with no write under way there is nothing to end (R194). -/
def Part.writeEnds (failed : Bool) (p : Part) : Part :=
  match p.store.busy with
  | none => p
  | some x => (p.onStore (if failed then Store.failSave x else Store.endSave x)).raise .store

/-! ## QUERY-STORE and CLEAR-STORE-ERROR (R195) -/

/-- The toggle flips at each QUERY-STORE taken while the store is BUSY. -/
def Store.poll (st : Store) : Store :=
  if st.busy.isSome then { st with toggle := !st.toggle } else st

/-- The eight results of QUERY-STORE. -/
def Store.results (st : Store) : List Operand :=
  [flag st.busy.isSome, optNum (st.busy.map fun x => x.section.code), flag st.toggle, flag st.error,
   num st.states.unit.code, num st.states.roster.code, num st.states.plans.code, num st.states.station.code]

def queryStoreOrder (l : Line) (declared : Nat) (_ops : List Operand) (p : Part) : Verdict :=
  checked (consoleOnly l) 0 declared <| .taken (p.onStore Store.poll) p.store.poll.results

def clearStoreErrorOrder (l : Line) (declared : Nat) (_ops : List Operand) (p : Part) : Verdict :=
  checked (consoleOnly l) 0 declared <| .taken (p.onStore fun st => { st with error := false }) [num 0]

/-! ## RESTART (R196) -/

/-- The phase of a restart once RESTART is taken. A RESTART taken while the broken-off frame of an earlier RESTART's reply is
still being sent, or while that warm restart is due, is absorbed into it: it stays so, and one warm restart follows for both.
The spec does not say whether a second one follows it (R196; DESIGN CHOICE, log entry 21; unsafe). -/
def RestartPhase.order : RestartPhase → RestartPhase
  | .due => .due
  | .ending => .ending
  | .none => .replying
  | .replying => .replying

/-- RESTART answers its cause first; the warm restart falls due when the reply's last frame has been sent. -/
def restartOrder (l : Line) (declared : Nat) (_ops : List Operand) (p : Part) : Verdict :=
  checked (consoleOnly l) 0 declared <|
    .taken { p with restart := p.restart.order } [num StartCause.warm.code]

/-! ## QUERY-UNIT (R197) -/

/-- Results 13 to 16: the siren run. -/
def Part.runResults (p : Part) : List Operand :=
  match p.station.run with
  | none => [num 0, .absent, .absent, num 0]
  | some r => [num 1, num (r.pattern.val + 1), optNum (r.pending.map fun n => n.val + 1), num r.cycles]

/-- Slots 1 to 8 whose live callout has TX_DEGRADED set. -/
def Part.degradedSlots (p : Part) : Set16 :=
  setOf ((p.live.filter fun ic => ic.2.flags.txDegraded).map fun ic => ic.1.val + 1)

/-- The 28 results of QUERY-UNIT. -/
def Part.unitResults (p : Part) : List Operand :=
  [num p.cause.code, num p.supply.state.code, num p.supply.lastSample.val, num p.supply.reserveLevel,
   flag p.lines.superP.up, flag p.lines.superS.up, flag p.localWorking, .text p.settings.stationCode,
   num p.settings.window, num (p.settings.aidPattern.val + 1), num p.settings.periodP, num p.settings.periodS]
    ++ p.runResults ++ applianceIds.map (fun ap => num (p.station.lamps.get ap.index).code)
    ++ [num p.pages.used, num p.pages.queue.length, num p.pages.demands.length,
        optNum (p.current?.map fun b => b.owner.number.toNat), optNum (p.current?.map fun b => b.kind.code),
        .set p.degradedSlots, flag p.store.busy.isSome, flag p.store.error]

def queryUnitOrder (l : Line) (declared : Nat) (_ops : List Operand) (p : Part) : Verdict :=
  checked (anyLine l) 0 declared <| .taken p p.unitResults

/-! ## The meanings -/

/-- QUERY-UNIT, order code 12. -/
def execQueryUnit (l : Line) (ops : List Operand) (s : State) : Host.Outcome State Fault Refusal :=
  s.taking (Part.orderEvent l 12#8 ops (queryUnitOrder l ops.length ops))

/-- EDIT-UNIT, order code 28, part 0. -/
def execEditUnitGeneral (l : Line) (ops : List Operand) (s : State) : Host.Outcome State Fault Refusal :=
  s.taking (Part.orderEvent l 28#8 (num 0 :: ops) (editUnitPart l (ops.length + 1) (unitGeneral ops)))

/-- EDIT-UNIT, order code 28, part 1. -/
def execEditUnitPattern (l : Line) (ops : List Operand) (s : State) : Host.Outcome State Fault Refusal :=
  s.taking (Part.orderEvent l 28#8 (num 1 :: ops) (editUnitPart l (ops.length + 1) (unitPattern ops)))

/-- SAVE, order code 29. -/
def execSave (l : Line) (ops : List Operand) (s : State) : Host.Outcome State Fault Refusal :=
  s.taking (Part.orderEvent l 29#8 ops (saveOrder l ops.length ops))

/-- SAVE_WRITE_END (R194). -/
def execSaveWriteEnd (failed : Bool) (s : State) : Host.Outcome State Fault Refusal :=
  s.taking (Part.whenRunning (Part.writeEnds failed))

/-- QUERY-STORE, order code 30. -/
def execQueryStore (l : Line) (ops : List Operand) (s : State) : Host.Outcome State Fault Refusal :=
  s.taking (Part.orderEvent l 30#8 ops (queryStoreOrder l ops.length ops))

/-- CLEAR-STORE-ERROR, order code 31. -/
def execClearStoreError (l : Line) (ops : List Operand) (s : State) : Host.Outcome State Fault Refusal :=
  s.taking (Part.orderEvent l 31#8 ops (clearStoreErrorOrder l ops.length ops))

/-- RESTART, order code 32. -/
def execRestart (l : Line) (ops : List Operand) (s : State) : Host.Outcome State Fault Refusal :=
  s.taking (Part.orderEvent l 32#8 ops (restartOrder l ops.length ops))

end Sys2Proof.Machine
end

