-- ==== Sys2Proof/Machine/Starts.lean ====
section
/-!
DEFINITION. The supply monitor's events (chapter 9) and the starts (chapter 11): mains changes, battery samples, cutoff,
cold starts, the held reset input, loss of power, and the warm restart.
-/

namespace Sys2Proof.Machine

open Sys2Proof

/-! ## Supply states (R170 to R172) -/

def Part.setSupply (st : SupplyState) (p : Part) : Part :=
  p.onSupply fun u => { u with state := st }

/-- The supply state becomes `st`, and SUPPLY is raised; RESERVE ends a siren run and the clear wait of a
station-powered site (R155, R168, R170, R172). -/
def Part.supplyBecomes (st : SupplyState) (p : Part) : Part :=
  if p.supply.state = st then p
  else
    let p := (p.setSupply st).raise .supply
    if st = .reserve then ((p.setRun none).endInhibitedWait).finish else p

/-- Cutoff: the part stops, and nothing survives but the store (R171). -/
def Part.cutOff (p : Part) : Part :=
  .loaded (.cutoff .cutoff) p.cause p.pins p.lines.breaks p.store.stored

/-- The reserve level in hundredths of a volt. -/
def Supply.reserveAt (u : Supply) : Nat :=
  u.reserveLevel * 10

/-- The state is settled from the last sample when mains-present falls in MAINS (R170). -/
def Part.settleFall (p : Part) : Part :=
  let x := p.supply.lastSample.val
  if x < Config.cutoffLevel then p.cutOff
  else if x < p.supply.reserveAt then p.supplyBecomes .reserve
  else p.supplyBecomes .battery

/-- A sample is judged against the state (R170). -/
def Part.judgeSample (x : Level) (p : Part) : Part :=
  match p.supply.state with
  | .mains => p
  | .battery =>
    if x.val < Config.cutoffLevel then p.cutOff
    else if x.val < p.supply.reserveAt then p.supplyBecomes .reserve
    else p
  | .reserve =>
    if x.val < Config.cutoffLevel then p.cutOff
    else if p.supply.reserveAt + Config.reserveHysteresis ≤ x.val then p.supplyBecomes .battery
    else p

/-! ## Pins -/

def Part.setMains (b : Bool) (p : Part) : Part :=
  { p with pins := { p.pins with mainsPresent := b } }

def Part.setSense (x : Level) (p : Part) : Part :=
  { p with pins := { p.pins with batterySense := x } }

def Part.setSample (x : Level) (p : Part) : Part :=
  p.onSupply fun u => { u with lastSample := x }

/-! ## Cold start (R196) -/

def startCauseOf : ColdCause → StartCause
  | .power => .power
  | .resetInput => .resetInput
  | .cutoff => .cutoff

/-- A cold start: the cause is recorded; with mains absent and the first sample below 10.50 V the part waits cut off;
otherwise the sections are loaded and every block takes its cold-start value (R171, R192, R196). -/
def Part.coldStart (cause : StartCause) (sample : Level) (p : Part) : Part :=
  let pins := { p.pins with batterySense := sample }
  let condition := if !pins.mainsPresent && sample.val < Config.cutoffLevel then .cutoff cause else .running
  .loaded condition cause pins p.lines.breaks p.store.stored

/-- Recovery from a cutoff: mains present, or a sample of 11.00 V or more (R171). -/
def Part.recovers (p : Part) (sample : Level) : Bool :=
  p.pins.mainsPresent || Config.recoveryLevel ≤ sample.val

/-- A cold start for a cause; for CUTOFF while the part is cut off it is made once the supply has recovered, with the
cause the cutoff holds (R171, R174; log entry 27). -/
def Part.coldStartFor (cause : ColdCause) (sample : Level) (p : Part) : Part :=
  match p.condition, cause with
  | .cutoff c, .cutoff =>
    if p.recovers sample then p.coldStart c sample else (p.setSense sample).setSample sample
  | _, _ => p.coldStart (startCauseOf cause) sample

/-! ## Events of the supply -/

/-- Mains-present rises (R170, R171). -/
def Part.mainsRises (p : Part) : Part :=
  let p := p.setMains true
  match p.condition with
  | .running => p.supplyBecomes .mains
  | .cutoff c => p.coldStart c p.pins.batterySense
  | .resetHeld => p
  | .off => p

/-- Mains-present falls (R170). -/
def Part.mainsFalls (p : Part) : Part :=
  let p := p.setMains false
  match p.condition with
  | .running => if p.supply.state = .mains then p.settleFall else p
  | .cutoff _ => p
  | .resetHeld => p
  | .off => p

/-- A battery sample is taken (R170); while cut off, 11.00 V or more brings the cold start (R171). -/
def Part.takeSample (x : Level) (p : Part) : Part :=
  let p := p.setSense x
  match p.condition with
  | .running => (p.setSample x).judgeSample x
  | .cutoff c => if Config.recoveryLevel ≤ x.val then p.coldStart c x else p.setSample x
  | .resetHeld => p
  | .off => p

/-- The reset input is held: no block holds state, and the store's write stops (R194, R196). A part without power stays
without it. -/
def Part.holdReset (p : Part) : Part :=
  match p.condition with
  | .off => p
  | .running | .cutoff _ | .resetHeld => .loaded .resetHeld p.cause p.pins p.lines.breaks p.store.stored

/-- The supply rail goes down: nothing survives but the store (R194, R196). -/
def Part.losePower (p : Part) : Part :=
  .loaded .off p.cause p.pins p.lines.breaks p.store.stored

/-! ## Warm restart (R36, R144, R162, R190, R196) -/

/-- A controller goes to IDLE with its gap timer stopped (R180). -/
def LineController.toIdle (c : LineController) : LineController :=
  { c with state := .idle, operands := [], gap := none, reply := none }

/-- The supervision timer of an UP line is loaded afresh (R190). -/
def Supervision.reload (period : Nat) (u : Supervision) : Supervision :=
  if u.up then { u with timer := some (period * 1000) } else u

/-- Every controller goes to IDLE, its exchange broken off; the timers of UP lines are loaded afresh and RESTART is raised
(R180, R190). -/
def Part.restartLines (p : Part) : Part :=
  ((((p.breakReply .p).breakReply .s).breakReply .console).onLines fun ls =>
    { ls.all LineController.toIdle with
      superP := ls.superP.reload p.settings.periodP, superS := ls.superS.reload p.settings.periodS }).raise .restart

/-- The kinds of the batches and demands a callout owns. -/
def PageQueue.kindsOf (q : PageQueue) (o : Owner) : List BatchKind :=
  ((q.queue.filter fun b => b.owner == o).map Batch.kind) ++ ((q.demands.filter fun d => d.owner == o).map Demand.kind)

/-- The kinds the callout table demands again: ALERT for ALERTING, STAND_DOWN for CLOSING. -/
def CalloutState.redemands : CalloutState → BatchKind → Bool
  | .alerting, k => k == .alert
  | .closing, k => k == .standDown
  | .inOpen, _ | .counting, _ | .crewed, _ | .held, _ | .mobile, _ => false

/-- The ALERT or STAND_DOWN batch demanded again, whole and for all sites. -/
def Part.demandAgain (c : Callout) (p : Part) : Part :=
  match c.state with
  | .alerting => p.demandGroups .alert c.owner c.alertGroups
  | .closing => p.demandGroups .standDown c.owner (c.standDownGroups.getD 0#16)
  | .inOpen | .counting | .crewed | .held | .mobile => p

/-- What a warm restart does for the callout of one slot, which owned batches of these kinds (R36; log entry 16). -/
def Part.restoreSlot (lost : Owner → List BatchKind) (p : Part) (i : SlotId) : Part :=
  match p.callout? i with
  | none => p
  | some c =>
    let kinds := lost c.owner
    let p := if kinds.any fun k => !c.state.redemands k then p.degrade i else p
    let p :=
      if c.state ≠ .alerting ∧ kinds.contains .alert ∧ c.alertStatus = .outstanding then
        p.modify i fun c => { c with alertStatus := .ended }
      else p
    p.demandAgain c

/-- The queue and the demand list are emptied and any pass or wait is abandoned, its debit standing (R144, R162). -/
def Part.emptyPages (p : Part) : Part :=
  (p.onPages fun _ => PageQueue.cold).setSequencer .idle

def Part.warmRestart (p : Part) : Part :=
  let lost := p.pages.kindsOf
  let p := ({ p with cause := .warm, restart := .none }).emptyPages.restartLines
  (slotIds.foldl (Part.restoreSlot lost) p).finish

/-! ## The meanings -/

/-- MAINS_PRESENT_RISES (R170). -/
def execMainsPresentRises (s : State) : Host.Outcome State Fault Refusal :=
  s.taking Part.mainsRises

/-- MAINS_PRESENT_FALLS (R170). -/
def execMainsPresentFalls (s : State) : Host.Outcome State Fault Refusal :=
  s.taking Part.mainsFalls

/-- BATTERY_SAMPLE (R170). -/
def execBatterySample (x : Level) (s : State) : Host.Outcome State Fault Refusal :=
  s.taking (Part.takeSample x)

/-- COLD_START (R196). -/
def execColdStart (cause : ColdCause) (sample : Level) (s : State) : Host.Outcome State Fault Refusal :=
  s.taking (Part.coldStartFor cause sample)

/-- RESET_INPUT_HELD (R196). -/
def execResetInputHeld (s : State) : Host.Outcome State Fault Refusal :=
  s.taking Part.holdReset

/-- POWER_LOSS (R194, R196). -/
def execPowerLoss (s : State) : Host.Outcome State Fault Refusal :=
  s.taking Part.losePower

/-- WARM_RESTART (R196). -/
def execWarmRestart (s : State) : Host.Outcome State Fault Refusal :=
  s.taking (Part.whenRunning Part.warmRestart)

end Sys2Proof.Machine
end

