-- ==== Sys2Proof/Machine/Timers.lean ====
section
/-!
DEFINITION. The callout timers' expiries and the escalation ladder (chapters 1 and 6), and the elapsed time.
-/

namespace Sys2Proof.Machine

open Sys2Proof

/-! ## The targeted re-page (R117, R118) -/

/-- The shortfall roles: those in which an entry that is not departed has a shortfall in the current assessment. -/
def Callout.shortRoles (c : Callout) : List Role :=
  roles.filter fun r => c.appliances.any fun e =>
    !e.departed && c.assessment.entries.any fun x => x.letter == e.letter && 0 < x.shortfall.count r

/-- The re-page roll: the in-use AVAILABLE members of at least one of the groups, ascending (R69). -/
def Part.rollOf (p : Part) (gs : GroupSet) : List (MemberId × Member) :=
  p.inUse.filter fun mx => mx.2.isAvailable && mx.2.groups &&& gs != 0#16

/-- The members to re-page: the first 16 of the roll of the PAGED groups who hold no record and qualify for a shortfall
role (R117). -/
def Part.repageSelection (p : Part) (c : Callout) : List MemberId :=
  (((p.rollOf c.pagedPrimary).filter fun mx =>
    (c.record? mx.1).isNone && c.shortRoles.any mx.2.quals.holds).map Prod.fst).take Config.repageLimit

/-- The work of level 1: the re-page, and the siren request by policy (R117, R118). -/
def Part.levelOne (i : SlotId) (c : Callout) (p : Part) : Part :=
  let chosen := p.repageSelection c
  let p := p.modify i fun c => { c with level := 1, repaged := chosen }
  let p := if chosen = [] then p else p.demandMembers .repage c.owner chosen
  if c.sirenPolicy = .none then p else p.sirenOwnCycles c.sirenPattern

/-! ## The secondary groups (R119) -/

/-- The work of level 2: the secondary groups judged *yes* join the primary groups and are paged. -/
def Part.levelTwo (i : SlotId) (c : Callout) (p : Part) : Part :=
  let asked := c.secondary &&& ~~~c.primary
  let joined := p.judgedYes asked
  let p := p.modify i fun c =>
    { c.addPrimary joined with
      level := 2, secondary := c.secondary &&& ~~~joined
      flags := { c.flags with groupsOmitted := c.flags.groupsOmitted || joined != asked } }
  if joined = 0#16 then p else p.demandGroups .escalate c.owner joined

/-! ## The aid request and exhaustion (R120, R121) -/

/-- The work of level 3: the aid request, with the siren in local working. -/
def Part.levelThree (i : SlotId) (p : Part) : Part :=
  let p := (p.modify i fun c => { c with level := 3, flags := { c.flags with aidRequested := true } }).raise .aid
  if p.localWorking then p.sirenOwnCycles p.settings.aidPattern else p

/-- The exhaustion step. -/
def Part.exhaust (i : SlotId) (p : Part) : Part :=
  (p.modify i fun c => { c.stopWindow with exhausted := true }).raise .exhausted

/-- The response window starts again at full length after a rise (R116). -/
def Part.restartWindow (i : SlotId) (p : Part) : Part :=
  p.modify i Callout.startWindow

/-- What the escalation unit does with an expiry, by the level at which it is taken (R116). -/
def Part.escalate (i : SlotId) (c : Callout) (p : Part) : Part :=
  match c.level with
  | 0 => (p.levelOne i c).restartWindow i
  | 1 => (p.levelTwo i c).restartWindow i
  | 2 => (p.levelThree i).restartWindow i
  | 3 => p.exhaust i

/-! ## Expiries (R5, R14, R16) -/

/-- The accumulation timer of an OPEN callout expires, and the callout leaves OPEN (R14). -/
def Part.accumulationExpires (i : SlotId) (p : Part) : Part :=
  match p.callout? i with
  | none => p
  | some c =>
    if c.state = .inOpen ∧ c.accumulation.mark = .running then (p.leaveOpen i).finish else p

/-- The response window of a COUNTING callout expires (R16, R116). -/
def Part.windowExpires (i : SlotId) (p : Part) : Part :=
  match p.callout? i with
  | none => p
  | some c =>
    if c.state = .counting ∧ c.responseWindow.mark = .running then (p.escalate i c).finish else p

/-! ## Elapsed time (R5) -/

def Slot.onLive (f : Callout → Callout) : Slot → Slot
  | .live c => .live (f c)
  | .free x => .free x

/-- One whole second more, up to 65535 s. -/
def Callout.addSecond (c : Callout) : Callout :=
  { c with elapsed := min (c.elapsed + 1) Config.elapsedCap }

def Part.onCallouts (f : Callout → Callout) (p : Part) : Part :=
  p.onTable fun t => { t with slots := t.slots.map (Slot.onLive f) }

/-! ## The meanings -/

/-- ACCUMULATION_TIMER_EXPIRY (R14). -/
def execAccumulationTimerExpiry (i : SlotId) (s : State) : Host.Outcome State Fault Refusal :=
  s.taking (Part.whenRunning (Part.accumulationExpires i))

/-- RESPONSE_WINDOW_EXPIRY (R116). -/
def execResponseWindowExpiry (i : SlotId) (s : State) : Host.Outcome State Fault Refusal :=
  s.taking (Part.whenRunning (Part.windowExpires i))

/-- ELAPSED_TIME_SECOND (R5). -/
def execElapsedTimeSecond (s : State) : Host.Outcome State Fault Refusal :=
  s.taking (Part.whenRunning (Part.onCallouts Callout.addSecond))

end Sys2Proof.Machine
end

