-- ==== Sys2Proof/Machine/Exchange.lean ====
section
/-!
DEFINITION. The exchange as the line controllers hold it, frame by frame (sections 10.1 to 10.4): OPENING, ORDER,
OPERAND, the gap timer, the end with a reply and supervision.
-/

namespace Sys2Proof.Machine

open Sys2Proof

/-- The order of a code, with the operands declared and collected (section 10.3, R181). -/
def orderFor (l : Line) (code : Byte) (n : Nat) (ops : List Operand) : Part → Verdict :=
  match code.toNat with
  | 1 => alertOrder l n ops
  | 2 => addOrder l n ops
  | 3 => commitOrder l n ops
  | 4 => holdOrder l n ops
  | 5 => resumeOrder l n ops
  | 6 => standDownOrder l n ops
  | 7 => sirenOrder l n ops
  | 8 => sirenStopOrder l n ops
  | 9 => queryCalloutOrder l n ops
  | 10 => queryCrewOrder l n ops
  | 11 => queryMemberOrder l n ops
  | 12 => queryUnitOrder l n ops
  | 13 => readNoticesOrder l n ops
  | 14 => ackNoticeOrder l n ops
  | 15 => setMaskOrder l n ops
  | 16 => setAvailabilityOrder l n ops
  | 17 => keepOrder l n ops
  | 18 => relayOrder l n ops
  | 19 => bookOnOrder l n ops
  | 20 => departOrder l n ops
  | 21 => editMemberOrder l n ops
  | 22 => editGroupOrder l n ops
  | 23 => editApplianceOrder l n ops
  | 24 => editPlanOrder l n ops
  | 25 => editClassOrder l n ops
  | 26 => editZoneOrder l n ops
  | 27 => editSiteOrder l n ops
  | 28 => editUnitOrder l n ops
  | 29 => saveOrder l n ops
  | 30 => queryStoreOrder l n ops
  | 31 => clearStoreErrorOrder l n ops
  | 32 => restartOrder l n ops
  | _ => fun _ => refuse .unknownOrder

/-- The order held by a line's controller is worked. -/
def Part.workHeld (l : Line) (code : Byte) (n : Nat) (ops : List Operand) (p : Part) : Part :=
  p.workOrder l code n ops (orderFor l code n ops)

/-! ## Frames (R176 to R178) -/

/-- An exchange not yet worked is discarded, and the controller is IDLE (R177, R178, R180). -/
def LineController.discard (c : LineController) : LineController :=
  { c with state := .idle, operands := [], gap := none }

/-- The exchange of an OPENING addressed to this station. -/
def LineController.openExchange (exchange : Byte) (c : LineController) : LineController :=
  { c with state := .opened, exchange := exchange, operands := [], gap := some Config.gapTime }

/-- An OPENING is taken: the exchange in progress is discarded, and a new one opened when the code is this station's
(R176). -/
def Part.takeOpening (l : Line) (code : List Byte) (exchange : Byte) (p : Part) : Part :=
  let own := code == p.settings.stationCode
  (p.breakOff l).onLine l fun c => if own then c.openExchange exchange else c.discard

/-- The operands of an order are to be collected. -/
def LineController.collect (code : Byte) (count : Nat) (c : LineController) : LineController :=
  { c with state := .collecting, code := code, declared := count, operands := [], gap := some Config.gapTime }

/-- An ORDER is taken (R177). -/
def Part.takeOrder (l : Line) (code : Byte) (count : Nat) (p : Part) : Part :=
  match (p.ctl l).state with
  | .opened =>
    if count = 0 ∨ 8 < count then p.workHeld l code count []
    else p.onLine l (LineController.collect code count)
  | .collecting => p.onLine l LineController.discard
  | .idle | .working | .replying => p

/-- An OPERAND is taken (R177). -/
def Part.takeOperand (l : Line) (x : Operand) (p : Part) : Part :=
  let c := p.ctl l
  match c.state with
  | .opened => p.onLine l LineController.discard
  | .collecting =>
    let ops := c.operands ++ [x]
    if c.declared ≤ ops.length then p.workHeld l c.code c.declared ops
    else p.onLine l fun c => { c with operands := ops, gap := some Config.gapTime }
  | .idle | .working | .replying => p

/-- The gap timer expires (R178). -/
def Part.gapExpires (l : Line) (p : Part) : Part :=
  match (p.ctl l).state with
  | .opened | .collecting => p.onLine l LineController.discard
  | .idle | .working | .replying => p

/-! ## The end with a reply, and supervision (R179, R184) -/

/-- A control line after an exchange on it has ended with a reply. -/
def Supervision.called (period : Nat) : Supervision where
  up := true
  timer := some (period * 1000)

def Lines.setSuper (ls : Lines) (l : ControlLine) (u : Supervision) : Lines :=
  match l with
  | .p => { ls with superP := u }
  | .s => { ls with superS := u }

def Lines.super (ls : Lines) : ControlLine → Supervision
  | .p => ls.superP
  | .s => ls.superS

def UnitSettings.period (u : UnitSettings) : ControlLine → Nat
  | .p => u.periodP
  | .s => u.periodS

/-- Supervision acts: the timer is loaded, and a DOWN line becomes UP with LINES raised (R184). -/
def Part.supervise (l : ControlLine) (p : Part) : Part :=
  let was := (p.lines.super l).up
  (p.onLines fun ls => ls.setSuper l (.called (p.settings.period l))).raiseIf (!was) .lines

/-- The reply is sent: the controller enters IDLE. -/
def LineController.replied (c : LineController) : LineController :=
  { c with state := .idle, operands := [], gap := none, reply := none, tail := none }

/-- What the end of an exchange brings: supervision on P and S, and on the console a warm restart that a RESTART ordered
(R184, R196). -/
def Part.afterReply (l : Line) (p : Part) : Part :=
  match l with
  | .p => p.supervise .p
  | .s => p.supervise .s
  | .console => if p.restart = .replying ∨ p.restart = .ending then { p with restart := .due } else p

/-- The last frame of a reply has been sent (R179). -/
def Part.endWithReply (l : Line) (p : Part) : Part :=
  if (p.ctl l).state = .replying then (p.onLine l LineController.replied).afterReply l else p

/-- A supervision timer that has run out expires: an UP line goes DOWN. A timer loaded afresh since has time left, and its
expiry does not happen (R184). -/
def Part.supervisionExpires (l : ControlLine) (p : Part) : Part :=
  if (p.lines.super l).up ∧ (p.lines.super l).timer = some 0 then
    (p.onLines fun ls => ls.setSuper l { up := false, timer := none }).raise .lines
  else p

/-! ## The meanings -/

/-- Bytes reach a line: the receiver looks for a frame of this kind in the bytes it held and these, and keeps what it has
not read as a frame; a frame found is taken (R175, log entry 2). -/
def Part.receive {α : Type} (l : Line) (kind : Byte) (read : List Byte → Option α) (take : α → Part → Part)
    (frame : List Byte) (p : Part) : Part :=
  let bytes := (p.ctl l).received ++ frame
  let p := p.onLine l fun c => { c with received := unread kind bytes }
  match read bytes with
  | some x => take x p
  | none => p

/-- OPENING (R176). A discarded frame, or one of another kind, is passed over (R175; log entry 2). -/
def execOpening (l : Line) (frame : List Byte) (s : State) : Host.Outcome State Fault Refusal :=
  s.taking (Part.whenRunning (Part.receive l 1#8 openingOf (fun x => Part.takeOpening l x.1 x.2) frame))

/-- ORDER (R177). -/
def execOrder (l : Line) (frame : List Byte) (s : State) : Host.Outcome State Fault Refusal :=
  s.taking (Part.whenRunning (Part.receive l 2#8 orderOf (fun x => Part.takeOrder l x.1 x.2) frame))

/-- OPERAND (R177). -/
def execOperand (l : Line) (frame : List Byte) (s : State) : Host.Outcome State Fault Refusal :=
  s.taking (Part.whenRunning (Part.receive l 3#8 operandOf (Part.takeOperand l) frame))

/-- GAP_TIMER_EXPIRY (R178). -/
def execGapTimerExpiry (l : Line) (s : State) : Host.Outcome State Fault Refusal :=
  s.taking (Part.whenRunning (Part.gapExpires l))

/-- END_WITH_REPLY (R179). -/
def execEndWithReply (l : Line) (s : State) : Host.Outcome State Fault Refusal :=
  s.taking (Part.whenRunning (Part.endWithReply l))

/-- SUPERVISION_TIMER_EXPIRY (R184). -/
def execSupervisionTimerExpiry (l : ControlLine) (s : State) : Host.Outcome State Fault Refusal :=
  s.taking (Part.whenRunning (Part.supervisionExpires l))

/-- UNKNOWN_ORDER: the order is refused whatever its operands (R181). -/
def execUnknownOrder (l : Line) (code : Byte) (ops : List Operand) (s : State) : Host.Outcome State Fault Refusal :=
  s.taking (Part.orderEvent l code ops fun _ => refuse .unknownOrder)

end Sys2Proof.Machine
end

