-- ==== Sys2Proof/Machine/Clock.lean ====
section
/-!
DEFINITION. One millisecond of the part's own clock: what `step` does when no command waits (log entry 4). Timers count
down, and those that reach 0 put their events into the queue of commands, in a fixed order.
-/

namespace Sys2Proof.Machine

open Sys2Proof

/-! ## Counting (R5, R146, R150, R151, R164, R178, R184) -/

def countDown : Option Nat → Option Nat
  | some n => some (n - 1)
  | none => none

/-- A millisecond of a frame being sent to its end; `none` when it has been sent (R180). -/
def Tail.tick (t : Tail) : Option Tail :=
  if t.left ≤ 1 then none else some { t with left := t.left - 1 }

def LineController.tick (c : LineController) : LineController :=
  { c with gap := countDown c.gap, tail := c.tail.bind Tail.tick }

def Lines.tick (ls : Lines) : Lines :=
  { ls.all LineController.tick with
    superP := { ls.superP with timer := countDown ls.superP.timer }
    superS := { ls.superS with timer := countDown ls.superS.timer } }

def Timer.tick (t : Timer) : Timer :=
  if t.mark = .running then { t with remaining := t.remaining - 1 } else t

/-- A millisecond of a callout: its timers, and a second more at each thousandth (R5). -/
def Callout.tick (c : Callout) : Callout :=
  let c := { c with accumulation := c.accumulation.tick, responseWindow := c.responseWindow.tick }
  if 999 ≤ c.elapsedMs then { c.addSecond with elapsedMs := 0 } else { c with elapsedMs := c.elapsedMs + 1 }

/-- A millisecond of a site: its accrual count held at 0 at the ceiling, or one more, the credit rising at the divisor
(R146). -/
def SiteRecord.tick (r : SiteRecord) : SiteRecord :=
  if r.ceiling ≤ r.credit then { r with accrual := 0 }
  else if r.divisor ≤ r.accrual + 1 then r.accrue
  else { r with accrual := r.accrual + 1 }

def Sequencer.tick : Sequencer → Sequencer
  | .idle => .idle
  | .clearWait k left => .clearWait k (left - 1)
  | .leadIn k forced left => .leadIn k forced (left - 1)
  | .burst k forced left => .burst k forced (left - 1)

def SiteUnit.tick (u : SiteUnit) : SiteUnit :=
  { u with records := u.records.map SiteRecord.tick, sequencer := u.sequencer.tick }

def SirenRun.tick (r : SirenRun) : SirenRun :=
  { r with time := r.time + 1 }

def StationOutput.tick (o : StationOutput) : StationOutput :=
  { o with run := o.run.map SirenRun.tick }

/-- The battery is sampled once each second (R170). -/
def Supply.tick (u : Supply) : Supply :=
  { u with sampleTimer := if u.sampleTimer ≤ 1 then 1000 else u.sampleTimer - 1 }

/-! ## The events that fall due -/

def dueIf (b : Bool) (i : Instr) : List Instr :=
  if b then [i] else []

def Timer.expired (t : Timer) : Bool :=
  t.mark == .running && t.remaining == 0

/-- The phase under way has run its length (R164). -/
def SirenRun.dueEvents (r : SirenRun) : List Instr :=
  match r.phase with
  | .on => dueIf (r.onTime * 1000 ≤ r.time) .sirenOnTimeEnd
  | .off => dueIf ((r.period - r.onTime) * 1000 ≤ r.time) .sirenPeriodBoundary

/-- What the sequencer's wait, lead-in or burst brings; a clear channel is seen before the limit passes (R150, R151). -/
def Part.sequencerDue (p : Part) : List Instr :=
  match p.sites.sequencer with
  | .idle => []
  | .clearWait k left =>
    dueIf (p.pins.channelClear.get k) (.channelClearAsserted k) ++ dueIf (left == 0) (.clearWaitExpiry k)
  | .leadIn k _ left => dueIf (left == 0) (.leadInEnd k)
  | .burst k _ left => dueIf (left == 0) (.burstEnd k)

/-- The events due once the counting is done, in the order the part takes them (log entry 4). -/
def Part.dueEvents (p : Part) : List Instr :=
  dueIf (p.lines.p.gap == some 0) (.gapTimerExpiry .p)
    ++ dueIf (p.lines.s.gap == some 0) (.gapTimerExpiry .s)
    ++ dueIf (p.lines.console.gap == some 0) (.gapTimerExpiry .console)
    ++ dueIf (p.lines.superP.timer == some 0) (.supervisionTimerExpiry .p)
    ++ dueIf (p.lines.superS.timer == some 0) (.supervisionTimerExpiry .s)
    ++ (p.live.filter fun ic => ic.2.accumulation.expired).map (fun ic => .accumulationTimerExpiry ic.1)
    ++ (p.live.filter fun ic => ic.2.responseWindow.expired).map (fun ic => .responseWindowExpiry ic.1)
    ++ p.sequencerDue
    ++ ((p.station.run.map SirenRun.dueEvents).getD [])

/-- A sample falls due when the second ends, while the part runs and while it is cut off (R170, R171). -/
def Part.sampleDue (p : Part) : List Instr :=
  dueIf (p.supply.sampleTimer ≤ 1) (.batterySample p.pins.batterySense)

/-- The warm restart that waits for the end of a frame on the console falls due with it (R196). -/
def RestartPhase.tick (tail : Option Tail) (r : RestartPhase) : RestartPhase :=
  if r = .ending ∧ tail.isNone then .due else r

/-- Every counter of a running part moves by one millisecond. -/
def Part.count (p : Part) : Part :=
  { p with
    restart := p.restart.tick p.lines.tick.console.tail
    lines := p.lines.tick
    table := { p.table with slots := p.table.slots.map (Slot.onLive Callout.tick) }
    sites := p.sites.tick
    station := p.station.tick
    supply := p.supply.tick }

/-- One millisecond, or the warm restart that has fallen due (R196), of the part: the part after it and the events that
fall due. -/
def Part.clock (p : Part) : Part × List Instr :=
  match p.condition with
  | .running =>
    if p.restart = .due then (p, [.warmRestart])
    else (p.count, p.count.dueEvents ++ p.sampleDue)
  | .cutoff _ => (p.onSupply Supply.tick, p.sampleDue)
  | .resetHeld => (p, [])
  | .off => (p, [])

/-- What `step` does on an empty queue. -/
def State.idle (s : State) : State where
  toPart := s.toPart.clock.1
  pending := s.toPart.clock.2

end Sys2Proof.Machine
end

