-- ==== Sys2Proof/Machine/Outputs.lean ====
section
/-!
DEFINITION. The output pins (section 1.7 of 00_scope.md) as functions of the state. Every output is inactive unless the
part runs (R171, R190, R196).
-/

namespace Sys2Proof.Machine

open Sys2Proof

def Part.isRunning (p : Part) : Bool :=
  p.condition == .running

/-- The keying output of a site (R145, R157). -/
def Part.keyOutput (p : Part) (k : SiteId) : Bool :=
  p.isRunning && p.siteKeyed k

/-- The bits a site sends: the burst of the current batch while the site is in BURST, and nothing otherwise (R151). -/
def Part.pagingData (p : Part) (k : SiteId) : List Bool :=
  match p.sites.sequencer with
  | .burst j _ _ => if p.isRunning ∧ j = k then burstOf ((p.current?.map Batch.pages).getD []) else []
  | .idle | .clearWait _ _ | .leadIn _ _ _ => []

/-- The siren relay is active in the ON phase (R164). -/
def Part.sirenRelay (p : Part) : Bool :=
  p.isRunning && ((p.station.run.map fun r => r.phase == .on).getD false)

/-- The two drive lines of a lamp: the first active for CALLED, the second for CREWED (section 9.5). -/
def Part.lampDrives (p : Part) (ap : Appliance) : Bool × Bool :=
  match p.station.lamps.get ap.index with
  | .dark => (false, false)
  | .called => (p.isRunning, false)
  | .crewed => (false, p.isRunning)

/-- The driver enable of P or S is active while the controller sends frames (R179). -/
def Part.driverEnable (p : Part) (l : ControlLine) : Bool :=
  p.isRunning && ((p.ctl l.line).state == .replying || (p.ctl l.line).tail.isSome)

/-- The frames a line has to send: the frame under way of a broken-off reply, to its end, and then those of the reply it
holds (R179, R180). -/
def Part.transmit (p : Part) (l : Line) : List (List Byte) :=
  if p.isRunning then ((p.ctl l).tail.map Tail.frame).toList ++ ((p.ctl l).reply.map Reply.frames).getD [] else []

/-- The console attention output (R186). -/
def Part.attentionOutput (p : Part) : Bool :=
  p.isRunning && p.lines.console.attention

end Sys2Proof.Machine
end

