-- ==== Sys2Proof/Machine/Dispatch.lean ====
section
/-!
DEFINITION. The meaning of each command, one arm per row of spec/opcode_table.json.
-/

namespace Sys2Proof.Machine

open Sys2Proof

def exec (i : Instr) (s : State) : Host.Outcome State Fault Refusal :=
  match i with
  | .opening l f => Sys2Proof.Machine.execOpening l f s
  | .order l f => Sys2Proof.Machine.execOrder l f s
  | .operand l f => Sys2Proof.Machine.execOperand l f s
  | .gapTimerExpiry l => Sys2Proof.Machine.execGapTimerExpiry l s
  | .endWithReply l => Sys2Proof.Machine.execEndWithReply l s
  | .supervisionTimerExpiry l => Sys2Proof.Machine.execSupervisionTimerExpiry l s
  | .unknownOrder l code ops => Sys2Proof.Machine.execUnknownOrder l code ops s
  | .alert l ops => Sys2Proof.Machine.execAlert l ops s
  | .add l ops => Sys2Proof.Machine.execAdd l ops s
  | .commit l ops => Sys2Proof.Machine.execCommit l ops s
  | .hold l ops => Sys2Proof.Machine.execHold l ops s
  | .resume l ops => Sys2Proof.Machine.execResume l ops s
  | .standDown l ops => Sys2Proof.Machine.execStandDown l ops s
  | .depart l ops => Sys2Proof.Machine.execDepart l ops s
  | .siren l ops => Sys2Proof.Machine.execSiren l ops s
  | .sirenStop l ops => Sys2Proof.Machine.execSirenStop l ops s
  | .queryCallout l ops => Sys2Proof.Machine.execQueryCallout l ops s
  | .queryCrew l ops => Sys2Proof.Machine.execQueryCrew l ops s
  | .queryMember l ops => Sys2Proof.Machine.execQueryMember l ops s
  | .queryUnit l ops => Sys2Proof.Machine.execQueryUnit l ops s
  | .readNotices l ops => Sys2Proof.Machine.execReadNotices l ops s
  | .ackNotice l ops => Sys2Proof.Machine.execAckNotice l ops s
  | .setMask l ops => Sys2Proof.Machine.execSetMask l ops s
  | .setAvailability l ops => Sys2Proof.Machine.execSetAvailability l ops s
  | .keep l ops => Sys2Proof.Machine.execKeep l ops s
  | .relayResponse l ops => Sys2Proof.Machine.execRelayResponse l ops s
  | .bookOn l ops => Sys2Proof.Machine.execBookOn l ops s
  | .editMember l ops => Sys2Proof.Machine.execEditMember l ops s
  | .editGroup l ops => Sys2Proof.Machine.execEditGroup l ops s
  | .editAppliance l ops => Sys2Proof.Machine.execEditAppliance l ops s
  | .editPlanDelete l plan ops => Sys2Proof.Machine.execEditPlanDelete l plan ops s
  | .editPlanSettings l plan ops => Sys2Proof.Machine.execEditPlanSettings l plan ops s
  | .editPlanGroups l plan ops => Sys2Proof.Machine.execEditPlanGroups l plan ops s
  | .editPlanEntry l plan ops => Sys2Proof.Machine.execEditPlanEntry l plan ops s
  | .editPlanRemoveEntry l plan ops => Sys2Proof.Machine.execEditPlanRemoveEntry l plan ops s
  | .editPlanReport l plan ops => Sys2Proof.Machine.execEditPlanReport l plan ops s
  | .editClass l ops => Sys2Proof.Machine.execEditClass l ops s
  | .editZone l ops => Sys2Proof.Machine.execEditZone l ops s
  | .editSite l ops => Sys2Proof.Machine.execEditSite l ops s
  | .editUnitGeneral l ops => Sys2Proof.Machine.execEditUnitGeneral l ops s
  | .editUnitPattern l ops => Sys2Proof.Machine.execEditUnitPattern l ops s
  | .save l ops => Sys2Proof.Machine.execSave l ops s
  | .saveWriteEnd failed => Sys2Proof.Machine.execSaveWriteEnd failed s
  | .queryStore l ops => Sys2Proof.Machine.execQueryStore l ops s
  | .clearStoreError l ops => Sys2Proof.Machine.execClearStoreError l ops s
  | .restart l ops => Sys2Proof.Machine.execRestart l ops s
  | .warmRestart => Sys2Proof.Machine.execWarmRestart s
  | .coldStart cause x => Sys2Proof.Machine.execColdStart cause x s
  | .resetInputHeld => Sys2Proof.Machine.execResetInputHeld s
  | .accumulationTimerExpiry k => Sys2Proof.Machine.execAccumulationTimerExpiry k s
  | .responseWindowExpiry k => Sys2Proof.Machine.execResponseWindowExpiry k s
  | .returnFrame k b sp => Sys2Proof.Machine.execReturnFrame k b sp s
  | .channelClearAsserted k => Sys2Proof.Machine.execChannelClearAsserted k s
  | .clearWaitExpiry k => Sys2Proof.Machine.execClearWaitExpiry k s
  | .leadInEnd k => Sys2Proof.Machine.execLeadInEnd k s
  | .burstEnd k => Sys2Proof.Machine.execBurstEnd k s
  | .creditAccrual k => Sys2Proof.Machine.execCreditAccrual k s
  | .sirenOnTimeEnd => Sys2Proof.Machine.execSirenOnTimeEnd s
  | .sirenPeriodBoundary => Sys2Proof.Machine.execSirenPeriodBoundary s
  | .mainsPresentRises => Sys2Proof.Machine.execMainsPresentRises s
  | .mainsPresentFalls => Sys2Proof.Machine.execMainsPresentFalls s
  | .batterySample x => Sys2Proof.Machine.execBatterySample x s
  | .powerLoss => Sys2Proof.Machine.execPowerLoss s
  | .elapsedTimeSecond => Sys2Proof.Machine.execElapsedTimeSecond s

end Sys2Proof.Machine
end

