-- ==== Sys2Proof/WellFormed.lean ====
section
/-!
DEFINITION. What a command must satisfy to be one the outside can send: the sizes that section 10.8 and R177 give.
-/

namespace Sys2Proof

/-- An operand a master can send: a TEXT holds up to 38 bytes, and an unassigned kind code is above 3 (section 10.8). -/
def Operand.wellFormed : Operand → Bool
  | .text t => t.length ≤ 38
  | .unassigned k => 3 < k.toNat
  | .number _ | .set _ | .absent => true

/-- Operands an exchange can collect: at most `limit` of them (8 less those the row itself carries; R177). -/
def operandsWellFormed (limit : Nat) (ops : List Operand) : Bool :=
  ops.length ≤ limit && ops.all Operand.wellFormed

/-- The bytes of one link frame: sync, kind, length, a payload of that length and a check (R175). -/
def frameWellFormed (kind : Nat) (frame : List Byte) : Bool :=
  match frame with
  | s1 :: s2 :: k :: n :: rest =>
    s1 == 0xC3#8 && s2 == 0x3C#8 && k == BitVec.ofNat 8 kind && n.toNat ≤ 40 && rest.length == n.toNat + 2
  | _ => false

/-- The well-formed commands. -/
def Instr.wellFormed : Instr → Bool
  | .opening _ f => frameWellFormed 1 f
  | .order _ f => frameWellFormed 2 f
  | .operand _ f => frameWellFormed 3 f
  | .unknownOrder _ code ops => (code.toNat == 0 || 32 < code.toNat) && operandsWellFormed 8 ops
  | .alert _ ops | .add _ ops | .commit _ ops | .hold _ ops | .resume _ ops | .standDown _ ops | .depart _ ops
  | .siren _ ops | .sirenStop _ ops | .queryCallout _ ops | .queryCrew _ ops | .queryMember _ ops
  | .queryUnit _ ops | .readNotices _ ops | .ackNotice _ ops | .setMask _ ops | .setAvailability _ ops
  | .keep _ ops | .relayResponse _ ops | .bookOn _ ops | .editMember _ ops | .editGroup _ ops
  | .editAppliance _ ops | .editClass _ ops | .editZone _ ops | .editSite _ ops | .save _ ops
  | .queryStore _ ops | .clearStoreError _ ops | .restart _ ops => operandsWellFormed 8 ops
  | .editPlanDelete _ plan ops | .editPlanSettings _ plan ops | .editPlanGroups _ plan ops
  | .editPlanEntry _ plan ops | .editPlanRemoveEntry _ plan ops | .editPlanReport _ plan ops =>
    plan.wellFormed && operandsWellFormed 6 ops
  | .editUnitGeneral _ ops | .editUnitPattern _ ops => operandsWellFormed 7 ops
  | .gapTimerExpiry _ | .endWithReply _ | .supervisionTimerExpiry _ | .saveWriteEnd _ | .warmRestart
  | .coldStart _ _ | .resetInputHeld | .accumulationTimerExpiry _ | .responseWindowExpiry _
  | .returnFrame _ _ _ | .channelClearAsserted _ | .clearWaitExpiry _ | .leadInEnd _ | .burstEnd _
  | .creditAccrual _ | .sirenOnTimeEnd | .sirenPeriodBoundary | .mainsPresentRises | .mainsPresentFalls
  | .batterySample _ | .powerLoss | .elapsedTimeSecond => true

end Sys2Proof
end

