-- ==== Sys2Proof/Safety.lean ====
section
/-!
DEFINITION. What a sound state of the part is, in the terms the statements use: bounds, agreements between fields, and
what the answer to an order leaves on the lines.
-/

namespace Sys2Proof.Machine

open Sys2Proof

/-! ## Bounds -/

/-- Every site's credit lies between 0 and its ceiling (R146). -/
def Part.CreditsWithin (p : Part) : Prop :=
  ∀ k, (p.sites.records.get k).credit ≤ (p.sites.records.get k).ceiling

/-- The queue is within its 64 entries and the demand list within its 16 places (R131, R133). -/
def Part.QueueWithin (p : Part) : Prop :=
  p.pages.used ≤ Config.queueEntries ∧ p.pages.demands.length ≤ Config.demandPlaces

/-- Credits, queue entries and demands within their bounds. -/
def Part.Bounded (p : Part) : Prop :=
  p.CreditsWithin ∧ p.QueueWithin

/-- Flags and masks hold only the ten codes (section 10.5). -/
def Part.NoticesWithin (p : Part) : Prop :=
  ∀ l, (p.ctl l).flags &&& ~~~allNotices = 0#16 ∧ (p.ctl l).mask &&& ~~~allNotices = 0#16

/-! ## Agreements between fields -/

/-- The exchange of a line between events: never WORKING; the gap timer runs just in OPENED and COLLECTING; a reply is
held just in REPLYING; in COLLECTING fewer operands are held than the 1 to 8 declared (section 10.2, R177 to R180). -/
def LineController.Sound (c : LineController) : Prop :=
  c.state ≠ .working
    ∧ (c.gap.isSome = true ↔ c.state = .opened ∨ c.state = .collecting)
    ∧ (c.reply.isSome = true ↔ c.state = .replying)
    ∧ (c.state = .collecting → c.operands.length < c.declared ∧ c.declared ≤ 8)

/-- A supervision timer runs just while its line is UP (R184). -/
def Supervision.Sound (u : Supervision) : Prop :=
  u.timer.isSome = u.up

def Part.LinesSound (p : Part) : Prop :=
  (∀ l, (p.ctl l).Sound) ∧ p.lines.superP.Sound ∧ p.lines.superS.Sound

/-- While RESTART waits for the end of its reply the console is REPLYING, and while it waits for the end of a broken-off
reply's frame that frame is still being sent (R180, R196). -/
def Part.RestartSound (p : Part) : Prop :=
  (p.restart = .replying → p.lines.console.state = .replying)
    ∧ (p.restart = .ending → p.lines.console.tail ≠ none)

/-- No siren run is in progress in RESERVE (R165, R168). -/
def Part.SirenSound (p : Part) : Prop :=
  p.supply.state = .reserve → p.station.run = none

/-- The free order holds each FREE slot once, and no other (R1). -/
def Part.FreeOrderRight (p : Part) : Prop :=
  p.table.freeOrder.Nodup ∧ ∀ i, i ∈ p.table.freeOrder ↔ ∃ x, p.slot i = .free x

/-- Every lamp shows what R169 gives: DARK for an appliance that is committed to no callout or has departed, CREWED for one
that is filled in its callout's current assessment, and CALLED for any other. -/
def Part.LampsRight (p : Part) : Prop :=
  ∀ ap : Appliance, p.station.lamps.get ap.index =
    match (p.appliance ap).committed with
    | none => .dark
    | some n =>
      match (p.findCallout n).bind fun i => p.callout? i with
      | none => .called
      | some c =>
        if ∃ e ∈ c.appliances, e.letter = ap ∧ e.departed = true then .dark
        else if ∃ x ∈ c.assessment.entries, x.letter = ap ∧ x.filled = true then .crewed
        else .called

/-- A live callout has at most one record of each member, 32 records at most, and one or more distinct appliances
(R73, R12). -/
def Part.CalloutsSound (p : Part) : Prop :=
  ∀ i c, p.callout? i = some c →
    (c.responses.map Response.member).Nodup ∧ c.responses.length ≤ Config.responsePlaces
      ∧ c.appliances ≠ [] ∧ (c.appliances.map ApplianceEntry.letter).Nodup

/-- A plan record is as section 2.2 has it: 1 to 3 entries with distinct mains, each with a requirement within its limits that
sums to 1 or more and an alternate that is not its main; window, turnout limit and template within their ranges. -/
def Plan.Sound (pl : Plan) : Prop :=
  pl.entries ≠ [] ∧ pl.entries.length ≤ 3 ∧ (pl.entries.map PlanEntry.main).Nodup
    ∧ (∀ e ∈ pl.entries, e.alternate ≠ some e.main ∧ e.need.sum ≠ 0 ∧ e.need.oic ≤ 1 ∧ e.need.drv ≤ 1 ∧ e.need.ba ≤ 4
      ∧ e.need.gen ≤ 4)
    ∧ 60 ≤ pl.window ∧ pl.window ≤ 900 ∧ 1 ≤ pl.turnout ∧ pl.turnout ≤ 30 ∧ pl.template.length ≤ 24

/-- Every DEFINED plan is sound: in the working copy, in the stored copy, and in the snapshot a SAVE is writing. -/
def Part.PlansSound (p : Part) : Prop :=
  ∀ plans : Table 48 (Option Plan),
    plans = p.resolver.plans ∨ (∃ x, p.store.stored.plans = some x ∧ plans = x.contents.plans)
      ∨ (∃ x, p.store.busy = some (.plans x) ∧ plans = x.plans) →
    ∀ n pl, plans.get n = some pl → pl.Sound

/-- A live callout lists three appliances at most, each with a requirement of one member or more (R12, R4). -/
def Part.AppliancesWithin (p : Part) : Prop :=
  ∀ i c, p.callout? i = some c → c.appliances.length ≤ 3 ∧ ∀ e ∈ c.appliances, e.need.sum ≠ 0

/-- The fields of a callout that go with its state (section 1.2): a prior state, one of four, just while HELD; a held-back
list, of eight entries at most, only while HELD; stand-down groups just while CLOSING. -/
def Part.StatesRight (p : Part) : Prop :=
  ∀ i c, p.callout? i = some c →
    (c.state = .held ↔ c.prior ≠ none)
      ∧ (∀ st ∈ c.prior, st = .inOpen ∨ st = .alerting ∨ st = .counting ∨ st = .crewed)
      ∧ (c.heldBack ≠ [] → c.state = .held) ∧ c.heldBack.length ≤ 8
      ∧ (c.state = .closing ↔ c.standDownGroups ≠ none)

/-- Roster and response lists agree (R54, R56): an engaged member is AVAILABLE and holds an ATTENDING or ARRIVED record on the
live callout named, and the member of such a record is in use and engaged on its callout, which is not CLOSING (R30). -/
def Part.EngagementRight (p : Part) : Prop :=
  (∀ m x n, p.member? m = some x → x.engaged = some n → x.availability = .available
    ∧ ∃ i c r, p.callout? i = some c ∧ c.number = n ∧ r ∈ c.responses ∧ r.member = m
      ∧ (r.kind = .attending ∨ r.kind = .arrived))
  ∧ ∀ i c r, p.callout? i = some c → r ∈ c.responses → r.kind = .attending ∨ r.kind = .arrived →
    c.state ≠ .closing ∧ ∃ x, p.member? r.member = some x ∧ x.engaged = some c.number

/-- Commitment and appliance lists agree (R12, R48): a committed appliance stands in the list of the live callout named, which is
not CLOSING, and a callout that is not CLOSING holds every appliance it lists committed. -/
def Part.CommitmentRight (p : Part) : Prop :=
  (∀ ap n, (p.appliance ap).committed = some n →
    ∃ i c, p.callout? i = some c ∧ c.number = n ∧ c.state ≠ .closing ∧ ∃ e ∈ c.appliances, e.letter = ap)
  ∧ ∀ i c, p.callout? i = some c → c.state ≠ .closing →
    ∀ e ∈ c.appliances, (p.appliance e.letter).committed = some c.number

/-- The numbers, tokens and incident references of the live callouts are pairwise distinct, and no number or token is 0
(R1, R2, R3). -/
def Part.NumbersDistinct (p : Part) : Prop :=
  (∀ i c, p.callout? i = some c → c.number ≠ 0#8 ∧ c.token ≠ 0#12)
    ∧ ∀ i j c d, p.callout? i = some c → p.callout? j = some d → i ≠ j →
      c.number ≠ d.number ∧ c.token ≠ d.token ∧ c.reference ≠ d.reference

/-- No SAVE is under way while STORE_ERROR is set (R194, R195). -/
def Part.StoreSound (p : Part) : Prop :=
  p.store.error = true → p.store.busy = none

/-- No work is left over from an earlier event: no report waits, no ended batch stands in the queue, and no turn can be
taken (R137, R148). -/
def Part.Quiet (p : Part) : Prop :=
  p.workStep = none

/-! ## What an order's answer leaves -/

/-- `t` is `s` with line `l` REPLYING: the reply carries the refusal, if any, and the results, the notices in `raised`
are set on every line, and the other lines' exchanges, the masks and the line states stay. -/
structure Answered (l : Line) (why : Option Reason) (results : List Operand) (raised : Set16) (s t : Part) : Prop where
  replying : (t.ctl l).state = .replying ∧ (t.ctl l).gap = none
  reply    : (t.ctl l).reply = some
    { exchange := (s.ctl l).exchange, refused := why, notices := (t.ctl l).attention, results := results }
  flags    : ∀ k, (t.ctl k).flags = (s.ctl k).flags ||| raised
  masks    : ∀ k, (t.ctl k).mask = (s.ctl k).mask
  others   : ∀ k, k ≠ l → t.ctl k = { s.ctl k with flags := (t.ctl k).flags }
  lines    : t.lines.superP = s.lines.superP ∧ t.lines.superS = s.lines.superS

/-- `t` is `s` except for the line controllers, and for a warm restart that falls due because this order broke off the
reply to a RESTART. -/
def SameBlocks (l : Line) (s t : Part) : Prop :=
  t = { s with lines := t.lines, restart := (s.breakOff l).restart }

/-! ## Outcomes of commands -/

/-- The command ends in a next state, with the waiting commands as they were and a part that satisfies `P`. -/
def Leads (c : Instr) (s : State) (P : Part → Prop) : Prop :=
  ∃ t : State, exec c s = .next t ∧ t.pending = s.pending ∧ P t.toPart

/-- The order is refused on its line for this reason with these results, and every block stays as it was (R183). -/
def Refuses (c : Instr) (l : Line) (s : State) (why : Reason) (results : List Operand) : Prop :=
  Leads c s fun t => Answered l (some why) results 0#16 s.toPart t ∧ SameBlocks l s.toPart t

/-- The order is taken on its line with these results, the notices in `raised` are raised, and the part is `after` but
for the lines and a warm restart that falls due by the break of an earlier reply. -/
def Takes (c : Instr) (l : Line) (s : State) (results : List Operand) (raised : Set16) (after : Part) : Prop :=
  Leads c s fun t => Answered l none results raised s.toPart t
    ∧ t = { after with lines := t.lines, restart := (s.toPart.breakOff l).restart }

/-- What no order on callouts, no response, no timer and no pass changes: the configuration of every block, but for the
WITHHELD mark, which SET-AVAILABILITY writes (R61), and the store. -/
structure SameConfiguration (s t : Part) : Prop where
  settings   : t.settings = s.settings ∧ t.supply.reserveLevel = s.supply.reserveLevel
  plans      : t.resolver.plans = s.resolver.plans ∧ t.resolver.classes = s.resolver.classes
    ∧ t.resolver.maps = s.resolver.maps
  appliances : ∀ ap : Appliance, (t.appliance ap).seats = (s.appliance ap).seats
    ∧ (t.appliance ap).inService = (s.appliance ap).inService
  members    : ∀ m, (t.member? m).map (fun x => (x.callSign, x.address, x.quals, x.groups))
    = (s.member? m).map fun x => (x.callSign, x.address, x.quals, x.groups)
  groups     : t.roster.groups = s.roster.groups
  sites      : ∀ k, (t.sites.records.get k).toStored = (s.sites.records.get k).toStored
  patterns   : t.station.patterns = s.station.patterns
  store      : t.store = s.store

/-! ## Operands as an order gives them -/

/-- A NUMBER operand that may be absent. -/
def optionalNumber : Option (BitVec 32) → Operand
  | some v => .number v
  | none => .absent

def optionalText : Option Text → Operand
  | some t => .text t
  | none => .absent

def optionalSet : Option Set16 → Operand
  | some b => .set b
  | none => .absent

/-- `given` is `ops` as a master may send it: ABSENT operands at the end may be left out (R182). -/
def Spells (ops given : List Operand) : Prop :=
  given.length ≤ ops.length ∧ ∀ k, k < ops.length → operandAt given k = operandAt ops k

/-- The operand is a NUMBER, or absent. -/
def NumberOrAbsent : Operand → Prop
  | .number _ | .absent => True
  | .text _ | .set _ | .unassigned _ => False

/-- The operand is a NUMBER in this range. -/
def NumberIn (o : Operand) (lo hi : Int) : Prop :=
  ∃ x, o = .number x ∧ lo ≤ x.toInt ∧ x.toInt ≤ hi

/-- The operand is absent, or a NUMBER in this range. -/
def AbsentOrIn (o : Operand) (lo hi : Int) : Prop :=
  o = .absent ∨ NumberIn o lo hi

/-- A value, when given, lies in this range. -/
def inRange (v : Option (BitVec 32)) (lo hi : Int) : Bool :=
  v.all fun x => lo ≤ x.toInt && x.toInt ≤ hi

/-! ## Demands handed to the page queue within a command -/

/-- The airtime a first turn at this site costs (R153). -/
def Part.turnCost (p : Part) (k : SiteId) (pages : List Page) : Nat :=
  airtime (p.sites.records.get k).leadIn pages

/-- The sites a demand admitted next is sent to: those of the direction that comes next (R147). -/
def Part.nextSites (p : Part) (d : Demand) : List SiteId :=
  (p.siteList p.sites.direction.flip).filter d.restrict.allows

/-- The batch a demand makes when it is admitted as the part stands (R133, R134, R147). -/
def Part.batchFor (p : Part) (d : Demand) : Batch where
  kind := d.kind
  owner := d.owner
  pages := p.formPages d
  sites := (p.nextSites d).map fun k => { site := k, condition := .toServe }
  started := false
  withdrawing := false

/-- The part after a first turn at site `k` with credit enough, for a batch with these pages (R149, R150): keyed, when the
channel is clear, with the pass's airtime debited; and waiting for it otherwise. -/
def TurnBegun (k : SiteId) (pages : List Page) (s t : Part) : Prop :=
  let r := s.sites.records.get k
  if s.pins.channelClear.get k = true then
    t.sites.sequencer = .leadIn k false r.leadIn
      ∧ (t.sites.records.get k).credit = r.credit - s.turnCost k pages
  else t.sites.sequencer = .clearWait k (r.clearWait * 100) ∧ t.sites.records = s.sites.records

/-- `t` is what `s`, with no work left over, becomes by a command that hands demand `d` to the page queue, as far as `d`
goes (R131 to R134, R147 to R150). Behind other batches it is admitted when there is room and nothing waits, or waits in
the demand list. In an empty queue, with the sequencer IDLE, it is admitted and its first turn taken, stated where that
turn finds credit enough. -/
def Handed (d : Demand) (s t : Part) : Prop :=
  let b := s.batchFor d
  b.pages ≠ [] → b.sites ≠ [] →
    (s.pages.queue ≠ [] → s.pages.demands = [] → s.pages.room d = true →
      ∃ more, t.pages.queue = s.pages.queue ++ b :: more)
    ∧ (s.pages.queue ≠ [] → s.pages.demands ≠ [] ∨ s.pages.room d = false → s.pages.demands.length < 16 →
      ∃ more, t.pages.demands = s.pages.demands ++ d :: more)
    ∧ (s.pages.queue = [] → s.pages.demands = [] → s.pages.room d = true → s.sites.sequencer = .idle →
      ∀ k rest, s.nextSites d = k :: rest →
        s.turnCost k b.pages ≤ (s.sites.records.get k).credit → (s.sites.records.get k).credit ≤ (s.sites.records.get k).ceiling →
        TurnBegun k b.pages s t
          ∧ ∃ more, t.pages.queue = { b with started := s.pins.channelClear.get k } :: more)

/-- Batch `b`, current and followed by `rest`, goes on: its first remaining site has its turn, stated where that turn finds
the site in use and credit enough (R148 to R150). -/
def GoesOn (b : Batch) (rest : List Batch) (s t : Part) : Prop :=
  ∀ e more, b.remaining = e :: more → t.inhibited e.site = false →
    s.turnCost e.site b.pages ≤ (s.sites.records.get e.site).credit →
    (s.sites.records.get e.site).credit ≤ (s.sites.records.get e.site).ceiling →
    TurnBegun e.site b.pages s t
      ∧ t.pages.queue = { b with started := b.started || s.pins.channelClear.get e.site } :: rest

/-- The batch with its site `k` settled with this outcome (R136). -/
def Batch.settledAt (b : Batch) (k : SiteId) (o : PassOutcome) : Batch :=
  { b with sites := b.sites.map fun e => if e.site = k then { e with condition := .settled o } else e }

/-- The batch the `n`-th of several demands makes, counted from 0, when they are admitted one after the other: the direction
turns at each admission (R133, R134, R147). -/
def Part.batchAt (p : Part) (n : Nat) (d : Demand) : Batch where
  kind := d.kind
  owner := d.owner
  pages := p.formPages d
  sites := ((p.siteList (Direction.flip^[n + 1] p.sites.direction)).filter d.restrict.allows).map fun k =>
    { site := k, condition := .toServe }
  started := false
  withdrawing := false

/-- The entries in use once the first `n` of several demands have been admitted (R133). -/
def Part.usedAfter (p : Part) (ds : List Demand) (n : Nat) : Nat :=
  (p.pages.queue.map fun b => 1 + b.pages.length).sum + ((ds.take n).map fun d => 1 + (p.formPages d).length).sum

/-- The page queue can take all these demands as `HandedAll` states it: none is dropped; and when none waits before them,
each has pages and sites, and the first turn in an empty queue finds credit enough. -/
def Part.CanTake (p : Part) (ds : List Demand) : Prop :=
  p.pages.demands.length + ds.length ≤ 16
    ∧ (p.pages.demands = [] →
      (∀ n d, ds[n]? = some d → (p.batchAt n d).pages ≠ [] ∧ (p.batchAt n d).sites ≠ [])
      ∧ (p.pages.queue = [] → ∀ d rest, ds = d :: rest → p.sites.sequencer = .idle
        ∧ ∀ e more, (p.batchAt 0 d).sites = e :: more →
          p.turnCost e.site (p.formPages d) ≤ (p.sites.records.get e.site).credit
            ∧ (p.sites.records.get e.site).credit ≤ (p.sites.records.get e.site).ceiling))

/-- `t` is what `s`, with no work left over, becomes by a command that hands these demands to the page queue in their order,
as far as they go: behind demands that wait, all wait; otherwise those that fit are admitted, each while its 1 plus its
addressees or pages fit the 64 entries, and the others wait; and in an empty queue the first one's first turn is taken. -/
def HandedAll (ds : List Demand) (s t : Part) : Prop :=
  (s.pages.demands ≠ [] → ∃ more, t.pages.demands = s.pages.demands ++ ds ++ more)
  ∧ (s.pages.demands = [] → ∃ (n : Nat) (demands : List Demand) (queue : List Batch),
      n ≤ ds.length
      ∧ (∀ (j : Nat) (d : Demand), ds[j]? = some d → (j < n → s.usedAfter ds j + d.size ≤ 64)
          ∧ (j = n → 64 < s.usedAfter ds j + d.size))
      ∧ t.pages.demands = ds.drop n ++ demands
      ∧ t.pages.queue = s.pages.queue ++ queue ∧ n ≤ queue.length
      ∧ (∀ (j : Nat) (d : Demand) (b : Batch), j < n → ds[j]? = some d → queue[j]? = some b →
          b = { s.batchAt j d with started := b.started } ∧ (b.started = true → j = 0 ∧ s.pages.queue = []))
      ∧ (s.pages.queue = [] → 0 < n → ∀ d rest, ds = d :: rest → ∀ e more, (s.batchAt 0 d).sites = e :: more →
          TurnBegun e.site (s.formPages d) s t))

/-- What a HOLD finds of its callout, in the order the page queue holds it: the call-out batches in the queue, oldest first,
then the waiting call-out demands (R21, R138 to R140). A demand keeps its addressees or formed pages and owes every site; a
batch that has not started has its formed pages and owes every site; a started one owes the sites of its list not settled DONE
or FORCED, less that of a pass in progress. A batch that has ended is not found (R142), nor is one that is withdrawing already,
which is the model's choice (log entry 33). -/
def Part.handedBack (p : Part) (o : Owner) : List HeldEntry :=
  let mine (owner : Owner) (k : BatchKind) : Bool := owner == o && k.callOut
  let onAir : Option SiteId := match p.sites.sequencer with
    | .idle | .clearWait _ _ => none
    | .leadIn k _ _ | .burst k _ _ => some k
  let passed (e : SiteEntry) : Bool := e.condition == .settled .done || e.condition == .settled .forced
  let whole (b : Batch) : HeldEntry := { kind := b.kind, content := .formed b.pages, owed := .all }
  let left (b : Batch) : HeldEntry :=
    { kind := b.kind, content := .formed b.pages
      owed := .only (([0, 1, 2, 3, 4, 5] : List SiteId).filter fun k =>
        onAir != some k && b.sites.any fun e => e.site == k && !passed e) }
  let current : List HeldEntry := match p.pages.queue with
    | [] => []
    | b :: _ =>
      if mine b.owner b.kind && !b.withdrawing && b.remaining != [] then
        [if b.started || onAir.isSome then left b else whole b]
      else []
  current ++ (p.pages.queue.tail.filter fun b => mine b.owner b.kind).map whole
    ++ (p.pages.demands.filter fun d => mine d.owner d.kind).map fun d =>
      { kind := d.kind, content := d.content, owed := .all }

/-- `p` after a withdrawal request of these kinds by this owner, admission apart (R138 to R140): its waiting demands and its
batches behind the current one are gone; its current batch is marked withdrawing while a site is keyed, and otherwise gone too,
with the sequencer IDLE. A batch that has ended or is withdrawing already stays. -/
def Part.without (p : Part) (o : Owner) (kinds : BatchKind → Bool) : Part :=
  let mine (owner : Owner) (k : BatchKind) : Bool := owner == o && kinds k
  let keyed : Bool := match p.sites.sequencer with
    | .idle | .clearWait _ _ => false
    | .leadIn _ _ _ | .burst _ _ _ => true
  let behind := p.pages.queue.tail.filter fun b => !mine b.owner b.kind
  let left (queue : List Batch) : Part :=
    { p with pages := { p.pages with
        queue := queue, demands := p.pages.demands.filter fun d => !mine d.owner d.kind } }
  match p.pages.queue with
  | [] => left []
  | b :: _ =>
    if mine b.owner b.kind && !b.withdrawing && b.remaining != [] then
      if keyed then left ({ b with withdrawing := true } :: behind)
      else { left behind with sites := { p.sites with sequencer := .idle } }
    else left (b :: behind)

/-- Nothing waits in the demand list, or its oldest demand finds no room: admission changes nothing (R133). -/
def Part.HeadWaits (p : Part) : Prop :=
  ∀ d rest, p.pages.demands = d :: rest → p.pages.room d = false

/-- The RELEASE demands for these members, in this order: one for the first 16 and one for the others. A callout's 32 records
make no more (R26, R106). -/
def releasesFor (o : Owner) (ms : List MemberId) : List Demand :=
  ([ms.take 16, ms.drop 16].filter fun l => l != []).map fun l =>
    { kind := .release, owner := o, content := .members l, restrict := .all }

/-- `t` has the siren run `s` has after a request for this pattern's own cycles: dropped in RESERVE, starting a run when
none is in progress, and merged otherwise (R165). -/
def SirenAsked (pat : PatternId) (s t : Part) : Prop :=
  let x := s.station.patterns.get pat
  t.station.run =
    if s.supply.state = .reserve then s.station.run
    else match s.station.run with
      | none => some { pattern := pat, pending := none, cycles := x.cycles, phase := .on, time := 0, onTime := x.onTime
                       period := x.period }
      | some r => some { r with cycles := max r.cycles x.cycles, pending := if pat = r.pattern then none else some pat }

/-- The ALERT and STAND_DOWN batches a warm restart demands again, in slot order (R36). -/
def Part.demandsAgain (p : Part) : List Demand :=
  slotIds.filterMap fun i => match p.slot i with
    | .free _ => none
    | .live c =>
      if c.state = .alerting then
        some { kind := .alert, owner := c.owner, content := .groups (membersOf 16 c.alertGroups), restrict := .all }
      else if c.state = .closing then
        some { kind := .standDown, owner := c.owner
               content := .groups (membersOf 16 (c.standDownGroups.getD 0#16)), restrict := .all }
      else none

/-- The callout owns a batch or a demand of this kind. -/
def Part.Owns (p : Part) (c : Callout) (k : BatchKind) : Prop :=
  (∃ b ∈ p.pages.queue, b.owner = c.owner ∧ b.kind = k) ∨ ∃ d ∈ p.pages.demands, d.owner = c.owner ∧ d.kind = k

/-! ## Starts -/

/-- What a cold start leaves in `t`, from the stored copies of `s` (R1 to R3, R51, R71, R144, R161, R174, R190, R192, R195,
R196). A section's contents are read when its check passes. -/
structure ColdStarted (cause : StartCause) (mains : Bool) (sample : Level) (s t : Part) : Prop where
  cause      : t.cause = cause ∧ t.restart = .none
  pins       : t.pins = { s.pins with mainsPresent := mains, batterySense := sample }
  table      : t.table.slots = Table.fill 8 (.free none) ∧ t.table.freeOrder = [0, 1, 2, 3, 4, 5, 6, 7]
    ∧ t.table.lastNumber = 0#8 ∧ t.table.lastToken = 0#12
  pages      : t.pages.queue = [] ∧ t.pages.demands = [] ∧ t.pages.reports = [] ∧ t.sites.sequencer = .idle ∧ t.sites.direction = .ascending
  credits    : ∀ k, (t.sites.records.get k).credit = (t.sites.records.get k).ceiling
    ∧ (t.sites.records.get k).accrual = 0
  members    : ∀ m y, t.member? m = some y → y.engaged = none ∧ y.availability ≠ .offDuty
  appliances : ∀ ap, (t.appliance ap).committed = none ∧ t.station.lamps.get ap.index = .dark
  siren      : t.station.run = none
  supply     : t.supply.lastSample = sample ∧ t.supply.state =
    if mains then .mains else if sample.val < t.supply.reserveLevel * 10 then .reserve else .battery
  lines      : ∀ l, (t.ctl l).state = .idle ∧ (t.ctl l).gap = none ∧ (t.ctl l).reply = none ∧ (t.ctl l).tail = none
    ∧ (t.ctl l).operands = [] ∧ (t.ctl l).received = [] ∧ (t.ctl l).flags = 1#16 <<< 9 ∧ (t.ctl l).mask = 0x03FF#16
  down       : t.lines.superP = { up := false, timer := none } ∧ t.lines.superS = { up := false, timer := none }
  store      : t.store.stored = s.store.stored ∧ t.store.busy = none ∧ t.store.toggle = false ∧ t.store.error = false
  unit       : match s.store.stored.readUnit with
    | some u => t.settings = u.settings ∧ t.supply.reserveLevel = u.reserveLevel ∧ t.store.states.unit = .valid
    | none => t.settings = { stationCode := [0x30#8, 0x30#8, 0x30#8, 0x30#8], window := 8, aidPattern := 0
                             periodP := 30, periodS := 30 }
      ∧ t.supply.reserveLevel = 116 ∧ t.store.states.unit = .defaulted
  roster     : match s.store.stored.readRoster with
    | some r => t.roster.groups = r.groups ∧ t.store.states.roster = .valid
      ∧ ∀ m, t.member? m = (r.members.get m).map fun y =>
          { callSign := y.callSign, address := y.address, quals := y.quals, groups := y.groups
            availability := if y.withheld then .withheld else .available, engaged := none }
    | none => (∀ m, t.member? m = none) ∧ (∀ g, t.roster.groups.get g = { address := 0#21, enabled := false })
      ∧ t.store.states.roster = .defaulted
  plans      : match s.store.stored.readPlans with
    | some r => t.resolver.plans = r.plans ∧ t.resolver.classes = r.classes ∧ t.resolver.maps = r.maps
      ∧ t.store.states.plans = .valid
    | none => (∀ n : PlanId, t.resolver.plans.get n = none) ∧ (∀ k, t.resolver.classes.get k = .unused)
      ∧ (∀ k z, (t.resolver.maps.get k).effective z = none) ∧ t.store.states.plans = .defaulted
  station    : match s.store.stored.readStation with
    | some r => (∀ ap, (t.appliance ap).seats = (r.appliances.get ap.index).seats
          ∧ (t.appliance ap).inService = (r.appliances.get ap.index).inService)
      ∧ (∀ k, (t.sites.records.get k).toStored = r.sites.get k) ∧ t.station.patterns = r.patterns
      ∧ t.store.states.station = .valid
    | none => (∀ ap, (t.appliance ap).seats = 4 ∧ (t.appliance ap).inService = true)
      ∧ (∀ k, (t.sites.records.get k).toStored =
          { enabled := false, stationPowered := false, leadIn := 150, clearWait := 20, ceiling := 36000, divisor := 10 })
      ∧ (∀ k, t.station.patterns.get k = { period := 10, onTime := 4, cycles := 3 })
      ∧ t.store.states.station = .defaulted

/-! ## Responses and the commands that bring them (chapter 4) -/

/-- A frame from member `m`'s pager, answering the page of callout `c`, is examined at site `k` (R76 to R78). -/
structure HeardAt (k : SiteId) (i : SlotId) (c : Callout) (m : MemberId) (x : Member) (s : Part) : Prop where
  quiet   : s.siteKeyed k = false
  member  : s.memberAt x.address = some m
  token   : c.token ≠ 0#12
  callout : (s.findLive fun d => d.token == c.token) = some i

/-- An ETA after normalising (R83). -/
def etaOf (minutes : Nat) : Option Nat :=
  if minutes = 0 then none else some (min minutes 60)

/-- The command brings to callout `c`, in slot `i`, the response of member `m` that would make the record this kind, with
this ETA after normalising and this source: a return frame at a site, a relay from a control line, or a booking at the
console, with the callout named or chosen (R77 to R79, R81, R83). -/
inductive Brings (s : Part) (i : SlotId) (c : Callout) (m : MemberId) (x : Member) :
    Instr → ResponseKind → Option Nat → Source → Prop
  | frameAttend (k : SiteId) (eta : BitVec 6) : HeardAt k i c m x s →
      Brings s i c m x (.returnFrame k (returnFrameBits x.address c.token 0#3 eta) false) .attending (etaOf eta.toNat)
        (.site k)
  | frameUnavailable (k : SiteId) (eta : BitVec 6) : HeardAt k i c m x s →
      Brings s i c m x (.returnFrame k (returnFrameBits x.address c.token 1#3 eta) false) .unavailable none (.site k)
  | relayAttend (l : Line) (given : List Operand) (eta : Option (BitVec 32)) : l ≠ .console → (∀ v ∈ eta, 0 ≤ v.toInt) →
      Spells [num (m.val + 1), num c.number.toNat, num 0, optionalNumber eta] given →
      Brings s i c m x (.relayResponse l given) .attending (etaOf ((eta.map BitVec.toNat).getD 0)) (.line l)
  | relayUnavailable (l : Line) (given : List Operand) (eta : Option (BitVec 32)) : l ≠ .console →
      (∀ v ∈ eta, 0 ≤ v.toInt) → Spells [num (m.val + 1), num c.number.toNat, num 1, optionalNumber eta] given →
      Brings s i c m x (.relayResponse l given) .unavailable none (.line l)
  | bookOn : c.state ≠ .mobile → x.availability ≠ .withheld → s.arrivedElsewhere i m = false →
      Brings s i c m x (.bookOn .console [num (m.val + 1), num c.number.toNat]) .arrived none (.line .console)
  | bookOnEngaged (given : List Operand) : c.state ≠ .mobile → x.availability ≠ .withheld → x.engaged = some c.number →
      Spells [num (m.val + 1), .absent] given →
      Brings s i c m x (.bookOn .console given) .arrived none (.line .console)
  | bookOnOnly (given : List Operand) : x.availability ≠ .withheld → (∀ n ∈ x.engaged, s.findCallout n = none) →
      c.state.bookable = true → (∀ j d, s.callout? j = some d → d.state.bookable = true → j = i) →
      Spells [num (m.val + 1), .absent] given →
      Brings s i c m x (.bookOn .console given) .arrived none (.line .console)

/-- The answer a response that comes in an order gets: the outcome code, and the kind, sequence number and estimate of the
record it leaves, if any (R80). A return frame gets none. -/
def ResponseAnswered (m : MemberId) (c : Callout) (source : Source) (code : Nat) (r : Option Response) (s t : Part) : Prop :=
  match source with
  | .site _ => True
  | .line l => ∃ raised, Answered l none
      [num (m.val + 1), num c.number.toNat, num code, optNum (r.map fun r => r.kind.code),
       optNum (r.bind fun r => if r.kind = .attending ∨ r.kind = .arrived then r.sequence else none),
       optNum (r.bind fun r => if r.kind = .attending ∨ r.kind = .arrived then r.estimate else none)] raised s t

/-- A record is of a kind that attends no more: UNAVAILABLE, WITHDRAWN or RELEASED (section 4.1). -/
def Response.inactive (r : Response) : Bool :=
  match r.kind with
  | .unavailable | .withdrawn | .released => true
  | .attending | .arrived => false

/-- `d'` is callout `d`, not CLOSING, after it has been reassessed with the result `a` and has taken its outcome (R18 to R20,
R97, R106): ALERTING or COUNTING with the outcome CREWED it is CREWED, its window stopped and its surplus RELEASED; CREWED with
another outcome it is COUNTING with its window started at full length; otherwise its state and its records stay. -/
def Reassessed (a : Assessment) (d d' : Callout) : Prop :=
  let enters : Prop := (d.state = .alerting ∨ d.state = .counting) ∧ a.outcome = .crewed
  let returns : Prop := d.state = .crewed ∧ a.outcome ≠ .crewed
  d'.state = (if enters then .crewed else if returns then .counting else d.state)
    ∧ d'.responses = (if enters then d.responses.map fun r => if r.member ∈ a.surplus ∧ r.kind ≠ .released
        then { r with kind := .released, eta := none, estimate := none, lastChange := d.elapsed } else r
      else d.responses)
    ∧ d'.responseWindow = (if enters then .stopped else if returns then .start d.window else d.responseWindow)
    ∧ (¬ enters → d'.assessment = a) ∧ d'.level = d.level ∧ d'.appliances = d.appliances

end Sys2Proof.Machine

namespace Sys2Proof

/-! ## Orders and their lines (section 10.3) -/

/-- The exchange an order command completes: its line, its order code, and the operands of the ORDER in full, the part
code of EDIT-PLAN and EDIT-UNIT among them; none for a frame command or an event. -/
def Instr.exchange? : Instr → Option (Line × Byte × List Operand)
  | .unknownOrder l code ops => some (l, code, ops)
  | .alert l ops => some (l, 1#8, ops)
  | .add l ops => some (l, 2#8, ops)
  | .commit l ops => some (l, 3#8, ops)
  | .hold l ops => some (l, 4#8, ops)
  | .resume l ops => some (l, 5#8, ops)
  | .standDown l ops => some (l, 6#8, ops)
  | .siren l ops => some (l, 7#8, ops)
  | .sirenStop l ops => some (l, 8#8, ops)
  | .queryCallout l ops => some (l, 9#8, ops)
  | .queryCrew l ops => some (l, 10#8, ops)
  | .queryMember l ops => some (l, 11#8, ops)
  | .queryUnit l ops => some (l, 12#8, ops)
  | .readNotices l ops => some (l, 13#8, ops)
  | .ackNotice l ops => some (l, 14#8, ops)
  | .setMask l ops => some (l, 15#8, ops)
  | .setAvailability l ops => some (l, 16#8, ops)
  | .keep l ops => some (l, 17#8, ops)
  | .relayResponse l ops => some (l, 18#8, ops)
  | .bookOn l ops => some (l, 19#8, ops)
  | .depart l ops => some (l, 20#8, ops)
  | .editMember l ops => some (l, 21#8, ops)
  | .editGroup l ops => some (l, 22#8, ops)
  | .editAppliance l ops => some (l, 23#8, ops)
  | .editPlanDelete l plan ops => some (l, 24#8, plan :: .number 0#32 :: ops)
  | .editPlanSettings l plan ops => some (l, 24#8, plan :: .number 1#32 :: ops)
  | .editPlanGroups l plan ops => some (l, 24#8, plan :: .number 2#32 :: ops)
  | .editPlanEntry l plan ops => some (l, 24#8, plan :: .number 3#32 :: ops)
  | .editPlanRemoveEntry l plan ops => some (l, 24#8, plan :: .number 4#32 :: ops)
  | .editPlanReport l plan ops => some (l, 24#8, plan :: .number 5#32 :: ops)
  | .editClass l ops => some (l, 25#8, ops)
  | .editZone l ops => some (l, 26#8, ops)
  | .editSite l ops => some (l, 27#8, ops)
  | .editUnitGeneral l ops => some (l, 28#8, .number 0#32 :: ops)
  | .editUnitPattern l ops => some (l, 28#8, .number 1#32 :: ops)
  | .save l ops => some (l, 29#8, ops)
  | .queryStore l ops => some (l, 30#8, ops)
  | .clearStoreError l ops => some (l, 31#8, ops)
  | .restart l ops => some (l, 32#8, ops)
  | .opening _ _ | .order _ _ | .operand _ _
  | .gapTimerExpiry _ | .endWithReply _ | .supervisionTimerExpiry _ | .saveWriteEnd _ | .warmRestart
  | .coldStart _ _ | .resetInputHeld | .accumulationTimerExpiry _ | .responseWindowExpiry _
  | .returnFrame _ _ _ | .channelClearAsserted _ | .clearWaitExpiry _ | .leadInEnd _ | .burstEnd _
  | .creditAccrual _ | .sirenOnTimeEnd | .sirenPeriodBoundary | .mainsPresentRises | .mainsPresentFalls
  | .batterySample _ | .powerLoss | .elapsedTimeSecond => none

/-- The commands that may write configuration or the store (sections 11.1, 11.3 and 11.4): the edits, the store's orders
and the end of its write, a cold start, and the frames that may complete such an order. -/
def Instr.mayConfigure : Instr → Bool
  | .editMember _ _ | .editGroup _ _ | .editAppliance _ _ | .editClass _ _ | .editZone _ _ | .editSite _ _
  | .editPlanDelete _ _ _ | .editPlanSettings _ _ _ | .editPlanGroups _ _ _ | .editPlanEntry _ _ _
  | .editPlanRemoveEntry _ _ _ | .editPlanReport _ _ _ | .editUnitGeneral _ _ | .editUnitPattern _ _
  | .save _ _ | .queryStore _ _ | .clearStoreError _ _ | .saveWriteEnd _ | .coldStart _ _ | .order _ _
  | .operand _ _ => true
  | .opening _ _ | .gapTimerExpiry _ | .endWithReply _ | .supervisionTimerExpiry _ | .unknownOrder _ _ _
  | .alert _ _ | .add _ _ | .commit _ _ | .hold _ _ | .resume _ _ | .standDown _ _ | .depart _ _ | .siren _ _
  | .sirenStop _ _ | .queryCallout _ _ | .queryCrew _ _ | .queryMember _ _ | .queryUnit _ _ | .readNotices _ _
  | .ackNotice _ _ | .setMask _ _ | .setAvailability _ _ | .keep _ _ | .relayResponse _ _ | .bookOn _ _
  | .restart _ _ | .warmRestart | .resetInputHeld | .accumulationTimerExpiry _ | .responseWindowExpiry _
  | .returnFrame _ _ _ | .channelClearAsserted _ | .clearWaitExpiry _ | .leadInEnd _ | .burstEnd _
  | .creditAccrual _ | .sirenOnTimeEnd | .sirenPeriodBoundary | .mainsPresentRises | .mainsPresentFalls
  | .batterySample _ | .powerLoss | .elapsedTimeSecond => false

/-- The orders of section 10.3 that the console line alone may send, and those it may not. -/
def Instr.barred : Instr → Bool
  | .keep l _ | .relayResponse l _ => l == .console
  | .bookOn l _ | .depart l _ | .editMember l _ | .editGroup l _ | .editAppliance l _ | .editClass l _
  | .editZone l _ | .editSite l _ | .save l _ | .queryStore l _ | .clearStoreError l _ | .restart l _
  | .editUnitGeneral l _ | .editUnitPattern l _ => l != .console
  | .editPlanDelete l _ _ | .editPlanSettings l _ _ | .editPlanGroups l _ _
  | .editPlanEntry l _ _ | .editPlanRemoveEntry l _ _ | .editPlanReport l _ _ => l != .console
  | .unknownOrder _ _ _ | .alert _ _ | .add _ _ | .commit _ _ | .hold _ _ | .resume _ _ | .standDown _ _
  | .siren _ _ | .sirenStop _ _ | .queryCallout _ _ | .queryCrew _ _ | .queryMember _ _ | .queryUnit _ _
  | .readNotices _ _ | .ackNotice _ _ | .setMask _ _ | .setAvailability _ _ => false
  | .opening _ _ | .order _ _ | .operand _ _
  | .gapTimerExpiry _ | .endWithReply _ | .supervisionTimerExpiry _ | .saveWriteEnd _ | .warmRestart
  | .coldStart _ _ | .resetInputHeld | .accumulationTimerExpiry _ | .responseWindowExpiry _
  | .returnFrame _ _ _ | .channelClearAsserted _ | .clearWaitExpiry _ | .leadInEnd _ | .burstEnd _
  | .creditAccrual _ | .sirenOnTimeEnd | .sirenPeriodBoundary | .mainsPresentRises | .mainsPresentFalls
  | .batterySample _ | .powerLoss | .elapsedTimeSecond => false

/-- The commands of the supply, the reset input and the channel-clear pins, which act on a part that does not run. -/
def Instr.reachesStopped : Instr → Bool
  | .coldStart _ _ | .resetInputHeld | .mainsPresentRises | .mainsPresentFalls | .batterySample _ | .powerLoss
  | .channelClearAsserted _ => true
  | .opening _ _ | .order _ _ | .operand _ _ | .gapTimerExpiry _ | .endWithReply _ | .supervisionTimerExpiry _
  | .unknownOrder _ _ _ | .alert _ _ | .add _ _ | .commit _ _ | .hold _ _ | .resume _ _ | .standDown _ _
  | .depart _ _ | .siren _ _ | .sirenStop _ _ | .queryCallout _ _ | .queryCrew _ _ | .queryMember _ _
  | .queryUnit _ _ | .readNotices _ _ | .ackNotice _ _ | .setMask _ _ | .setAvailability _ _ | .keep _ _
  | .relayResponse _ _ | .bookOn _ _ | .editMember _ _ | .editGroup _ _ | .editAppliance _ _ | .editClass _ _
  | .editZone _ _ | .editSite _ _ | .save _ _ | .queryStore _ _ | .clearStoreError _ _ | .restart _ _
  | .editPlanDelete _ _ _ | .editPlanSettings _ _ _ | .editPlanGroups _ _ _ | .editPlanEntry _ _ _
  | .editPlanRemoveEntry _ _ _ | .editPlanReport _ _ _ | .editUnitGeneral _ _ | .editUnitPattern _ _
  | .saveWriteEnd _ | .warmRestart | .accumulationTimerExpiry _ | .responseWindowExpiry _ | .returnFrame _ _ _
  | .clearWaitExpiry _ | .leadInEnd _ | .burstEnd _ | .creditAccrual _ | .sirenOnTimeEnd | .sirenPeriodBoundary
  | .elapsedTimeSecond => false

end Sys2Proof
end

