-- ==== Sys2Proof/Certificates/Slice0/Obligations.lean ====
section
/-!
DEFINITION. The statements for the provers. Each docstring names the rules of spec/ it rests on; where it rests on a choice
of the model it names the entry of the assumption log.
-/

section

open Sys2Proof Sys2Proof.Machine

/-! ## The machine -/

/-- A step runs the command at the front of the queue on the state with the queue's rest (the model's form, log entry
3). -/
def Obligations.StepTakesFront : Prop :=
  ∀ (c : Instr) (rest : List Instr) (s : State),
    step { s with pending := c :: rest } = exec c { s with pending := rest }

/-- Every command ends in a next state, and no command touches the commands that wait behind it (section 1.1 of
00_scope.md; log entry 28). -/
def Obligations.EveryCommandCompletes : Prop :=
  ∀ (c : Instr) (s : State), ∃ t, exec c s = .next t ∧ t.pending = s.pending

/-- While the part is cut off, held in reset or without power, every command but those of the supply, the reset input
and the channel-clear pins changes nothing (R171, R190, R196). A part held in reset or without power does nothing by itself.
Cut off, the supply monitor alone goes on (R170, R171): a step with no command waiting takes one millisecond from the time to
the next sample, and once a second puts the sample of the battery-sense input into the queue (the model's clock, log entry
4). -/
def Obligations.StoppedPartTakesNothing : Prop :=
  ∀ s : State, s.condition ≠ .running →
    (∀ c : Instr, c.reachesStopped = false → exec c s = .next s)
    ∧ (s.pending = [] →
      (s.condition = .resetHeld ∨ s.condition = .off → step s = .next s)
      ∧ ∀ cause, s.condition = .cutoff cause →
        let falls : Prop := s.supply.sampleTimer ≤ 1
        step s = .next { s with
          supply := { s.supply with sampleTimer := if falls then 1000 else s.supply.sampleTimer - 1 }
          pending := if falls then [.batterySample s.pins.batterySense] else [] })

/-- One millisecond of a running part with no command waiting (the model's clock, log entry 4): each running timer falls
by one and each frozen or stopped one stays; the clear wait, lead-in or burst under way falls by one, and a siren run's time
rises by one; a frame being sent to its end goes on, and a warm restart that waits for it falls due with it (log entry 29);
each callout's elapsed time goes on; each site's accrual count and credit move as R146 gives; the battery is sampled once a
second; just the events that fall due are put into the queue; and no configuration changes. -/
def Obligations.ClockTick : Prop :=
  ∀ s : State, s.pending = [] → s.condition = .running → s.restart ≠ .due →
    let sent (x : Option Tail) : Option Tail := x.bind fun y => if y.left ≤ 1 then none else some { y with left := y.left - 1 }
    ∃ t, step s = .next t
      ∧ (∀ l, t.ctl l = { s.ctl l with gap := (s.ctl l).gap.map (· - 1), tail := sent (s.ctl l).tail })
      ∧ t.lines.superP = { s.lines.superP with timer := s.lines.superP.timer.map (· - 1) }
      ∧ t.lines.superS = { s.lines.superS with timer := s.lines.superS.timer.map (· - 1) }
      ∧ t.restart = (if s.restart = .ending ∧ sent s.lines.console.tail = none then .due else s.restart)
      ∧ (∀ i, t.slot i = match s.slot i with
          | .free x => .free x
          | .live c => .live { c with
                accumulation := if c.accumulation.mark = .running
                  then { remaining := c.accumulation.remaining - 1, mark := .running } else c.accumulation
                responseWindow := if c.responseWindow.mark = .running
                  then { remaining := c.responseWindow.remaining - 1, mark := .running } else c.responseWindow
                elapsed := if c.elapsedMs < 999 then c.elapsed else min (c.elapsed + 1) 65535
                elapsedMs := if c.elapsedMs < 999 then c.elapsedMs + 1 else 0 })
      ∧ (∀ k, t.sites.records.get k =
          let r := s.sites.records.get k
          if r.ceiling ≤ r.credit then { r with accrual := 0 }
          else if r.accrual + 1 < r.divisor then { r with accrual := r.accrual + 1 }
          else { r with accrual := 0, credit := r.credit + 1 })
      ∧ (t.sites.direction = s.sites.direction ∧ t.sites.sequencer = match s.sites.sequencer with
          | .idle => .idle
          | .clearWait k left => .clearWait k (left - 1)
          | .leadIn k forced left => .leadIn k forced (left - 1)
          | .burst k forced left => .burst k forced (left - 1))
      ∧ t.station = { s.station with run := s.station.run.map fun r => { r with time := r.time + 1 } }
      ∧ t.supply = { s.supply with
          sampleTimer := if s.supply.sampleTimer ≤ 1 then 1000 else s.supply.sampleTimer - 1 }
      ∧ (t.condition = .running ∧ t.cause = s.cause ∧ t.pins = s.pins ∧ t.settings = s.settings
          ∧ t.resolver = s.resolver ∧ t.roster = s.roster ∧ t.pages = s.pages ∧ t.store = s.store
          ∧ t.table = { s.table with slots := t.table.slots } ∧ t.lines.breaks = s.lines.breaks)
      ∧ ∀ e, e ∈ t.pending ↔
          (∃ l, e = .gapTimerExpiry l ∧ ∃ n, (s.ctl l).gap = some n ∧ n ≤ 1)
          ∨ (∃ l, e = .supervisionTimerExpiry l ∧ ∃ n, (s.lines.super l).timer = some n ∧ n ≤ 1)
          ∨ (∃ i c, e = .accumulationTimerExpiry i ∧ s.callout? i = some c ∧ c.accumulation.mark = .running
              ∧ c.accumulation.remaining ≤ 1)
          ∨ (∃ i c, e = .responseWindowExpiry i ∧ s.callout? i = some c ∧ c.responseWindow.mark = .running
              ∧ c.responseWindow.remaining ≤ 1)
          ∨ (∃ k left, s.sites.sequencer = .clearWait k left
              ∧ (e = .channelClearAsserted k ∧ s.pins.channelClear.get k = true ∨ e = .clearWaitExpiry k ∧ left ≤ 1))
          ∨ (∃ k forced left, s.sites.sequencer = .leadIn k forced left ∧ left ≤ 1 ∧ e = .leadInEnd k)
          ∨ (∃ k forced left, s.sites.sequencer = .burst k forced left ∧ left ≤ 1 ∧ e = .burstEnd k)
          ∨ (∃ r, s.station.run = some r
              ∧ (r.phase = .on ∧ r.onTime * 1000 ≤ r.time + 1 ∧ e = .sirenOnTimeEnd
                ∨ r.phase = .off ∧ (r.period - r.onTime) * 1000 ≤ r.time + 1 ∧ e = .sirenPeriodBoundary))
          ∨ (e = .batterySample s.pins.batterySense ∧ s.supply.sampleTimer ≤ 1)

/-- A second that passes adds one to the elapsed time of every live callout, up to 65535 s, and changes nothing else (R5);
a credit accrual at a site sets its accrual count to 0 and raises its credit by 1 ms up to the ceiling, and changes nothing
else (R146). Both are commands of the table; log entry 23 says how the first meets the clock. -/
def Obligations.ElapsedSecondAndCreditAccrual : Prop :=
  ∀ s : State, s.condition = .running →
    Leads .elapsedTimeSecond s (fun t =>
      t = { s.toPart with table := { s.table with slots := t.table.slots } }
        ∧ ∀ i, t.slot i = match s.slot i with
            | .free x => .free x
            | .live c => .live { c with elapsed := min (c.elapsed + 1) 65535 })
    ∧ ∀ k, Leads (.creditAccrual k) s fun t =>
        t = { s.toPart with sites := { s.sites with records := t.sites.records } }
          ∧ (∀ j, j ≠ k → t.sites.records.get j = s.sites.records.get j)
          ∧ t.sites.records.get k = { s.sites.records.get k with
              accrual := 0
              credit := if (s.sites.records.get k).credit < (s.sites.records.get k).ceiling
                then (s.sites.records.get k).credit + 1 else (s.sites.records.get k).credit }

/-! ## Exchanges (chapter 10) -/

/-- An OPENING that the bytes received bring is acted on in every state: a reply in progress is broken off, with the frame
being sent, one of its frames, going on to its end, and the exchange becomes OPENED with the gap timer at 500 ms when the code
is this station's, and IDLE otherwise. Only this line's exchange changes, and a warm restart that the broken reply ordered
waits for the end of that frame (R176, R180, R196). The bytes are those the line held and those of the frame, and those not
read as a frame are kept (log entry 2); which frame was under way is free, and a frame of an earlier break goes on (log entry
29). -/
def Obligations.OpeningTaken : Prop :=
  ∀ (l : Line) (frame code : List Byte) (exchange : Byte) (s : State),
    let bytes := (s.ctl l).received ++ frame
    s.condition = .running → openingOf bytes = some (code, exchange) →
    Leads (.opening l frame) s fun t =>
      (t.ctl l).operands = [] ∧ (t.ctl l).received = unread 1#8 bytes
        ∧ (if code = s.settings.stationCode
            then (t.ctl l).state = .opened ∧ (t.ctl l).exchange = exchange ∧ (t.ctl l).gap = some 500
            else (t.ctl l).state = .idle ∧ (t.ctl l).gap = none)
        ∧ (if (s.ctl l).state = .replying
            then (t.ctl l).reply = none ∧ ∃ x, (t.ctl l).tail = some x ∧ match (s.ctl l).tail, (s.ctl l).reply with
              | some y, _ => x = y
              | none, some r => x.frame ∈ r.frames
              | none, none => True
            else (t.ctl l).reply = (s.ctl l).reply ∧ (t.ctl l).tail = (s.ctl l).tail)
        ∧ (t.ctl l).flags = (s.ctl l).flags ∧ (t.ctl l).mask = (s.ctl l).mask
        ∧ (∀ k, k ≠ l → t.ctl k = s.ctl k)
        ∧ t.lines.superP = s.lines.superP ∧ t.lines.superS = s.lines.superS
        ∧ t = { s.toPart with
            lines := t.lines
            restart :=
              if l = .console ∧ (s.ctl l).state = .replying ∧ s.restart = .replying then .ending else s.restart }

/-- The table of R177 and the gap timer of R178: what an ORDER and an OPERAND that the bytes received bring do in each state
of the exchange, and what an expiry does. The bytes are those the line held and those of the frame; those not read as a frame
are kept, and where they hold no frame of the command's kind that is not discarded, nothing else happens (R175; log entry
2). -/
def Obligations.FramesTaken : Prop :=
  ∀ (l : Line) (frame : List Byte) (s : State), s.condition = .running →
    let bytes := (s.ctl l).received ++ frame
    let heard (kind : Byte) : LineController := { s.ctl l with received := unread kind bytes }
    let held (c : LineController) : Part := { s.toPart with lines := s.lines.setCtl l c }
    let discarded (c : LineController) : Part := held { c with state := .idle, operands := [], gap := none }
    (∀ code count, orderOf bytes = some (code, count) →
      Leads (.order l frame) s fun t => match (s.ctl l).state with
        | .opened =>
          if 1 ≤ count ∧ count ≤ 8
          then t = held { heard 2#8 with
            state := .collecting, code := code, declared := count, operands := [], gap := some 500 }
          else (t.ctl l).state = .replying ∧ (t.ctl l).gap = none
            ∧ (8 < count → ∃ r, (t.ctl l).reply = some r ∧ r.refused ≠ none)
        | .collecting => t = discarded (heard 2#8)
        | .idle | .working | .replying => t = held (heard 2#8))
    ∧ (∀ x, operandOf bytes = some x →
      Leads (.operand l frame) s fun t => match (s.ctl l).state with
        | .opened => t = discarded (heard 3#8)
        | .collecting =>
          if (s.ctl l).operands.length + 1 < (s.ctl l).declared
          then t = held { heard 3#8 with operands := (s.ctl l).operands ++ [x], gap := some 500 }
          else (t.ctl l).state = .replying ∧ (t.ctl l).gap = none
        | .idle | .working | .replying => t = held (heard 3#8))
    ∧ Leads (.gapTimerExpiry l) s (fun t => match (s.ctl l).state with
        | .opened | .collecting => t = discarded (s.ctl l)
        | .idle | .working | .replying => t = s.toPart)
    ∧ (openingOf bytes = none → Leads (.opening l frame) s fun t => t = held (heard 1#8))
    ∧ (orderOf bytes = none → Leads (.order l frame) s fun t => t = held (heard 2#8))
    ∧ (operandOf bytes = none → Leads (.operand l frame) s fun t => t = held (heard 3#8))

/-- The frame that completes an exchange has the effect of its order's command: the ORDER frame of an order without
operands, and the OPERAND frame that brings the operands to the declared count, for every order and every operand
(R177, R179), the bytes received apart (log entries 1 and 2). -/
def Obligations.FrameCompletesOrder : Prop :=
  ∀ (c : Instr) (l : Line) (code : Byte) (ops : List Operand) (frame : List Byte) (s : State),
    s.condition = .running → c.wellFormed = true → c.exchange? = some (l, code, ops) →
    let bytes := (s.ctl l).received ++ frame
    let heard (kind : Byte) : State :=
      { s with lines := s.lines.setCtl l { s.ctl l with received := unread kind bytes } }
    (ops = [] → (s.ctl l).state = .opened → orderOf bytes = some (code, 0) →
      exec (.order l frame) s = exec c (heard 2#8))
    ∧ (∀ x, (s.ctl l).state = .collecting → (s.ctl l).code = code → (s.ctl l).declared = ops.length →
      (s.ctl l).operands ++ [x] = ops → operandOf bytes = some x →
      exec (.operand l frame) s = exec c (heard 3#8))

/-- The end with a reply, and supervision (R179, R184): the controller becomes IDLE; a control line's timer is loaded with
its full period, and a DOWN line becomes UP with LINES raised on all three lines. The expiry of a timer that has run out takes
an UP line DOWN, stops its timer and raises LINES; where the end of a reply has loaded the timer afresh, the expiry does not
happen. On the console the end of a reply to RESTART makes the warm restart due (R196). Two clauses
are the model's: the end of a reply ends the frame of an earlier broken-off reply too (log entry 29), and with it makes due the
warm restart that waited for that frame (log entry 21). Outside REPLYING, on a DOWN line, and
on a timer with time left, nothing happens. KEEP from a control line does nothing but reply, with no results; from the console
it is refused NOT_PERMITTED (R185). The station is in local working exactly while both lines are DOWN. -/
def Obligations.ReplyEndsAndSupervision : Prop :=
  ∀ (l : ControlLine) (s : State), s.condition = .running →
    let ended (k : Line) : LineController :=
      { s.ctl k with state := .idle, operands := [], gap := none, reply := none, tail := none }
    let raised (p : Part) (b : Bool) : Part := if b then { p with lines := p.lines.raise .lines } else p
    ((s.ctl l.line).state = .replying → Leads (.endWithReply l.line) s fun t =>
      t = raised
        { s.toPart with lines := (s.lines.setCtl l.line (ended l.line)).setSuper l (.mk true (some (s.settings.period l * 1000))) }
        (!(s.lines.super l).up))
    ∧ ((s.ctl .console).state = .replying → Leads (.endWithReply .console) s fun t =>
      t = { s.toPart with
          lines := s.lines.setCtl .console (ended .console)
          restart := if s.restart = .replying ∨ s.restart = .ending then .due else s.restart })
    ∧ (∀ k, (s.ctl k).state ≠ .replying → exec (.endWithReply k) s = .next s)
    ∧ ((s.lines.super l).up = true → (s.lines.super l).timer = some 0 → Leads (.supervisionTimerExpiry l) s fun t =>
        t = raised { s.toPart with lines := s.lines.setSuper l (.mk false none) } true)
    ∧ ((s.lines.super l).up = false ∨ (s.lines.super l).timer ≠ some 0 → exec (.supervisionTimerExpiry l) s = .next s)
    ∧ ((s.ctl l.line).state = .replying → 0 < s.settings.period l →
        ∃ t, exec (.endWithReply l.line) s = .next t ∧ exec (.supervisionTimerExpiry l) t = .next t)
    ∧ (∀ k, k ≠ .console → Takes (.keep k []) k s [] 0#16 s.toPart)
    ∧ (∀ k ops, k ≠ .console → ops ≠ [] → Refuses (.keep k ops) k s .badOperand [])
    ∧ (∀ ops, Refuses (.keep .console ops) .console s .notPermitted [])
    ∧ (s.localWorking = true ↔ s.lines.superP.up = false ∧ s.lines.superS.up = false)

/-- An order refused leaves every block as it was, raises no notice, and carries no results but for the callout number of
an ALERT refused DUPLICATE; and every order is answered on its own line (R179, R183). -/
def Obligations.RefusedOrderChangesNothing : Prop :=
  ∀ (c : Instr) (l : Line) (code : Byte) (ops : List Operand) (s : State),
    s.condition = .running → c.exchange? = some (l, code, ops) →
    Leads c s fun t =>
      (t.ctl l).state = .replying ∧ (t.ctl l).gap = none
      ∧ ∃ r, (t.ctl l).reply = some r ∧ r.exchange = (s.ctl l).exchange
        ∧ r.notices = (t.ctl l).attention
        ∧ ∀ why, r.refused = some why →
          Answered l (some why) r.results 0#16 s.toPart t ∧ SameBlocks l s.toPart t
          ∧ (r.results ≠ [] → why = .duplicate ∧ ∃ ops, c = .alert l ops)

/-- An unknown order code is refused UNKNOWN_ORDER, and an order the table of section 10.3 does not allow on its line is
refused NOT_PERMITTED, whatever the operands; and such an order has its operands collected first (R177, R178, R181), with its
frame read from the bytes the line held and those of the command (log entry 2). -/
def Obligations.UnknownAndBarredOrders : Prop :=
  ∀ s : State, s.condition = .running →
    (∀ l code ops, Refuses (.unknownOrder l code ops) l s .unknownOrder [])
    ∧ (∀ c l code ops, c.exchange? = some (l, code, ops) → c.barred = true → Refuses c l s .notPermitted [])
    ∧ (∀ l frame code count, let bytes := (s.ctl l).received ++ frame
      orderOf bytes = some (code, count) → (s.ctl l).state = .opened → 1 ≤ count → count ≤ 8 →
      Leads (.order l frame) s fun t =>
        t = { s.toPart with lines := s.lines.setCtl l ({ s.ctl l with
            received := unread 2#8 bytes, state := .collecting, code := code, declared := count, operands := []
            gap := some 500 }) })

/-! ## Notices (section 10.5) -/

/-- A flag once set stays set on each line until that line's ACK-NOTICE, whatever other command comes, while the part
runs; a line's mask stays until that line's SET-MASK; and attention is on exactly when a flag is set that the mask holds or
that is AID (3) or EXHAUSTED (4) (R186). -/
def Obligations.NoticeFlagsStay : Prop :=
  (∀ (c : Instr) (s t : State) (l : Line), exec c s = .next t → s.condition = .running → t.condition = .running →
    (∀ cause x, c ≠ .coldStart cause x) → (∀ k f, c ≠ .order k f ∧ c ≠ .operand k f) →
    ((∀ ops, c ≠ .ackNotice l ops) → (s.ctl l).flags &&& ~~~(t.ctl l).flags = 0#16)
    ∧ ((∀ ops, c ≠ .setMask l ops) → (t.ctl l).mask = (s.ctl l).mask))
  ∧ (∀ (n : Notice) (p : Part) (l : Line), ((p.raise n).ctl l).flags = (p.ctl l).flags ||| 1#16 <<< n.code)
  ∧ ∀ c : LineController, c.attention = true ↔
      ∃ k, c.flags.getLsbD k = true ∧ (c.mask.getLsbD k = true ∨ k = 3 ∨ k = 4)

/-- READ-NOTICES from any line answers the flags, the mask and the attention of its line and changes nothing; it takes no
operands (R187, R182). ACK-NOTICE clears the named flags of its own line and answers those still set; SET-MASK replaces its
own line's mask and answers it; neither touches another line; each is refused BAD_OPERAND for an absent operand, an operand
that is no SET, and a set that holds a code from 10 to 15 (R188, R189). -/
def Obligations.NoticeOrders : Prop :=
  (∀ (l : Line) (s : State), s.condition = .running →
    Takes (.readNotices l []) l s
      [.set (s.ctl l).flags, .set (s.ctl l).mask, num (if (s.ctl l).attention then 1 else 0)] 0#16 s.toPart
    ∧ ∀ ops, ops ≠ [] → Refuses (.readNotices l ops) l s .badOperand [])
  ∧ (∀ (l : Line) (s : State), s.condition = .running →
    (∀ b : Set16, b &&& 0xFC00#16 = 0#16 →
      Leads (.ackNotice l [.set b]) s (fun t =>
        Answered l none [.set ((s.ctl l).flags &&& ~~~b)] 0#16
          { s.toPart with lines := s.lines.setCtl l { s.ctl l with flags := (s.ctl l).flags &&& ~~~b } } t
        ∧ SameBlocks l s.toPart t)
      ∧ Leads (.setMask l [.set b]) s (fun t =>
        Answered l none [.set b] 0#16 { s.toPart with lines := s.lines.setCtl l { s.ctl l with mask := b } } t
        ∧ SameBlocks l s.toPart t))
    ∧ ∀ ops, (∀ b : Set16, b &&& 0xFC00#16 = 0#16 → ops ≠ [.set b]) →
      Refuses (.ackNotice l ops) l s .badOperand [] ∧ Refuses (.setMask l ops) l s .badOperand [])

/-! ## Queries -/

/-- QUERY-UNIT from any line answers the 28 results of R197 as the part stands, and changes nothing (R197, R182). -/
def Obligations.QueryUnit : Prop :=
  ∀ (l : Line) (s : State), s.condition = .running →
    Takes (.queryUnit l []) l s
      [num s.cause.code, num s.supply.state.code, num s.supply.lastSample.val, num s.supply.reserveLevel,
       num (if s.lines.superP.up then 1 else 0), num (if s.lines.superS.up then 1 else 0),
       num (if s.lines.superP.up ∨ s.lines.superS.up then 0 else 1), .text s.settings.stationCode,
       num s.settings.window, num (s.settings.aidPattern.val + 1), num s.settings.periodP, num s.settings.periodS,
       num (if s.station.run.isSome then 1 else 0), optNum (s.station.run.map fun r => r.pattern.val + 1),
       optNum (s.station.run.bind fun r => r.pending.map fun n => n.val + 1),
       num ((s.station.run.map SirenRun.cycles).getD 0),
       num (s.station.lamps.get 0).code, num (s.station.lamps.get 1).code, num (s.station.lamps.get 2).code,
       num (s.station.lamps.get 3).code,
       num (s.pages.queue.map fun b => 1 + b.pages.length).sum, num s.pages.queue.length, num s.pages.demands.length,
       optNum (s.pages.queue.head?.map fun b => b.owner.number.toNat),
       optNum (s.pages.queue.head?.map fun b => b.kind.code),
       .set (setOf ((s.live.filter fun ic => ic.2.flags.txDegraded).map fun ic => ic.1.val + 1)),
       num (if s.store.busy.isSome then 1 else 0), num (if s.store.error then 1 else 0)] 0#16 s.toPart
    ∧ ∀ ops, ops ≠ [] → Refuses (.queryUnit l ops) l s .badOperand []

/-- QUERY-CALLOUT from any line changes nothing. Without an operand it answers the numbers of slots 1 to 8, 0 for FREE, and
their state codes; with a number it answers the 23 results of the first slot that carries it, as a live callout's or as the
summary a FREE slot keeps, and is refused NOT_FOUND when none does; BAD_OPERAND for a number outside 1 to 255, an operand that
is no NUMBER, and more than one operand (R34, R35, R182). -/
def Obligations.QueryCallout : Prop :=
  ∀ (l : Line) (s : State), s.condition = .running →
    let bit (b : Bool) : Nat := if b then 1 else 0
    let flagSet (f : CalloutFlags) : Set16 :=
      (if f.substituted then 1#16 else 0#16) ||| (if f.applianceOmitted then 2#16 else 0#16)
        ||| (if f.groupsOmitted then 4#16 else 0#16) ||| (if f.txDegraded then 8#16 else 0#16)
        ||| (if f.aidRequested then 16#16 else 0#16) ||| (if f.responseLost then 32#16 else 0#16)
    let carries (j : SlotId) (x : BitVec 32) : Prop := match s.slot j with
      | .live c => (c.number.toNat : Int) = x.toInt
      | .free (some y) => (y.number.toNat : Int) = x.toInt
      | .free none => False
    (∀ ops, Spells [.absent] ops → Takes (.queryCallout l ops) l s
      ((slotIds.map fun j => num (match s.slot j with | .live c => c.number.toNat | .free _ => 0))
        ++ slotIds.map fun j => num (match s.slot j with | .live c => c.state.code | .free _ => 0)) 0#16 s.toPart)
    ∧ (∀ (x : BitVec 32) (i : SlotId), 1 ≤ x.toInt → x.toInt ≤ 255 → carries i x → (∀ j, j < i → ¬ carries j x) →
      match s.slot i with
      | .live c => Takes (.queryCallout l [.number x]) l s
          [num (i.val + 1), num c.number.toNat, num c.state.code,
           if c.state = .held then optNum (c.prior.map CalloutState.code) else .absent,
           num (originCode c.origin), .text c.reference, num c.cls.val, num c.zone.val, num (c.plan.val + 1),
           num c.token.toNat, num c.elapsed,
           if c.state = .inOpen ∨ (c.state = .held ∧ c.prior = some .inOpen)
             then num ((c.accumulation.remaining + 999) / 1000) else .absent,
           if c.responseWindow.mark = .stopped then .absent else num ((c.responseWindow.remaining + 999) / 1000),
           num (c.level.val + 4 * bit c.exhausted), num c.assessment.outcome.code,
           .text (c.appliances.map fun e => e.letter.letter),
           .text ((c.appliances.filter ApplianceEntry.departed).map fun e => e.letter.letter),
           .set (c.primary &&& c.paged), .set (c.primary &&& ~~~c.paged), .set (flagSet c.flags),
           num c.responses.length, .absent, num c.alertStatus.code] 0#16 s.toPart
      | .free (some y) => Takes (.queryCallout l [.number x]) l s
          [num (i.val + 1), num y.number.toNat, num 0, .absent, num (originCode y.origin), .text y.reference,
           num y.cls.val, num y.zone.val, num (y.plan.val + 1), num y.token.toNat, num y.elapsed, .absent, .absent,
           num (y.level.val + 4 * bit y.exhausted), num y.outcome.code, .text (y.letters.map Appliance.letter),
           .text (y.departed.map Appliance.letter), .set (y.primary &&& y.paged), .set (y.primary &&& ~~~y.paged),
           .set (flagSet y.flags), num y.responses, num y.endCode, .absent] 0#16 s.toPart
      | .free none => True)
    ∧ (∀ x : BitVec 32,
      (x.toInt < 1 ∨ 255 < x.toInt → Refuses (.queryCallout l [.number x]) l s .badOperand [])
      ∧ (1 ≤ x.toInt → x.toInt ≤ 255 → (∀ j, ¬ carries j x) → Refuses (.queryCallout l [.number x]) l s .notFound []))
    ∧ (∀ o : Operand, ¬ NumberOrAbsent o → Refuses (.queryCallout l [o]) l s .badOperand [])
    ∧ ∀ ops, 1 < ops.length → Refuses (.queryCallout l ops) l s .badOperand []

/-- QUERY-CREW and QUERY-MEMBER from any line change nothing. QUERY-CREW answers the crew summary of a live callout, with
eleven results for each appliance; or the fifteen results of a member's detail, the member named or taken from a place in the
response list. QUERY-MEMBER answers the five counts of the roster, or a member's nine results. NOT_FOUND for a number no live
callout holds, a member with neither a record nor a frozen place, a place beyond the list, and a member not in use;
BAD_OPERAND for an operand of another kind or out of its range, a member and a place together, and too many operands (R110 to
R112, R70, R182). -/
def Obligations.QueryCrewAndMember : Prop :=
  ∀ (l : Line) (s : State), s.condition = .running →
    let bit (b : Bool) : Operand := num (if b then 1 else 0)
    let written (n : Nat) : Text := (Nat.digits 10 n).reverse.map fun d => BitVec.ofNat 8 (0x30 + d)
    let recordOf (c : Callout) (m : MemberId) : Option Response := c.responses.find? fun r => r.member == m
    let frozen (c : Callout) (m : MemberId) : Option (Appliance × CrewMember) :=
      c.appliances.findSome? fun e =>
        if e.departed then (e.crew.find? fun x => x.member == m).map fun x => (e.letter, x) else none
    let letter (o : Option Appliance) : Operand := match o with | some ap => .text [ap.letter] | none => .absent
    let summary (c : Callout) : List Operand :=
      [num c.number.toNat, num c.state.code, num c.assessment.outcome.code, num c.turnout, num c.responses.length,
       num c.assessment.candidates.length,
       num (c.assessment.candidates.filter fun x => x.assignment == .surplus).length]
        ++ (c.appliances.zip c.assessment.entries).flatMap fun ex =>
          [.text [ex.2.letter.letter], bit ex.1.departed, num ex.2.seats, bit ex.2.filled, optNum ex.2.crewedAt,
           bit ex.2.inTime, num ex.2.shortfall.oic, num ex.2.shortfall.drv, num ex.2.shortfall.ba,
           num ex.2.shortfall.gen,
           .text (([0x20#8] : Text).intercalate (ex.2.assigned.map fun y => written (y.member.val + 1)))]
    let detail (c : Callout) (m : MemberId) : List Operand :=
      let r := recordOf c m
      let x := c.assessment.candidates.find? fun x => x.member == m
      [num (m.val + 1), optNum ((c.responses.findIdx? fun r => r.member == m).map (· + 1)),
       optNum (r.map fun r => r.kind.code), optNum (r.bind Response.eta), optNum (r.map Response.minute),
       optNum (r.bind Response.estimate), optNum (r.bind Response.sequence), optNum (r.map fun r => r.source.code),
       optNum (r.map Response.lastChange), optNum (x.map CandidatePart.rank),
       letter (x.bind fun x => match x.assignment with | .seated ap _ => some ap | .surplus => none),
       optNum (x.map fun x => match x.assignment with | .seated _ seat => seat.code | .surplus => 5),
       letter ((frozen c m).map Prod.fst), optNum ((frozen c m).map fun f => f.2.seat.code),
       optNum ((frozen c m).map fun f => f.2.estimate)]
    let counted (q : Member → Bool) : Operand :=
      num ((ascending 128).filter fun m => (s.member? m).any q).length
    (∀ (n : CalloutNo) (i : SlotId) (c : Callout), n ≠ 0#8 → s.lookup n.toNat = some (i, c) →
      (∀ ops, Spells [num n.toNat, .absent, .absent] ops → Takes (.queryCrew l ops) l s (summary c) 0#16 s.toPart)
      ∧ (∀ (m : MemberId) ops, Spells [num n.toNat, num (m.val + 1), .absent] ops →
        if (recordOf c m).isSome ∨ (frozen c m).isSome
        then Takes (.queryCrew l ops) l s (detail c m) 0#16 s.toPart
        else Refuses (.queryCrew l ops) l s .notFound [])
      ∧ (∀ k : Nat, k < 32 → match c.responses[k]? with
        | some r => Takes (.queryCrew l [num n.toNat, .absent, num (k + 1)]) l s (detail c r.member) 0#16 s.toPart
        | none => Refuses (.queryCrew l [num n.toNat, .absent, num (k + 1)]) l s .notFound []))
    ∧ (∀ n : CalloutNo, n ≠ 0#8 → s.lookup n.toNat = none → Refuses (.queryCrew l [num n.toNat]) l s .notFound [])
    ∧ (∀ (o m k : Operand) (ops : List Operand), Spells [o, m, k] ops →
      (∀ x, o = .number x → x.toInt < 1 ∨ 255 < x.toInt)
        ∨ ¬ NumberOrAbsent m ∨ (∃ x, m = .number x ∧ (x.toInt < 1 ∨ 128 < x.toInt))
        ∨ ¬ NumberOrAbsent k ∨ (∃ x, k = .number x ∧ (x.toInt < 1 ∨ 32 < x.toInt))
        ∨ (m ≠ .absent ∧ k ≠ .absent) →
      Refuses (.queryCrew l ops) l s .badOperand [])
    ∧ (∀ ops, 3 < ops.length → Refuses (.queryCrew l ops) l s .badOperand [])
    ∧ (∀ ops, Spells [.absent] ops → Takes (.queryMember l ops) l s
        [counted fun _ => true, counted fun x => x.availability == .available,
         counted fun x => x.availability == .offDuty, counted fun x => x.availability == .withheld,
         counted fun x => x.engaged.isSome] 0#16 s.toPart)
    ∧ (∀ m : MemberId, match s.member? m with
      | none => Refuses (.queryMember l [num (m.val + 1)]) l s .notFound []
      | some x => Takes (.queryMember l [num (m.val + 1)]) l s
          [num (m.val + 1), .text x.callSign, num x.address.toNat,
           .set ((if x.quals.oic then 1#16 else 0#16) ||| (if x.quals.drv then 2#16 else 0#16)
             ||| if x.quals.ba then 4#16 else 0#16),
           .set x.groups, num x.availability.code, num (x.engaged.getD 0#8).toNat,
           optNum ((((x.engaged.bind s.findCallout).bind s.callout?).bind fun c => recordOf c m).map fun r => r.kind.code),
           num (slotIds.filter fun i => (s.callout? i).any fun c => (recordOf c m).isSome).length] 0#16 s.toPart)
    ∧ (∀ o : Operand, ¬ NumberOrAbsent o ∨ (∃ x, o = .number x ∧ (x.toInt < 1 ∨ 128 < x.toInt)) →
      Refuses (.queryMember l [o]) l s .badOperand [])
    ∧ ∀ ops, 1 < ops.length → Refuses (.queryMember l ops) l s .badOperand []

/-! ## Siren, lamps and supply (chapter 9) -/

/-- SIREN from any line is a siren request with the pattern's own cycles when they are absent, and the given ones, 15 at
most, otherwise: dropped in RESERVE, starting a run when none is in progress, and merged otherwise; the reply carries the
outcome and the run after it. A pattern absent or outside 1 to 4, cycles below 1, an operand of another kind, and too many
operands are BAD_OPERAND (R165, R166, R182).
SIREN-STOP from any line ends a run in progress at once, whatever its phase, with its pending pattern, answers 1, and
answers 0 when there was none; the relay is inactive after it (R167). -/
def Obligations.SirenOrders : Prop :=
  (∀ (l : Line) (s : State), s.condition = .running →
    (∀ (pat : PatternId) (ops : List Operand) (n : Nat),
      (ops = [num (pat.val + 1)] ∨ ops = [num (pat.val + 1), .absent]) ∧ n = (s.station.patterns.get pat).cycles
        ∨ (∃ x : BitVec 32, ops = [num (pat.val + 1), .number x] ∧ 1 ≤ x.toInt ∧ n = min x.toInt.toNat 15) →
      let withRun (r : SirenRun) : Part := { s.toPart with station := { s.station with run := some r } }
      if s.supply.state = .reserve then
        Takes (.siren l ops) l s
          [num 2, optNum (s.station.run.map fun r => r.pattern.val + 1),
           optNum (s.station.run.bind fun r => r.pending.map fun n => n.val + 1),
           num ((s.station.run.map SirenRun.cycles).getD 0)] 0#16 s.toPart
      else match s.station.run with
        | none =>
          Takes (.siren l ops) l s [num 0, num (pat.val + 1), .absent, num n] 0#16
            (withRun { pattern := pat, pending := none, cycles := n, phase := .on, time := 0
                       onTime := (s.station.patterns.get pat).onTime, period := (s.station.patterns.get pat).period })
        | some r =>
          let pending := if pat = r.pattern then none else some pat
          Takes (.siren l ops) l s
            [num 1, num (r.pattern.val + 1), optNum (pending.map fun n => n.val + 1), num (max r.cycles n)] 0#16
            (withRun { r with cycles := max r.cycles n, pending := pending }))
    ∧ ∀ ops, 2 < ops.length ∨ ¬ NumberIn (operandAt ops 0) 1 4 ∨ ¬ NumberOrAbsent (operandAt ops 1)
        ∨ (∃ x, operandAt ops 1 = .number x ∧ x.toInt < 1) →
      Refuses (.siren l ops) l s .badOperand [])
  ∧ (∀ (l : Line) (s : State), s.condition = .running →
    Takes (.sirenStop l []) l s [num (if s.station.run.isSome then 1 else 0)] 0#16
      { s.toPart with station := { s.station with run := none } }
    ∧ Leads (.sirenStop l []) s (fun t => t.sirenRelay = false)
    ∧ ∀ ops, ops ≠ [] → Refuses (.sirenStop l ops) l s .badOperand [])

/-- A siren run: when the on-time passes the phase becomes OFF; at a period boundary the cycles fall by one, and the run
ends when they reach 0, or else the next period begins in ON under the pending pattern, if any, with that pattern's period
and on-time as they then are; the relay is active just in the ON phase (R164). -/
def Obligations.SirenRunEvents : Prop :=
  ∀ (s : State) (r : SirenRun), s.condition = .running → s.station.run = some r →
    let withRun (x : Option SirenRun) : Part := { s.toPart with station := { s.station with run := x } }
    let next := r.pending.getD r.pattern
    (s.sirenRelay = true ↔ r.phase = .on)
    ∧ (r.phase = .on → Leads .sirenOnTimeEnd s fun t => t = withRun (some { r with phase := .off, time := 0 }))
    ∧ (r.phase = .off → exec .sirenOnTimeEnd s = .next s)
    ∧ Leads .sirenPeriodBoundary s fun t => t = withRun (if r.cycles ≤ 1 then none else some
        { pattern := next, pending := none, cycles := r.cycles - 1, phase := .on, time := 0
          onTime := (s.station.patterns.get next).onTime, period := (s.station.patterns.get next).period })

/-- The supply states (R170): mains rising makes the state MAINS; mains falling in MAINS settles it from the last sample; a
sample is judged against the state, the reserve level and the hysteresis of 0.30 V. A change of state raises SUPPLY on all
three lines, and nothing else happens when the state stays. The beginning of RESERVE ends the siren run (R168). It ends the
clear wait of a station-powered site too: that site is not keyed, it is settled SKIPPED_RESERVE, and its batch goes on; when it
was the batch's last, the batch has failed, its callout gets TX_DEGRADED with TX raised, and it leaves the queue (R137, R155,
R172). In any other state of the sequencer RESERVE leaves sites, page queue and callouts as they are. Samples below 10.50 V
are the subject of `Obligations.CutoffAndRecovery`. -/
def Obligations.SupplyStates : Prop :=
  ∀ s : State, s.condition = .running →
    let changed (p : Part) (st : SupplyState) : Part :=
      { p with supply := { p.supply with state := st }, lines := p.lines.raise .supply }
    let entersReserve (t : Part) : Prop :=
      t.supply.state = .reserve ∧ t.station.run = none ∧ t.condition = .running ∧ SameConfiguration s.toPart t
        ∧ (∀ l, (t.ctl l).flags.getLsbD 7 = true)
        ∧ (s.Quiet → (∀ k left, s.sites.sequencer = .clearWait k left → (s.sites.records.get k).stationPowered = false) →
          t.sites = s.sites ∧ t.pages = s.pages ∧ t.table = s.table)
        ∧ ∀ k left, s.sites.sequencer = .clearWait k left → (s.sites.records.get k).stationPowered = true →
          t.sites.sequencer.site? ≠ some k
          ∧ (s.Quiet → ∀ b rest, s.pages.queue = b :: rest → b.withdrawing = false → (∃ e ∈ b.remaining, e.site = k) →
            let b' := b.settledAt k .skippedReserve
            GoesOn b' rest s.toPart t
            ∧ (b'.remaining = [] →
              (∀ i c, s.findOwner b.owner = some i → s.callout? i = some c → c.state ≠ .closing →
                (∀ l, (t.ctl l).flags.getLsbD 5 = true) ∧ ∃ c', t.callout? i = some c' ∧ c'.flags.txDegraded = true)
              ∧ (b.kind ≠ .alert → rest = [] → s.pages.demands = [] →
                t.pages.queue = [] ∧ t.sites.sequencer = .idle)))
    let mains (b : Bool) : Part := { s.toPart with pins := { s.pins with mainsPresent := b } }
    Leads .mainsPresentRises s (fun t =>
      t = if s.supply.state = .mains then mains true else changed (mains true) .mains)
    ∧ (1050 ≤ s.supply.lastSample.val ∨ s.supply.state ≠ .mains → Leads .mainsPresentFalls s fun t =>
        if s.supply.state ≠ .mains then t = mains false
        else if s.supply.lastSample.val < s.supply.reserveLevel * 10 then entersReserve t
        else t = changed (mains false) .battery)
    ∧ ∀ x : Level, 1050 ≤ x.val ∨ s.supply.state = .mains →
      let p : Part := { s.toPart with
        pins := { s.pins with batterySense := x }, supply := { s.supply with lastSample := x } }
      Leads (.batterySample x) s fun t => match s.supply.state with
        | .mains => t = p
        | .battery => if x.val < s.supply.reserveLevel * 10 then entersReserve t ∧ t.supply.lastSample = x else t = p
        | .reserve => t = if s.supply.reserveLevel * 10 + 30 ≤ x.val then changed p .battery else p

/-- Cutoff and the stops (R171, R194, R196): a sample below 10.50 V in BATTERY or RESERVE, or a fall of the mains on such a
last sample, cuts the part off; a held reset input and a loss of power stop it. In each case nothing survives but the
stored copies and the restart cause: two parts alike in these, in their pins, and in the supply state and the last sample on
which the event is judged, become one and the same part (the model's own count of breaks is alike too, log entry 29). Every
output is inactive. That every block holds its cold-start value meanwhile is the model's choice (log entry 8). While cut off, a
sample below 11.00 V keeps the part cut off, and a sample of 11.00 V or more, or the mains, brings a cold start with the cause
the cutoff holds (log entry 27). -/
def Obligations.CutoffAndRecovery : Prop :=
  ∀ s : State,
    let stopped (mains : Bool) (sense : Level) (t : Part) : Prop :=
      ColdStarted s.cause mains sense s.toPart t ∧ (∀ i, t.slot i = .free none)
        ∧ (∀ k, t.keyOutput k = false ∧ t.pagingData k = []) ∧ t.sirenRelay = false
        ∧ (∀ ap, t.lampDrives ap = (false, false)) ∧ (∀ l, t.driverEnable l = false) ∧ (∀ l, t.transmit l = [])
        ∧ t.attentionOutput = false
    let forgets (c : Instr) : Prop := ∀ u : State, u.condition = s.condition → u.cause = s.cause → u.pins = s.pins →
      u.store.stored = s.store.stored → u.supply.state = s.supply.state → u.supply.lastSample = s.supply.lastSample →
      u.lines.breaks = s.lines.breaks → ∃ p : Part, Leads c s (fun t => t = p) ∧ Leads c u fun t => t = p
    (∀ x : Level, s.condition = .running → s.supply.state ≠ .mains → x.val < 1050 →
      Leads (.batterySample x) s (fun t => t.condition = .cutoff .cutoff ∧ stopped s.pins.mainsPresent x t)
        ∧ forgets (.batterySample x))
    ∧ (s.condition = .running → s.supply.state = .mains → s.supply.lastSample.val < 1050 →
      Leads .mainsPresentFalls s (fun t => t.condition = .cutoff .cutoff ∧ stopped false s.pins.batterySense t)
        ∧ forgets .mainsPresentFalls)
    ∧ (s.condition ≠ .off →
      Leads .resetInputHeld s (fun t => t.condition = .resetHeld ∧ stopped s.pins.mainsPresent s.pins.batterySense t)
        ∧ forgets .resetInputHeld)
    ∧ Leads .powerLoss s (fun t => t.condition = .off ∧ stopped s.pins.mainsPresent s.pins.batterySense t)
    ∧ forgets .powerLoss
    ∧ ∀ cause, s.condition = .cutoff cause →
      (∀ x : Level, Leads (.batterySample x) s fun t =>
        if x.val < 1100
        then t = { s.toPart with
          pins := { s.pins with batterySense := x }, supply := { s.supply with lastSample := x } }
        else t.condition = .running ∧ ColdStarted cause s.pins.mainsPresent x s.toPart t)
      ∧ Leads .mainsPresentRises s fun t =>
          t.condition = .running ∧ ColdStarted cause true s.pins.batterySense s.toPart t

/-! ## Configuration store and starts (chapter 11) -/

/-- What a cold start leaves (R1 to R3, R51, R71, R144, R161, R174, R190, R192, R195, R196): the cause recorded, each
section read from its stored copy when its length and check are those computed over the copy's contents, and defaulted
otherwise, and every block at its cold-start value. With the mains absent and a first sample below 10.50 V the part waits cut
off. For a part already cut off, a cold start of cause CUTOFF is made once the mains or a sample of 11.00 V has come, with the
cause the cutoff holds, and until then the sample alone is kept (R171, R174; log entry 27). The bytes of a section are free
(log entry 20). -/
def Obligations.ColdStart : Prop :=
  ∀ (s : State) (cause : ColdCause) (x : Level),
    let held : Prop := ∃ k, s.condition = .cutoff k
    (¬ held ∨ cause ≠ .cutoff → Leads (.coldStart cause x) s fun t =>
      t.condition = (if s.pins.mainsPresent = false ∧ x.val < 1050 then .cutoff (startCauseOf cause) else .running)
        ∧ ColdStarted (startCauseOf cause) s.pins.mainsPresent x s.toPart t)
    ∧ (∀ k, s.condition = .cutoff k → Leads (.coldStart .cutoff x) s fun t =>
      if s.pins.mainsPresent = true ∨ 1100 ≤ x.val
      then t.condition = .running ∧ ColdStarted k s.pins.mainsPresent x s.toPart t
      else t = { s.toPart with
        pins := { s.pins with batterySense := x }, supply := { s.supply with lastSample := x } })
    ∧ (let copies := s.store.stored
      let passes (bytes : List Byte) (length : Nat) (check : BitVec 16) : Bool :=
        length == bytes.length && check == checkOf (bitsOfBytes bytes)
      copies.readUnit = (copies.unit.bind fun c =>
          if passes (Config.sectionBytes (.unit c.contents)) c.length c.check then some c.contents else none)
        ∧ copies.readRoster = (copies.roster.bind fun c =>
          if passes (Config.sectionBytes (.roster c.contents)) c.length c.check then some c.contents else none)
        ∧ copies.readPlans = (copies.plans.bind fun c =>
          if passes (Config.sectionBytes (.plans c.contents)) c.length c.check then some c.contents else none)
        ∧ copies.readStation = copies.station.bind fun c =>
          if passes (Config.sectionBytes (.station c.contents)) c.length c.check then some c.contents else none)

/-- EDIT-UNIT from the console (R163, R193): GENERAL sets every given field together and answers the six values after the
edit; PATTERN sets the given fields of one pattern, when the period and cycles are in range and the on-time that stands is at
least 1 and below the period that stands (log entry 25). A value out of its range, a station code that is not four characters,
an operand of another kind, and too many operands are BAD_OPERAND. Operands left out at the end count as absent (R182). -/
def Obligations.EditUnit : Prop :=
  ∀ s : State, s.condition = .running →
    (∀ (code : Option Text) (window aid level periodP periodS : Option (BitVec 32)) (ops : List Operand),
      Spells [optionalText code, optionalNumber window, optionalNumber aid, optionalNumber level, optionalNumber periodP,
        optionalNumber periodS] ops →
      if code.all (fun t => t.length == 4) ∧ inRange window 2 30 ∧ inRange aid 1 4 ∧ inRange level 108 126
          ∧ inRange periodP 5 120 ∧ inRange periodS 5 120
      then
        let u : UnitSettings :=
          { stationCode := (code.map clean).getD s.settings.stationCode
            window := (window.map BitVec.toNat).getD s.settings.window
            aidPattern := (aid.map fun v => Fin.ofNat 4 (v.toNat - 1)).getD s.settings.aidPattern
            periodP := (periodP.map BitVec.toNat).getD s.settings.periodP
            periodS := (periodS.map BitVec.toNat).getD s.settings.periodS }
        let level := (level.map BitVec.toNat).getD s.supply.reserveLevel
        Takes (.editUnitGeneral .console ops) .console s
          [.text u.stationCode, num u.window, num (u.aidPattern.val + 1), num level, num u.periodP, num u.periodS] 0#16
          { s.toPart with settings := u, supply := { s.supply with reserveLevel := level } }
      else Refuses (.editUnitGeneral .console ops) .console s .badOperand [])
    ∧ (∀ ops : List Operand,
      6 < ops.length ∨ (∀ t, operandAt ops 0 ≠ optionalText t) ∨ (∃ k, 1 ≤ k ∧ k ≤ 5 ∧ ¬ NumberOrAbsent (operandAt ops k)) →
      Refuses (.editUnitGeneral .console ops) .console s .badOperand [])
    ∧ (∀ (x : BitVec 32) (period onTime cycles : Option (BitVec 32)) (ops : List Operand),
      Spells [.number x, optionalNumber period, optionalNumber onTime, optionalNumber cycles] ops →
      let k : PatternId := Fin.ofNat 4 (x.toNat - 1)
      let y := s.station.patterns.get k
      let y' : Pattern :=
        { period := (period.map BitVec.toNat).getD y.period, onTime := (onTime.map BitVec.toNat).getD y.onTime
          cycles := (cycles.map BitVec.toNat).getD y.cycles }
      y.period ≤ 60 →
      if 1 ≤ x.toInt ∧ x.toInt ≤ 4 ∧ inRange period 2 60 ∧ onTime.all (fun v => 1 ≤ v.toInt) ∧ inRange cycles 1 15
          ∧ 1 ≤ y'.onTime ∧ y'.onTime < y'.period
      then Takes (.editUnitPattern .console ops) .console s [num (k.val + 1), num y'.period, num y'.onTime, num y'.cycles]
        0#16 { s.toPart with station := { s.station with patterns := s.station.patterns.set k y' } }
      else Refuses (.editUnitPattern .console ops) .console s .badOperand [])
    ∧ ∀ ops : List Operand,
      4 < ops.length ∨ (∀ x, operandAt ops 0 = .number x → x.toInt < 1 ∨ 4 < x.toInt) ∨ (∃ k, 1 ≤ k ∧ k ≤ 3 ∧ ¬ NumberOrAbsent (operandAt ops k)) →
      Refuses (.editUnitPattern .console ops) .console s .badOperand []

/-- SAVE from the console (R194): refused BAD_OPERAND for a section absent, of another kind or outside 0 to 3 and for too many
operands (R182), WRONG_STATE while STORE_ERROR is set, BUSY while a
SAVE is under way; taken, it holds a snapshot of the section, invalidates the stored copy, makes the section WRITING and
answers the section and BUSY. The snapshot holds the section as section 11.1 lists it: UNIT the settings and the reserve level;
ROSTER the groups and each member in use, with the WITHHELD mark set just when the member is WITHHELD, and neither OFF_DUTY nor
the engagement (section 3.1); PLANS the plans, classes and zone maps; STATION the appliances' seats and service, the sites'
configuration fields and the siren patterns. The write's end stores the snapshot and makes the section VALID, or leaves the stored copy
invalid, makes the section FAILED and sets STORE_ERROR; STORE is raised either way. With no SAVE under way the end of a
write changes nothing. A stored copy carries the length and the check of its contents, so that a cold start reads back what
was written; and it reads nothing from an invalidated copy (R192; the bytes of a section are free, log entry 20). -/
def Obligations.Save : Prop :=
  (∀ s : State, s.condition = .running →
    let held (k : Nat) (x : Snapshot) : Prop := match k with
      | 0 => x = .unit { settings := s.settings, reserveLevel := s.supply.reserveLevel }
      | 1 => ∃ r, x = .roster r ∧ r.groups = s.roster.groups
          ∧ ∀ m, r.members.get m = (s.member? m).map fun y =>
              { callSign := y.callSign, address := y.address, quals := y.quals, groups := y.groups
                withheld := match y.availability with | .withheld => true | .available | .offDuty => false }
      | 2 => x = .plans { plans := s.resolver.plans, classes := s.resolver.classes, maps := s.resolver.maps }
      | _ => ∃ r, x = .station r ∧ r.patterns = s.station.patterns
          ∧ (∀ ap : Appliance, r.appliances.get ap.index =
              { seats := (s.appliance ap).seats, inService := (s.appliance ap).inService })
          ∧ ∀ j, let y := s.sites.records.get j
              r.sites.get j = { enabled := y.enabled, stationPowered := y.stationPowered, leadIn := y.leadIn
                                clearWait := y.clearWait, ceiling := y.ceiling, divisor := y.divisor }
    (∀ k, k < 4 →
      if s.store.error = true then Refuses (.save .console [num k]) .console s .wrongState []
      else if s.store.busy ≠ none then Refuses (.save .console [num k]) .console s .busy []
      else ∃ x, held k x ∧ Takes (.save .console [num k]) .console s [num k, num 1] 0#16
        { s.toPart with store := { s.store with
            stored := s.store.stored.invalidate (sectionOf k)
            states := s.store.states.set (sectionOf k) .writing
            busy := some x } })
    ∧ (∀ ops, 1 < ops.length ∨ ¬ NumberIn (operandAt ops 0) 0 3 → Refuses (.save .console ops) .console s .badOperand [])
    ∧ ∀ failed, Leads (.saveWriteEnd failed) s fun t => match s.store.busy with
      | none => t = s.toPart
      | some x => t = { s.toPart with
          lines := s.lines.raise .store
          store := if failed
            then { s.store with states := s.store.states.set x.section .failed, busy := none, error := true }
            else { s.store with
              stored := s.store.stored.put x, states := s.store.states.set x.section .valid, busy := none } })
  ∧ ∀ copies : StoredCopies,
    (∀ x, (copies.put (.unit x)).readUnit = some x ∧ (copies.put (.unit x)).unit = some
        { contents := x, length := (Config.sectionBytes (.unit x)).length
          check := checkOf (bitsOfBytes (Config.sectionBytes (.unit x))) })
    ∧ (∀ x, (copies.put (.roster x)).readRoster = some x) ∧ (∀ x, (copies.put (.plans x)).readPlans = some x)
    ∧ (∀ x, (copies.put (.station x)).readStation = some x)
    ∧ (copies.invalidate .unit).readUnit = none ∧ (copies.invalidate .roster).readRoster = none
    ∧ (copies.invalidate .plans).readPlans = none ∧ (copies.invalidate .station).readStation = none

/-- QUERY-STORE flips the progress toggle while the store is BUSY and answers eight results; CLEAR-STORE-ERROR clears
STORE_ERROR, answers 0 and leaves every section state; both are the console's and take no operands; a cold start leaves the
store IDLE with the toggle 0 and STORE_ERROR clear, and a warm restart keeps all three (R195). -/
def Obligations.QueryStoreAndClear : Prop :=
  ∀ s : State, s.condition = .running →
    let toggle := if s.store.busy.isSome then !s.store.toggle else s.store.toggle
    let bit (b : Bool) : Operand := num (if b then 1 else 0)
    Takes (.queryStore .console []) .console s
      [bit s.store.busy.isSome, optNum (s.store.busy.map fun x => x.section.code), bit toggle, bit s.store.error,
       num s.store.states.unit.code, num s.store.states.roster.code, num s.store.states.plans.code,
       num s.store.states.station.code] 0#16 { s.toPart with store := { s.store with toggle := toggle } }
    ∧ Takes (.clearStoreError .console []) .console s [num 0] 0#16
        { s.toPart with store := { s.store with error := false } }
    ∧ (∀ ops, ops ≠ [] → Refuses (.queryStore .console ops) .console s .badOperand []
        ∧ Refuses (.clearStoreError .console ops) .console s .badOperand [])
    ∧ (∀ l ops, l ≠ .console → Refuses (.queryStore l ops) l s .notPermitted []
        ∧ Refuses (.clearStoreError l ops) l s .notPermitted [])
    ∧ (∀ cause x, Leads (.coldStart cause x) s fun t =>
        t.store.busy = none ∧ t.store.toggle = false ∧ t.store.error = false)
    ∧ Leads .warmRestart s fun t =>
        t.store.busy = s.store.busy ∧ t.store.toggle = s.store.toggle ∧ t.store.error = s.store.error

/-- RESTART from the console answers the cause 3 and puts a warm restart on its way: one not yet on its way waits for the end
of this reply, and so does one whose reply this order breaks off, once the frame being sent has ended; one that waits for
such a frame, or is due, stays so, the second RESTART absorbed into it by the model's choice (R180, R196; log entries 21 and
29). A step with no command waiting puts a warm restart that
is due into the queue (log entry 21). -/
def Obligations.Restart : Prop :=
  ∀ s : State, s.condition = .running →
    Leads (.restart .console []) s (fun t =>
      Answered .console none [num 3] 0#16 s.toPart t
        ∧ t = { s.toPart with
            lines := t.lines
            restart := match s.restart with
              | .none => .replying
              | .replying => if (s.ctl .console).state = .replying then .ending else .replying
              | .ending => .ending
              | .due => .due })
    ∧ (∀ ops, ops ≠ [] → Refuses (.restart .console ops) .console s .badOperand [])
    ∧ (s.restart = .due → s.pending = [] → step s = .next { s with pending := [.warmRestart] })

/-- A warm restart records its cause, takes every controller to IDLE, breaking off a reply, keeps flags and masks and sets
RESTART, loads the timer of each UP line afresh, and keeps the configuration, the supply, the siren run, the numbers and every
callout that is neither ALERTING nor CLOSING but for TX_DEGRADED, the alert batch status and PAGED marks; with no callout
ALERTING or CLOSING the page queue and the demand list are empty after it and the roster and the resolver are whole (R36, R52,
R72, R144, R162, R190, R196). The ALERT of each ALERTING callout and the STAND_DOWN of each CLOSING one is demanded again,
whole and for all sites, in slot order: the first that fit the queue are its batches, and the others wait; stated where each
has groups, a site can be used, and the first batch's first turn finds credit enough. Then, as with no such callout, a callout
gets TX_DEGRADED just when it owned a batch or demand of another kind, its OUTSTANDING ALERT, if that is lost, becomes ENDED,
and nothing else of it changes (R36; log entry 16). -/
def Obligations.WarmRestart : Prop :=
  ∀ s : State, s.condition = .running →
    Leads .warmRestart s fun t =>
      t.cause = .warm ∧ t.restart = .none ∧ t.condition = .running ∧ t.pins = s.pins
      ∧ (∀ l, (t.ctl l).state = .idle ∧ (t.ctl l).gap = none ∧ (t.ctl l).reply = none
          ∧ (t.ctl l).mask = (s.ctl l).mask
          ∧ ((s.ctl l).state = .replying → (t.ctl l).tail ≠ none)
          ∧ ((s.ctl l).flags ||| 1#16 <<< 9) &&& ~~~(t.ctl l).flags = 0#16)
      ∧ t.lines.superP = (if s.lines.superP.up
          then { up := true, timer := some (s.settings.periodP * 1000) } else s.lines.superP)
      ∧ t.lines.superS = (if s.lines.superS.up
          then { up := true, timer := some (s.settings.periodS * 1000) } else s.lines.superS)
      ∧ SameConfiguration s.toPart t
      ∧ t.supply = s.supply ∧ t.station.run = s.station.run
      ∧ t.table.lastNumber = s.table.lastNumber ∧ t.table.lastToken = s.table.lastToken
      ∧ (∀ i c, s.callout? i = some c → c.state ≠ .alerting → c.state ≠ .closing →
          ∃ c', t.callout? i = some c' ∧ c' = { c with
            alertStatus := c'.alertStatus, paged := c'.paged
            flags := { c.flags with txDegraded := c'.flags.txDegraded } })
      ∧ ((∀ i c, s.callout? i = some c → c.state ≠ .alerting ∧ c.state ≠ .closing) →
          t.pages.queue = [] ∧ t.pages.demands = [] ∧ t.sites.sequencer = .idle
            ∧ t.roster = s.roster ∧ t.resolver = s.resolver
            ∧ ∀ k, t.sites.records.get k = s.sites.records.get k)
      ∧ (let again := s.demandsAgain
        let pages (d : Demand) : List Page := s.formPages d
        let sizes (n : Nat) : Nat := ((again.take n).map fun d => 1 + (pages d).length).sum
        let sitesOf (n : Nat) : List SiteId := s.siteList (Direction.flip^[n + 1] s.sites.direction)
        s.NumbersDistinct → (∀ d ∈ again, d.content ≠ .groups []) →
        (∀ d rest, again = d :: rest → ∃ k more, sitesOf 0 = k :: more
          ∧ s.turnCost k (pages d) ≤ (s.sites.records.get k).credit
          ∧ (s.sites.records.get k).credit ≤ (s.sites.records.get k).ceiling) →
        (∀ i c, s.callout? i = some c →
          let again (k : BatchKind) : Prop := c.state = .alerting ∧ k = .alert ∨ c.state = .closing ∧ k = .standDown
          ∃ c', t.callout? i = some c' ∧ c' = { c with
              alertStatus := c'.alertStatus, flags := { c.flags with txDegraded := c'.flags.txDegraded } }
            ∧ (c'.flags.txDegraded = true ↔ c.flags.txDegraded = true ∨ ∃ k, s.Owns c k ∧ ¬ again k)
            ∧ (c.state ≠ .alerting ∧ c.alertStatus = .outstanding ∧ s.Owns c .alert → c'.alertStatus = .ended)
            ∧ (¬ (c.state ≠ .alerting ∧ c.alertStatus = .outstanding ∧ s.Owns c .alert) → c'.alertStatus = c.alertStatus))
        ∧ t.roster = s.roster ∧ t.resolver = s.resolver
        ∧ ∃ n, n ≤ again.length ∧ t.pages.demands = again.drop n ∧ t.pages.queue.length = n
          ∧ sizes n ≤ 64 ∧ (n < again.length → 64 < sizes (n + 1))
          ∧ (∀ (j : Nat) (d : Demand) (b : Batch), again[j]? = some d → t.pages.queue[j]? = some b →
            b = { kind := d.kind, owner := d.owner, pages := pages d
                  sites := (sitesOf j).map fun k => { site := k, condition := .toServe }
                  started := b.started, withdrawing := false }
              ∧ (b.started = true → j = 0))
          ∧ ∀ d rest, again = d :: rest → ∀ k more, sitesOf 0 = k :: more → TurnBegun k (pages d) s.toPart t)

/-! ## Invariants that every step keeps, and whole-machine rules -/

/-- Every step keeps each site's credit between 0 and its ceiling (R146), and the queue within its 64 entries and the demand
list within its 16 places (R131, R133, R135); and it leaves no work over: no report waiting, no ended batch in the queue with
the sequencer IDLE, and no turn that could be taken (R137, R148). -/
def Obligations.BoundsKept : Prop :=
  (∀ s t : State, s.CreditsWithin → step s = .next t → t.CreditsWithin)
  ∧ (∀ s t : State, s.QueueWithin → step s = .next t → t.QueueWithin)
  ∧ (∀ s t : State, s.Quiet → step s = .next t → t.Quiet)

/-- Every step keeps the lines sound: no exchange stays in WORKING, a gap timer runs just in OPENED and COLLECTING, a reply
is held just in REPLYING, fewer operands than declared are held in COLLECTING, and a supervision timer runs just while its
line is UP (R177 to R180, R184); it keeps flags and masks within the ten codes (section 10.5); and it keeps a RESTART on its
way only while the console sends its reply, or the frame of it that was broken off (R180, R196). -/
def Obligations.LinesAndNoticesKept : Prop :=
  (∀ s t : State, s.LinesSound → step s = .next t → t.LinesSound)
  ∧ (∀ s t : State, s.NoticesWithin → step s = .next t → t.NoticesWithin)
  ∧ (∀ s t : State, s.RestartSound → step s = .next t → t.RestartSound)

/-- Every step keeps this: no siren run is in progress in RESERVE, and no SAVE is under way while STORE_ERROR is set (R165,
R168, R194, R195). And every step keeps the lamps right, so that a lamp shows CREWED exactly when its appliance is committed,
not departed and filled in its callout's current assessment, CALLED exactly when committed, not departed and not filled, and
DARK otherwise (R169). While the part runs, a lamp's first drive line is active just for CALLED and its second just for CREWED
(section 9.5), and the attention output is active just when the console has a flag set that its mask holds or that is AID (3) or
EXHAUSTED (4) (R186); on a part that does not run all of them are inactive. -/
def Obligations.StationAndStoreKept : Prop :=
  (∀ s t : State, s.SirenSound → s.StoreSound → step s = .next t → t.SirenSound ∧ t.StoreSound)
  ∧ (∀ s t : State, s.LampsRight → step s = .next t → t.LampsRight)
  ∧ (∀ p : Part, p.LampsRight → p.NumbersDistinct → ∀ ap : Appliance,
    let lamp := p.station.lamps.get ap.index
    ((p.appliance ap).committed = none → lamp = .dark)
    ∧ ∀ i c, p.callout? i = some c → (p.appliance ap).committed = some c.number →
      let departed : Prop := ∃ e ∈ c.appliances, e.letter = ap ∧ e.departed = true
      let filled : Prop := ∃ x ∈ c.assessment.entries, x.letter = ap ∧ x.filled = true
      (lamp = .crewed ↔ ¬ departed ∧ filled) ∧ (lamp = .called ↔ ¬ departed ∧ ¬ filled) ∧ (lamp = .dark ↔ departed))
  ∧ ∀ p : Part,
    (p.condition = .running →
      (∀ ap : Appliance, p.lampDrives ap = match p.station.lamps.get ap.index with
        | .dark => (false, false) | .called => (true, false) | .crewed => (false, true))
      ∧ (p.attentionOutput = true ↔ ∃ k, p.lines.console.flags.getLsbD k = true
        ∧ (p.lines.console.mask.getLsbD k = true ∨ k = 3 ∨ k = 4)))
    ∧ (p.condition ≠ .running → (∀ ap, p.lampDrives ap = (false, false)) ∧ p.attentionOutput = false)

/-- Every step keeps the free order right: it holds each FREE slot once and no other (R1); given that, it keeps numbers,
tokens and references of live callouts pairwise distinct, and no number or token 0 (R1, R2, R3); and it keeps each callout at
one record a member, 32 records at most, and one or more distinct appliances (R73, R92, R12). It keeps plan records as section
2.2 has them, and with them the appliance lists at three entries, each with a requirement (R12, R4). It keeps what goes with a
state: a prior state, one of four, just while HELD, held-back entries, eight at most, only while HELD, and stand-down groups just
while CLOSING (section 1.2). Given the first of these, it keeps roster and response lists in step (R54, R56): an engaged member is
AVAILABLE and holds an ATTENDING or ARRIVED record on the live callout named; the member of such a record is engaged on its
callout, so on no other, and that callout is not CLOSING (R30). And it keeps commitment and appliance lists in step (R12, R48): a
committed appliance stands in the list of the live callout named, which is not CLOSING, and every other live callout holds the
appliances it lists committed. -/
def Obligations.CalloutTableKept : Prop :=
  (∀ s t : State, s.FreeOrderRight → step s = .next t → t.FreeOrderRight)
  ∧ (∀ s t : State, s.FreeOrderRight → s.NumbersDistinct → step s = .next t → t.NumbersDistinct)
  ∧ (∀ s t : State, s.CalloutsSound → step s = .next t → t.CalloutsSound)
  ∧ (∀ s t : State, s.PlansSound → step s = .next t → t.PlansSound)
  ∧ (∀ s t : State, s.PlansSound → s.AppliancesWithin → step s = .next t → t.AppliancesWithin)
  ∧ (∀ s t : State, s.StatesRight → step s = .next t → t.StatesRight)
  ∧ (∀ s t : State, s.FreeOrderRight → s.NumbersDistinct → s.CalloutsSound → s.StatesRight → s.EngagementRight →
    step s = .next t → t.EngagementRight)
  ∧ (∀ s t : State, s.FreeOrderRight → s.NumbersDistinct → s.CalloutsSound → s.StatesRight → s.CommitmentRight →
    step s = .next t → t.CommitmentRight)

/-- The record of a callout across a step: what an ALERT filled in stays, the escalation level never falls, the exhausted
flag and the six flags once set stay, and the elapsed time never falls (R4, R5, section 1.2, R115). A change of a callout's
state raises CALLOUT on all three lines, and so do a callout made and, while the part runs on and makes no cold start, one that
becomes FREE (R6). -/
def Obligations.CalloutHistory : Prop :=
  (∀ (s t : State) (i : SlotId), step s = .next t →
    let raised : Prop := ∀ l, (t.ctl l).flags.getLsbD 0 = true
    (∀ a b, s.callout? i = some a → t.callout? i = some b → b.state ≠ a.state → raised)
    ∧ (∀ b, s.callout? i = none → t.callout? i = some b → raised)
    ∧ (∀ a, s.callout? i = some a → t.callout? i = none → s.condition = .running → t.condition = .running →
      (∀ cause x, s.pending.head? ≠ some (.coldStart cause x)) → raised))
  ∧ ∀ (s t : State) (i : SlotId) (a b : Callout), s.FreeOrderRight → step s = .next t →
    s.callout? i = some a → t.callout? i = some b →
    (b.number = a.number ∧ b.token = a.token ∧ b.reference = a.reference ∧ b.origin = a.origin ∧ b.cls = a.cls
      ∧ b.zone = a.zone ∧ b.plan = a.plan ∧ b.window = a.window ∧ b.turnout = a.turnout
      ∧ b.sirenPolicy = a.sirenPolicy ∧ b.sirenPattern = a.sirenPattern ∧ b.text = a.text)
    ∧ a.level ≤ b.level ∧ (a.exhausted = true → b.exhausted = true)
    ∧ a.flags.toSet &&& ~~~b.flags.toSet = 0#16
    ∧ (a.elapsed ≤ 65535 → a.elapsed ≤ b.elapsed)

/-- The state right after reset, which is a cold start of cause POWER from a blank store (log entries 6 and 7), has every
invariant above. -/
def Obligations.InvariantsAtReset : Prop :=
  State.reset.CreditsWithin ∧ State.reset.QueueWithin ∧ State.reset.LinesSound ∧ State.reset.NoticesWithin
    ∧ State.reset.RestartSound ∧ State.reset.SirenSound ∧ State.reset.StoreSound ∧ State.reset.FreeOrderRight
    ∧ State.reset.LampsRight ∧ State.reset.NumbersDistinct ∧ State.reset.CalloutsSound ∧ State.reset.Quiet
    ∧ State.reset.PlansSound ∧ State.reset.AppliancesWithin ∧ State.reset.StatesRight ∧ State.reset.EngagementRight
    ∧ State.reset.CommitmentRight

/-- Only the edits, the store's own orders, the starts, SET-AVAILABILITY for the WITHHELD mark, and the frames that complete
such orders write configuration or the store: every other command leaves them as they are while the part runs on (sections 3.1
and 11.1). SET-AVAILABILITY writes no other configuration; and of the commands that are neither edits, store orders, cold starts
nor frames, its order from the console alone moves a member into WITHHELD or out of it (section 3.2, R58, R60, R61). -/
def Obligations.ConfigurationStays : Prop :=
  ∀ (c : Instr) (s t : State), exec c s = .next t → s.condition = .running → t.condition = .running →
    c.mayConfigure = false → SameConfiguration s.toPart t.toPart
      ∧ ((∀ ops, c ≠ .setAvailability .console ops) → ∀ m,
        (s.member? m).map (fun x => decide (x.availability = .withheld))
          = (t.member? m).map fun x => decide (x.availability = .withheld))

/-! ## Transmitter sites (chapter 8) -/

/-- EDIT-SITE from the console (R158, R159): a read, with every field absent, is taken and changes nothing; an edit is
refused WRONG_STATE while the site is in CLEAR_WAIT, LEAD_IN or BURST; taken, it sets every given field, with the credit and
the accrual count as R159 gives, and answers the eleven values after it. A site or a value out of its range, an operand of
another kind, and too many operands are BAD_OPERAND. Operands left out at the end count as absent (R182). -/
def Obligations.EditSite : Prop :=
  ∀ s : State, s.condition = .running →
    (∀ (x : BitVec 32) (enabled powered leadIn clearWait ceiling divisor : Option (BitVec 32)) (ops : List Operand),
      Spells [.number x, optionalNumber enabled, optionalNumber powered, optionalNumber leadIn, optionalNumber clearWait,
        optionalNumber ceiling, optionalNumber divisor] ops →
      let k : SiteId := Fin.ofNat 6 x.toNat
      let r := s.sites.records.get k
      let isOne (v : BitVec 32) : Bool := v == 1#32
      let ceiling' := (ceiling.map BitVec.toNat).getD r.ceiling
      let divisor' := (divisor.map BitVec.toNat).getD r.divisor
      let r' : SiteRecord :=
        { enabled := (enabled.map isOne).getD r.enabled, stationPowered := (powered.map isOne).getD r.stationPowered
          leadIn := (leadIn.map BitVec.toNat).getD r.leadIn, clearWait := (clearWait.map BitVec.toNat).getD r.clearWait
          ceiling := ceiling', divisor := divisor'
          credit := if ceiling.isSome ∧ ceiling' ≤ r.credit then ceiling' else r.credit
          accrual := if ceiling.isSome ∧ (ceiling' ≤ r.credit ∨ r.credit = r.ceiling) ∨ divisor' ≠ r.divisor then 0
            else r.accrual }
      let results (r : SiteRecord) : List Operand :=
        [num k.val, num (if r.enabled then 1 else 0), num (if r.stationPowered then 1 else 0), num r.leadIn,
         num r.clearWait, num r.ceiling, num r.divisor, num r.credit, num r.accrual,
         num (match s.sites.sequencer with
           | .idle => 0
           | .clearWait j _ => if j = k then 1 else 0
           | .leadIn j _ _ | .burst j _ _ => if j = k then 2 else 0),
         num (match s.sites.direction with | .ascending => 0 | .descending => 1)]
      if ¬ (0 ≤ x.toInt ∧ x.toInt ≤ 5 ∧ inRange enabled 0 1 ∧ inRange powered 0 1 ∧ inRange leadIn 50 500
          ∧ inRange clearWait 5 100 ∧ inRange ceiling 1000 60000 ∧ inRange divisor 2 100)
      then Refuses (.editSite .console ops) .console s .badOperand []
      else if enabled = none ∧ powered = none ∧ leadIn = none ∧ clearWait = none ∧ ceiling = none ∧ divisor = none
      then Takes (.editSite .console ops) .console s (results r) 0#16 s.toPart
      else if s.sites.sequencer.site? = some k
      then Refuses (.editSite .console ops) .console s .wrongState []
      else Takes (.editSite .console ops) .console s (results r') 0#16
        { s.toPart with sites := { s.sites with records := s.sites.records.set k r' } })
    ∧ ∀ ops : List Operand,
      7 < ops.length ∨ (∀ x, operandAt ops 0 ≠ .number x) ∨ (∃ k, 1 ≤ k ∧ k ≤ 6 ∧ ¬ NumberOrAbsent (operandAt ops k)) →
      Refuses (.editSite .console ops) .console s .badOperand []

/-- A demand handed to the page queue is admitted at once when no demand waits and its 1 plus its addressees or pages fit the
64 entries; joins the demand list while that has fewer than 16; and is dropped otherwise, with a failed end report (R131,
R133). After entries are freed, admission is tried for the oldest demand, and again for the next, until one finds no room. At
an admission the direction turns round, the pages are formed from the owning callout's record as it stands, and the batch
enters the queue behind the others for the enabled sites in the new direction, less the station-powered ones in RESERVE and
those its restriction leaves out; one without pages ends at once, and one without sites ends at once failed (R128, R129, R134,
R147, R172). -/
def Obligations.DemandsAdmitted : Prop :=
  ∀ (p : Part) (d : Demand),
    let used := (p.pages.queue.map fun b => 1 + b.pages.length).sum
    let size (d : Demand) : Nat := 1 + match d.content with
      | .groups gs => gs.length
      | .members ms => ms.length
      | .formed ps => ps.length
    let onPages (q : PageQueue) : Part := { p with pages := q }
    (p.demand d = if p.pages.demands = [] ∧ used + size d ≤ 64 then p.admission d
      else if p.pages.demands.length < 16 then onPages { p.pages with demands := p.pages.demands ++ [d] }
      else onPages { p.pages with reports := p.pages.reports ++ [.ended d.owner d.kind .dropped true] })
    ∧ (p.pages.demands = [] → p.tryAdmissions = p)
    ∧ (∀ e rest, p.pages.demands = e :: rest → p.tryAdmissions =
        if used + size e ≤ 64 then ((onPages { p.pages with demands := rest }).admission e).tryAdmissions else p)
    ∧ (let turned : Direction := match p.sites.direction with | .ascending => .descending | .descending => .ascending
      let order : List SiteId := match turned with | .ascending => [0, 1, 2, 3, 4, 5] | .descending => [5, 4, 3, 2, 1, 0]
      let listed := order.filter fun k =>
        (p.sites.records.get k).enabled
          && !(p.supply.state == .reserve && (p.sites.records.get k).stationPowered)
          && match d.restrict with | .all => true | .only l => l.contains k
      let pages := p.formPages d
      p.admission d = { p with
        sites := { p.sites with direction := turned }
        pages := if pages = [] then { p.pages with reports := p.pages.reports ++ [.ended d.owner d.kind .complete false] }
          else if listed = [] then { p.pages with reports := p.pages.reports ++ [.ended d.owner d.kind .complete true] }
          else { p.pages with queue := p.pages.queue ++
            [{ kind := d.kind, owner := d.owner, pages := pages
               sites := listed.map fun k => { site := k, condition := .toServe }
               started := false, withdrawing := false }] } })
    ∧ (∀ i c, p.findOwner d.owner = some i → p.callout? i = some c →
      let page (who : Addressee) (address : Address) : Page :=
        { addressee := who, address := address, token := c.token, number := c.number, cls := c.cls, zone := c.zone
          kind := match d.kind with
            | .alert | .supplement | .escalate => .alert
            | .repage => .repage
            | .release => .notRequired
            | .standDown => .standDown
          escalated := decide (d.kind = .repage ∨ d.kind = .escalate)
          text := if d.kind = .release ∨ d.kind = .standDown then [] else c.text }
      p.formPages d = match d.content with
        | .formed ps => ps
        | .groups gs => gs.map fun g => page (.group g) (p.roster.groups.get g).address
        | .members ms => ms.filterMap fun m => (p.member? m).map fun x => page (.member m) x.address)

/-- The work that follows within an event (R135, R137, R148 to R150, R152), in the order the model takes it where the rules
leave it open (log entry 9): the oldest report first; then, with the sequencer IDLE, a current batch whose sites are all
settled leaves the queue and admission is tried; and otherwise a turn is taken at its first remaining site. That site is settled SKIPPED_RESERVE when it is station-powered in RESERVE, and
SKIPPED_AIRTIME when its ceiling is below the pass's airtime; with too little credit it is put behind the other remaining sites
once, if there are any, and settled SKIPPED_AIRTIME otherwise; with credit enough it is keyed when its channel is clear, and
waits for it otherwise. A site settled is reported, and the last is followed by the end report, failed when a site was not
DONE. After a batch's last site, the next batch joins the keyed site when it begins there and the same checks, with no lead-in,
let it; otherwise the site is unkeyed. -/
def Obligations.TurnsTaken : Prop :=
  ∀ p : Part,
    let settled (b : Batch) (k : SiteId) (o : PassOutcome) : Batch :=
      { b with sites := b.sites.map fun e => if e.site = k then { e with condition := .settled o } else e }
    let allSettled (b : Batch) : Prop := ∀ e ∈ b.sites, ∃ o, e.condition = .settled o
    let first (b : Batch) (e : SiteEntry) : Prop := ∃ l r, b.sites = l ++ e :: r ∧ (∀ o, e.condition ≠ .settled o)
      ∧ ∀ x ∈ l, ∃ o, x.condition = .settled o
    let deferred (b : Batch) (k : SiteId) : Batch :=
      { b with sites := (b.sites.filter fun e => e.site ≠ k) ++ [{ site := k, condition := .deferred }] }
    let debited (k : SiteId) (cost : Nat) : Table 6 SiteRecord :=
      p.sites.records.set k { p.sites.records.get k with credit := (p.sites.records.get k).credit - cost }
    (∀ r rest, p.pages.reports = r :: rest →
      p.workStep = some (({ p with pages := { p.pages with reports := rest } } : Part).takeReport r))
    ∧ (p.pages.reports = [] → p.sites.sequencer ≠ .idle ∨ p.pages.queue = [] → p.workStep = none)
    ∧ ∀ b rest, p.pages.queue = b :: rest →
      let withBatch (x : Batch) : Part := { p with pages := { p.pages with queue := x :: rest } }
      (p.pages.reports = [] → p.sites.sequencer = .idle →
        (allSettled b → p.workStep = some ({ p with pages := { p.pages with queue := rest } } : Part).tryAdmissions)
        ∧ (¬ allSettled b → b.withdrawing = false → ∀ e, first b e →
          let r := p.sites.records.get e.site
          let cost := r.leadIn + burstTime b.pages
          p.workStep = some (
            if p.supply.state = .reserve ∧ r.stationPowered = true then p.settle e.site .skippedReserve
            else if r.ceiling < cost then p.settle e.site .skippedAirtime
            else if r.credit < cost then
              if e.condition = .toServe ∧ 1 < b.remaining.length then withBatch (deferred b e.site)
              else p.settle e.site .skippedAirtime
            else if p.pins.channelClear.get e.site = true then
              { withBatch { b with started := true } with
                sites := { p.sites with records := debited e.site cost, sequencer := .leadIn e.site false r.leadIn } }
            else { p with sites := { p.sites with sequencer := .clearWait e.site (r.clearWait * 100) } })))
      ∧ (∀ k o, p.settle k o = { p with pages := { p.pages with
          queue := settled b k o :: rest
          reports := p.pages.reports ++ .pass b.owner o b.groups ::
            if (settled b k o).remaining = [] then [.ended b.owner b.kind .complete (settled b k o).failed] else [] } })
      ∧ (b.failed = true ↔ ∃ e ∈ b.sites, ∃ o, e.condition = .settled o ∧ o ≠ .done)
      ∧ (b.remaining = [] ↔ allSettled b)
      ∧ ∀ (k : SiteId),
        let unkeyed : Part := { p with sites := { p.sites with sequencer := .idle } }
        (allSettled b → p.joinOrUnkey k = unkeyed)
        ∧ ∀ e, first b e →
          let r := p.sites.records.get k
          let cost := burstTime b.pages
          p.joinOrUnkey k =
            if e.site ≠ k then unkeyed
            else if p.supply.state = .reserve ∧ r.stationPowered = true then unkeyed.settle k .skippedReserve
            else if r.ceiling < cost then unkeyed.settle k .skippedAirtime
            else if r.credit < cost then
              if e.condition = .toServe ∧ 1 < b.remaining.length
              then { withBatch (deferred b k) with sites := { p.sites with sequencer := .idle } }
              else unkeyed.settle k .skippedAirtime
            else { withBatch { b with started := true } with
              sites := { p.sites with records := debited k cost, sequencer := .burst k false cost } }

/-- A clear wait ends (R150): the channel-clear input keys the site with the clear mark clear, the expiry of the limit keys
it FORCED; either way the pass's airtime is debited and the lead-in begins. Outside that site's clear wait the input moves
its pin only, and an expiry changes nothing. -/
def Obligations.ClearWaitEnds : Prop :=
  ∀ (s : State) (k : SiteId), s.condition = .running →
    let r := s.sites.records.get k
    let keyed (p : Part) (b : Batch) (rest : List Batch) (forced : Bool) : Part :=
      { p with
        pages := { p.pages with queue := { b with started := true } :: rest }
        sites := { p.sites with
          records := p.sites.records.set k { r with credit := r.credit - (r.leadIn + burstTime b.pages) }
          sequencer := .leadIn k forced r.leadIn } }
    let pinned : Part := { s.toPart with pins := { s.pins with channelClear := s.pins.channelClear.set k true } }
    (∀ left b rest, s.sites.sequencer = .clearWait k left → s.pages.queue = b :: rest →
      Leads (.channelClearAsserted k) s (fun t => t = keyed pinned b rest false)
      ∧ Leads (.clearWaitExpiry k) s fun t => t = keyed s.toPart b rest true)
    ∧ ((∀ left, s.sites.sequencer ≠ .clearWait k left) →
      Leads (.channelClearAsserted k) s (fun t => t = pinned) ∧ exec (.clearWaitExpiry k) s = .next s)

/-- A pass and the reports of the page queue (R15, R136, R137, R140, R151, R152): the lead-in's end begins the burst of the
current batch. The burst's end settles the site, FORCED when the pass was keyed so and DONE otherwise, and marks PAGED, on the
batch's owning callout unless it is CLOSING, the groups the batch carried that are among its primary groups; a batch with sites
left goes on. After the last site, or when the batch is withdrawing, the callout gets TX_DEGRADED with TX raised when a site was
not DONE; with no other batch and no demand nothing else of the callout changes but its PAGED marks, the batch leaves the queue
and the site is unkeyed. Neither event does anything outside its own state. A report is taken by the live callout whose number and
token both match, and by none otherwise: a pass DONE or FORCED marks PAGED those of its groups that are primary, and a skip
changes nothing; an end of a batch that failed at a site, or was dropped, sets TX_DEGRADED and raises TX; an end that is no
withdrawal makes an ALERT's status ENDED and takes an ALERTING callout to COUNTING or CREWED, frees a CLOSING callout with end
code 3 when it is a STAND_DOWN's, and does no more for the other kinds. -/
def Obligations.PassEvents : Prop :=
  (∀ (s : State) (k : SiteId), s.condition = .running →
    (∀ forced left, s.sites.sequencer = .leadIn k forced left → Leads (.leadInEnd k) s fun t =>
      t = { s.toPart with sites := { s.sites with
        sequencer := .burst k forced (burstTime ((s.pages.queue.head?.map Batch.pages).getD [])) } })
    ∧ ((∀ forced left, s.sites.sequencer ≠ .leadIn k forced left) → exec (.leadInEnd k) s = .next s)
    ∧ (∀ forced left b rest, s.sites.sequencer = .burst k forced left → s.pages.queue = b :: rest →
      Leads (.burstEnd k) s fun t =>
        SameConfiguration s.toPart t
        ∧ (∀ i c, s.findOwner b.owner = some i → s.callout? i = some c → c.state ≠ .closing →
          ∃ c', t.callout? i = some c' ∧ (b.groups &&& c.primary) &&& ~~~c'.paged = 0#16)
        ∧ let b' := b.settledAt k (if forced then .forced else .done)
          (b.withdrawing = false → s.pages.reports = [] → GoesOn b' rest s.toPart t)
          ∧ (b'.failed = true → b.withdrawing = true ∨ b'.remaining = [] →
            ∀ i c, s.findOwner b.owner = some i → s.callout? i = some c → c.state ≠ .closing →
              (∀ l, (t.ctl l).flags.getLsbD 5 = true) ∧ ∃ c', t.callout? i = some c' ∧ c'.flags.txDegraded = true)
          ∧ (rest = [] → s.pages.demands = [] → s.pages.reports = [] →
            b.withdrawing = true ∨ b.kind ≠ .alert ∧ b'.remaining = [] →
            t.pages.queue = [] ∧ t.sites.sequencer = .idle
            ∧ ∀ i c, s.findOwner b.owner = some i → s.callout? i = some c → c.state ≠ .closing →
              (∀ l, (t.ctl l).flags = if b'.failed then (s.ctl l).flags ||| 1#16 <<< 5 else (s.ctl l).flags)
              ∧ t.callout? i = some { c with
                  paged := c.paged ||| (b.groups &&& c.primary)
                  flags := { c.flags with txDegraded := c.flags.txDegraded || b'.failed } }))
    ∧ ((∀ forced left, s.sites.sequencer ≠ .burst k forced left) → exec (.burstEnd k) s = .next s))
  ∧ ∀ (p : Part) (o : Owner),
    (p.findOwner o = none → ∀ outcome groups kind form failed,
      p.takeReport (.pass o outcome groups) = p ∧ p.takeReport (.ended o kind form failed) = p)
    ∧ ∀ i c, p.findOwner o = some i → p.callout? i = some c →
      (∀ groups, (p.takeReport (.pass o .skippedAirtime groups)) = p ∧ (p.takeReport (.pass o .skippedReserve groups)) = p
        ∧ ∀ outcome, outcome = .done ∨ outcome = .forced →
          p.takeReport (.pass o outcome groups) = { p with table := { p.table with
            slots := p.table.slots.set i (.live { c with paged := c.paged ||| (groups &&& c.primary) }) } })
      ∧ ∀ (kind : BatchKind) (form : EndForm) (failed : Bool),
        let t := p.takeReport (.ended o kind form failed)
        let degraded : Callout := { c with flags := { c.flags with txDegraded := c.flags.txDegraded || failed } }
        (failed = true → ∀ l, (t.ctl l).flags.getLsbD 5 = true)
        ∧ (form = .withdrawn ∨ (kind ≠ .alert ∧ kind ≠ .standDown) ∨ (kind = .standDown ∧ c.state ≠ .closing) →
          t = { p with lines := t.lines, table := { p.table with slots := p.table.slots.set i (.live degraded) } })
        ∧ (form ≠ .withdrawn → kind = .alert → ∃ c', t.callout? i = some c' ∧ c'.alertStatus = .ended
            ∧ c'.flags.txDegraded = degraded.flags.txDegraded ∧ (c.state ≠ .alerting → c' = { degraded with alertStatus := .ended })
            ∧ (c.state = .alerting → if c.assessment.outcome = .crewed then c'.state = .crewed
                else c' = { degraded with alertStatus := .ended, state := .counting, responseWindow := .start c.window }))
        ∧ (form ≠ .withdrawn → kind = .standDown → c.state = .closing → ∃ y, t.slot i = .free (some y)
            ∧ y.endCode = 3 ∧ y.number = c.number ∧ (degraded.flags.txDegraded = true → y.flags.txDegraded = true)
            ∧ i ∈ t.table.freeOrder ∧ (∀ m z, t.member? m = some z → z.engaged ≠ some c.number))

/-- The airtime of a pass (R153): a burst is 96 sync bits and, for each page, 48 bits for its address block, its header
block and each four characters or part of four; the burst as formed has just that many bits; and the time charged is the
least whole number of milliseconds not below the bits at 2400 bit/s, with the lead-in. The sites' outputs (R145, R151): at
most one keying output is active, and only on a running part; a site sends paging data only while it is keyed, and then the
burst of the current batch. -/
def Obligations.AirtimeAndKeying : Prop :=
  (∀ (pages : List Page) (leadIn : Nat),
    burstLength pages = 96 + (pages.map fun p => (2 + (p.text.length + 3) / 4) * 48).sum
    ∧ (burstOf pages).length = burstLength pages
    ∧ burstLength pages * 1000 ≤ 2400 * burstTime pages
    ∧ 2400 * burstTime pages < burstLength pages * 1000 + 2400
    ∧ airtime leadIn pages = leadIn + burstTime pages)
  ∧ ∀ (s : State) (j k : SiteId),
    (s.keyOutput j = true → s.keyOutput k = true → j = k)
    ∧ (s.keyOutput k = true ↔ s.condition = .running ∧ ((∃ forced left, s.sites.sequencer = .leadIn k forced left)
        ∨ ∃ forced left, s.sites.sequencer = .burst k forced left))
    ∧ (s.keyOutput k = false → s.pagingData k = [])
    ∧ ∀ forced left b rest, s.condition = .running → s.sites.sequencer = .burst k forced left →
      s.pages.queue = b :: rest → s.pagingData k = burstOf b.pages

/-! ## Plans, classes and appliances (chapter 2) -/

/-- EDIT-CLASS and EDIT-ZONE from the console (R37, R38). EDIT-CLASS replaces the class's entry by the form and value given, and
with the form absent reads it; EDIT-ZONE sets the zone's entry or, with the zone absent, the map's default, 0 clearing it, and
with the plan absent reads it; each answers what stands after it, EDIT-ZONE with the effective plan. Operands left out at the end
count as absent. The refusals are those R37 and R38 list, an operand of another kind and too many operands among them (R182). -/
def Obligations.EditClassAndZone : Prop :=
  ∀ s : State, s.condition = .running →
    (∀ (k : ClassId) (e : ClassEntry) (ops : List Operand),
      let spelled : List Operand := match e with
        | .unused => [num 0, .absent]
        | .direct n => [num 1, num (n.val + 1)]
        | .byZone m => [num 2, num (m.val + 1)]
      (Spells (num k.val :: spelled) ops →
        Takes (.editClass .console ops) .console s (num k.val :: spelled) 0#16
          { s.toPart with resolver := { s.resolver with classes := s.resolver.classes.set k e } })
      ∧ (Spells [num k.val, .absent, .absent] ops → s.resolver.classes.get k = e →
        Takes (.editClass .console ops) .console s (num k.val :: spelled) 0#16 s.toPart))
    ∧ (∀ ops : List Operand,
      let form := operandAt ops 1
      let value := operandAt ops 2
      3 < ops.length ∨ ¬ NumberIn (operandAt ops 0) 0 63 ∨ ¬ AbsentOrIn form 0 2 ∨ ¬ NumberOrAbsent value
          ∨ (form = .absent ∧ value ≠ .absent) ∨ (NumberIn form 0 0 ∧ value ≠ .absent)
          ∨ (NumberIn form 1 1 ∧ ¬ NumberIn value 1 48) ∨ (NumberIn form 2 2 ∧ ¬ NumberIn value 1 8) →
        Refuses (.editClass .console ops) .console s .badOperand [])
    ∧ (∀ (k : MapId) (z : Option ZoneId) (n : Option PlanId) (ops : List Operand),
      let m := s.resolver.maps.get k
      let m' : ZoneMap := match z with
        | some z => { m with zones := m.zones.set z n }
        | none => { m with default := n }
      let planNumber (n : Option PlanId) : Operand := num ((n.map fun n => n.val + 1).getD 0)
      let results (m : ZoneMap) : List Operand := match z with
        | some z => [num (k.val + 1), num z.val, planNumber (m.zones.get z),
            planNumber (if (m.zones.get z).isSome then m.zones.get z else m.default)]
        | none => [num (k.val + 1), .absent, planNumber m.default, planNumber m.default]
      (Spells [num (k.val + 1), optNum (z.map Fin.val), planNumber n] ops →
        Takes (.editZone .console ops) .console s (results m') 0#16
          { s.toPart with resolver := { s.resolver with maps := s.resolver.maps.set k m' } })
      ∧ (Spells [num (k.val + 1), optNum (z.map Fin.val), .absent] ops →
        Takes (.editZone .console ops) .console s (results m) 0#16 s.toPart))
    ∧ ∀ ops : List Operand,
      3 < ops.length ∨ ¬ NumberIn (operandAt ops 0) 1 8 ∨ ¬ AbsentOrIn (operandAt ops 1) 0 31
          ∨ ¬ AbsentOrIn (operandAt ops 2) 0 48 →
        Refuses (.editZone .console ops) .console s .badOperand []

/-- EDIT-PLAN from the console, the parts DELETE, SETTINGS, GROUPS, REMOVE-ENTRY and REPORT (R39, R41, R42): an UNDEFINED plan
makes all but REPORT NOT_FOUND. A taken part answers the plan's record after it: the plan and 0 for an UNDEFINED one; and
otherwise the plan, 1, the count of its entries, its window, turnout limit, siren policy, siren pattern, template and two group
sets, and for each entry its letters and four counts. SETTINGS and GROUPS set all the fields given together, and an absent
operand leaves its field; the template is cleaned and cut to 24. A value out of its range, an operand of another kind and too
many operands are BAD_OPERAND, whether or not the plan is DEFINED; and so is a plan that is no NUMBER from 1 to 48, for every
part, ENTRY among them. Operands left out at the end count as absent (R182). -/
def Obligations.EditPlan : Prop :=
  (∀ (s : State) (o : Operand) (ops : List Operand), s.condition = .running →
    (∀ x, o = .number x → x.toInt < 1 ∨ 48 < x.toInt) →
    ∀ c ∈ [Instr.editPlanDelete .console o ops, .editPlanSettings .console o ops, .editPlanGroups .console o ops,
      .editPlanEntry .console o ops, .editPlanRemoveEntry .console o ops, .editPlanReport .console o ops],
    Refuses c .console s .badOperand [])
  ∧ ∀ (s : State) (n : PlanId), s.condition = .running →
    let plan : Operand := num (n.val + 1)
    let withPlan (x : Option Plan) : Part :=
      { s.toPart with resolver := { s.resolver with plans := s.resolver.plans.set n x } }
    let answer (x : Option Plan) : List Operand := match x with
      | none => [plan, num 0]
      | some pl =>
        [plan, num 1, num pl.entries.length, num pl.window, num pl.turnout,
         num (match pl.sirenPolicy with | .none => 0 | .atLevel0 => 1 | .atLevel1 => 2), num (pl.sirenPattern.val + 1),
         .text pl.template, .set pl.primary, .set pl.secondary]
          ++ pl.entries.flatMap fun e =>
            [.text (match e.alternate with | none => [e.main.letter] | some x => [e.main.letter, x.letter]),
             num e.need.oic, num e.need.drv, num e.need.ba, num e.need.gen]
    let edited (c : Instr) (f : Plan → Plan) : Prop := match s.plan? n with
      | none => Refuses c .console s .notFound []
      | some pl => Takes c .console s (answer (some (f pl))) 0#16 (withPlan (some (f pl)))
    Takes (.editPlanReport .console plan []) .console s (answer (s.plan? n)) 0#16 s.toPart
    ∧ (if s.plan? n = none then Refuses (.editPlanDelete .console plan []) .console s .notFound []
      else Takes (.editPlanDelete .console plan []) .console s [plan, num 0] 0#16 (withPlan none))
    ∧ (∀ (window turnout policy pattern : Option (BitVec 32)) (text : Option Text) (ops : List Operand),
      Spells [optionalNumber window, optionalNumber turnout, optionalNumber policy, optionalNumber pattern, optionalText text]
        ops →
      let c : Instr := .editPlanSettings .console plan ops
      if inRange window 60 900 ∧ inRange turnout 1 30 ∧ inRange policy 0 2 ∧ inRange pattern 1 4
      then edited c fun pl => { pl with
        window := (window.map BitVec.toNat).getD pl.window
        turnout := (turnout.map BitVec.toNat).getD pl.turnout
        sirenPolicy := match policy with
          | none => pl.sirenPolicy
          | some v => if v = 0#32 then .none else if v = 1#32 then .atLevel0 else .atLevel1
        sirenPattern := (pattern.map fun v => Fin.ofNat 4 (v.toNat - 1)).getD pl.sirenPattern
        template := (text.map (cleanCut 24)).getD pl.template }
      else Refuses c .console s .badOperand [])
    ∧ (∀ (primary secondary : Option GroupSet) (ops : List Operand), Spells [optionalSet primary, optionalSet secondary] ops →
      edited (.editPlanGroups .console plan ops) fun pl =>
        { pl with primary := primary.getD pl.primary, secondary := secondary.getD pl.secondary })
    ∧ (∀ x : BitVec 32,
      let c : Instr := .editPlanRemoveEntry .console plan [.number x]
      if x.toInt < 1 ∨ 3 < x.toInt then Refuses c .console s .badOperand []
      else match s.plan? n with
        | none => Refuses c .console s .notFound []
        | some pl =>
          if (pl.entries.length : Int) < x.toInt then Refuses c .console s .badOperand []
          else if pl.entries.length = 1 then Refuses c .console s .wrongState []
          else
            let pl' : Plan := { pl with entries := pl.entries.take (x.toNat - 1) ++ pl.entries.drop x.toNat }
            Takes c .console s (answer (some pl')) 0#16 (withPlan (some pl')))
    ∧ ∀ ops : List Operand,
      (ops ≠ [] → Refuses (.editPlanDelete .console plan ops) .console s .badOperand []
        ∧ Refuses (.editPlanReport .console plan ops) .console s .badOperand [])
      ∧ (5 < ops.length ∨ (∃ k, k ≤ 3 ∧ ¬ NumberOrAbsent (operandAt ops k)) ∨ (∀ x, operandAt ops 4 ≠ optionalText x) →
        Refuses (.editPlanSettings .console plan ops) .console s .badOperand [])
      ∧ (2 < ops.length ∨ (∃ k, k ≤ 1 ∧ ∀ b, operandAt ops k ≠ optionalSet b) →
        Refuses (.editPlanGroups .console plan ops) .console s .badOperand [])
      ∧ (1 < ops.length ∨ (∀ x, operandAt ops 0 ≠ .number x) →
        Refuses (.editPlanRemoveEntry .console plan ops) .console s .badOperand [])

/-- EDIT-PLAN, the part ENTRY, with a main and perhaps an alternate (R39, R40): the entry replaces the one at its index, is
appended one past the last, or defines an UNDEFINED plan with the values on definition, and the plan's record after it is
answered by the table of R39; it is BAD_OPERAND for an index out
of range, letters that are not one or two distinct of A to D, a count absent or out of range, counts that sum to 0, a sum above the seats of the main or the alternate, and a
main that is another entry's main. -/
def Obligations.EditPlanEntry : Prop :=
  ∀ (s : State) (n : PlanId) (k : Nat) (main : Appliance) (alternate : Option Appliance) (need : RoleCounts),
    s.condition = .running → k < 2 ^ 31 → need.oic < 2 ^ 31 → need.drv < 2 ^ 31 → need.ba < 2 ^ 31 → need.gen < 2 ^ 31 →
    let entries := ((s.plan? n).map Plan.entries).getD []
    let plan : Operand := num (n.val + 1)
    let answer (x : Option Plan) : List Operand := match x with
      | none => [plan, num 0]
      | some pl =>
        [plan, num 1, num pl.entries.length, num pl.window, num pl.turnout,
         num (match pl.sirenPolicy with | .none => 0 | .atLevel0 => 1 | .atLevel1 => 2), num (pl.sirenPattern.val + 1),
         .text pl.template, .set pl.primary, .set pl.secondary]
          ++ pl.entries.flatMap fun e =>
            [.text (match e.alternate with | none => [e.main.letter] | some x => [e.main.letter, x.letter]),
             num e.need.oic, num e.need.drv, num e.need.ba, num e.need.gen]
    let e : PlanEntry := { main := main, alternate := alternate, need := need }
    let sum := need.oic + need.drv + need.ba + need.gen
    let ops : List Operand :=
      [num k, .text (main.letter :: (alternate.map Appliance.letter).toList), num need.oic, num need.drv, num need.ba,
       num need.gen]
    let order (ops : List Operand) : Instr := .editPlanEntry .console plan ops
    let others := entries.take (k - 1) ++ entries.drop k
    let pl' : Plan := match s.plan? n with
      | some pl => { pl with entries := entries.take (k - 1) ++ e :: entries.drop k }
      | none => { entries := [e], primary := 0#16, secondary := 0#16, window := 300, turnout := 10, sirenPolicy := .none
                  sirenPattern := 0, template := [] }
    (if 1 ≤ k ∧ k ≤ entries.length + 1 ∧ k ≤ 3 ∧ alternate ≠ some main ∧ need.oic ≤ 1 ∧ need.drv ≤ 1 ∧ need.ba ≤ 4
        ∧ need.gen ≤ 4 ∧ sum ≠ 0 ∧ sum ≤ (s.appliance main).seats
        ∧ (∀ x ∈ alternate, sum ≤ (s.appliance x).seats) ∧ (∀ x ∈ others, x.main ≠ main)
    then Takes (order ops) .console s (answer (some pl')) 0#16
      { s.toPart with resolver := { s.resolver with plans := s.resolver.plans.set n (some pl') } }
    else Refuses (order ops) .console s .badOperand [])
    ∧ (∀ j, 2 ≤ j → j ≤ 5 → Refuses (order (ops.set j .absent)) .console s .badOperand []
      ∧ ∀ v : BitVec 32, v.toInt < 0 → Refuses (order (ops.set j (.number v))) .console s .badOperand [])
    ∧ (∀ (t : Text) (rest : List Operand), (∀ x : Appliance, t ≠ [x.letter]) →
      (∀ x y : Appliance, x ≠ y → t ≠ [x.letter, y.letter]) →
      Refuses (order (num k :: .text t :: rest)) .console s .badOperand [])
    ∧ (∀ (x : BitVec 32) (rest : List Operand), x.toInt < 1 ∨ 3 < x.toInt →
      Refuses (order (.number x :: rest)) .console s .badOperand [])
    ∧ ∀ given : List Operand, 6 < given.length → Refuses (order given) .console s .badOperand []

/-- EDIT-APPLIANCE from the console (R43): BAD_OPERAND for an in-service value other than 0 and 1, seats out of range or fewer
than a plan's entry for it needs, and for a first operand that is no TEXT of exactly one letter A to D, a text of more
characters among them (the model's reading, log entry 17), an operand of another kind, and too many operands; WRONG_STATE while it
is committed and a field is given; taken, it sets each given field and answers the letter, the seats, in-service and the
committed callout. Operands left out at the end count as absent (R182). -/
def Obligations.EditAppliance : Prop :=
  ∀ (s : State) (ap : Appliance) (seats : Option Nat) (inService : Option Bool) (given : List Operand),
    s.condition = .running → (∀ n ∈ seats, n < 2 ^ 31) →
    Spells [.text [ap.letter], optNum seats, optNum (inService.map fun b => if b then 1 else 0)] given →
    let x := s.appliance ap
    let y : ApplianceRecord := { x with seats := seats.getD x.seats, inService := inService.getD x.inService }
    let c : Instr := .editAppliance .console given
    let bad : Prop := ∃ n ∈ seats, n < 2 ∨ 6 < n
      ∨ ∃ (k : PlanId) (pl : Plan) (e : PlanEntry), s.plan? k = some pl ∧ e ∈ pl.entries
          ∧ (e.main = ap ∨ e.alternate = some ap) ∧ n < e.need.sum
    (∀ ops : List Operand,
      3 < ops.length ∨ (∀ x : Appliance, operandAt ops 0 ≠ .text [x.letter]) ∨ ¬ AbsentOrIn (operandAt ops 1) 2 6
        ∨ ¬ AbsentOrIn (operandAt ops 2) 0 1 →
      Refuses (.editAppliance .console ops) .console s .badOperand [])
    ∧ (bad → Refuses c .console s .badOperand [])
    ∧ (¬ bad → if x.committed ≠ none ∧ (seats ≠ none ∨ inService ≠ none)
      then Refuses c .console s .wrongState []
      else Takes c .console s
        [.text [ap.letter], num y.seats, num (if y.inService then 1 else 0), num (y.committed.getD 0#8).toNat] 0#16
        { s.toPart with resolver := { s.resolver with appliances := s.resolver.appliances.set ap.index y } })

/-! ## The roster (chapter 3) -/

/-- SET-AVAILABILITY (R58, R59): a control line can neither withhold a member nor lift a withholding, and cannot send
OFF_DUTY an ARRIVED member; taken, the member holds the given availability, with every other field kept but the engagement,
which ends when the member leaves AVAILABLE while engaged on a live callout, and the reply says what is held after the
order. On a part with no work left over, and a callout that is not CLOSING, the member's record there then becomes WITHDRAWN
with this line as its source, the callout is reassessed and takes its outcome, RESPONSE is raised, and CREW when the outcome
changes (R54, R55, R91, R93, R97, R105). In every other case, with the lamps right, the availability is all that changes. A
member absent or outside 1 to 128, a code absent or other than 0, 1 and 2, an operand of another kind, and too many operands are
BAD_OPERAND, behind the check that a control line may not make the change (R58, R182). -/
def Obligations.SetAvailability : Prop :=
  (∀ (s : State) (l : Line) (ops : List Operand), s.condition = .running →
    let barred : Prop := l ≠ .console ∧ (NumberIn (operandAt ops 1) 2 2
      ∨ ∃ (m : MemberId) (x : Member), operandAt ops 0 = num (m.val + 1) ∧ s.member? m = some x ∧ x.availability = .withheld)
    (barred → Refuses (.setAvailability l ops) l s .notPermitted [])
    ∧ (¬ barred → 2 < ops.length ∨ ¬ NumberIn (operandAt ops 0) 1 128 ∨ ¬ NumberIn (operandAt ops 1) 0 2 →
      Refuses (.setAvailability l ops) l s .badOperand []))
  ∧ ∀ (s : State) (l : Line) (m : MemberId) (v : Nat), s.condition = .running → v ≤ 2 →
    let c : Instr := .setAvailability l [num (m.val + 1), num v]
    if l ≠ .console ∧ (v = 2 ∨ (s.member? m).map Member.availability = some .withheld)
    then Refuses c l s .notPermitted []
    else match s.member? m with
      | none => Refuses c l s .notFound []
      | some x =>
        if l ≠ .console ∧ v = 1 ∧ s.isArrived m x = true then Refuses c l s .wrongState []
        else Leads c s fun t => SameConfiguration s.toPart t ∧ ∃ y raised, t.member? m = some y
          ∧ y.availability.code = v ∧ y.callSign = x.callSign ∧ y.address = x.address
          ∧ (x.availability = .available → v ≠ 0 → (∃ n i, x.engaged = some n ∧ s.findCallout n = some i) →
              y.engaged = none)
          ∧ Answered l none [num (m.val + 1), num v, num (y.engaged.getD 0#8).toNat] raised s.toPart t
          ∧ let leaves (n : CalloutNo) (i : SlotId) : Prop :=
              x.availability = .available ∧ v ≠ 0 ∧ x.engaged = some n ∧ s.findCallout n = some i
            (∀ n i d, leaves n i → s.callout? i = some d → d.state ≠ .closing → s.Quiet →
              let withdrawn : Callout := { d with responses := d.responses.map fun r => if r.member = m
                then { r with kind := .withdrawn, eta := none, estimate := none, source := .line l, lastChange := d.elapsed }
                else r }
              let a := s.assessment withdrawn
              (∃ d', t.callout? i = some d' ∧ Reassessed a withdrawn d')
              ∧ ∀ k, (t.ctl k).flags.getLsbD 1 = true
                ∧ (a.outcome ≠ d.assessment.outcome → (t.ctl k).flags.getLsbD 2 = true))
            ∧ ((∀ n i, ¬ leaves n i) → s.Quiet → s.LampsRight → raised = 0#16
              ∧ t = { s.toPart with
                  roster := { s.roster with members := s.roster.members.set m (some { x with
                    availability := if v = 0 then .available else if v = 1 then .offDuty else .withheld }) }
                  lines := t.lines, restart := (s.toPart.breakOff l).restart })

/-- EDIT-MEMBER from the console (R63, R64): a record not in use is created with an address, AVAILABLE and engaged on
nothing, and is NOT_FOUND without one or with the delete flag; an address held by another member or by a group is
DUPLICATE; a given field of a record in use replaces the field held; a deletion clears the record, and is WRONG_STATE while
the member is engaged or on record with a live callout. A creation and a change are answered with the member's nine results as
they stand after it (R64, R70), and on a part with no work left over and the lamps right they change nothing else, but that a
change of the qualifications of a member engaged on a callout that is not CLOSING has the callout reassessed, with the
qualifications as they now stand: it takes its outcome, and CREW is raised when that changes (R65, R97, R105). The delete flag may
be 0 or absent for an edit, and operands left out at the end count as absent (R182). A member absent or outside 1 to 128, a delete
flag other than 0 and 1, an address outside 1 to 2,097,151, a qualification from 3 to 15, a delete flag of 1 with any field given,
an operand of another kind, and too many operands are BAD_OPERAND (R63). -/
def Obligations.EditMember : Prop :=
  (∀ (s : State) (ops : List Operand), s.condition = .running →
    6 < ops.length ∨ ¬ NumberIn (operandAt ops 0) 1 128 ∨ ¬ AbsentOrIn (operandAt ops 1) 0 1
      ∨ (∀ t, operandAt ops 2 ≠ optionalText t) ∨ ¬ AbsentOrIn (operandAt ops 3) 1 2097151
      ∨ (∀ b, operandAt ops 4 ≠ optionalSet b) ∨ (∀ b, operandAt ops 5 ≠ optionalSet b)
      ∨ (∃ b : Set16, operandAt ops 4 = .set b ∧ b &&& 0xFFF8#16 ≠ 0#16)
      ∨ (NumberIn (operandAt ops 1) 1 1 ∧ ∃ k, 2 ≤ k ∧ k ≤ 5 ∧ operandAt ops k ≠ .absent) →
    Refuses (.editMember .console ops) .console s .badOperand [])
  ∧ ∀ (s : State) (m : MemberId) (sign : Option Text) (address : Option Address) (quals : Option Qualifications)
    (groups : Option GroupSet), s.condition = .running → address ≠ some 0#21 →
    let text (x : Option Text) : Operand := match x with | some t => .text t | none => .absent
    let set (x : Option Set16) : Operand := match x with | some b => .set b | none => .absent
    let fields : List Operand := [text sign, optNum (address.map BitVec.toNat), set (quals.map Qualifications.toSet), set groups]
    ∀ (flag : Operand) (given gone : List Operand), flag = .absent ∨ flag = num 0 →
    Spells (num (m.val + 1) :: flag :: fields) given →
    Spells [num (m.val + 1), num 1, .absent, .absent, .absent, .absent] gone →
    let edit : Instr := .editMember .console given
    let delete : Instr := .editMember .console gone
    let taken : Prop := ∃ a, address = some a
      ∧ ((∃ k y, k ≠ m ∧ s.member? k = some y ∧ y.address = a) ∨ ∃ g, (s.roster.groups.get g).address = a)
    let recordOf (c : Callout) : Option Response := c.responses.find? fun r => r.member == m
    let results (t : Part) (y : Member) : List Operand :=
      [num (m.val + 1), .text y.callSign, num y.address.toNat,
       .set ((if y.quals.oic then 1#16 else 0#16) ||| (if y.quals.drv then 2#16 else 0#16) ||| if y.quals.ba then 4#16 else 0#16),
       .set y.groups, num y.availability.code, num (y.engaged.getD 0#8).toNat,
       optNum ((((y.engaged.bind t.findCallout).bind t.callout?).bind recordOf).map fun r => r.kind.code),
       num (slotIds.filter fun i => (t.callout? i).any fun c => (recordOf c).isSome).length]
    let holding (y : Member) : Part := { s.toPart with roster := { s.roster with members := s.roster.members.set m (some y) } }
    let alone (raised : Set16) (y : Member) (t : Part) : Prop := raised = 0#16
      ∧ t = { holding y with lines := t.lines, restart := (s.toPart.breakOff .console).restart }
    match s.member? m with
    | none =>
      Refuses delete .console s .notFound []
      ∧ (address = none → Refuses edit .console s .notFound [])
      ∧ (taken → Refuses edit .console s .duplicate [])
      ∧ ∀ a, address = some a → ¬ taken → Leads edit s fun t => ∃ y raised, t.member? m = some y
          ∧ y.callSign = (sign.map (cleanCut 8)).getD [] ∧ y.address = a
          ∧ y.quals = quals.getD { oic := false, drv := false, ba := false } ∧ y.groups = groups.getD 0#16
          ∧ y.availability = .available ∧ y.engaged = none
          ∧ Answered .console none (results t y) raised s.toPart t
          ∧ (s.Quiet → s.LampsRight → alone raised y t)
    | some x =>
      (taken → Refuses edit .console s .duplicate [])
      ∧ (¬ taken → Leads edit s fun t => ∃ y raised, t.member? m = some y
          ∧ y.callSign = (sign.map (cleanCut 8)).getD x.callSign ∧ y.address = address.getD x.address
          ∧ y.quals = quals.getD x.quals ∧ y.groups = groups.getD x.groups ∧ y.availability = x.availability
          ∧ Answered .console none (results t y) raised s.toPart t
          ∧ let changed : Member := { x with
              callSign := (sign.map (cleanCut 8)).getD x.callSign, address := address.getD x.address
              quals := quals.getD x.quals, groups := groups.getD x.groups }
            let assessed (i : SlotId) (d : Callout) : Prop := quals.getD x.quals ≠ x.quals
              ∧ (∃ n, x.engaged = some n ∧ s.findCallout n = some i) ∧ s.callout? i = some d ∧ d.state ≠ .closing
            (∀ i d, assessed i d → s.Quiet →
              let a := (holding changed).assessment d
              (∃ d', t.callout? i = some d' ∧ Reassessed a d d')
              ∧ (a.outcome ≠ d.assessment.outcome → ∀ k, (t.ctl k).flags.getLsbD 2 = true))
            ∧ ((∀ i d, ¬ assessed i d) → s.Quiet → s.LampsRight → alone raised changed t))
      ∧ if x.engaged ≠ none ∨ s.recordsOf m ≠ 0 then Refuses delete .console s .wrongState []
        else Takes delete .console s [num (m.val + 1)] 0#16
          { s.toPart with roster := { s.roster with members := s.roster.members.set m none } }

/-- EDIT-GROUP from the console (R67): a group enabled with address 0 is BAD_OPERAND, a changed address of a live callout's
primary group WRONG_STATE, an address held elsewhere DUPLICATE; taken, each given field is set, and the reply carries the
group, its address, its flag, and how many members belong to it and are AVAILABLE. Operands left out at the end count as absent.
A group absent or outside 0 to 15, an address outside 0 to 2,097,151, a flag other than 0 and 1, an operand of another kind, and
too many operands are BAD_OPERAND (R182). -/
def Obligations.EditGroup : Prop :=
  (∀ (s : State) (ops : List Operand), s.condition = .running →
    3 < ops.length ∨ ¬ NumberIn (operandAt ops 0) 0 15 ∨ ¬ AbsentOrIn (operandAt ops 1) 0 2097151
      ∨ ¬ AbsentOrIn (operandAt ops 2) 0 1 →
    Refuses (.editGroup .console ops) .console s .badOperand [])
  ∧ ∀ (s : State) (g : GroupId) (address : Option Address) (enabled : Option Bool) (given : List Operand),
    s.condition = .running →
    Spells [num g.val, optNum (address.map BitVec.toNat), optNum (enabled.map fun b => if b then 1 else 0)] given →
    let x := s.roster.groups.get g
    let y : Group := { address := address.getD x.address, enabled := enabled.getD x.enabled }
    let c : Instr := .editGroup .console given
    let after : Part := { s.toPart with roster := { s.roster with groups := s.roster.groups.set g y } }
    let held : Prop := address ≠ none ∧ y.address ≠ 0#21
      ∧ ((∃ m z, s.member? m = some z ∧ z.address = y.address)
        ∨ ∃ k, k ≠ g ∧ (s.roster.groups.get k).address = y.address)
    let results : List Operand :=
      [num g.val, num y.address.toNat, num (if y.enabled then 1 else 0), num (s.groupMembers g).length,
       num ((s.groupMembers g).filter fun mx => mx.2.availability == .available).length]
    if address = none ∧ enabled = none then Takes c .console s results 0#16 s.toPart
    else if y.enabled = true ∧ y.address = 0#21 then Refuses c .console s .badOperand []
    else if y.address ≠ x.address ∧ (∃ i k, s.callout? i = some k ∧ k.primary.getLsbD g.val = true)
    then Refuses c .console s .wrongState []
    else (held → Refuses c .console s .duplicate []) ∧ (¬ held → Takes c .console s results 0#16 after)

/-! ## Callouts (chapter 1) -/

/-- An ALERT that passes every check fills the slot at the head of the free order as R4 gives, with a number that is the
first after the last-assigned one, stepping by one and wrapping from 255 to 1, and a token that is the first after the
last-issued one, stepping by 1237, that no live callout holds (R2, R3, R4, R9); the callout is OPEN, its outcome SHORT, and
the reply carries CREATED, the number, the token and OPEN (R183). What the plan resolved and the attempt are, AlertRefused
writes out (R44, R45). Stated for an ALERT without the "at once" flag, on a part with no work left over; for one with it, see
LeavesOpen. -/
def Obligations.AlertCreates : Prop :=
  ∀ (s : State) (l : Line) (ops : List Operand) (x : AlertArgs) (i : SlotId) (rest : List SlotId) (n : PlanId) (pl : Plan),
    s.condition = .running → s.Quiet → s.FreeOrderRight → ops.length ≤ 6 → alertArgs ops = some x → x.atOnce = false →
    (∀ j c, s.callout? j = some c → c.reference ≠ x.reference) →
    s.table.freeOrder = i :: rest → s.resolvePlan x.override x.cls x.zone = some (n, pl) →
    (s.attempt (fun _ => false) pl).committed ≠ [] → (∀ e ∈ pl.entries, e.need.sum ≠ 0) →
    let t' := s.attempt (fun _ => false) pl
    Leads (.alert l ops) s fun t => ∃ c a,
      t.slot i = .live c
      ∧ c = { number := c.number, reference := x.reference, origin := l, cls := x.cls, zone := x.zone, plan := n
              window := pl.window, turnout := pl.turnout, sirenPolicy := pl.sirenPolicy
              sirenPattern := pl.sirenPattern, token := c.token, state := .inOpen, prior := none
              appliances := t'.committed.map fun y => { letter := y.1, need := y.2, departed := false, crew := [] }
              primary := pl.primary, paged := 0#16, secondary := pl.secondary &&& ~~~pl.primary, repaged := []
              text := x.text.getD pl.template, alertStatus := .none, alertGroups := 0#16, standDownGroups := none
              heldBack := [], responses := [], sequence := 0, assessment := a, level := 0, exhausted := false
              elapsed := 0, elapsedMs := 0, accumulation := .start s.settings.window
              responseWindow := { remaining := pl.window * 1000, mark := .stopped }
              flags := { substituted := t'.substituted, applianceOmitted := t'.omitted, groupsOmitted := false
                         txDegraded := false, aidRequested := false, responseLost := false } }
      ∧ a.outcome = .short ∧ a.candidates = []
      ∧ t.table.freeOrder = rest ∧ t.table.lastNumber = c.number ∧ t.table.lastToken = c.token
      ∧ (∃ k, nextNumber^[k + 1] s.table.lastNumber = c.number
          ∧ (∀ j d, s.callout? j = some d → d.number ≠ c.number)
          ∧ ∀ h, h < k → ∃ j d, s.callout? j = some d ∧ d.number = nextNumber^[h + 1] s.table.lastNumber)
      ∧ (∃ k, s.table.lastToken + 1237#12 * BitVec.ofNat 12 (k + 1) = c.token ∧ c.token ≠ 0#12
          ∧ (∀ j d, s.callout? j = some d → d.token ≠ c.token)
          ∧ ∀ h, h < k → let y := s.table.lastToken + 1237#12 * BitVec.ofNat 12 (h + 1)
              y = 0#12 ∨ ∃ j d, s.callout? j = some d ∧ d.token = y)
      ∧ (∀ j, j ≠ i → t.slot j = match s.slot j with
          | .free (some y) => if y.number = c.number then .free none else .free (some y)
          | z => z)
      ∧ (∀ ap, (t.appliance ap).committed =
          if t'.committed.any (fun y => y.1 == ap) then some c.number else (s.appliance ap).committed)
      ∧ Answered l none [num 0, num c.number.toNat, num c.token.toNat, num 1] (1#16 <<< 0) s.toPart t
      ∧ t.pages = s.pages ∧ t.roster = s.roster ∧ SameConfiguration s.toPart t

/-- The operands of an ALERT (R8, R182): the reference is cut to 12 characters, and any character but those of section 10.8 is
replaced by a space; it does not consist of spaces. The text is cut to 24 and cleaned so. Class and zone lie in their ranges, and
plan override and "at once" flag too when they are given. The override, the text and the flag may each be absent, and those at the
end left out: no override, no text, and not at once. An operand of another kind is BAD_OPERAND, and so is one absent that R8
requires. The checks of an ALERT
in their order (R8, R10, R44 to R46): BAD_OPERAND for operands R8 does not allow; DUPLICATE, with the callout's number, for
the reference of a live callout that has left OPEN; then TABLE_FULL, NO_PLAN and NO_APPLIANCE. Written out for every part and
plan: the plan resolved, by the override, or the class's entry and the zone's entry or the map's default (R38, R44); and the
attempt, entry by entry in entry order against the appliances a callout holds already, none for a new ALERT: an entry is held
when its main is, the main is taken when it is in service, uncommitted, not taken by an earlier entry and has seats enough; then
the alternate is held, or taken and the attempt marked substituted, by the same test; and otherwise the entry is omitted (R45,
R46). -/
def Obligations.AlertRefused : Prop :=
  (∀ (reference : Text) (cls zone : BitVec 32) (override atOnce : Option (BitVec 32)) (text : Option Text)
      (ops : List Operand),
    Spells [.text reference, .number cls, .number zone, optionalNumber override, optionalText text, optionalNumber atOnce]
      ops →
    let cleaned (n : Nat) (t : Text) : Text := (t.take n).map fun b =>
      if b = 0x20#8 ∨ (0x2D ≤ b.toNat ∧ b.toNat ≤ 0x39) ∨ (0x41 ≤ b.toNat ∧ b.toNat ≤ 0x5A) then b else 0x20#8
    ((∀ b ∈ cleaned 12 reference, b = 0x20#8) ∨ cls.toInt < 0 ∨ 63 < cls.toInt ∨ zone.toInt < 0 ∨ 31 < zone.toInt
        ∨ inRange override 1 48 = false ∨ inRange atOnce 0 1 = false ↔ alertArgs ops = none)
    ∧ ∀ x, alertArgs ops = some x →
      x.reference = cleaned 12 reference ∧ (x.cls.val : Int) = cls.toInt ∧ (x.zone.val : Int) = zone.toInt
        ∧ x.override.map (fun n => (n.val : Int) + 1) = override.map BitVec.toInt
        ∧ x.text = text.map (cleaned 24) ∧ (x.atOnce = true ↔ atOnce = some 1#32))
  ∧ (∀ ops : List Operand,
    (∀ t, operandAt ops 0 ≠ .text t) ∨ (∀ x, operandAt ops 1 ≠ .number x) ∨ (∀ x, operandAt ops 2 ≠ .number x)
      ∨ ¬ NumberOrAbsent (operandAt ops 3) ∨ (∀ t, operandAt ops 4 ≠ optionalText t) ∨ ¬ NumberOrAbsent (operandAt ops 5) →
    alertArgs ops = none)
  ∧ (∀ (s : State) (l : Line) (ops : List Operand), s.condition = .running →
    let duplicate (x : AlertArgs) := (s.findLive fun c => c.reference == x.reference).bind s.callout?
    (6 < ops.length ∨ alertArgs ops = none → Refuses (.alert l ops) l s .badOperand [])
    ∧ ∀ x, ops.length ≤ 6 → alertArgs ops = some x →
      match duplicate x with
      | some c => c.state ≠ .inOpen → Refuses (.alert l ops) l s .duplicate [num c.number.toNat]
      | none =>
        if s.table.freeOrder = [] then Refuses (.alert l ops) l s .tableFull []
        else match s.resolvePlan x.override x.cls x.zone with
          | none => Refuses (.alert l ops) l s .noPlan []
          | some (_, pl) => (s.attempt (fun _ => false) pl).committed = [] →
              Refuses (.alert l ops) l s .noAppliance [])
  ∧ (∀ (p : Part) (override : Option PlanId) (cls : ClassId) (zone : ZoneId),
    let chosen : Option PlanId := match override, p.resolver.classes.get cls with
      | some n, _ => some n
      | none, .unused => none
      | none, .direct n => some n
      | none, .byZone m => match (p.resolver.maps.get m).zones.get zone with
        | some n => some n
        | none => (p.resolver.maps.get m).default
    p.resolvePlan override cls zone = match chosen with
      | none => none
      | some n => match p.plan? n with
        | none => none
        | some pl => some (n, pl))
  ∧ ∀ (p : Part) (held : Appliance → Bool) (pl : Plan),
    (pl.entries = [] → p.attempt held pl = { committed := [], substituted := false, omitted := false })
    ∧ ∀ (earlier : List PlanEntry) (e : PlanEntry), pl.entries = earlier ++ [e] →
      let before := p.attempt held { pl with entries := earlier }
      let fits (ap : Appliance) : Prop := (p.appliance ap).inService = true ∧ (p.appliance ap).committed = none
        ∧ (∀ x ∈ before.committed, x.1 ≠ ap) ∧ e.need.oic + e.need.drv + e.need.ba + e.need.gen ≤ (p.appliance ap).seats
      let taken (ap : Appliance) : List (Appliance × RoleCounts) := before.committed ++ [(ap, e.need)]
      p.attempt held pl =
        if held e.main = true then before
        else if fits e.main then { before with committed := taken e.main }
        else match e.alternate with
          | none => { before with omitted := true }
          | some x =>
            if held x = true then before
            else if fits x then { before with committed := taken x, substituted := true }
            else { before with omitted := true }

/-- An ADD, and an ALERT with the reference of an OPEN callout, gather into an OPEN callout (R10 to R12): the plan's primary
groups and the given groups join its primary groups, the plan's secondary groups that are not primary its secondary
groups, the accumulation timer restarts at its full length, and the callout stays OPEN. An ADD in ALERTING, COUNTING or CREWED
is a supplement (R17): of the groups named that are not yet primary, those judged *yes* join the primary groups and are
demanded in a SUPPLEMENT batch, and the others set GROUPS_OMITTED; a plan's secondary group that is then not primary joins the
secondary groups (log entry 30). In both the appliances committed by an attempt are appended in their order while the list is
below three, the flags take up a substitution and an omission, and each appended one is committed to the callout (R12, R46,
R47; what work may follow in the page queue is left out of this clause). With one appended the callout is reassessed and takes its
outcome, so that a CREWED one may fall to COUNTING, and CREW is raised when the outcome changes (R12, R17, R20, R97, R105); with none
its state, records, window and assessment stay: stated on a part with no work left over. What the plan resolved and the attempt are, AlertRefused
writes out (R44 to R46); a merged ALERT with the "at once" flag has its clause in LeavesOpen. Operands left out at the end count
as absent; an ADD with neither plan nor groups is BAD_OPERAND, and one of an UNDEFINED plan NO_PLAN (R11, R182). -/
def Obligations.AddTaken : Prop :=
  ∀ (s : State) (i : SlotId) (c : Callout), s.condition = .running → s.callout? i = some c →
    let attempted (pl : Option Plan) : Attempt := match pl with
      | some pl => s.attempt (fun ap => c.appliances.any fun e => e.letter == ap) pl
      | none => { committed := [], substituted := false, omitted := false }
    let appended (pl : Option Plan) : List (Appliance × RoleCounts) :=
      (attempted pl).committed.take (3 - c.appliances.length)
    let grown (pl : Option Plan) (c' : Callout) (t : Part) : Prop :=
      c'.appliances = c.appliances ++ (appended pl).map (fun x => { letter := x.1, need := x.2, departed := false, crew := [] })
        ∧ c'.flags.substituted = (c.flags.substituted || (attempted pl).substituted)
        ∧ c'.flags.applianceOmitted = (c.flags.applianceOmitted || (attempted pl).omitted
            || decide (3 - c.appliances.length < (attempted pl).committed.length))
        ∧ (s.Quiet → s.pages.demands = [] → ∀ ap, (t.appliance ap).committed =
            if (appended pl).any (fun x => x.1 == ap) then some c.number else (s.appliance ap).committed)
        ∧ (let d : Callout := { c with appliances := c'.appliances }
          let a := s.assessment d
          s.Quiet → if appended pl = []
            then c'.state = c.state ∧ c'.responses = c.responses ∧ c'.responseWindow = c.responseWindow
              ∧ c'.assessment = c.assessment
            else Reassessed a d c' ∧ (a.outcome ≠ c.assessment.outcome → ∀ k, (t.ctl k).flags.getLsbD 2 = true))
    let gathered (pl : Option Plan) (given : GroupSet) (t : Part) : Prop := ∃ c', t.callout? i = some c'
      ∧ c'.state = .inOpen ∧ c'.accumulation = .start s.settings.window
      ∧ c'.primary = c.primary ||| (pl.map Plan.primary).getD 0#16 ||| given
      ∧ c'.secondary = c.secondary ||| ((pl.map Plan.secondary).getD 0#16 &&& ~~~c'.primary)
      ∧ grown pl c' t ∧ c'.token = c.token ∧ SameConfiguration s.toPart t
    let supplemented (pl : Option Plan) (given : GroupSet) (t : Part) : Prop :=
      let asked := ((pl.map Plan.primary).getD 0#16 ||| given) &&& ~~~c.primary
      let kept := s.judgedYes asked
      ∃ c', t.callout? i = some c'
        ∧ (c'.state = .alerting ∨ c'.state = .counting ∨ c'.state = .crewed)
        ∧ c'.primary = c.primary ||| kept
        ∧ c'.secondary = c.secondary ||| ((pl.map Plan.secondary).getD 0#16 &&& ~~~c'.primary)
        ∧ c'.flags.groupsOmitted = (c.flags.groupsOmitted || kept != asked)
        ∧ (s.Quiet → kept ≠ 0#16 → Handed
            { kind := .supplement, owner := c.owner, content := .groups (membersOf 16 kept), restrict := .all } s.toPart t)
        ∧ grown pl c' t ∧ SameConfiguration s.toPart t
    (∀ (l : Line) (plan : Option PlanId) (given : Option GroupSet) (ops : List Operand),
      s.lookup c.number.toNat = some (i, c) →
      Spells [num c.number.toNat, optNum (plan.map fun n => n.val + 1), optionalSet given] ops →
      let pl := plan.bind s.plan?
      (plan = none → given = none → Refuses (.add l ops) l s .badOperand [])
      ∧ (plan ≠ none → pl = none →
          c.state = .inOpen ∨ c.state = .alerting ∨ c.state = .counting ∨ c.state = .crewed →
          Refuses (.add l ops) l s .noPlan [])
      ∧ (plan ≠ none ∨ given ≠ none → (plan ≠ none → pl ≠ none) →
        (c.state = .inOpen → Leads (.add l ops) s fun t => gathered pl (given.getD 0#16) t
          ∧ ∃ raised, Answered l none [num c.number.toNat, num 1] raised s.toPart t)
        ∧ (c.state = .alerting ∨ c.state = .counting ∨ c.state = .crewed → Leads (.add l ops) s fun t =>
          supplemented pl (given.getD 0#16) t
          ∧ ∃ raised, Answered l none [num c.number.toNat, num (t.slot i).stateCode] raised s.toPart t)))
    ∧ ∀ (l : Line) (ops : List Operand) (x : AlertArgs), c.state = .inOpen → ops.length ≤ 6 → alertArgs ops = some x →
      x.atOnce = false → (s.findLive fun d => d.reference == x.reference) = some i →
      Leads (.alert l ops) s fun t =>
        gathered ((s.resolvePlan x.override x.cls x.zone).map Prod.snd) 0#16 t
        ∧ ∃ raised, Answered l none [num 1, num c.number.toNat, num c.token.toNat, num 1] raised s.toPart t

/-- COMMIT, and the expiry of a running accumulation timer, take an OPEN callout out of OPEN (R13, R14, R7): the groups judged
*no* are removed and set GROUPS_OMITTED; with groups left the ALERT batch is demanded for them and the callout has left for
ALERTING or beyond; with none it is COUNTING, or CREWED; and a siren request is made under AT_LEVEL0, and none otherwise. An
ALERT with the "at once" flag, created or merged, takes its callout out of OPEN in the same way within the order, and answers
the state reached (R9, R10): stated by the state the same ALERT without the flag leads to, which AlertCreates and AddTaken give,
on a part with no work left over. A group is judged *yes* when it is enabled and an AVAILABLE member in use belongs to it (R68). -/
def Obligations.LeavesOpen : Prop :=
  (∀ (p : Part) (gs : GroupSet) (g : GroupId), (p.judgedYes gs).getLsbD g.val = true ↔
    gs.getLsbD g.val = true ∧ (p.roster.groups.get g).enabled = true
      ∧ ∃ m x, p.member? m = some x ∧ x.availability = .available ∧ x.groups.getLsbD g.val = true)
  ∧ ∀ (s : State) (i : SlotId) (c : Callout), s.condition = .running → s.callout? i = some c → c.state = .inOpen →
    let kept := s.judgedYes c.primary
    let left (c' : Callout) (t : Part) : Prop := t.callout? i = some c' ∧ c'.primary = kept
      ∧ c'.flags.groupsOmitted = (c.flags.groupsOmitted || kept != c.primary)
      ∧ c'.accumulation = .stopped
      ∧ (kept = 0#16 → c'.alertStatus = .ended ∧ (c'.state = .counting ∨ c'.state = .crewed))
      ∧ (kept ≠ 0#16 → c'.alertGroups = kept ∧ c'.alertStatus ≠ .none
          ∧ (c'.state = .alerting ∨ c'.state = .counting ∨ c'.state = .crewed)
          ∧ (s.Quiet → Handed
              { kind := .alert, owner := c.owner, content := .groups (membersOf 16 kept), restrict := .all } s.toPart t))
      ∧ (if c.sirenPolicy = .atLevel0 then SirenAsked c.sirenPattern s.toPart t else t.station.run = s.station.run)
      ∧ SameConfiguration s.toPart t
    (∀ l, s.lookup c.number.toNat = some (i, c) → Leads (.commit l [num c.number.toNat]) s fun t => ∃ c' raised,
      left c' t ∧ Answered l none [num c.number.toNat, num c'.state.code] raised s.toPart t)
    ∧ (c.accumulation.mark = .running → Leads (.accumulationTimerExpiry i) s fun t => ∃ c', left c' t)
    ∧ (c.accumulation.mark ≠ .running → exec (.accumulationTimerExpiry i) s = .next s)
    ∧ ∀ (s0 : State) (l : Line) (ops plain : List Operand) (x : AlertArgs) (outcome : Nat), s0.condition = .running →
      s0.Quiet → ops.length ≤ 6 → plain.length ≤ 6 → alertArgs ops = some x → x.atOnce = true →
      alertArgs plain = some { x with atOnce := false } →
      exec (.alert l plain) s0 = .next s → (s.findLive fun d => d.reference == x.reference) = some i →
      ((s.ctl l).reply.map Reply.results) = some [num outcome, num c.number.toNat, num c.token.toNat, num 1] →
      Leads (.alert l ops) s0 fun t => ∃ c' raised, left c' t
        ∧ Answered l none [num outcome, num c.number.toNat, num c.token.toNat, num c'.state.code] raised s0.toPart t

/-- HOLD in OPEN, ALERTING, COUNTING and CREWED (R21): the callout is HELD with the state it left as its prior state, its
running timer frozen, and none of its call-out batches or demands left in the page queue but one whose pass is in progress. Its
held-back list is what the page queue hands back, in its order, less the entries that owe no site, and eight at most (R138 to
R140; a batch or demand made again at an earlier RESUME owes every site, log entry 11; that a batch withdrawing already is not
handed back again is the model's choice, log entry 33). With more than eight, or with a batch
handed back between passes that had failed at a site, TX_DEGRADED is set and TX raised (R137; log entry 31). On a part with no
work left over an OUTSTANDING ALERT becomes ENDED when it is handed back and no entry of it is kept (R21; one beyond the eighth
too, log entry 12). RESUME of a HELD callout (R23): its prior state and its held-back list are cleared, a frozen accumulation
timer runs on, and its state is reconciled row by row of R23's table: from OPEN it is OPEN; from the others it is CREWED with
the outcome CREWED, its window stopped and the surplus RELEASED, disengaged and sent RELEASE pages (R19); with another outcome
it is ALERTING with an ALERT demanded again (stated where the page queue can take it), COUNTING from ALERTING with the status
ENDED or from CREWED, its window at full length, and COUNTING from COUNTING with its window running on. Every entry is demanded
again, oldest first, with its kind, its pages or addressees and its owed sites, and an ALERT among them makes the alert status
OUTSTANDING (R141; stated where the page queue can take them all). -/
def Obligations.HoldAndResumeTaken : Prop :=
  (∀ (s : State) (l : Line) (i : SlotId) (c : Callout), s.condition = .running →
    s.lookup c.number.toNat = some (i, c) →
    c.state = .inOpen ∨ c.state = .alerting ∨ c.state = .counting ∨ c.state = .crewed →
    Leads (.hold l [num c.number.toNat]) s fun t => ∃ c' raised, t.callout? i = some c'
      ∧ c'.state = .held ∧ c'.prior = some c.state
      ∧ c'.accumulation = (if c.state = .inOpen then c.accumulation.freeze else c.accumulation)
      ∧ c'.responseWindow = (if c.state = .counting then c.responseWindow.freeze else c.responseWindow)
      ∧ c'.heldBack.length ≤ 8 ∧ c'.responses = c.responses ∧ c'.level = c.level
      ∧ (let handed := s.handedBack c.owner
        let made := handed.filter fun e => e.owed != .only []
        c'.heldBack = made.take 8
        ∧ (8 < made.length
            ∨ (∃ b rest, s.pages.queue = b :: rest ∧ b.owner = c.owner ∧ b.kind.callOut = true ∧ b.withdrawing = false
              ∧ b.remaining ≠ [] ∧ b.failed = true ∧ (s.sites.sequencer = .idle ∨ ∃ k n, s.sites.sequencer = .clearWait k n)) →
          c'.flags.txDegraded = true ∧ ∀ k, (t.ctl k).flags.getLsbD 5 = true)
        ∧ (s.Quiet → c'.alertStatus =
          if c.alertStatus = .outstanding ∧ (∃ e ∈ handed, e.kind = .alert) ∧ ∀ e ∈ made.take 8, e.kind ≠ .alert then .ended
          else c.alertStatus))
      ∧ (∀ d ∈ t.pages.demands, d.owner = c.owner → d.kind.callOut = false)
      ∧ (∀ b ∈ t.pages.queue, b.owner = c.owner → b.kind.callOut = true → b.withdrawing = true ∨ b.over = true)
      ∧ SameConfiguration s.toPart t
      ∧ Answered l none [num c.number.toNat, num 5] raised s.toPart t)
  ∧ (∀ (s : State) (l : Line) (i : SlotId) (c : Callout) (prior : CalloutState), s.condition = .running →
    s.lookup c.number.toNat = some (i, c) → c.state = .held → c.prior = some prior →
    prior = .inOpen ∨ prior = .alerting ∨ prior = .counting ∨ prior = .crewed →
    Leads (.resume l [num c.number.toNat]) s fun t => ∃ c' raised, t.callout? i = some c'
      ∧ c'.prior = none ∧ c'.heldBack = [] ∧ c'.accumulation = c.accumulation.thaw ∧ c'.level = c.level
      ∧ (prior = .inOpen → c'.state = .inOpen)
      ∧ (prior = .alerting → c'.state = .alerting ∨ c'.state = .counting ∨ c'.state = .crewed)
      ∧ (let enters : Prop := prior ≠ .inOpen ∧ c.assessment.outcome = .crewed
        let full : Timer := { remaining := c.window * 1000, mark := .running }
        let gone (r : Response) : Response := if r.member ∈ c.assessment.surplus ∧ r.kind ≠ .released
          then { r with kind := .released, eta := none, estimate := none, lastChange := c.elapsed } else r
        let again : List Demand := c.heldBack.map fun e =>
          { kind := e.kind, owner := c.owner, content := e.content, restrict := e.owed }
        let alertAgain : Prop := ∃ e ∈ c.heldBack, e.kind = .alert
        (enters → c'.state = .crewed ∧ c'.responseWindow = .stopped ∧ c'.responses = c.responses.map gone
          ∧ (∀ m y, m ∈ c.assessment.surplus → t.member? m = some y → y.engaged ≠ some c.number)
          ∧ (let all := again ++ releasesFor c.owner c.assessment.surplus
            s.Quiet → s.CanTake all → HandedAll all s.toPart t))
        ∧ (¬ enters → c'.responses = c.responses
          ∧ (prior = .alerting → c.alertStatus = .ended → ¬ alertAgain → c'.state = .counting ∧ c'.responseWindow = full)
          ∧ (prior = .alerting → alertAgain → s.Quiet → s.CanTake again →
              c'.state = .alerting ∧ c'.responseWindow = c.responseWindow.thaw)
          ∧ (prior = .counting → c'.state = .counting ∧ c'.responseWindow = c.responseWindow.thaw)
          ∧ (prior = .crewed → c'.state = .counting ∧ c'.responseWindow = full))
        ∧ (s.Quiet → s.CanTake again → HandedAll again s.toPart t ∧ (alertAgain → c'.alertStatus = .outstanding))
        ∧ (s.Quiet → ¬ alertAgain → c'.alertStatus = c.alertStatus))
      ∧ SameConfiguration s.toPart t
      ∧ Answered l none [num c.number.toNat, num c'.state.code] raised s.toPart t)

/-- STAND-DOWN (R29, R30, R32, R35): an OPEN or MOBILE callout, and one with no group to stand down, is FREE at once with its
end code 1, 2 or 4; any other enters CLOSING, and may have left it for FREE with end code 3 when its batch ends within the event.
The groups are the primary ones marked PAGED and those the pass in progress carries. After it no member is engaged on the
callout, no appliance committed to it, and of its demands and batches, of every kind, only the STAND_DOWN of one page to each of
those groups is left, the batch of a pass in progress apart, which is withdrawing. That one is demanded with the restriction ALL,
behind what is left of the queue (stated where nothing else moves with the withdrawal: no turn follows it and the oldest waiting
demand finds no room). In CLOSING the ATTENDING and ARRIVED records are RELEASED and the others stay, the held-back list and the
prior state are gone and both timers stopped; RESPONSE is raised where there is such a record. A FREE slot keeps the summary of
R35, the PAGED marks stated for a part with no work left over, and joins the free order. -/
def Obligations.StandDownTaken : Prop :=
  ∀ (s : State) (l : Line) (i : SlotId) (c : Callout) (groups : GroupSet), s.condition = .running → s.NumbersDistinct →
    s.callout? i = some c → c.state ≠ .closing →
    let keyed : Prop := ∃ k n, (∃ forced, s.sites.sequencer = .leadIn k forced n) ∨ ∃ forced, s.sites.sequencer = .burst k forced n
    (∀ g : GroupId, groups.getLsbD g.val = true ↔
      c.primary.getLsbD g.val = true ∧ c.paged.getLsbD g.val = true
        ∨ keyed ∧ ∃ b rest, s.pages.queue = b :: rest ∧ b.owner = c.owner ∧ ∃ x ∈ b.pages, x.addressee = .group g) →
    let paged : Prop := c.state ≠ .inOpen ∧ c.state ≠ .mobile ∧ groups ≠ 0#16
    let page : Demand :=
      { kind := .standDown, owner := c.owner, content := .groups (membersOf 16 groups), restrict := .all }
    let comes (r : Response) : Prop := r.kind = .attending ∨ r.kind = .arrived
    let cleared : Part := s.without c.owner fun _ => true
    Leads (.standDown l [num c.number.toNat]) s fun t =>
      (∀ m y, t.member? m = some y → y.engaged ≠ some c.number)
      ∧ (∀ ap, (t.appliance ap).committed ≠ some c.number)
      ∧ SameConfiguration s.toPart t
      ∧ (∃ raised, Answered l none [num c.number.toNat, num (t.slot i).stateCode] raised s.toPart t)
      ∧ ((∃ r ∈ c.responses, comes r) → ∀ k, (t.ctl k).flags.getLsbD 1 = true)
      ∧ (∀ d ∈ t.pages.demands, d.owner = c.owner → paged ∧ d = page)
      ∧ (∀ b ∈ t.pages.queue, b.owner = c.owner → b.withdrawing = true ∨ b.remaining = []
          ∨ paged ∧ b.kind = .standDown ∧ b.pages = s.formPages page)
      ∧ (paged → cleared.Quiet → cleared.HeadWaits → Handed page cleared t)
      ∧ match t.slot i with
        | .free x => ∃ y, x = some y ∧ y.number = c.number ∧ y.reference = c.reference ∧ y.origin = c.origin
            ∧ y.cls = c.cls ∧ y.zone = c.zone ∧ y.plan = c.plan ∧ y.token = c.token ∧ y.elapsed = c.elapsed
            ∧ y.level = c.level ∧ y.exhausted = c.exhausted ∧ y.outcome = c.assessment.outcome
            ∧ y.letters = c.appliances.map ApplianceEntry.letter
            ∧ y.departed = (c.appliances.filter fun e => e.departed).map ApplianceEntry.letter
            ∧ y.primary = c.primary ∧ (s.Quiet → y.paged = c.paged)
            ∧ y.flags = { c.flags with txDegraded := y.flags.txDegraded } ∧ y.responses = c.responses.length
            ∧ i ∈ t.table.freeOrder
            ∧ y.endCode = (if c.state = .inOpen then 1 else if c.state = .mobile then 2
                else if groups = 0#16 then 4 else 3)
        | .live c' => paged ∧ c'.state = .closing
            ∧ c'.standDownGroups = some groups ∧ c'.heldBack = [] ∧ c'.prior = none
            ∧ c'.accumulation = .stopped ∧ c'.responseWindow = .stopped
            ∧ ((c.responses.map Response.member).Nodup → c'.responses = c.responses.map fun r => if comes r
                then { r with kind := .released, eta := none, estimate := none, lastChange := c.elapsed } else r)

/-- DEPART from the console (R25, R26): the entry departs with its current assignment as its frozen crew, the other entries
stay, and the assessment is recomputed. With an entry left the callout takes its outcome (R18 to R20; stated for a part with no
work left over). With every entry departed it is MOBILE with its window stopped: its alert status is ENDED; of its call-out
batches and demands only the batch of a pass in progress is left, withdrawing; the ATTENDING members on no frozen crew are
RELEASED and disengaged, and every other record and engagement on the callout stays, an ARRIVED one's among them; and RELEASE
pages to the released members are demanded in response-list order, 16 to a batch (stated where nothing else moves with the
withdrawal: no turn follows it and the oldest waiting demand finds no room; and the page queue can take them all). -/
def Obligations.DepartTaken : Prop :=
  ∀ (s : State) (i : SlotId) (c : Callout) (ap : Appliance) (e : ApplianceEntry), s.condition = .running →
    s.lookup c.number.toNat = some (i, c) → c.state = .alerting ∨ c.state = .counting ∨ c.state = .crewed →
    (c.appliances.map ApplianceEntry.letter).Nodup → e ∈ c.appliances → e.letter = ap → e.departed = false →
    let after := c.appliances.map fun e =>
      if e.letter = ap then { e with departed := true, crew := crewOn ap c.assessment.candidates } else e
    let gone : Prop := ∀ e ∈ after, e.departed = true
    let onCrew (m : MemberId) : Prop := ∃ e ∈ after, e.departed = true ∧ ∃ x ∈ e.crew, x.member = m
    let unused := (c.responses.filter fun r => r.kind = .attending ∧ ¬ onCrew r.member).map Response.member
    let cleared : Part := s.without c.owner fun k => k != .release && k != .standDown
    let releases := releasesFor c.owner unused
    Leads (.depart .console [num c.number.toNat, .text [ap.letter]]) s fun t => ∃ c' raised, t.callout? i = some c'
      ∧ c'.appliances = after
      ∧ c'.assessment = s.assessment c'
      ∧ (if gone then c'.state = .mobile ∧ c'.responseWindow = .stopped ∧ c'.alertStatus = .ended
          else c'.state = .alerting ∨ c'.state = .counting ∨ c'.state = .crewed)
      ∧ (¬ gone → s.Quiet →
          Reassessed (s.assessment { c with appliances := after }) { c with appliances := after } c')
      ∧ (gone →
        (∀ d ∈ t.pages.demands, d.owner = c.owner → d.kind = .release ∨ d.kind = .standDown)
        ∧ (∀ b ∈ t.pages.queue, b.owner = c.owner →
            b.kind = .release ∨ b.kind = .standDown ∨ b.withdrawing = true ∨ b.remaining = [])
        ∧ ((c.responses.map Response.member).Nodup → c'.responses = c.responses.map fun r => if r.member ∈ unused
            then { r with kind := .released, eta := none, estimate := none, lastChange := c.elapsed } else r)
        ∧ (unused ≠ [] → ∀ k, (t.ctl k).flags.getLsbD 1 = true)
        ∧ (s.NumbersDistinct → ∀ m x, s.member? m = some x → ∃ y, t.member? m = some y
            ∧ (m ∈ unused → y.engaged ≠ some c.number)
            ∧ (m ∉ unused → x.engaged = some c.number → y.engaged = some c.number))
        ∧ (cleared.Quiet → cleared.HeadWaits → cleared.CanTake releases → HandedAll releases cleared t))
      ∧ c'.level = c.level ∧ SameConfiguration s.toPart t
      ∧ Answered .console none [num c.number.toNat, num c'.state.code] raised s.toPart t

/-- Where HOLD and RESUME are taken, and where the orders on a callout are not (the table of section 1.3, R11, R13, R21, R23, R25, R30, R31, R33): NOT_FOUND
for a number no live callout holds, a number outside 1 to 255 among them (the model's choice of reason, log entry 18);
WRONG_STATE in the states the table gives, and for DEPART also NOT_FOUND for an appliance not in the list and WRONG_STATE for
one already departed. And where a relayed response and a booking are refused (R79, R81): NOT_FOUND for a member not in use or a
number no live callout holds, WRONG_STATE for a CLOSING callout, and for a booking also WRONG_STATE for a MOBILE one and a
WITHHELD member. Each of these orders is BAD_OPERAND for an operand absent that it needs, one of another kind, and too many
operands (R182): a relay also for a member outside 1 to 128, a number outside 1 to 255, a code other than 0 and 1, and a negative
ETA; a booking for a member and a number outside those, and for an absent number when no callout is chosen, the member being
engaged on none and not just one callout being ALERTING, COUNTING, CREWED or HELD; DEPART for a text that is not one letter A to D
(log entry 17). -/
def Obligations.OrdersByState : Prop :=
  (∀ (s : State) (l : Line) (x : BitVec 32) (b : GroupSet) (ap : Appliance), s.condition = .running →
    let n : Operand := .number x
    match s.lookup x.toInt with
    | none =>
      Refuses (.add l [n, .absent, .set b]) l s .notFound [] ∧ Refuses (.commit l [n]) l s .notFound []
      ∧ Refuses (.hold l [n]) l s .notFound [] ∧ Refuses (.resume l [n]) l s .notFound []
      ∧ Refuses (.standDown l [n]) l s .notFound []
      ∧ Refuses (.depart .console [n, .text [ap.letter]]) .console s .notFound []
    | some (_, c) =>
      (c.state = .inOpen ∨ c.state = .alerting ∨ c.state = .counting ∨ c.state = .crewed → Leads (.hold l [n]) s fun t =>
        ∃ raised, Answered l none [num c.number.toNat, num 5] raised s.toPart t)
      ∧ (c.state = .held → c.prior ≠ none → Leads (.resume l [n]) s fun t =>
        ∃ code raised, Answered l none [num c.number.toNat, num code] raised s.toPart t)
      ∧ (c.state = .held ∨ c.state = .mobile ∨ c.state = .closing →
        Refuses (.add l [n, .absent, .set b]) l s .wrongState [] ∧ Refuses (.hold l [n]) l s .wrongState [])
      ∧ (c.state ≠ .inOpen → Refuses (.commit l [n]) l s .wrongState [])
      ∧ (c.state ≠ .held → Refuses (.resume l [n]) l s .wrongState [])
      ∧ (c.state = .closing → Refuses (.standDown l [n]) l s .wrongState [])
      ∧ (c.hasAppliance ap = false → Refuses (.depart .console [n, .text [ap.letter]]) .console s .notFound [])
      ∧ (c.hasAppliance ap = true →
        c.state = .inOpen ∨ c.state = .held ∨ c.state = .mobile ∨ c.state = .closing
          ∨ (∀ e ∈ c.appliances, e.letter = ap → e.departed = true) →
        Refuses (.depart .console [n, .text [ap.letter]]) .console s .wrongState []))
  ∧ (∀ (s : State) (l : Line) (m : MemberId) (n : CalloutNo) (code : Nat) (eta : Option (BitVec 32)) (given : List Operand),
    s.condition = .running → n ≠ 0#8 → code ≤ 1 → (∀ v ∈ eta, 0 ≤ v.toInt) →
    Spells [num (m.val + 1), num n.toNat, num code, optionalNumber eta] given →
    let relay : Instr := .relayResponse l given
    let book : Instr := .bookOn .console [num (m.val + 1), num n.toNat]
    (s.member? m = none ∨ s.lookup n.toNat = none →
      (l ≠ .console → Refuses relay l s .notFound []) ∧ Refuses book .console s .notFound [])
    ∧ ∀ x i c, s.member? m = some x → s.lookup n.toNat = some (i, c) →
      (c.state = .closing → l ≠ .console → Refuses relay l s .wrongState [])
      ∧ (c.state = .closing ∨ c.state = .mobile ∨ x.availability = .withheld →
        Refuses book .console s .wrongState []))
  ∧ ∀ (s : State) (l : Line) (ops : List Operand), s.condition = .running →
    (1 < ops.length ∨ ¬ NumberOrAbsent (operandAt ops 0) ∨ operandAt ops 0 = .absent →
      Refuses (.commit l ops) l s .badOperand [] ∧ Refuses (.hold l ops) l s .badOperand []
      ∧ Refuses (.resume l ops) l s .badOperand [] ∧ Refuses (.standDown l ops) l s .badOperand [])
    ∧ (3 < ops.length ∨ ¬ NumberOrAbsent (operandAt ops 0) ∨ operandAt ops 0 = .absent ∨ ¬ AbsentOrIn (operandAt ops 1) 1 48
        ∨ (∀ b, operandAt ops 2 ≠ optionalSet b) →
      Refuses (.add l ops) l s .badOperand [])
    ∧ (2 < ops.length ∨ ¬ NumberOrAbsent (operandAt ops 0) ∨ operandAt ops 0 = .absent
        ∨ (∀ ap : Appliance, operandAt ops 1 ≠ .text [ap.letter]) →
      Refuses (.depart .console ops) .console s .badOperand [])
    ∧ (4 < ops.length ∨ ¬ NumberIn (operandAt ops 0) 1 128 ∨ ¬ NumberIn (operandAt ops 1) 1 255
        ∨ ¬ NumberIn (operandAt ops 2) 0 1 ∨ ¬ NumberOrAbsent (operandAt ops 3)
        ∨ (∃ x, operandAt ops 3 = .number x ∧ x.toInt < 0) →
      l ≠ .console → Refuses (.relayResponse l ops) l s .badOperand [])
    ∧ (2 < ops.length ∨ ¬ NumberIn (operandAt ops 0) 1 128 ∨ ¬ AbsentOrIn (operandAt ops 1) 1 255 →
      Refuses (.bookOn .console ops) .console s .badOperand [])
    ∧ ∀ m : MemberId, Spells [num (m.val + 1), .absent] ops →
      let bookable (j : SlotId) : Prop := ∃ d, s.callout? j = some d
        ∧ (d.state = .alerting ∨ d.state = .counting ∨ d.state = .crewed ∨ d.state = .held)
      let engaged : Prop := ∃ x n j, s.member? m = some x ∧ x.engaged = some n ∧ s.findCallout n = some j
      let chosen : Prop := engaged ∨ ∃ j, bookable j ∧ ∀ k, bookable k → k = j
      (¬ chosen → Refuses (.bookOn .console ops) .console s .badOperand [])
      ∧ (chosen → s.member? m = none → Refuses (.bookOn .console ops) .console s .notFound [])

/-! ## Escalation (chapter 6) -/

/-- The expiry of a COUNTING callout's running response window (R16, R116 to R121): below level 3 the level rises by one and
the window starts again at full length; at 0 the members to re-page are listed and demanded in a REPAGE batch, with a siren
request for the callout's pattern unless its policy is NONE: they are the first 16 AVAILABLE members of a PAGED primary group
who hold no record and qualify for a role short on an appliance not departed (R69, R117); at 1 the secondary groups judged *yes* join the primary groups
and are demanded in an ESCALATE batch; at 2 the aid request is made, with AID raised and, in local working, a siren request for
the aid pattern; at 3 the callout is exhausted, EXHAUSTED is raised and the window stops. No other level makes a siren request.
In any other state, and with the window not running, nothing happens. -/
def Obligations.WindowExpiry : Prop :=
  ∀ (s : State) (i : SlotId), s.condition = .running →
    (∀ c, s.callout? i = some c → c.state = .counting → c.responseWindow.mark = .running →
      Leads (.responseWindowExpiry i) s fun t => ∃ c', t.callout? i = some c' ∧ c'.state = .counting
        ∧ SameConfiguration s.toPart t
        ∧ (c.level < 3 → c'.level.val = c.level.val + 1 ∧ c'.responseWindow = .start c.window
            ∧ c'.exhausted = c.exhausted)
        ∧ (c.level = 0 →
            c'.repaged = ((ascending 128).filter fun m => (s.member? m).any fun x =>
                x.availability == .available && x.groups &&& (c.primary &&& c.paged) != 0#16
                  && (c.responses.all fun r => r.member != m)
                  && [Role.oic, .drv, .ba, .gen].any fun r => x.quals.holds r && c.appliances.any fun e =>
                    !e.departed && c.assessment.entries.any fun y => y.letter == e.letter && 0 < y.shortfall.count r).take 16
            ∧ (s.Quiet → c'.repaged ≠ [] → Handed
                { kind := .repage, owner := c.owner, content := .members c'.repaged, restrict := .all } s.toPart t))
        ∧ (c.level = 1 →
            let asked := c.secondary &&& ~~~c.primary
            let joined := s.judgedYes asked
            c'.primary = c.primary ||| joined ∧ c'.secondary = c.secondary &&& ~~~joined
              ∧ c'.flags.groupsOmitted = (c.flags.groupsOmitted || joined != asked)
              ∧ (s.Quiet → joined ≠ 0#16 → Handed
                  { kind := .escalate, owner := c.owner, content := .groups (membersOf 16 joined), restrict := .all }
                  s.toPart t))
        ∧ (c.level ≠ 1 → c'.primary = c.primary ∧ c'.secondary = c.secondary)
        ∧ (c.level = 2 → c'.flags.aidRequested = true ∧ ∀ l, (t.ctl l).flags.getLsbD 3 = true)
        ∧ (c.level = 3 → c'.level = 3 ∧ c'.exhausted = true ∧ c'.responseWindow = .stopped
            ∧ ∀ l, (t.ctl l).flags.getLsbD 4 = true)
        ∧ (if c.level = 0 ∧ c.sirenPolicy ≠ .none then SirenAsked c.sirenPattern s.toPart t
            else if c.level = 2 ∧ s.localWorking = true then SirenAsked s.settings.aidPattern s.toPart t
            else t.station.run = s.station.run))
    ∧ ((∀ c, s.callout? i = some c → c.state ≠ .counting ∨ c.responseWindow.mark ≠ .running) →
      exec (.responseWindowExpiry i) s = .next s)

/-! ## Responses (chapter 4) -/

/-- A return frame is discarded without a trace when some part of it arrived while its site was keyed, when the site is
keyed, or when its check fails (R76, R157); and so is one with an unassigned code, one from no member, a duty report with a
code other than OFF_DUTY and ON_DUTY, a duty code with a token other than 0, and a response whose token no live callout holds
or a CLOSING one does (R77, R78), all from the code on stated for a part with no work left over, whose lamps show what R169 gives. A duty report (R60, R54): AVAILABLE and not ARRIVED
becomes OFF_DUTY, with the engagement ended; OFF_DUTY becomes AVAILABLE; a WITHHELD member stays so, and so does an ARRIVED
one. Of a member who becomes OFF_DUTY while engaged on a callout that is not CLOSING, the record there becomes WITHDRAWN with the
report's site as its source, the callout is reassessed and takes its outcome, RESPONSE is raised, and CREW when the outcome changes,
on a part with no work left over (R54, R55, R91, R97, R105). In every other case, the lamps right too, the availability is all that
changes. -/
def Obligations.ReturnFrames : Prop :=
  (∀ (s : State) (k : SiteId) (bits : BitVec 58), s.condition = .running →
    let f := ReturnFrame.ofBits bits
    exec (.returnFrame k bits true) s = .next s
    ∧ (s.siteKeyed k = true → exec (.returnFrame k bits false) s = .next s)
    ∧ (f.check ≠ f.expected → exec (.returnFrame k bits false) s = .next s)
    ∧ (s.Quiet → s.LampsRight →
        4 ≤ f.code.toNat ∨ (∀ m x, s.member? m = some x → x.address ≠ f.address)
          ∨ (f.token = 0#12 ∧ f.code ≠ 2#3 ∧ f.code ≠ 3#3)
          ∨ (f.token ≠ 0#12 ∧ (f.code = 2#3 ∨ f.code = 3#3))
          ∨ (f.token ≠ 0#12 ∧ ∀ i c, s.callout? i = some c → c.token = f.token → c.state = .closing) →
        exec (.returnFrame k bits false) s = .next s))
  ∧ (∀ (s : State) (k : SiteId) (m : MemberId) (x : Member) (off : Bool) (eta : BitVec 6), s.condition = .running →
    s.siteKeyed k = false → s.memberAt x.address = some m → s.member? m = some x →
    Leads (.returnFrame k (returnFrameBits x.address 0#12 (if off then 2#3 else 3#3) eta) false) s fun t =>
      SameConfiguration s.toPart t ∧ ∃ y, t.member? m = some y
      ∧ y.availability = (match x.availability, off with
        | .withheld, _ => .withheld
        | .available, true => if s.isArrived m x then .available else .offDuty
        | .offDuty, false => .available
        | v, _ => v)
      ∧ (let leaves (n : CalloutNo) (i : SlotId) : Prop := x.availability = .available ∧ off = true
            ∧ s.isArrived m x = false ∧ x.engaged = some n ∧ s.findCallout n = some i
        ((∃ n i, leaves n i) → y.engaged = none)
        ∧ (∀ n i d, leaves n i → s.callout? i = some d → d.state ≠ .closing → s.Quiet →
          let withdrawn : Callout := { d with responses := d.responses.map fun r => if r.member = m
            then { r with kind := .withdrawn, eta := none, estimate := none, source := .site k, lastChange := d.elapsed }
            else r }
          let a := s.assessment withdrawn
          (∃ d', t.callout? i = some d' ∧ Reassessed a withdrawn d')
          ∧ ∀ l, (t.ctl l).flags.getLsbD 1 = true
            ∧ (a.outcome ≠ d.assessment.outcome → (t.ctl l).flags.getLsbD 2 = true))
        ∧ ((∀ n i, ¬ leaves n i) → s.Quiet → s.LampsRight →
          t = { s.toPart with roster := { s.roster with members := s.roster.members.set m (some { x with
            availability := y.availability }) } })))

/-- The member's answer by return frame, relayed or booked on, where R83 takes it at step 8 (R78 to R86, R88, R90, R92): the
callout is not CLOSING; an ATTEND is not from a WITHHELD member nor to a MOBILE callout; the record there is not ARRIVED and
not an identical repeat; the member is not ARRIVED elsewhere, where it would be moved; and there is a record or room for one.
The record then holds the kind, ETA, minute, estimate, sequence number and source that the response gives, in its place or at
the end of the list, the oldest inactive record making way in a full one. An OFF_DUTY member who comes is AVAILABLE; the
engagement follows, and a record on another callout the member leaves is WITHDRAWN. The callout is reassessed: ALERTING or
COUNTING with the outcome CREWED it is CREWED and its surplus RELEASED, and CREWED with another outcome it is COUNTING; and so is the
callout the member leaves, if it is not CLOSING, with the record WITHDRAWN (R57). CREW is raised when the outcome of either changes
(R105), RESPONSE is raised, and an order is answered with the six results. Stated for a part with no work left over. -/
def Obligations.ResponsesTaken : Prop :=
  ∀ (s : State) (i : SlotId) (c : Callout) (m : MemberId) (x : Member) (e : Instr) (kind : ResponseKind) (eta : Option Nat)
    (source : Source), s.condition = .running → s.Quiet → s.NumbersDistinct → s.callout? i = some c → c.state ≠ .closing →
    s.member? m = some x → Brings s.toPart i c m x e kind eta source →
    let old := c.responses.find? fun r => r.member == m
    let comes : Prop := kind ≠ .unavailable
    (kind = .attending → x.availability ≠ .withheld ∧ c.state ≠ .mobile) →
    (∀ r ∈ old, r.kind ≠ .arrived ∧ ¬ (kind = .attending ∧ r.kind = .attending ∧ r.eta = eta)
      ∧ ¬ (kind = .unavailable ∧ r.kind = .unavailable)) →
    (kind = .attending → ∀ j d, j ≠ i → s.callout? j = some d → x.engaged = some d.number →
      ∀ r, (d.responses.find? fun r => r.member == m) = some r → r.kind ≠ .arrived) →
    (old = none → c.responses.length < 32 ∨ ∃ r ∈ c.responses, r.inactive = true) →
    let minute := c.elapsed / 60
    let fresh : Prop := comes ∧ ∀ r ∈ old, r.inactive = true
    let record : Response :=
      { member := m, kind := kind, eta := eta, minute := minute
        estimate := match kind with
          | .attending => some (min (minute + eta.getD c.turnout) 99)
          | .arrived => some (min minute 99)
          | _ => none
        sequence := if fresh then some (min (c.sequence + 1) 255) else old.bind Response.sequence
        source := source, lastChange := c.elapsed }
    let list : List Response := match old with
      | some _ => c.responses.map fun r => if r.member = m then record else r
      | none => (if c.responses.length < 32 then c.responses else c.responses.eraseP Response.inactive) ++ [record]
    let a := s.assessment { c with responses := list }
    let enters : Prop := (c.state = .alerting ∨ c.state = .counting) ∧ a.outcome = .crewed
    let released (r : Response) : Response := if r.kind = .released then r
      else { r with kind := .released, eta := none, estimate := none, lastChange := c.elapsed }
    let final : Response := if enters ∧ m ∈ a.surplus then released record else record
    Leads e s fun t => SameConfiguration s.toPart t ∧ (∀ l, (t.ctl l).flags.getLsbD 1 = true)
      ∧ (a.outcome ≠ c.assessment.outcome → ∀ l, (t.ctl l).flags.getLsbD 2 = true)
      ∧ (comes → ∀ j d, j ≠ i → s.callout? j = some d → x.engaged = some d.number → d.state ≠ .closing →
          let withdrawn : Callout := { d with responses := d.responses.map fun r => if r.member = m
            then { r with kind := .withdrawn, eta := none, estimate := none, source := source, lastChange := d.elapsed }
            else r }
          let b := s.assessment withdrawn
          (∃ d', t.callout? j = some d' ∧ Reassessed b withdrawn d')
          ∧ (b.outcome ≠ d.assessment.outcome → ∀ l, (t.ctl l).flags.getLsbD 2 = true))
      ∧ (∃ c', t.callout? i = some c'
        ∧ c'.state = (if enters then .crewed
            else if c.state = .crewed ∧ a.outcome ≠ .crewed then .counting else c.state)
        ∧ c'.responses = (if enters then list.map fun r => if r.member ∈ a.surplus then released r else r else list)
        ∧ c'.sequence = (if fresh then min (c.sequence + 1) 255 else c.sequence))
      ∧ (∃ y, t.member? m = some y
        ∧ y.availability = (if comes ∧ x.availability = .offDuty then .available else x.availability)
        ∧ y.engaged = if comes then (if enters ∧ m ∈ a.surplus then none else some c.number)
            else if x.engaged = some c.number then none else x.engaged)
      ∧ (comes → ∀ j d r, j ≠ i → s.callout? j = some d → x.engaged = some d.number →
          (d.responses.find? fun r => r.member == m) = some r → r.inactive = false →
          ∃ d', t.callout? j = some d' ∧ (d'.responses.find? fun r => r.member == m) = some
            { r with kind := .withdrawn, eta := none, estimate := none, source := source, lastChange := d.elapsed })
      ∧ ResponseAnswered m c source 0 (some final) s.toPart t

/-- The member's answer where R83 does not take it, on a part with no work left over. An ATTEND from a WITHHELD member changes
no record and no member, and a NOT_REQUIRED page is demanded (R89). A response to the callout the member is ARRIVED on, an
identical repeat, and an ATTEND from a member ARRIVED on another callout are ignored: nothing changes (R82, R87, R88). An
ATTEND to a MOBILE callout makes the record RELEASED, or leaves it so, ends an active attendance, makes an OFF_DUTY member
AVAILABLE, and a NOT_REQUIRED page is demanded; with neither a record nor room for one it is lost, the page is demanded all the
same, and an OFF_DUTY member stays so (R90, log entries 14 and 15). A response that needs a record and finds no room is lost:
RESPONSE_LOST is set, RESPONSE raised, and no record and no member changes (R92). An order is answered IGNORED, NOT_REQUIRED or
LOST. A booking of a member ARRIVED on another callout is refused WRONG_STATE (R81). -/
def Obligations.ResponsesNotTaken : Prop :=
  ∀ (s : State) (i : SlotId) (c : Callout) (m : MemberId) (x : Member), s.condition = .running → s.Quiet →
    s.NumbersDistinct → s.callout? i = some c → c.state ≠ .closing → s.member? m = some x →
    let old := c.responses.find? fun r => r.member == m
    let arrived : Prop := ∃ r ∈ old, r.kind = .arrived
    let elsewhere : Prop := ∃ j d r, j ≠ i ∧ s.callout? j = some d ∧ x.engaged = some d.number
      ∧ (d.responses.find? fun r => r.member == m) = some r ∧ r.kind = .arrived
    let room : Prop := c.responses.length < 32 ∨ ∃ r ∈ c.responses, r.inactive = true
    let page : Demand := { kind := .release, owner := c.owner, content := .members [m], restrict := .all }
    (∀ e kind eta source, Brings s.toPart i c m x e kind eta source →
      let repeats : Prop := ∃ r ∈ old, kind = .attending ∧ r.kind = .attending ∧ r.eta = eta
        ∨ kind = .unavailable ∧ r.kind = .unavailable
      let withheld : Prop := kind = .attending ∧ x.availability = .withheld
      let answered (code : Nat) (r : Option Response) (t : Part) : Prop := ResponseAnswered m c source code r s.toPart t
      (withheld → Leads e s fun t => Handed page s.toPart t ∧ t.roster = s.roster
        ∧ (∃ c', t.callout? i = some c' ∧ c' = { c with flags := { c.flags with txDegraded := c'.flags.txDegraded } })
        ∧ answered 2 old t)
      ∧ (¬ withheld → (arrived ∨ (kind ≠ .attending ∨ c.state ≠ .mobile) ∧ (repeats ∨ kind = .attending ∧ elsewhere)) →
        s.LampsRight → Leads e s fun t => answered 1 old t ∧ match source with
          | .site _ => t = s.toPart
          | .line l => SameBlocks l s.toPart t)
      ∧ (kind = .attending → ¬ withheld → c.state = .mobile → ¬ arrived → Leads e s fun t => Handed page s.toPart t
        ∧ ∃ c' y, t.callout? i = some c' ∧ t.member? m = some y ∧ c'.state = .mobile ∧ c'.sequence = c.sequence
          ∧ let lost : Prop := old = none ∧ ¬ room
            let record : Response :=
              { member := m, kind := .released, eta := none, minute := c.elapsed / 60, estimate := none
                sequence := old.bind Response.sequence, source := source, lastChange := c.elapsed }
            y.availability = (if x.availability = .offDuty ∧ ¬ lost then .available else x.availability)
            ∧ y.engaged = (if x.engaged = some c.number ∧ (∃ r ∈ old, r.inactive = false) then none else x.engaged)
            ∧ c'.flags.responseLost = (c.flags.responseLost || decide (old = none ∧ ¬ room))
            ∧ ((∀ r ∈ old, r.kind ≠ .released) → ∀ l, (t.ctl l).flags.getLsbD 1 = true)
            ∧ (c'.responses = match old with
              | some r => if r.kind = .released then c.responses
                  else c.responses.map fun r => if r.member = m then record else r
              | none => if c.responses.length < 32 then c.responses ++ [record]
                  else if ∃ r ∈ c.responses, r.inactive = true then c.responses.eraseP Response.inactive ++ [record]
                  else c.responses)
            ∧ answered (if lost then 3 else 2)
                (if lost then none else match old with
                  | some r => if r.kind = .released then some r else some record
                  | none => some record) t)
      ∧ (¬ withheld → kind ≠ .attending ∨ c.state ≠ .mobile → ¬ (kind = .attending ∧ elsewhere) → old = none → ¬ room →
        Leads e s fun t => t.roster = s.roster ∧ t.pages = s.pages ∧ (∀ l, (t.ctl l).flags.getLsbD 1 = true)
          ∧ t.callout? i = some { c with flags := { c.flags with responseLost := true } } ∧ answered 3 none t))
    ∧ (elsewhere → Refuses (.bookOn .console [num (m.val + 1), num c.number.toNat]) .console s .wrongState [])

/-! ## Formats (section 10.8) -/

/-- What the layouts of section 10.8 carry comes back whole: the payload of a link frame of any kind and length up to 40 whose
length suits its kind, whatever stands before its sync and behind it; the station code and exchange number of an OPENING; the
code and count of an ORDER; every operand a master can send; and the fields of a return frame, whose check is right just when it
is the one computed over its 42 data bits. The check is that of R175: a register begun at 0xFFFF, shifted for each bit and combined
with 0x1021 when the bit shifted out differs. A burst is 64 bits alternating from 1, the word 0x5A3CE1B4, and for each page its
address block, its header block, and a text block for each four characters, the last filled out with spaces; each block is its 32
data bits, as the tables give them, and their check (R191). A frame whose check differs from the check computed over its kind, length and
payload, whose length does not suit its kind, or which is of another kind, is passed over and the receiver looks for the next
sync behind it; one with a length above 40 is discarded at its length; and the beginning of a frame is kept (R175; log entry
2). A line sends, while the part runs, the frame of a broken-off reply to its end, and then a reply as one REPLY frame, with
exchange number, status, reason code and count, and one RESULT frame for each result, numbered from 1, with its kind and value;
nothing else, and nothing when it does not run; the driver enable of P and S is active while there is something to send
(R179, R180). That a reply formed while such a frame is being sent waits behind it is the model's choice (log entry 29). -/
def Obligations.Formats : Prop :=
  (checkOf [] = 0xFFFF#16
    ∧ (∀ (data : List Bool) (b : Bool), checkOf (data ++ [b]) =
      if (checkOf data).getMsbD 0 = b then checkOf data <<< 1 else (checkOf data <<< 1) ^^^ 0x1021#16)
    ∧ ∀ pages : List Page,
      let bits (w : Nat) (x : BitVec w) : List Bool := (List.range w).map fun k => x.getMsbD k
      let block (data : List Bool) : List Bool := data ++ bits 16 (checkOf data)
      let kind (p : Page) : BitVec 3 := match p.kind with
        | .alert => 1#3 | .repage => 2#3 | .notRequired => 3#3 | .standDown => 4#3
      let texts (p : Page) : Nat := (p.text.length + 3) / 4
      let address (p : Page) : List Bool :=
        block (bits 21 p.address ++ bits 3 (kind p) ++ bits 3 (BitVec.ofNat 3 (texts p)) ++ bits 5 0#5)
      let header (p : Page) : List Bool :=
        block (bits 12 p.token ++ bits 8 p.number ++ bits 6 (BitVec.ofNat 6 p.cls.val) ++ bits 5 (BitVec.ofNat 5 p.zone.val)
          ++ [p.escalated])
      let text (p : Page) (k : Nat) : List Bool :=
        block ((List.range 4).flatMap fun j => bits 8 (p.text.getD (4 * k + j) 0x20#8))
      burstOf pages = ((List.range 64).map fun k => k % 2 == 0) ++ bits 32 0x5A3CE1B4#32
        ++ pages.flatMap fun p => address p ++ header p ++ (List.range (texts p)).flatMap (text p))
  ∧ ((∀ (kind : Byte) (payload before behind : List Byte), payload.length ≤ 40 → lengthSuits kind payload = true →
    (∀ b ∈ before, b ≠ 0xC3#8) →
    hear kind (before ++ linkFrame kind payload ++ behind) = (some payload, behind))
  ∧ (∀ (a b c d x : Byte), openingOf (linkFrame 1#8 [a, b, c, d, x]) = some ([a, b, c, d], x))
  ∧ (∀ code count : Byte, orderOf (linkFrame 2#8 [code, count]) = some (code, count.toNat))
  ∧ (∀ o : Operand, o.wellFormed = true → operandOf (linkFrame 3#8 (operandBytes o)) = some o)
  ∧ ∀ (address : Address) (token : Token) (code : BitVec 3) (eta : BitVec 6),
      let f := ReturnFrame.ofBits (returnFrameBits address token code eta)
      f.address = address ∧ f.token = token ∧ f.code = code ∧ f.eta = eta ∧ f.check = f.expected)
  ∧ ((∀ (kind k n c1 c2 : Byte) (payload behind : List Byte), payload.length = n.toNat → n.toNat ≤ 40 →
    k ≠ kind ∨ lengthSuits k payload = false ∨ bytesOf 2 (linkCheck k payload).toNat ≠ [c1, c2] →
    hear kind ([0xC3#8, 0x3C#8, k, n] ++ payload ++ [c1, c2] ++ behind) = hear kind behind)
  ∧ (∀ (kind k n : Byte) (behind : List Byte), 40 < n.toNat →
    hear kind ([0xC3#8, 0x3C#8, k, n] ++ behind) = hear kind behind)
  ∧ ∀ (kind k n : Byte) (part : List Byte), n.toNat ≤ 40 → part.length < n.toNat + 2 →
    hear kind ([0xC3#8, 0x3C#8, k, n] ++ part) = (none, [0xC3#8, 0x3C#8, k, n] ++ part))
  ∧ ∀ (s : State) (l : Line),
    let frame (kind : Byte) (payload : List Byte) : List Byte :=
      [0xC3#8, 0x3C#8, kind, BitVec.ofNat 8 payload.length] ++ payload
        ++ bytesOf 2 (checkOf (bitsOfBytes (kind :: BitVec.ofNat 8 payload.length :: payload))).toNat
    let value (o : Operand) : List Byte := match o with
      | .number v => [0#8, v.extractLsb' 24 8, v.extractLsb' 16 8, v.extractLsb' 8 8, v.extractLsb' 0 8]
      | .text t => 1#8 :: BitVec.ofNat 8 t.length :: t
      | .set b => [2#8, b.extractLsb' 8 8, b.extractLsb' 0 8]
      | .absent => [3#8]
      | .unassigned k => [k]
    let reason (r : Option Reason) : Byte := match r with
      | none => 0#8 | some .unknownOrder => 1#8 | some .notPermitted => 2#8 | some .badOperand => 3#8
      | some .notFound => 4#8 | some .wrongState => 5#8 | some .duplicate => 6#8 | some .noPlan => 7#8
      | some .noAppliance => 8#8 | some .tableFull => 9#8 | some .busy => 11#8
    let frames (r : Reply) : List (List Byte) :=
      frame 4#8 [r.exchange, (if r.refused = none then 0#8 else 0x80#8) ||| (if r.notices then 0x40#8 else 0#8),
          reason r.refused, BitVec.ofNat 8 r.results.length]
        :: (r.results.zipIdx 1).map fun x => frame 5#8 (BitVec.ofNat 8 x.2 :: value x.1)
    (s.condition = .running → s.transmit l =
      (match (s.ctl l).tail with | some x => [x.frame] | none => [])
        ++ match (s.ctl l).reply with | some r => frames r | none => [])
    ∧ (s.condition ≠ .running → s.transmit l = [])
    ∧ ∀ k : ControlLine, s.driverEnable k = true ↔
      s.condition = .running ∧ ((s.ctl k.line).state = .replying ∨ (s.ctl k.line).tail ≠ none)

/-! ## The crew assessor (chapter 5) -/

/-- The assessment of a callout (R98 to R104): the candidates are the ATTENDING and ARRIVED records but those of members on the
crew of a departed entry, in rank order, by estimate, then sequence, then member. Seats are given by rank: each candidate takes
the first slot, in list order and then OIC, DRV, BA, GEN, of an entry not departed that it qualifies for and better-ranked ones
have left open; one without a slot takes a spare seat of the first entry that has one left, and is SURPLUS when none has. No
role of an entry that has not departed has more members than its slots, each of them holds its qualification, and the spare
seats given are no more than the seats the requirement leaves; a SURPLUS candidate finds every spare seat and every slot of its roles
taken. An entry's part follows from the seating, or from the frozen crew of a departed entry: its shortfall is, role by role,
the requirement less the members in that role's slots; it is filled just when no shortfall is left; its crewed time is then the
largest estimate in its required slots; and it is in time when that is within the turnout limit. The outcome is CREWED just when
every entry is in time, PARTIAL when some are, and SHORT when none is. -/
def Obligations.AssessmentSound : Prop :=
  ∀ (seats : Appliance → Nat) (quals : MemberId → Qualifications) (c : Callout),
    (c.appliances.map ApplianceEntry.letter).Nodup →
    let a := assess seats quals c
    let present := c.appliances.filter fun e => e.departed = false
    (∃ order : List Response,
      order.Perm (c.responses.filter fun r => (r.kind = .attending ∨ r.kind = .arrived)
        ∧ ∀ e ∈ c.appliances, e.departed = true → ∀ x ∈ e.crew, x.member ≠ r.member)
      ∧ order.Pairwise (fun x y =>
          let ex := x.estimate.getD 0
          let ey := y.estimate.getD 0
          let sx := x.sequence.getD 0
          let sy := y.sequence.getD 0
          ex < ey ∨ ex = ey ∧ (sx < sy ∨ sx = sy ∧ x.member.val ≤ y.member.val))
      ∧ a.candidates.map (fun x => (x.rank, x.member, x.estimate))
          = (order.zipIdx 1).map fun x => (x.2, x.1.member, x.1.estimate.getD 0))
    ∧ (∀ (k : Nat) (x : CandidatePart), a.candidates[k]? = some x →
      let better := a.candidates.take k
      let holders (l : Appliance) (seat : Seat) : Nat := (better.filter fun y => y.assignment = .seated l seat).length
      let qualifies (r : Role) : Bool := match r with
        | .oic => (quals x.member).oic
        | .drv => (quals x.member).drv
        | .ba => (quals x.member).ba
        | .gen => true
      let slots : List (Appliance × Role) := present.flatMap fun e =>
        ([.oic, .drv, .ba, .gen].filter fun r => qualifies r ∧ holders e.letter (.role r) < e.need.count r).map fun r =>
          (e.letter, r)
      let spares : List Appliance := (present.filter fun e =>
        holders e.letter .spare < seats e.letter - e.need.sum).map ApplianceEntry.letter
      x.assignment = match slots, spares with
        | (l, r) :: _, _ => .seated l (.role r)
        | [], l :: _ => .seated l .spare
        | [], [] => .surplus)
    ∧ a.entries.map AppliancePart.letter = c.appliances.map ApplianceEntry.letter
    ∧ (∀ e ∈ c.appliances, e.departed = false →
      let crew := crewOn e.letter a.candidates
      (∀ r : Role, (seatedAs (.role r) crew).length ≤ e.need.count r)
      ∧ (seatedAs .spare crew).length ≤ seats e.letter - e.need.sum
      ∧ (∀ x ∈ crew, ∀ r, x.seat = .role r → (quals x.member).holds r = true)
      ∧ ∀ x ∈ a.candidates, x.assignment = .surplus →
        (seatedAs .spare crew).length = seats e.letter - e.need.sum
        ∧ ∀ r, (quals x.member).holds r = true → (seatedAs (.role r) crew).length = e.need.count r)
    ∧ (∀ (k : Nat) (e : ApplianceEntry) (x : AppliancePart), c.appliances[k]? = some e → a.entries[k]? = some x →
      let crew := if e.departed then e.crew else crewOn e.letter a.candidates
      x.letter = e.letter ∧ x.need = e.need ∧ x.seats = seats e.letter
      ∧ (∀ r : Role, x.shortfall.count r = e.need.count r - (seatedAs (.role r) crew).length)
      ∧ (x.filled = true ↔ ∀ r : Role, x.shortfall.count r = 0)
      ∧ (x.filled = false → x.crewedAt = none)
      ∧ (x.filled = true → ∃ n, x.crewedAt = some n ∧ (∀ y ∈ crew, y.seat ≠ .spare → y.estimate ≤ n)
          ∧ (n = 0 ∨ ∃ y ∈ crew, y.seat ≠ .spare ∧ y.estimate = n))
      ∧ (x.inTime = true ↔ ∃ n, x.crewedAt = some n ∧ n ≤ c.turnout))
    ∧ (∀ x ∈ a.entries, (x.filled = true ↔ x.shortfall.sum = 0)
        ∧ (x.inTime = true ↔ ∃ n, x.crewedAt = some n ∧ n ≤ c.turnout))
    ∧ (a.outcome = .crewed ↔ ∀ x ∈ a.entries, x.inTime = true)
    ∧ (a.outcome = .short ↔ (∃ x ∈ a.entries, x.inTime = false) ∧ ∀ x ∈ a.entries, x.inTime = false)

end
end

