-- ==== Sys2Proof/Laws/State.lean ====
section
/-!
SUPPORT. One lemma per field of the part per update of a block, true by definition.
-/

namespace Sys2Proof.Machine

open Sys2Proof

variable (p : Part)

section
variable (f : Lines → Lines)
@[simp] theorem Part.onLines_condition : (p.onLines f).condition = p.condition := rfl
@[simp] theorem Part.onLines_cause : (p.onLines f).cause = p.cause := rfl
@[simp] theorem Part.onLines_restart : (p.onLines f).restart = p.restart := rfl
@[simp] theorem Part.onLines_pins : (p.onLines f).pins = p.pins := rfl
@[simp] theorem Part.onLines_lines : (p.onLines f).lines = f p.lines := rfl
@[simp] theorem Part.onLines_settings : (p.onLines f).settings = p.settings := rfl
@[simp] theorem Part.onLines_resolver : (p.onLines f).resolver = p.resolver := rfl
@[simp] theorem Part.onLines_roster : (p.onLines f).roster = p.roster := rfl
@[simp] theorem Part.onLines_table : (p.onLines f).table = p.table := rfl
@[simp] theorem Part.onLines_pages : (p.onLines f).pages = p.pages := rfl
@[simp] theorem Part.onLines_sites : (p.onLines f).sites = p.sites := rfl
@[simp] theorem Part.onLines_station : (p.onLines f).station = p.station := rfl
@[simp] theorem Part.onLines_supply : (p.onLines f).supply = p.supply := rfl
@[simp] theorem Part.onLines_store : (p.onLines f).store = p.store := rfl
end

section
variable (f : UnitSettings → UnitSettings)
@[simp] theorem Part.onSettings_condition : (p.onSettings f).condition = p.condition := rfl
@[simp] theorem Part.onSettings_cause : (p.onSettings f).cause = p.cause := rfl
@[simp] theorem Part.onSettings_restart : (p.onSettings f).restart = p.restart := rfl
@[simp] theorem Part.onSettings_pins : (p.onSettings f).pins = p.pins := rfl
@[simp] theorem Part.onSettings_lines : (p.onSettings f).lines = p.lines := rfl
@[simp] theorem Part.onSettings_settings : (p.onSettings f).settings = f p.settings := rfl
@[simp] theorem Part.onSettings_resolver : (p.onSettings f).resolver = p.resolver := rfl
@[simp] theorem Part.onSettings_roster : (p.onSettings f).roster = p.roster := rfl
@[simp] theorem Part.onSettings_table : (p.onSettings f).table = p.table := rfl
@[simp] theorem Part.onSettings_pages : (p.onSettings f).pages = p.pages := rfl
@[simp] theorem Part.onSettings_sites : (p.onSettings f).sites = p.sites := rfl
@[simp] theorem Part.onSettings_station : (p.onSettings f).station = p.station := rfl
@[simp] theorem Part.onSettings_supply : (p.onSettings f).supply = p.supply := rfl
@[simp] theorem Part.onSettings_store : (p.onSettings f).store = p.store := rfl
end

section
variable (f : Resolver → Resolver)
@[simp] theorem Part.onResolver_condition : (p.onResolver f).condition = p.condition := rfl
@[simp] theorem Part.onResolver_cause : (p.onResolver f).cause = p.cause := rfl
@[simp] theorem Part.onResolver_restart : (p.onResolver f).restart = p.restart := rfl
@[simp] theorem Part.onResolver_pins : (p.onResolver f).pins = p.pins := rfl
@[simp] theorem Part.onResolver_lines : (p.onResolver f).lines = p.lines := rfl
@[simp] theorem Part.onResolver_settings : (p.onResolver f).settings = p.settings := rfl
@[simp] theorem Part.onResolver_resolver : (p.onResolver f).resolver = f p.resolver := rfl
@[simp] theorem Part.onResolver_roster : (p.onResolver f).roster = p.roster := rfl
@[simp] theorem Part.onResolver_table : (p.onResolver f).table = p.table := rfl
@[simp] theorem Part.onResolver_pages : (p.onResolver f).pages = p.pages := rfl
@[simp] theorem Part.onResolver_sites : (p.onResolver f).sites = p.sites := rfl
@[simp] theorem Part.onResolver_station : (p.onResolver f).station = p.station := rfl
@[simp] theorem Part.onResolver_supply : (p.onResolver f).supply = p.supply := rfl
@[simp] theorem Part.onResolver_store : (p.onResolver f).store = p.store := rfl
end

section
variable (f : Roster → Roster)
@[simp] theorem Part.onRoster_condition : (p.onRoster f).condition = p.condition := rfl
@[simp] theorem Part.onRoster_cause : (p.onRoster f).cause = p.cause := rfl
@[simp] theorem Part.onRoster_restart : (p.onRoster f).restart = p.restart := rfl
@[simp] theorem Part.onRoster_pins : (p.onRoster f).pins = p.pins := rfl
@[simp] theorem Part.onRoster_lines : (p.onRoster f).lines = p.lines := rfl
@[simp] theorem Part.onRoster_settings : (p.onRoster f).settings = p.settings := rfl
@[simp] theorem Part.onRoster_resolver : (p.onRoster f).resolver = p.resolver := rfl
@[simp] theorem Part.onRoster_roster : (p.onRoster f).roster = f p.roster := rfl
@[simp] theorem Part.onRoster_table : (p.onRoster f).table = p.table := rfl
@[simp] theorem Part.onRoster_pages : (p.onRoster f).pages = p.pages := rfl
@[simp] theorem Part.onRoster_sites : (p.onRoster f).sites = p.sites := rfl
@[simp] theorem Part.onRoster_station : (p.onRoster f).station = p.station := rfl
@[simp] theorem Part.onRoster_supply : (p.onRoster f).supply = p.supply := rfl
@[simp] theorem Part.onRoster_store : (p.onRoster f).store = p.store := rfl
end

section
variable (f : CalloutTable → CalloutTable)
@[simp] theorem Part.onTable_condition : (p.onTable f).condition = p.condition := rfl
@[simp] theorem Part.onTable_cause : (p.onTable f).cause = p.cause := rfl
@[simp] theorem Part.onTable_restart : (p.onTable f).restart = p.restart := rfl
@[simp] theorem Part.onTable_pins : (p.onTable f).pins = p.pins := rfl
@[simp] theorem Part.onTable_lines : (p.onTable f).lines = p.lines := rfl
@[simp] theorem Part.onTable_settings : (p.onTable f).settings = p.settings := rfl
@[simp] theorem Part.onTable_resolver : (p.onTable f).resolver = p.resolver := rfl
@[simp] theorem Part.onTable_roster : (p.onTable f).roster = p.roster := rfl
@[simp] theorem Part.onTable_table : (p.onTable f).table = f p.table := rfl
@[simp] theorem Part.onTable_pages : (p.onTable f).pages = p.pages := rfl
@[simp] theorem Part.onTable_sites : (p.onTable f).sites = p.sites := rfl
@[simp] theorem Part.onTable_station : (p.onTable f).station = p.station := rfl
@[simp] theorem Part.onTable_supply : (p.onTable f).supply = p.supply := rfl
@[simp] theorem Part.onTable_store : (p.onTable f).store = p.store := rfl
end

section
variable (f : PageQueue → PageQueue)
@[simp] theorem Part.onPages_condition : (p.onPages f).condition = p.condition := rfl
@[simp] theorem Part.onPages_cause : (p.onPages f).cause = p.cause := rfl
@[simp] theorem Part.onPages_restart : (p.onPages f).restart = p.restart := rfl
@[simp] theorem Part.onPages_pins : (p.onPages f).pins = p.pins := rfl
@[simp] theorem Part.onPages_lines : (p.onPages f).lines = p.lines := rfl
@[simp] theorem Part.onPages_settings : (p.onPages f).settings = p.settings := rfl
@[simp] theorem Part.onPages_resolver : (p.onPages f).resolver = p.resolver := rfl
@[simp] theorem Part.onPages_roster : (p.onPages f).roster = p.roster := rfl
@[simp] theorem Part.onPages_table : (p.onPages f).table = p.table := rfl
@[simp] theorem Part.onPages_pages : (p.onPages f).pages = f p.pages := rfl
@[simp] theorem Part.onPages_sites : (p.onPages f).sites = p.sites := rfl
@[simp] theorem Part.onPages_station : (p.onPages f).station = p.station := rfl
@[simp] theorem Part.onPages_supply : (p.onPages f).supply = p.supply := rfl
@[simp] theorem Part.onPages_store : (p.onPages f).store = p.store := rfl
end

section
variable (f : SiteUnit → SiteUnit)
@[simp] theorem Part.onSites_condition : (p.onSites f).condition = p.condition := rfl
@[simp] theorem Part.onSites_cause : (p.onSites f).cause = p.cause := rfl
@[simp] theorem Part.onSites_restart : (p.onSites f).restart = p.restart := rfl
@[simp] theorem Part.onSites_pins : (p.onSites f).pins = p.pins := rfl
@[simp] theorem Part.onSites_lines : (p.onSites f).lines = p.lines := rfl
@[simp] theorem Part.onSites_settings : (p.onSites f).settings = p.settings := rfl
@[simp] theorem Part.onSites_resolver : (p.onSites f).resolver = p.resolver := rfl
@[simp] theorem Part.onSites_roster : (p.onSites f).roster = p.roster := rfl
@[simp] theorem Part.onSites_table : (p.onSites f).table = p.table := rfl
@[simp] theorem Part.onSites_pages : (p.onSites f).pages = p.pages := rfl
@[simp] theorem Part.onSites_sites : (p.onSites f).sites = f p.sites := rfl
@[simp] theorem Part.onSites_station : (p.onSites f).station = p.station := rfl
@[simp] theorem Part.onSites_supply : (p.onSites f).supply = p.supply := rfl
@[simp] theorem Part.onSites_store : (p.onSites f).store = p.store := rfl
end

section
variable (f : StationOutput → StationOutput)
@[simp] theorem Part.onStation_condition : (p.onStation f).condition = p.condition := rfl
@[simp] theorem Part.onStation_cause : (p.onStation f).cause = p.cause := rfl
@[simp] theorem Part.onStation_restart : (p.onStation f).restart = p.restart := rfl
@[simp] theorem Part.onStation_pins : (p.onStation f).pins = p.pins := rfl
@[simp] theorem Part.onStation_lines : (p.onStation f).lines = p.lines := rfl
@[simp] theorem Part.onStation_settings : (p.onStation f).settings = p.settings := rfl
@[simp] theorem Part.onStation_resolver : (p.onStation f).resolver = p.resolver := rfl
@[simp] theorem Part.onStation_roster : (p.onStation f).roster = p.roster := rfl
@[simp] theorem Part.onStation_table : (p.onStation f).table = p.table := rfl
@[simp] theorem Part.onStation_pages : (p.onStation f).pages = p.pages := rfl
@[simp] theorem Part.onStation_sites : (p.onStation f).sites = p.sites := rfl
@[simp] theorem Part.onStation_station : (p.onStation f).station = f p.station := rfl
@[simp] theorem Part.onStation_supply : (p.onStation f).supply = p.supply := rfl
@[simp] theorem Part.onStation_store : (p.onStation f).store = p.store := rfl
end

section
variable (f : Supply → Supply)
@[simp] theorem Part.onSupply_condition : (p.onSupply f).condition = p.condition := rfl
@[simp] theorem Part.onSupply_cause : (p.onSupply f).cause = p.cause := rfl
@[simp] theorem Part.onSupply_restart : (p.onSupply f).restart = p.restart := rfl
@[simp] theorem Part.onSupply_pins : (p.onSupply f).pins = p.pins := rfl
@[simp] theorem Part.onSupply_lines : (p.onSupply f).lines = p.lines := rfl
@[simp] theorem Part.onSupply_settings : (p.onSupply f).settings = p.settings := rfl
@[simp] theorem Part.onSupply_resolver : (p.onSupply f).resolver = p.resolver := rfl
@[simp] theorem Part.onSupply_roster : (p.onSupply f).roster = p.roster := rfl
@[simp] theorem Part.onSupply_table : (p.onSupply f).table = p.table := rfl
@[simp] theorem Part.onSupply_pages : (p.onSupply f).pages = p.pages := rfl
@[simp] theorem Part.onSupply_sites : (p.onSupply f).sites = p.sites := rfl
@[simp] theorem Part.onSupply_station : (p.onSupply f).station = p.station := rfl
@[simp] theorem Part.onSupply_supply : (p.onSupply f).supply = f p.supply := rfl
@[simp] theorem Part.onSupply_store : (p.onSupply f).store = p.store := rfl
end

section
variable (f : Store → Store)
@[simp] theorem Part.onStore_condition : (p.onStore f).condition = p.condition := rfl
@[simp] theorem Part.onStore_cause : (p.onStore f).cause = p.cause := rfl
@[simp] theorem Part.onStore_restart : (p.onStore f).restart = p.restart := rfl
@[simp] theorem Part.onStore_pins : (p.onStore f).pins = p.pins := rfl
@[simp] theorem Part.onStore_lines : (p.onStore f).lines = p.lines := rfl
@[simp] theorem Part.onStore_settings : (p.onStore f).settings = p.settings := rfl
@[simp] theorem Part.onStore_resolver : (p.onStore f).resolver = p.resolver := rfl
@[simp] theorem Part.onStore_roster : (p.onStore f).roster = p.roster := rfl
@[simp] theorem Part.onStore_table : (p.onStore f).table = p.table := rfl
@[simp] theorem Part.onStore_pages : (p.onStore f).pages = p.pages := rfl
@[simp] theorem Part.onStore_sites : (p.onStore f).sites = p.sites := rfl
@[simp] theorem Part.onStore_station : (p.onStore f).station = p.station := rfl
@[simp] theorem Part.onStore_supply : (p.onStore f).supply = p.supply := rfl
@[simp] theorem Part.onStore_store : (p.onStore f).store = f p.store := rfl
end

section
variable (n : Notice)
@[simp] theorem Part.raise_condition : (p.raise n).condition = p.condition := rfl
@[simp] theorem Part.raise_cause : (p.raise n).cause = p.cause := rfl
@[simp] theorem Part.raise_restart : (p.raise n).restart = p.restart := rfl
@[simp] theorem Part.raise_pins : (p.raise n).pins = p.pins := rfl
@[simp] theorem Part.raise_lines : (p.raise n).lines = p.lines.raise n := rfl
@[simp] theorem Part.raise_settings : (p.raise n).settings = p.settings := rfl
@[simp] theorem Part.raise_resolver : (p.raise n).resolver = p.resolver := rfl
@[simp] theorem Part.raise_roster : (p.raise n).roster = p.roster := rfl
@[simp] theorem Part.raise_table : (p.raise n).table = p.table := rfl
@[simp] theorem Part.raise_pages : (p.raise n).pages = p.pages := rfl
@[simp] theorem Part.raise_sites : (p.raise n).sites = p.sites := rfl
@[simp] theorem Part.raise_station : (p.raise n).station = p.station := rfl
@[simp] theorem Part.raise_supply : (p.raise n).supply = p.supply := rfl
@[simp] theorem Part.raise_store : (p.raise n).store = p.store := rfl
end

section
variable (i : SlotId) (x : Slot)
@[simp] theorem Part.setSlot_condition : (p.setSlot i x).condition = p.condition := rfl
@[simp] theorem Part.setSlot_cause : (p.setSlot i x).cause = p.cause := rfl
@[simp] theorem Part.setSlot_restart : (p.setSlot i x).restart = p.restart := rfl
@[simp] theorem Part.setSlot_pins : (p.setSlot i x).pins = p.pins := rfl
@[simp] theorem Part.setSlot_lines : (p.setSlot i x).lines = p.lines := rfl
@[simp] theorem Part.setSlot_settings : (p.setSlot i x).settings = p.settings := rfl
@[simp] theorem Part.setSlot_resolver : (p.setSlot i x).resolver = p.resolver := rfl
@[simp] theorem Part.setSlot_roster : (p.setSlot i x).roster = p.roster := rfl
@[simp] theorem Part.setSlot_pages : (p.setSlot i x).pages = p.pages := rfl
@[simp] theorem Part.setSlot_sites : (p.setSlot i x).sites = p.sites := rfl
@[simp] theorem Part.setSlot_station : (p.setSlot i x).station = p.station := rfl
@[simp] theorem Part.setSlot_supply : (p.setSlot i x).supply = p.supply := rfl
@[simp] theorem Part.setSlot_store : (p.setSlot i x).store = p.store := rfl
end

section
variable (l : Line) (f : LineController → LineController)
@[simp] theorem Part.onLine_condition : (p.onLine l f).condition = p.condition := rfl
@[simp] theorem Part.onLine_cause : (p.onLine l f).cause = p.cause := rfl
@[simp] theorem Part.onLine_restart : (p.onLine l f).restart = p.restart := rfl
@[simp] theorem Part.onLine_pins : (p.onLine l f).pins = p.pins := rfl
@[simp] theorem Part.onLine_settings : (p.onLine l f).settings = p.settings := rfl
@[simp] theorem Part.onLine_resolver : (p.onLine l f).resolver = p.resolver := rfl
@[simp] theorem Part.onLine_roster : (p.onLine l f).roster = p.roster := rfl
@[simp] theorem Part.onLine_table : (p.onLine l f).table = p.table := rfl
@[simp] theorem Part.onLine_pages : (p.onLine l f).pages = p.pages := rfl
@[simp] theorem Part.onLine_sites : (p.onLine l f).sites = p.sites := rfl
@[simp] theorem Part.onLine_station : (p.onLine l f).station = p.station := rfl
@[simp] theorem Part.onLine_supply : (p.onLine l f).supply = p.supply := rfl
@[simp] theorem Part.onLine_store : (p.onLine l f).store = p.store := rfl
end

/-! ## The lamps (R169) -/

/-- The lamp an operation sets is the one R169 gives. -/
theorem Part.lampsRight_iff (p : Part) :
    p.LampsRight ↔ ∀ ap : Appliance, p.station.lamps.get ap.index = p.lampFor ap := by
  unfold Part.LampsRight Part.lampFor
  refine forall_congr' fun ap => ?_
  cases (p.appliance ap).committed with
  | none => rfl
  | some n =>
    dsimp only
    cases (p.findCallout n).bind fun i => p.callout? i <;> simp

theorem Part.lampFor_refreshLamps (p : Part) (ap : Appliance) : p.refreshLamps.lampFor ap = p.lampFor ap := rfl

theorem Part.refreshLamps_lampsRight (p : Part) : p.refreshLamps.LampsRight := by
  rw [lampsRight_iff]
  intro ap
  cases ap <;> rfl

/-! ## What an operand may be -/

@[simp] theorem numberIn_number (x : BitVec 32) (lo hi : Int) : NumberIn (.number x) lo hi ↔ lo ≤ x.toInt ∧ x.toInt ≤ hi :=
  ⟨fun ⟨_, e, h⟩ => by cases e; exact h, fun h => ⟨x, rfl, h⟩⟩

@[simp] theorem numberIn_absent (lo hi : Int) : ¬ NumberIn .absent lo hi := nofun

@[simp] theorem numberIn_text (t : Text) (lo hi : Int) : ¬ NumberIn (.text t) lo hi := nofun

@[simp] theorem numberIn_set (b : Set16) (lo hi : Int) : ¬ NumberIn (.set b) lo hi := nofun

@[simp] theorem numberIn_unassigned (k : Byte) (lo hi : Int) : ¬ NumberIn (.unassigned k) lo hi := nofun

@[simp] theorem absentOrIn_absent (lo hi : Int) : AbsentOrIn .absent lo hi := .inl rfl

@[simp] theorem absentOrIn_number (x : BitVec 32) (lo hi : Int) :
    AbsentOrIn (.number x) lo hi ↔ lo ≤ x.toInt ∧ x.toInt ≤ hi := by
  simp [AbsentOrIn]

@[simp] theorem absentOrIn_set (b : Set16) (lo hi : Int) : ¬ AbsentOrIn (.set b) lo hi := by
  simp [AbsentOrIn]

@[simp] theorem absentOrIn_text (t : Text) (lo hi : Int) : ¬ AbsentOrIn (.text t) lo hi := by
  simp [AbsentOrIn]

@[simp] theorem absentOrIn_unassigned (k : Byte) (lo hi : Int) : ¬ AbsentOrIn (.unassigned k) lo hi := by
  simp [AbsentOrIn]

end Sys2Proof.Machine
end

