-- ==== Sys2Proof/Laws/Tables.lean ====
section
/-!
SUPPORT. Tables, the line controllers and the callout table's slots: what a read gives after a write.
-/

namespace Sys2Proof

namespace Table

variable {n : Nat} {α β : Type}

@[simp] theorem get_set_self (t : Table n α) (i : Fin n) (a : α) : (t.set i a).get i = a := by
  simp [get, set]

theorem get_set_ne (t : Table n α) {i j : Fin n} (h : i ≠ j) (a : α) : (t.set i a).get j = t.get j := by
  have : i.val ≠ j.val := fun e => h (Fin.ext e)
  simp [get, set, List.getElem_set_ne this]

theorem get_set (t : Table n α) (i j : Fin n) (a : α) : (t.set i a).get j = if i = j then a else t.get j := by
  split
  · next h => subst h; simp
  · next h => exact get_set_ne t h a

@[simp] theorem get_map (f : α → β) (t : Table n α) (i : Fin n) : (t.map f).get i = f (t.get i) := by
  simp [get, map]

@[simp] theorem get_fill (a : α) (i : Fin n) : (fill n a).get i = a := by
  simp [get, fill]

@[simp] theorem get_update_self (t : Table n α) (i : Fin n) (f : α → α) : (t.update i f).get i = f (t.get i) := by
  simp [update]

theorem get_update_ne (t : Table n α) {i j : Fin n} (h : i ≠ j) (f : α → α) : (t.update i f).get j = t.get j :=
  get_set_ne t h _

/-- Tables that read alike everywhere are equal. -/
theorem ext_get {t u : Table n α} (h : ∀ i, t.get i = u.get i) : t = u := by
  cases t with
  | mk c hc =>
    cases u with
    | mk d hd =>
      have e : c = d := List.ext_getElem (by omega) fun k h1 _ => by
        simpa [get] using h ⟨k, by omega⟩
      subst e; rfl

end Table

namespace Machine

/-! ## Line controllers -/

@[simp] theorem Lines.ctl_setCtl (ls : Lines) (l : Line) (c : LineController) : (ls.setCtl l c).ctl l = c := by
  cases l <;> rfl

theorem Lines.ctl_setCtl_ne (ls : Lines) {l k : Line} (h : k ≠ l) (c : LineController) :
    (ls.setCtl l c).ctl k = ls.ctl k := by
  cases l <;> cases k <;> first | rfl | exact absurd rfl h

@[simp] theorem Lines.setCtl_superP (ls : Lines) (l : Line) (c : LineController) :
    (ls.setCtl l c).superP = ls.superP := by cases l <;> rfl

@[simp] theorem Lines.setCtl_superS (ls : Lines) (l : Line) (c : LineController) :
    (ls.setCtl l c).superS = ls.superS := by cases l <;> rfl

@[simp] theorem Lines.ctl_raise (n : Notice) (ls : Lines) (l : Line) : (ls.raise n).ctl l = (ls.ctl l).raise n := by
  cases l <;> rfl

@[simp] theorem Lines.ctl_all (f : LineController → LineController) (ls : Lines) (l : Line) :
    (ls.all f).ctl l = f (ls.ctl l) := by
  cases l <;> rfl

@[simp] theorem Part.ctl_onLine (p : Part) (l : Line) (f : LineController → LineController) :
    (p.onLine l f).ctl l = f (p.ctl l) := by
  simp [Part.ctl, Part.onLine]

theorem Part.ctl_onLine_ne (p : Part) {l k : Line} (h : k ≠ l) (f : LineController → LineController) :
    (p.onLine l f).ctl k = p.ctl k := by
  simp [Part.ctl, Part.onLine, Lines.ctl_setCtl_ne _ h]

@[simp] theorem Part.ctl_raise (p : Part) (n : Notice) (l : Line) : (p.raise n).ctl l = (p.ctl l).raise n := by
  simp [Part.ctl]

/-! ## Slots -/

theorem Part.slot_setSlot (p : Part) (i j : SlotId) (x : Slot) :
    (p.setSlot i x).slot j = if i = j then x else p.slot j := by
  simp [Part.slot, Part.setSlot, Table.get_set]

@[simp] theorem Part.slot_raise (p : Part) (n : Notice) (i : SlotId) : (p.raise n).slot i = p.slot i := rfl

@[simp] theorem Part.callout?_raise (p : Part) (n : Notice) (i : SlotId) : (p.raise n).callout? i = p.callout? i := rfl

theorem Part.callout?_eq (p : Part) (i : SlotId) (c : Callout) : p.callout? i = some c ↔ p.slot i = .live c := by
  unfold Part.callout? Slot.callout?
  cases p.slot i <;> simp

/-- What `modify` does to a slot: its own callout is changed, every other slot stays. -/
theorem Part.slot_modify (p : Part) (i j : SlotId) (f : Callout → Callout) :
    (p.modify i f).slot j = match p.slot j with
      | .live c => .live (if i = j then f c else c)
      | .free x => .free x := by
  by_cases h : i = j
  · subst h
    simp only [if_pos]
    unfold Part.modify
    cases hs : p.slot i with
    | live c => simp [Part.slot_setSlot]
    | free x => simp [hs]
  · unfold Part.modify
    cases hi : p.slot i <;> cases hj : p.slot j <;> simp [Part.slot_setSlot, h, hj]

@[simp] theorem Part.callout?_modify_self (p : Part) (i : SlotId) (f : Callout → Callout) :
    (p.modify i f).callout? i = (p.callout? i).map f := by
  unfold Part.callout? Slot.callout?
  rw [Part.slot_modify]
  cases p.slot i <;> simp

theorem Part.callout?_modify_ne (p : Part) {i j : SlotId} (h : i ≠ j) (f : Callout → Callout) :
    (p.modify i f).callout? j = p.callout? j := by
  unfold Part.callout? Slot.callout?
  rw [Part.slot_modify]
  cases p.slot j <;> simp [h]

/-- `modify` writes nothing but the slots. -/
theorem Part.modify_eq (p : Part) (i : SlotId) (f : Callout → Callout) :
    p.modify i f = { p with table := { p.table with slots := (p.modify i f).table.slots } } := by
  unfold Part.modify
  cases p.slot i <;> rfl

end Machine

end Sys2Proof
end

