-- ==== Sys2Proof/Laws/Pages.lean ====
section
/-!
SUPPORT. What the operations of the page queue and the sequencer can do: they write only those two blocks, they keep the
queue within 64 entries, the demand list within 16 and every credit within its ceiling.
-/

namespace Sys2Proof.Machine

open Sys2Proof

/-- `q` differs from `p` only in the page queue and the sites, and keeps the sites' configuration. -/
structure PagesFrame (p q : Part) : Prop where
  condition : q.condition = p.condition
  cause     : q.cause = p.cause
  restart   : q.restart = p.restart
  pins      : q.pins = p.pins
  lines     : q.lines = p.lines
  settings  : q.settings = p.settings
  resolver  : q.resolver = p.resolver
  roster    : q.roster = p.roster
  table     : q.table = p.table
  station   : q.station = p.station
  supply    : q.supply = p.supply
  store     : q.store = p.store
  sites     : ∀ k, (q.sites.records.get k).toStored = (p.sites.records.get k).toStored

/-- `q` differs from `p` only in the page queue and the sites, and keeps the sites' configuration and all bounds. -/
structure OnlyPages (p q : Part) : Prop extends PagesFrame p q where
  bounded   : p.Bounded → q.Bounded

theorem PagesFrame.refl (p : Part) : PagesFrame p p := by
  constructor <;> first | rfl | (intro _; rfl)

theorem PagesFrame.trans {p q r : Part} (h : PagesFrame p q) (g : PagesFrame q r) : PagesFrame p r where
  condition := g.condition.trans h.condition
  cause := g.cause.trans h.cause
  restart := g.restart.trans h.restart
  pins := g.pins.trans h.pins
  lines := g.lines.trans h.lines
  settings := g.settings.trans h.settings
  resolver := g.resolver.trans h.resolver
  roster := g.roster.trans h.roster
  table := g.table.trans h.table
  station := g.station.trans h.station
  supply := g.supply.trans h.supply
  store := g.store.trans h.store
  sites := fun k => (g.sites k).trans (h.sites k)

theorem OnlyPages.refl (p : Part) : OnlyPages p p := ⟨.refl p, id⟩

theorem OnlyPages.trans {p q r : Part} (h : OnlyPages p q) (g : OnlyPages q r) : OnlyPages p r :=
  ⟨h.toPagesFrame.trans g.toPagesFrame, fun b => g.bounded (h.bounded b)⟩

/-- A write of the page queue that keeps its bounds. -/
theorem OnlyPages.onPages (p : Part) (f : PageQueue → PageQueue)
    (h : p.Bounded → (f p.pages).used ≤ Config.queueEntries ∧ (f p.pages).demands.length ≤ Config.demandPlaces) :
    OnlyPages p (p.onPages f) := by
  refine ⟨?_, fun b => ⟨b.1, h b⟩⟩
  constructor <;> first | rfl | (intro _; rfl)

/-- A write of the sites that keeps their configuration and their bounds. -/
theorem OnlyPages.onSites (p : Part) (f : SiteUnit → SiteUnit)
    (hc : ∀ k, ((f p.sites).records.get k).toStored = (p.sites.records.get k).toStored)
    (hb : p.Bounded → ∀ k, ((f p.sites).records.get k).credit ≤ ((f p.sites).records.get k).ceiling) :
    OnlyPages p (p.onSites f) := by
  refine ⟨?_, fun b => ⟨hb b, b.2⟩⟩
  constructor <;> first | rfl | exact hc

theorem Part.report_onlyPages (r : Report) (p : Part) : OnlyPages p (p.report r) :=
  .onPages p _ fun b => b.2

theorem Part.setSequencer_onlyPages (x : Sequencer) (p : Part) : OnlyPages p (p.setSequencer x) :=
  .onSites p _ (fun _ => rfl) fun b => b.1

/-! ## Admission -/

theorem Part.formPages_length (p : Part) (d : Demand) : (p.formPages d).length ≤ d.content.count := by
  unfold Part.formPages
  split
  · next ps h => rw [h]; simp [Content.count]
  · split
    · next c _ =>
      unfold Part.pagesFor
      cases d.content with
      | groups gs => simp [Content.count]
      | members ms => simpa [Content.count] using List.length_filterMap_le _ ms
      | formed ps => simp [Content.count]
    · simp

theorem Part.admission_onlyPages (d : Demand) (p : Part) (room : p.pages.room d = true) :
    OnlyPages p (p.admission d) := by
  have flip : OnlyPages p (p.onSites fun u => { u with direction := p.sites.direction.flip }) :=
    .onSites p _ (fun _ => rfl) fun b => b.1
  unfold Part.admission
  simp only
  split
  · exact flip.trans (Part.report_onlyPages _ _)
  · split
    · exact flip.trans (Part.report_onlyPages _ _)
    · refine flip.trans (.onPages _ _ fun b => ⟨?_, b.2.2⟩)
      have hl := p.formPages_length d
      have room' : p.pages.used + d.size ≤ Config.queueEntries := of_decide_eq_true room
      simp only [PageQueue.used, Part.onSites_pages, List.map_append, List.sum_append, List.map_cons, List.map_nil,
        List.sum_cons, List.sum_nil, Batch.entries, Demand.size] at room' ⊢
      omega

theorem Part.admission_demands (d : Demand) (p : Part) : (p.admission d).pages.demands = p.pages.demands := by
  unfold Part.admission
  simp only
  split
  · rfl
  · split <;> rfl

theorem Part.admitFrom_frame (l : List Demand) (p : Part) : PagesFrame p (Part.admitFrom l p) := by
  induction l generalizing p with
  | nil => exact (OnlyPages.onPages p _ fun b => ⟨b.2.1, by simp⟩).toPagesFrame
  | cons d rest ih =>
    unfold Part.admitFrom
    split
    · next room => exact (p.admission_onlyPages d room).toPagesFrame.trans (ih _)
    · constructor <;> first | rfl | (intro _; rfl)

theorem Part.admitFrom_bounded (l : List Demand) (p : Part) (hl : l.length ≤ Config.demandPlaces) (b : p.Bounded) :
    (Part.admitFrom l p).Bounded := by
  induction l generalizing p with
  | nil => exact ⟨b.1, b.2.1, by simp [Part.admitFrom]⟩
  | cons d rest ih =>
    unfold Part.admitFrom
    split
    · next room => exact ih _ (by simp at hl; omega) ((p.admission_onlyPages d room).bounded b)
    · exact ⟨b.1, b.2.1, hl⟩

theorem Part.tryAdmissions_onlyPages (p : Part) : OnlyPages p p.tryAdmissions :=
  ⟨p.admitFrom_frame _, fun b => p.admitFrom_bounded _ b.2.2 b⟩

theorem Part.demand_onlyPages (d : Demand) (p : Part) : OnlyPages p (p.demand d) := by
  unfold Part.demand
  split
  · next h => exact p.admission_onlyPages d (by simp at h; exact h.2)
  · split
    · next h => exact .onPages p _ fun b => ⟨b.2.1, by simp; omega⟩
    · exact p.report_onlyPages _

theorem Part.demandGroups_onlyPages (k : BatchKind) (o : Owner) (gs : GroupSet) (p : Part) :
    OnlyPages p (p.demandGroups k o gs) := p.demand_onlyPages _

theorem Part.demandMembers_onlyPages (k : BatchKind) (o : Owner) (ms : List MemberId) (p : Part) :
    OnlyPages p (p.demandMembers k o ms) := p.demand_onlyPages _

theorem Part.demandReleases_onlyPages (o : Owner) (ms : List MemberId) (p : Part) :
    OnlyPages p (p.demandReleases o ms) := by
  have one (l : List MemberId) (p : Part) :
      OnlyPages p (if l = [] then p else p.demandMembers .release o l) := by
    split
    · exact .refl p
    · exact p.demandMembers_onlyPages ..
  exact (one _ p).trans (one _ _)

/-! ## The current batch, settling and turns -/

/-- A change of the current batch that does not lengthen it. -/
theorem Part.onCurrent_onlyPages (f : Batch → Batch) (p : Part) (h : ∀ b, (f b).pages.length ≤ b.pages.length) :
    OnlyPages p (p.onCurrent f) := by
  refine .onPages p _ fun b => ?_
  cases hq : p.pages.queue with
  | nil => simp only; exact b.2
  | cons x rest =>
    refine ⟨?_, b.2.2⟩
    have := b.2.1
    have := h x
    simp only [PageQueue.used, hq, List.map_cons, List.sum_cons, Batch.entries] at *
    omega

theorem Part.updateSite_onlyPages (k : SiteId) (f : SiteRecord → SiteRecord) (p : Part)
    (hc : ∀ r, (f r).toStored = r.toStored) (hb : ∀ r, r.credit ≤ r.ceiling → (f r).credit ≤ (f r).ceiling) :
    OnlyPages p (p.updateSite k f) := by
  refine .onSites p _ (fun j => ?_) fun b j => ?_ <;> simp only [Table.update, Table.get_set] <;> split
  · next h => subst h; exact hc _
  · rfl
  · next h => subst h; exact hb _ (b.1 k)
  · exact b.1 j

theorem Part.debit_onlyPages (k : SiteId) (cost : Nat) (p : Part) : OnlyPages p (p.debit k cost) :=
  p.updateSite_onlyPages k _ (fun _ => rfl) fun r h => by simp; omega

theorem Part.keySite_onlyPages (k : SiteId) (forced : Bool) (p : Part) : OnlyPages p (p.keySite k forced) := by
  unfold Part.keySite
  split
  · exact .refl p
  · exact ((p.debit_onlyPages k _).trans (Part.onCurrent_onlyPages _ _ fun _ => by simp [Batch.start])).trans
      (Part.setSequencer_onlyPages _ _)

theorem Part.joinSite_onlyPages (k : SiteId) (p : Part) : OnlyPages p (p.joinSite k) := by
  unfold Part.joinSite
  split
  · exact .refl p
  · exact ((p.debit_onlyPages k _).trans (Part.onCurrent_onlyPages _ _ fun _ => by simp [Batch.start])).trans
      (Part.setSequencer_onlyPages _ _)

/-- The current batch is replaced by one of the same pages. -/
theorem Part.replaceCurrent_onlyPages (p : Part) (b b' : Batch) (h : p.current? = some b)
    (hp : b'.pages.length ≤ b.pages.length) : OnlyPages p (p.onCurrent fun _ => b') := by
  refine .onPages p _ fun bd => ?_
  unfold Part.current? at h
  cases hq : p.pages.queue with
  | nil => simp only; exact bd.2
  | cons x rest =>
    rw [hq] at h
    simp only [List.head?_cons, Option.some.injEq] at h
    subst h
    refine ⟨?_, bd.2.2⟩
    have := bd.2.1
    simp only [PageQueue.used, hq, List.map_cons, List.sum_cons, Batch.entries] at *
    omega

theorem Part.settle_onlyPages (k : SiteId) (o : PassOutcome) (p : Part) : OnlyPages p (p.settle k o) := by
  unfold Part.settle
  split
  · exact .refl p
  · next b h =>
    have h1 := (p.replaceCurrent_onlyPages b (b.setSite k (.settled o)) h (by simp [Batch.setSite])).trans
      (Part.report_onlyPages (.pass b.owner o b.groups) _)
    simp only
    split
    · exact h1.trans (Part.report_onlyPages _ _)
    · exact h1

theorem Part.defer_onlyPages (k : SiteId) (p : Part) : OnlyPages p (p.onCurrent (Batch.defer k)) :=
  p.onCurrent_onlyPages _ fun _ => by simp [Batch.defer]

theorem Part.clearCheck_onlyPages (k : SiteId) (p : Part) : OnlyPages p (p.clearCheck k) := by
  unfold Part.clearCheck
  split
  · exact p.keySite_onlyPages k false
  · exact p.setSequencer_onlyPages _

theorem Part.turn_onlyPages (p : Part) : OnlyPages p p.turn := by
  unfold Part.turn
  split
  · exact .refl p
  · split
    · exact .refl p
    · split
      · exact p.settle_onlyPages ..
      · exact p.settle_onlyPages ..
      · exact p.defer_onlyPages _
      · exact p.clearCheck_onlyPages _

theorem Part.leaveQueue_onlyPages (p : Part) : OnlyPages p p.leaveQueue := by
  refine OnlyPages.trans (.onPages p _ fun b => ⟨?_, b.2.2⟩) (Part.tryAdmissions_onlyPages _)
  have h := b.2.1
  unfold PageQueue.used at *
  cases hq : p.pages.queue with
  | nil => simp
  | cons x rest =>
    rw [hq] at h
    simp only [List.map_cons, List.sum_cons, List.tail_cons] at *
    omega

theorem Part.joinOrUnkey_onlyPages (k : SiteId) (p : Part) : OnlyPages p (p.joinOrUnkey k) := by
  have idle := p.setSequencer_onlyPages .idle
  unfold Part.joinOrUnkey
  split
  · exact idle
  · split
    · exact idle
    · split
      · split
        · exact idle.trans (Part.settle_onlyPages ..)
        · exact idle.trans (Part.settle_onlyPages ..)
        · exact idle.trans (Part.defer_onlyPages ..)
        · exact p.joinSite_onlyPages k
      · exact idle

theorem Part.endPass_onlyPages (k : SiteId) (forced : Bool) (p : Part) : OnlyPages p (p.endPass k forced) := by
  unfold Part.endPass
  simp only
  split
  · exact .refl p
  · next b h =>
    split
    · exact ((p.replaceCurrent_onlyPages b _ h (by simp [Batch.setSite])).trans (Part.report_onlyPages _ _)).trans
        (Part.report_onlyPages _ _)
    · exact p.settle_onlyPages ..

/-! ## Withdrawal -/

theorem sum_filter_le {α : Type} (f : α → Nat) (g : α → Bool) (l : List α) :
    ((l.filter g).map f).sum ≤ (l.map f).sum := by
  induction l with
  | nil => simp
  | cons x rest ih =>
    by_cases h : g x <;> simp [h] <;> omega

theorem Part.withdrawDemands_onlyPages (o : Owner) (ks : BatchKind → Bool) (p : Part) :
    OnlyPages p (p.withdrawDemands o ks).2 := by
  unfold Part.withdrawDemands
  simp only
  exact .onPages p _ fun b => ⟨b.2.1, (List.length_filter_le _ _).trans b.2.2⟩

theorem Part.withdrawBehind_onlyPages (o : Owner) (ks : BatchKind → Bool) (p : Part) :
    OnlyPages p (p.withdrawBehind o ks).2 := by
  unfold Part.withdrawBehind
  split
  · exact .refl p
  · next x rest hq =>
    simp only
    refine .onPages p _ fun b => ⟨?_, b.2.2⟩
    have h := b.2.1
    have hf := sum_filter_le Batch.entries (fun y => !named o ks y.owner y.kind) rest
    simp only [PageQueue.used, hq, List.map_cons, List.sum_cons] at *
    omega

theorem Part.withdrawCurrent_onlyPages (o : Owner) (ks : BatchKind → Bool) (p : Part) :
    OnlyPages p (p.withdrawCurrent o ks).2 := by
  unfold Part.withdrawCurrent
  split
  · exact .refl p
  · next x rest hq =>
    split
    · split
      · simp only
        exact p.onCurrent_onlyPages _ fun _ => by simp
      · simp only
        refine (p.setSequencer_onlyPages .idle).trans (.onPages _ _ fun b => ⟨?_, b.2.2⟩)
        have h := b.2.1
        simp only [Part.setSequencer, Part.onSites_pages, PageQueue.used, hq, List.map_cons, List.sum_cons] at *
        omega
    · exact .refl p

theorem Part.withdraw_onlyPages (o : Owner) (ks : BatchKind → Bool) (p : Part) : OnlyPages p (p.withdraw o ks).2 :=
  (((p.withdrawDemands_onlyPages o ks).trans (Part.withdrawBehind_onlyPages o ks _)).trans
    (Part.withdrawCurrent_onlyPages o ks _)).trans (Part.tryAdmissions_onlyPages _)

/-- A withdrawal request leaves the part without what it takes back, and then tries admission (R133, R138 to R140). -/
theorem Part.withdraw_part (o : Owner) (kinds : BatchKind → Bool) (p : Part) :
    (p.withdraw o kinds).2 = (p.without o kinds).tryAdmissions := by
  unfold Part.withdraw Part.without
  simp only [Part.withdrawDemands, Part.withdrawBehind, Part.withdrawCurrent]
  congr 1
  cases hq : p.pages.queue with
  | nil => simp [Part.onPages, hq, named]
  | cons b rest =>
    have ended : (!b.over) = (b.remaining != []) := rfl
    simp only [Part.onPages, hq, named, List.tail_cons, ended]
    cases hs : p.sites.sequencer <;>
      by_cases h : (b.owner == o && kinds b.kind && !b.withdrawing && b.remaining != []) = true <;>
      simp [h, Sequencer.keyed?, Part.onCurrent, Part.onPages, Part.setSequencer, Part.onSites]

/-- Where no demand waits, or the oldest finds no room, admission changes nothing (R133). -/
theorem Part.tryAdmissions_of_headWaits (p : Part) (h : p.HeadWaits) : p.tryAdmissions = p := by
  unfold Part.tryAdmissions
  cases hd : p.pages.demands with
  | nil => simp [Part.admitFrom, Part.onPages, ← hd]
  | cons d rest => simp [Part.admitFrom, Part.onPages, h d rest hd, ← hd]

/-- The RELEASE batches of an entry into CREWED or MOBILE are these demands, one after the other (R26, R106). -/
theorem Part.demandReleases_eq (o : Owner) (ms : List MemberId) (p : Part) :
    p.demandReleases o ms = (releasesFor o ms).foldl (fun p d => p.demand d) p := by
  unfold Part.demandReleases releasesFor
  by_cases h1 : ms.take 16 = [] <;> by_cases h2 : ms.drop 16 = [] <;>
    simp [Config.releaseRun, Part.demandMembers, h1, h2]

end Sys2Proof.Machine
end

