-- ==== Sys2Proof/Laws/Work.lean ====
section
/-!
SUPPORT. What the work that follows within one event can do (Machine/Callouts.lean): which fields it leaves as they are,
and how far it can move a callout.
-/

namespace Sys2Proof.Machine

open Sys2Proof

/-! ## What stays of a callout, a roster, a resolver -/

/-- A callout less the fields that the reports of the page queue and an entry into COUNTING or CREWED write. -/
def Callout.core (c : Callout) : Callout :=
  { c with state := .inOpen, paged := 0#16, alertStatus := .none, responses := [],
           assessment := { candidates := [], entries := [], outcome := .short }, responseWindow := .stopped,
           flags := { c.flags with txDegraded := false } }

/-- The roster less engagement. -/
def Roster.core (r : Roster) : Roster :=
  { r with members := r.members.map (Option.map fun x => { x with engaged := none }) }

/-- The resolver less commitment. -/
def Resolver.core (r : Resolver) : Resolver :=
  { r with appliances := r.appliances.map fun x => { x with committed := none } }

/-- The state, responses, assessment and response window of a callout stay. -/
def Callout.Still (c c' : Callout) : Prop :=
  c'.state = c.state ∧ c'.responses = c.responses ∧ c'.assessment = c.assessment
    ∧ c'.responseWindow = c.responseWindow

/-- How far the work can move a slot: a FREE slot stays; a callout keeps its core, and stands still unless it leaves
ALERTING for COUNTING or CREWED; a CLOSING one may become FREE. For a loose slot only the core counts. -/
def SlotStep (loose : Bool) : Slot → Slot → Prop
  | .free a, y => y = .free a
  | .live c, .live c' =>
    c'.core = c.core ∧ (loose = true ∨ c.Still c'
      ∨ (c.state = .alerting ∧ (c'.state = .counting ∨ c'.state = .crewed)))
  | .live c, .free _ => loose = true ∨ c.state = .closing

theorem SlotStep.refl (b : Bool) (x : Slot) : SlotStep b x x := by
  cases x with
  | free => rfl
  | live c => exact ⟨rfl, .inr (.inl ⟨rfl, rfl, rfl, rfl⟩)⟩

theorem SlotStep.trans {b : Bool} {x y z : Slot} (h : SlotStep b x y) (g : SlotStep b y z) : SlotStep b x z := by
  cases x with
  | free a => cases h; exact g
  | live c =>
    cases y with
    | free a =>
      cases g
      exact h
    | live c' =>
      obtain ⟨h1, h2⟩ := h
      cases z with
      | free a =>
        rcases g with g | g
        · exact .inl g
        · rcases h2 with h2 | h2 | ⟨_, h2⟩
          · exact .inl h2
          · exact .inr (h2.1 ▸ g)
          · rw [g] at h2; simp at h2
      | live c'' =>
        obtain ⟨g1, g2⟩ := g
        refine ⟨g1.trans h1, ?_⟩
        rcases h2 with h2 | h2 | ⟨h2, h3⟩
        · exact .inl h2
        · rcases g2 with g2 | g2 | ⟨g2, g3⟩
          · exact .inl g2
          · exact .inr (.inl ⟨g2.1.trans h2.1, g2.2.1.trans h2.2.1, g2.2.2.1.trans h2.2.2.1, g2.2.2.2.trans h2.2.2.2⟩)
          · exact .inr (.inr ⟨h2.1 ▸ g2, g3⟩)
        · rcases g2 with g2 | g2 | ⟨g2, g3⟩
          · exact .inl g2
          · exact .inr (.inr ⟨h2, by rw [g2.1]; exact h3⟩)
          · rw [g2] at h3; simp at h3

/-- What the work leaves as it is, with slot `ex`, if any, held to its core only. -/
structure WorkFrame (ex : Option SlotId) (p q : Part) : Prop where
  condition : q.condition = p.condition
  cause     : q.cause = p.cause
  restart   : q.restart = p.restart
  pins      : q.pins = p.pins
  settings  : q.settings = p.settings
  station   : q.station = p.station
  supply    : q.supply = p.supply
  store     : q.store = p.store
  resolver  : q.resolver.core = p.resolver.core
  roster    : q.roster.core = p.roster.core
  last      : q.table.lastNumber = p.table.lastNumber ∧ q.table.lastToken = p.table.lastToken
  lines     : ∃ b : Set16, b &&& ~~~allNotices = 0#16
                ∧ q.lines = p.lines.all fun c => { c with flags := c.flags ||| b }
  slots     : ∀ j, SlotStep (ex == some j) (p.slot j) (q.slot j)
  sites     : ∀ k, (q.sites.records.get k).toStored = (p.sites.records.get k).toStored
  bounded   : p.Bounded → q.Bounded
  freeOrder : p.FreeOrderRight → q.FreeOrderRight

namespace WorkFrame

variable {ex : Option SlotId} {p q r : Part}

theorem lines_refl (ls : Lines) :
    ∃ b : Set16, b &&& ~~~allNotices = 0#16 ∧ ls = ls.all fun c => { c with flags := c.flags ||| b } :=
  ⟨0#16, by decide, by simp [Lines.all]⟩

theorem trans (h : WorkFrame ex p q) (g : WorkFrame ex q r) : WorkFrame ex p r where
  condition := g.condition.trans h.condition
  cause := g.cause.trans h.cause
  restart := g.restart.trans h.restart
  pins := g.pins.trans h.pins
  settings := g.settings.trans h.settings
  station := g.station.trans h.station
  supply := g.supply.trans h.supply
  store := g.store.trans h.store
  resolver := g.resolver.trans h.resolver
  roster := g.roster.trans h.roster
  last := ⟨g.last.1.trans h.last.1, g.last.2.trans h.last.2⟩
  lines := by
    obtain ⟨b, hb, e⟩ := h.lines
    obtain ⟨b', hb', e'⟩ := g.lines
    refine ⟨b ||| b', ?_, ?_⟩
    · have e (x y z : Set16) : (x ||| y) &&& z = (x &&& z) ||| (y &&& z) := by
        ext k; simp [Bool.and_or_distrib_right]
      rw [e, hb, hb']; rfl
    · rw [e', e]; simp [Lines.all, BitVec.or_assoc]
  slots := fun j => (h.slots j).trans (g.slots j)
  sites := fun k => (g.sites k).trans (h.sites k)
  bounded := fun b => g.bounded (h.bounded b)
  freeOrder := fun b => g.freeOrder (h.freeOrder b)

/-- The page queue and the sequencer move nothing else. -/
theorem of_pages (h : OnlyPages p q) : WorkFrame ex p q where
  condition := h.condition
  cause := h.cause
  restart := h.restart
  pins := h.pins
  settings := h.settings
  station := h.station
  supply := h.supply
  store := h.store
  resolver := by rw [h.resolver]
  roster := by rw [h.roster]
  last := by rw [h.table]; exact ⟨rfl, rfl⟩
  lines := by rw [h.lines]; exact lines_refl _
  slots := fun j => by
    have : q.slot j = p.slot j := by unfold Part.slot; rw [h.table]
    rw [this]; exact .refl _ _
  sites := h.sites
  bounded := h.bounded
  freeOrder := by unfold Part.FreeOrderRight Part.slot; rw [h.table]; exact id

theorem refl (ex : Option SlotId) (p : Part) : WorkFrame ex p p :=
  of_pages (.refl p)

end WorkFrame

/-! ## Single operations -/

theorem Notice.bit_within (n : Notice) : n.bit &&& ~~~allNotices = 0#16 := by
  cases n <;> decide

theorem Part.raise_work (ex : Option SlotId) (n : Notice) (p : Part) : WorkFrame ex p (p.raise n) where
  condition := rfl
  cause := rfl
  restart := rfl
  pins := rfl
  settings := rfl
  station := rfl
  supply := rfl
  store := rfl
  resolver := rfl
  roster := rfl
  last := ⟨rfl, rfl⟩
  lines := ⟨n.bit, n.bit_within, rfl⟩
  slots := fun _ => .refl _ _
  sites := fun _ => rfl
  bounded := id
  freeOrder := id

theorem Part.raiseIf_work (ex : Option SlotId) (b : Bool) (n : Notice) (p : Part) :
    WorkFrame ex p (p.raiseIf b n) := by
  unfold Part.raiseIf
  split
  · exact p.raise_work ex n
  · exact .refl ex p

/-- A change of a callout that moves its slot no further than the work may. -/
theorem Part.modify_work (ex : Option SlotId) (i : SlotId) (f : Callout → Callout) (p : Part)
    (h : ∀ c, p.slot i = .live c → SlotStep (ex == some i) (.live c) (.live (f c))) :
    WorkFrame ex p (p.modify i f) := by
  have e := p.modify_eq i f
  have hs (j : SlotId) := p.slot_modify i j f
  generalize hq : p.modify i f = q at e hs
  refine
    { condition := by rw [e], cause := by rw [e], restart := by rw [e], pins := by rw [e], settings := by rw [e]
      station := by rw [e], supply := by rw [e], store := by rw [e], resolver := by rw [e], roster := by rw [e]
      last := by rw [e]; exact ⟨rfl, rfl⟩
      lines := by rw [e]; exact WorkFrame.lines_refl _
      sites := by rw [e]; exact fun _ => rfl
      bounded := by rw [e]; exact id
      slots := fun j => ?_, freeOrder := fun hf => ⟨?_, fun j => ?_⟩ }
  · rw [hs j]
    cases hj : p.slot j with
    | free x => rfl
    | live c =>
      by_cases hij : i = j
      · subst hij; simpa using h c hj
      · simp only [hij, if_false]; exact .refl _ _
  · have : q.table.freeOrder = p.table.freeOrder := by rw [e]
    rw [this]; exact hf.1
  · have : q.table.freeOrder = p.table.freeOrder := by rw [e]
    rw [this, hf.2 j, hs j]
    cases p.slot j <;> simp

/-- A change that keeps a callout's core, in a loose slot. -/
theorem Part.modify_work_loose (i : SlotId) (f : Callout → Callout) (p : Part) (h : ∀ c, (f c).core = c.core) :
    WorkFrame (some i) p (p.modify i f) :=
  p.modify_work _ i f fun c _ => ⟨h c, .inl (by simp)⟩

/-- A change that keeps a callout's core and leaves it still. -/
theorem Part.modify_work_still (ex : Option SlotId) (i : SlotId) (f : Callout → Callout) (p : Part)
    (h : ∀ c, (f c).core = c.core) (g : ∀ c, Callout.Still c (f c)) : WorkFrame ex p (p.modify i f) :=
  p.modify_work _ i f fun c _ => ⟨h c, .inr (.inl (g c))⟩

theorem Part.degrade_work (ex : Option SlotId) (i : SlotId) (p : Part) : WorkFrame ex p (p.degrade i) := by
  refine WorkFrame.trans (p.modify_work_still ex i _ ?_ ?_) (Part.raise_work ex _ _)
  · exact fun _ => rfl
  · exact fun _ => ⟨rfl, rfl, rfl, rfl⟩

theorem Part.enter_work (i : SlotId) (st : CalloutState) (p : Part) : WorkFrame (some i) p (p.enter i st) := by
  refine WorkFrame.trans (p.modify_work_loose i _ ?_) (Part.raise_work _ _ _)
  exact fun _ => rfl

/-! ## The roster and the resolver -/

theorem Part.modifyMember_work (ex : Option SlotId) (m : MemberId) (f : Member → Member) (p : Part)
    (h : ∀ x, { f x with engaged := none } = { x with engaged := none }) :
    WorkFrame ex p (p.modifyMember m f) := by
  unfold Part.modifyMember
  cases hm : p.member? m with
  | none => exact .refl ex p
  | some x =>
    refine
      { condition := rfl, cause := rfl, restart := rfl, pins := rfl, settings := rfl, station := rfl, supply := rfl
        store := rfl, resolver := rfl, roster := ?_, last := ⟨rfl, rfl⟩, lines := WorkFrame.lines_refl _
        slots := fun _ => .refl _ _, sites := fun _ => rfl, bounded := id, freeOrder := id }
    simp only [Part.setMember, Part.onRoster_roster, Roster.core, Roster.mk.injEq, and_true]
    refine Table.ext_get fun j => ?_
    simp only [Table.get_map, Table.get_set]
    split
    · next e => subst e; unfold Part.member? at hm; rw [hm]; simp [h]
    · rfl

theorem Part.disengage_work (ex : Option SlotId) (m : MemberId) (n : CalloutNo) (p : Part) :
    WorkFrame ex p (p.disengage m n) :=
  p.modifyMember_work ex m _ fun x => by unfold Member.leave; split <;> rfl

theorem Part.disengageAll_work (ex : Option SlotId) (n : CalloutNo) (p : Part) :
    WorkFrame ex p (p.disengageAll n) where
  condition := rfl
  cause := rfl
  restart := rfl
  pins := rfl
  settings := rfl
  station := rfl
  supply := rfl
  store := rfl
  resolver := rfl
  roster := by
    simp only [Part.disengageAll, Part.onRoster_roster, Roster.core, Roster.mk.injEq, and_true]
    refine Table.ext_get fun j => ?_
    simp only [Table.get_map, Option.map_map]
    congr 1
    funext x
    simp only [Function.comp, Member.leave]
    split <;> rfl
  last := ⟨rfl, rfl⟩
  lines := WorkFrame.lines_refl _
  slots := fun _ => .refl _ _
  sites := fun _ => rfl
  bounded := id
  freeOrder := id

theorem Part.uncommitAll_work (ex : Option SlotId) (n : CalloutNo) (p : Part) :
    WorkFrame ex p (p.uncommitAll n) where
  condition := rfl
  cause := rfl
  restart := rfl
  pins := rfl
  settings := rfl
  station := rfl
  supply := rfl
  store := rfl
  resolver := by
    simp only [Part.uncommitAll, Part.onResolver_resolver, Resolver.core, Resolver.mk.injEq, true_and]
    refine Table.ext_get fun j => ?_
    simp only [Table.get_map]
    split <;> rfl
  roster := rfl
  last := ⟨rfl, rfl⟩
  lines := WorkFrame.lines_refl _
  slots := fun _ => .refl _ _
  sites := fun _ => rfl
  bounded := id
  freeOrder := id

theorem Part.disengageList_work (ex : Option SlotId) (n : CalloutNo) (l : List MemberId) (p : Part) :
    WorkFrame ex p (l.foldl (fun p m => p.disengage m n) p) := by
  induction l generalizing p with
  | nil => exact .refl ex p
  | cons m rest ih => exact (p.disengage_work ex m n).trans (ih _)

/-! ## Releases, assessments, entries -/

theorem Part.releaseMembers_work (i : SlotId) (ms : List MemberId) (p : Part) :
    WorkFrame (some i) p (p.releaseMembers i ms) := by
  unfold Part.releaseMembers
  split
  · exact .refl _ p
  · refine WorkFrame.trans (WorkFrame.trans (p.modify_work_loose i _ ?_) (Part.disengageList_work _ _ _ _))
      (Part.raiseIf_work _ _ _ _)
    exact fun _ => rfl

theorem Part.recompute_work (i : SlotId) (p : Part) : WorkFrame (some i) p (p.recompute i) := by
  unfold Part.recompute
  split
  · exact .refl _ p
  · refine WorkFrame.trans (p.modify_work_loose i _ ?_) (Part.raiseIf_work _ _ _ _)
    exact fun _ => rfl

theorem Part.enterCrewed_work (i : SlotId) (p : Part) : WorkFrame (some i) p (p.enterCrewed i) := by
  unfold Part.enterCrewed
  have h := (p.enter_work i .crewed).trans (Part.modify_work_loose i Callout.stopWindow _ fun _ => rfl)
  simp only
  split
  · exact h
  · split
    · exact h
    · exact ((h.trans (Part.releaseMembers_work i _ _)).trans
        (.of_pages (Part.demandReleases_onlyPages _ _ _))).trans (Part.recompute_work i _)

theorem Part.enterCounting_work (i : SlotId) (p : Part) : WorkFrame (some i) p (p.enterCounting i) :=
  (p.enter_work i .counting).trans (Part.modify_work_loose i Callout.startWindow _ fun _ => rfl)

theorem Part.takeOutcome_work (i : SlotId) (p : Part) : WorkFrame (some i) p (p.takeOutcome i) := by
  unfold Part.takeOutcome
  split
  · exact .refl _ p
  · split
    all_goals first
      | exact .refl _ p
      | (split; first | exact p.enterCrewed_work i | exact .refl _ p
         first | exact p.enterCounting_work i | exact .refl _ p)

/-! ## The state after an entry -/

theorem Part.callout?_foldl_disengage (n : CalloutNo) (l : List MemberId) (p : Part) (i : SlotId) :
    (l.foldl (fun p m => p.disengage m n) p).callout? i = p.callout? i := by
  induction l generalizing p with
  | nil => rfl
  | cons m rest ih =>
    rw [List.foldl_cons, ih]
    unfold Part.disengage Part.modifyMember
    split <;> rfl

theorem Part.callout?_raiseIf (p : Part) (b : Bool) (n : Notice) (i : SlotId) :
    (p.raiseIf b n).callout? i = p.callout? i := by
  unfold Part.raiseIf
  split <;> rfl

theorem OnlyPages.callout? {p q : Part} (h : OnlyPages p q) (i : SlotId) : q.callout? i = p.callout? i := by
  unfold Part.callout? Part.slot
  rw [h.table]

/-- The state of slot `i`, as far as it is live. -/
def Part.stateAt (p : Part) (i : SlotId) : Option CalloutState :=
  (p.callout? i).map Callout.state

theorem Part.stateAt_releaseMembers (i : SlotId) (ms : List MemberId) (p : Part) :
    (p.releaseMembers i ms).stateAt i = p.stateAt i := by
  unfold Part.releaseMembers Part.stateAt
  split
  · rfl
  · simp only [Part.callout?_raiseIf, Part.callout?_foldl_disengage, Part.callout?_modify_self, Option.map_map]
    congr 1

theorem Part.stateAt_recompute (i : SlotId) (p : Part) : (p.recompute i).stateAt i = p.stateAt i := by
  unfold Part.recompute Part.stateAt
  split
  · rfl
  · simp only [Part.callout?_raiseIf, Part.callout?_modify_self, Option.map_map]
    congr 1

theorem Part.stateAt_enter (i : SlotId) (st : CalloutState) (p : Part) :
    (p.enter i st).stateAt i = (p.stateAt i).map fun _ => st := by
  unfold Part.enter Part.stateAt
  simp only [Part.callout?_raise, Part.callout?_modify_self, Option.map_map]
  congr 1

theorem Part.stateAt_enterCrewed (i : SlotId) (p : Part) :
    (p.enterCrewed i).stateAt i = (p.stateAt i).map fun _ => .crewed := by
  have h : ((p.enter i .crewed).modify i Callout.stopWindow).stateAt i = (p.stateAt i).map fun _ => .crewed := by
    rw [← p.stateAt_enter i .crewed]
    simp only [Part.stateAt, Part.callout?_modify_self, Option.map_map]
    congr 1
  unfold Part.enterCrewed
  simp only
  split
  · exact h
  · split
    · exact h
    · rw [Part.stateAt_recompute]
      unfold Part.stateAt
      rw [(Part.demandReleases_onlyPages _ _ _).callout?]
      exact (Part.stateAt_releaseMembers _ _ _).trans h

theorem Part.stateAt_enterCounting (i : SlotId) (p : Part) :
    (p.enterCounting i).stateAt i = (p.stateAt i).map fun _ => .counting := by
  rw [← p.stateAt_enter i .counting]
  simp only [Part.enterCounting, Part.stateAt, Part.callout?_modify_self, Option.map_map]
  congr 1

/-! ## The end of an ALERT batch, and a callout's becoming FREE -/

/-- A loose slot that ends live with a strict step is no longer loose. -/
theorem WorkFrame.tighten {i : SlotId} {p q : Part} (h : WorkFrame (some i) p q)
    (hs : SlotStep false (p.slot i) (q.slot i)) (ex : Option SlotId) : WorkFrame ex p q where
  condition := h.condition
  cause := h.cause
  restart := h.restart
  pins := h.pins
  settings := h.settings
  station := h.station
  supply := h.supply
  store := h.store
  resolver := h.resolver
  roster := h.roster
  last := h.last
  lines := h.lines
  sites := h.sites
  bounded := h.bounded
  freeOrder := h.freeOrder
  slots := fun j => by
    have strict : SlotStep false (p.slot j) (q.slot j) := by
      by_cases e : i = j
      · exact e ▸ hs
      · have hj := h.slots j
        rwa [show (some i == some j) = false by simpa using e] at hj
    generalize p.slot j = x, q.slot j = y at strict
    cases x with
    | free => exact strict
    | live c =>
      cases y with
      | free => exact strict.elim (fun h => absurd h (by simp)) .inr
      | live c' => exact ⟨strict.1, strict.2.elim (fun h => absurd h (by simp)) .inr⟩

theorem Part.stateAt_some {p : Part} {i : SlotId} {st : CalloutState} (h : p.stateAt i = some st) :
    ∃ c, p.slot i = .live c ∧ c.state = st := by
  unfold Part.stateAt at h
  obtain ⟨c, hc, e⟩ := Option.map_eq_some_iff.mp h
  exact ⟨c, (p.callout?_eq i c).mp hc, e⟩

theorem Part.stateAt_live {p : Part} {i : SlotId} {c : Callout} (h : p.slot i = .live c) :
    p.stateAt i = some c.state := by
  unfold Part.stateAt
  rw [(p.callout?_eq i c).mpr h]
  rfl

/-- An entry into COUNTING and at once, if the outcome is CREWED, into CREWED. -/
theorem Part.stateAt_enterCounting_takeOutcome (i : SlotId) (p : Part) {st : CalloutState}
    (h : p.stateAt i = some st) :
    ((p.enterCounting i).takeOutcome i).stateAt i = some .counting
      ∨ ((p.enterCounting i).takeOutcome i).stateAt i = some .crewed := by
  have hc : (p.enterCounting i).stateAt i = some .counting := by rw [Part.stateAt_enterCounting, h]; rfl
  generalize p.enterCounting i = q at hc
  unfold Part.takeOutcome
  obtain ⟨c, hs, e⟩ := Part.stateAt_some hc
  rw [(q.callout?_eq i c).mpr hs]
  simp only [e]
  split
  · right; rw [Part.stateAt_enterCrewed, hc]; rfl
  · left; exact hc

theorem Part.alertEnded_work (ex : Option SlotId) (i : SlotId) (p : Part) : WorkFrame ex p (p.alertEnded i) := by
  have h0 : WorkFrame ex p (p.modify i fun c => { c with alertStatus := .ended }) :=
    p.modify_work_still ex i _ (fun _ => rfl) fun _ => ⟨rfl, rfl, rfl, rfl⟩
  unfold Part.alertEnded
  generalize p.modify i _ = q at h0
  simp only
  split
  · exact h0
  · next c hc =>
    split
    · next ha =>
      refine h0.trans ?_
      have hl := (q.callout?_eq i c).mp hc
      have hw := (q.enterCounting_work i).trans (Part.takeOutcome_work i _)
      refine hw.tighten ?_ ex
      have hst := q.stateAt_enterCounting_takeOutcome i (Part.stateAt_live hl)
      have hcore := hw.slots i
      rw [hl] at hcore ⊢
      rcases hst with hst | hst
      · obtain ⟨c', e', hs'⟩ := Part.stateAt_some hst
        rw [e'] at hcore ⊢
        exact ⟨hcore.1, .inr (.inr ⟨ha, .inl hs'⟩)⟩
      · obtain ⟨c', e', hs'⟩ := Part.stateAt_some hst
        rw [e'] at hcore ⊢
        exact ⟨hcore.1, .inr (.inr ⟨ha, .inr hs'⟩)⟩
    · exact h0

theorem Part.withdrawFor_work (ex : Option SlotId) (i : SlotId) (ks : BatchKind → Bool) (p : Part) :
    WorkFrame ex p (p.withdrawFor i ks).2 := by
  unfold Part.withdrawFor
  split
  · exact .refl ex p
  · next c _ =>
    have h := WorkFrame.of_pages (ex := ex) (p.withdraw_onlyPages c.owner ks)
    simp only
    split
    · exact h.trans (Part.degrade_work ex i _)
    · exact h

theorem WorkFrame.live_of_still {ex : Option SlotId} {p q : Part} (h : WorkFrame ex p q) {i : SlotId} {x : Option Summary}
    (hf : p.slot i = .free x) : q.slot i = .free x := by
  have := h.slots i
  rw [hf] at this
  exact this

/-- The slot of a callout that becomes FREE: it keeps its other slots, and joins the end of the free order. -/
theorem Part.becomeFree_work (i : SlotId) (endCode : Nat) (p : Part) :
    WorkFrame (some i) p (p.becomeFree i endCode) := by
  have h0 := p.withdrawFor_work (some i) i everyKind
  unfold Part.becomeFree
  generalize (p.withdrawFor i everyKind).2 = q at h0
  simp only
  split
  · exact h0
  · next c hc =>
    have hl := (q.callout?_eq i c).mp hc
    refine h0.trans (WorkFrame.trans ((q.disengageAll_work _ c.number).trans (Part.uncommitAll_work _ c.number _)) ?_)
    have hl' : ((q.disengageAll c.number).uncommitAll c.number).slot i = .live c := hl
    generalize (q.disengageAll c.number).uncommitAll c.number = r at hl'
    refine WorkFrame.trans (q := r.onTable fun t =>
      { t with slots := t.slots.set i (.free (some (c.summarise endCode))), freeOrder := t.freeOrder ++ [i] }) ?_
      (Part.raise_work _ _ _)
    have hs (j : SlotId) : (r.onTable fun t =>
        { t with slots := t.slots.set i (.free (some (c.summarise endCode))),
                 freeOrder := t.freeOrder ++ [i] }).slot j
        = if i = j then .free (some (c.summarise endCode)) else r.slot j := by
      simp [Part.slot, Table.get_set]
    refine
      { condition := rfl, cause := rfl, restart := rfl, pins := rfl, settings := rfl, station := rfl, supply := rfl
        store := rfl, resolver := rfl, roster := rfl, last := ⟨rfl, rfl⟩, lines := WorkFrame.lines_refl _
        slots := fun j => ?_, sites := fun _ => rfl, bounded := id, freeOrder := fun hf => ⟨?_, fun j => ?_⟩ }
    · rw [hs j]
      by_cases e : i = j
      · subst e; rw [hl']; simp [SlotStep]
      · simp only [e, if_false]; exact .refl _ _
    · have : i ∉ r.table.freeOrder := fun hm => by
        obtain ⟨x, hx⟩ := (hf.2 i).mp hm
        rw [hl'] at hx; cases hx
      simpa [List.nodup_append] using ⟨hf.1, fun a ha e => this (e ▸ ha)⟩
    · rw [hs j]
      simp only [Part.onTable_table, List.mem_append, List.mem_singleton, hf.2 j]
      by_cases e : i = j
      · subst e; simp
      · simp only [e, if_false]
        exact ⟨fun h => h.elim id fun h => absurd h.symm e, .inl⟩

theorem Part.batchEnded_work (ex : Option SlotId) (i : SlotId) (k : BatchKind) (p : Part) :
    WorkFrame ex p (p.batchEnded i k) := by
  unfold Part.batchEnded
  split
  · exact .refl ex p
  · next c hc =>
    have hl := (p.callout?_eq i c).mp hc
    split
    · exact p.alertEnded_work ex i
    · split
      · next hst =>
        refine (p.becomeFree_work i 3).tighten ?_ ex
        have hcore := (p.becomeFree_work i 3).slots i
        rw [hl] at hcore ⊢
        cases hq : (p.becomeFree i 3).slot i with
        | free x => exact .inr hst
        | live c' =>
          exfalso
          revert hq
          unfold Part.becomeFree
          simp only
          split
          · next hn =>
            have h0 := (p.withdrawFor_work none i everyKind).slots i
            rw [hl] at h0
            intro hq
            rw [(Part.callout?_eq _ i c').mpr hq] at hn
            cases hn
          · intro hq
            simp [Part.slot] at hq
      · exact .refl ex p
    all_goals exact .refl ex p

theorem Part.takeReport_work (ex : Option SlotId) (r : Report) (p : Part) : WorkFrame ex p (p.takeReport r) := by
  unfold Part.takeReport
  split
  · split
    · exact .refl ex p
    · split
      · exact p.modify_work_still ex _ _ (fun _ => rfl) fun _ => ⟨rfl, rfl, rfl, rfl⟩
      · exact .refl ex p
  · next o kind form failed =>
    split
    · exact .refl ex p
    · next i _ =>
      have h0 : WorkFrame ex p (if failed = true then p.degrade i else p) := by
        split
        · exact p.degrade_work ex i
        · exact .refl ex p
      simp only
      split
      · exact h0.trans (Part.batchEnded_work ex _ _ _)
      · exact h0.trans (Part.batchEnded_work ex _ _ _)
      · exact h0

theorem Part.workStep_work {p q : Part} (h : p.workStep = some q) (ex : Option SlotId) : WorkFrame ex p q := by
  unfold Part.workStep at h
  split at h
  · next rest _ =>
    cases h
    exact (WorkFrame.of_pages (.onPages p (fun q => { q with reports := rest }) fun b => b.2)).trans
      (Part.takeReport_work ex _ _)
  · split at h
    · split at h
      · cases h
      · split at h
        · cases h; exact .of_pages p.leaveQueue_onlyPages
        · split at h
          · cases h
          · cases h; exact .of_pages p.turn_onlyPages
    · cases h

theorem Part.workFor_work (n : Nat) (ex : Option SlotId) (p : Part) : WorkFrame ex p (Part.workFor n p) := by
  induction n generalizing p with
  | zero => exact .refl ex p
  | succ n ih =>
    unfold Part.workFor
    cases h : p.workStep with
    | none => exact .refl ex p
    | some q => exact (Part.workStep_work h ex).trans (ih q)

/-! ## The end of an event -/

theorem Part.refreshLamps_frame (p : Part) :
    p.refreshLamps = { p with station := { p.station with lamps := p.refreshLamps.station.lamps } } := rfl

/-- The end of an event is the work that follows, and then the lamps. -/
theorem Part.finish_work (p : Part) : WorkFrame none p p.work ∧ p.finish = p.work.refreshLamps :=
  ⟨p.workFor_work _ none, rfl⟩

/-- With no work left over, the end of an event sets the lamps only. -/
theorem Part.finish_quiet {p : Part} (h : p.Quiet) : p.finish = p.refreshLamps := by
  have hw (n : Nat) : Part.workFor n p = p := by
    cases n with
    | zero => rfl
    | succ n => simp [Part.workFor, show p.workStep = none from h]
  unfold Part.finish Part.work
  rw [hw]

end Sys2Proof.Machine
end

