-- ==== Sys2Proof/Laws/Orders.lean ====
section
/-!
SUPPORT. What a worked order and its answer leave: the part an order is worked on, and the lines after its reply.
-/

namespace Sys2Proof.Machine

open Sys2Proof

/-- The part an order is worked on: the exchange in progress broken off, and the order held in WORKING. -/
def Part.working (l : Line) (code : Byte) (ops : List Operand) (p : Part) : Part :=
  (p.breakOff l).onLine l (LineController.work code ops.length ops)

theorem Part.orderEvent_running {p : Part} (h : p.condition = .running) (l : Line) (code : Byte) (ops : List Operand)
    (order : Part → Verdict) :
    Part.orderEvent l code ops order p = (p.working l code ops).answer l (order (p.working l code ops)) := by
  unfold Part.orderEvent Part.whenRunning
  rw [if_pos h]
  rfl

/-- A broken-off reply changes the line controllers alone. -/
theorem Part.breakReply_frame (p : Part) (l : Line) : p.breakReply l = { p with lines := (p.breakReply l).lines } := by
  unfold Part.breakReply
  split <;> rfl

/-- What a break leaves of the controllers: flags, mask, exchange and bytes received everywhere, and all else of the other
lines; its own line holds no reply, and a frame being sent to its end when it was REPLYING. -/
theorem Part.breakReply_ctl (p : Part) (l k : Line) :
    ((p.breakReply l).ctl k).flags = (p.ctl k).flags ∧ ((p.breakReply l).ctl k).mask = (p.ctl k).mask
      ∧ ((p.breakReply l).ctl k).exchange = (p.ctl k).exchange ∧ ((p.breakReply l).ctl k).received = (p.ctl k).received
      ∧ (k ≠ l → (p.breakReply l).ctl k = p.ctl k) := by
  unfold Part.breakReply
  by_cases h : (p.ctl l).state = .replying
  · have e (f : LineController → LineController) :
        ((p.onLine l f).onLines fun ls => { ls with breaks := ls.breaks + 1 }).ctl k = (p.onLine l f).ctl k := by
      cases k <;> rfl
    simp only [if_pos h, e]
    by_cases hk : k = l
    · subst hk; simp
    · simp [Part.ctl_onLine_ne _ hk]
  · simp [if_neg h]

theorem Part.breakReply_super (p : Part) (l : Line) :
    (p.breakReply l).lines.superP = p.lines.superP ∧ (p.breakReply l).lines.superS = p.lines.superS := by
  unfold Part.breakReply
  split
  · simp [Part.onLine]
  · simp

theorem Part.breakOff_lines (p : Part) (l : Line) : (p.breakOff l).lines = (p.breakReply l).lines := by
  unfold Part.breakOff
  simp only
  split <;> rfl

/-- A broken-off exchange changes its own controller's reply, and the warm restart on its way. -/
theorem Part.breakOff_frame (p : Part) (l : Line) :
    p.breakOff l = { p with lines := (p.breakOff l).lines, restart := (p.breakOff l).restart } := by
  have h := p.breakReply_frame l
  unfold Part.breakOff
  simp only
  generalize p.breakReply l = q at h
  split <;> rw [h]

theorem Part.breakOff_ctl (p : Part) (l k : Line) :
    ((p.breakOff l).ctl k).flags = (p.ctl k).flags ∧ ((p.breakOff l).ctl k).mask = (p.ctl k).mask
      ∧ ((p.breakOff l).ctl k).exchange = (p.ctl k).exchange
      ∧ (k ≠ l → (p.breakOff l).ctl k = p.ctl k) := by
  have h := p.breakReply_ctl l k
  have e : (p.breakOff l).ctl k = (p.breakReply l).ctl k := by unfold Part.ctl; rw [p.breakOff_lines l]
  rw [e]
  exact ⟨h.1, h.2.1, h.2.2.1, h.2.2.2.2⟩

theorem Part.breakOff_super (p : Part) (l : Line) :
    (p.breakOff l).lines.superP = p.lines.superP ∧ (p.breakOff l).lines.superS = p.lines.superS := by
  rw [p.breakOff_lines l]
  exact p.breakReply_super l

/-- The part an order is worked on differs from the part before in its line controllers and the restart only. -/
theorem Part.working_frame (p : Part) (l : Line) (code : Byte) (ops : List Operand) :
    p.working l code ops
      = { p with lines := (p.working l code ops).lines, restart := (p.breakOff l).restart } := by
  have h := p.breakOff_frame l
  unfold Part.working Part.onLine Part.onLines
  generalize p.breakOff l = q at h
  rw [h]

theorem Part.working_ctl (p : Part) (l : Line) (code : Byte) (ops : List Operand) (k : Line) :
    ((p.working l code ops).ctl k).flags = (p.ctl k).flags ∧ ((p.working l code ops).ctl k).mask = (p.ctl k).mask
      ∧ ((p.working l code ops).ctl k).exchange = (p.ctl k).exchange
      ∧ (k ≠ l → (p.working l code ops).ctl k = p.ctl k) := by
  have h := p.breakOff_ctl l k
  unfold Part.working
  by_cases hk : k = l
  · subst hk
    simp only [Part.ctl_onLine, LineController.work]
    exact ⟨h.1, h.2.1, h.2.2.1, fun e => absurd rfl e⟩
  · rw [Part.ctl_onLine_ne _ hk]
    exact h

theorem Part.working_gap (p : Part) (l : Line) (code : Byte) (ops : List Operand) :
    ((p.working l code ops).ctl l).gap = none := by
  simp [Part.working, LineController.work]

theorem Part.working_super (p : Part) (l : Line) (code : Byte) (ops : List Operand) :
    (p.working l code ops).lines.superP = p.lines.superP ∧ (p.working l code ops).lines.superS = p.lines.superS := by
  have h := p.breakOff_super l
  simpa [Part.working, Part.onLine] using h

/-- The reply to an order that wrote no line controller but for the notices `b` it raised. -/
theorem Part.sendReply_answered (p q : Part) (l : Line) (code : Byte) (ops : List Operand) (why : Option Reason)
    (results : List Operand) (b : Set16)
    (h : q.lines = (p.working l code ops).lines.all fun c => { c with flags := c.flags ||| b }) :
    Answered l why results b p (q.sendReply l why results) := by
  have hq (k : Line) : q.ctl k
      = { (p.working l code ops).ctl k with flags := ((p.working l code ops).ctl k).flags ||| b } := by
    unfold Part.ctl; rw [h]; simp
  have hw := p.working_ctl l code ops
  have hs := p.working_super l code ops
  have hg := p.working_gap l code ops
  have hl : (q.sendReply l why results).ctl l = { q.ctl l with
      state := .replying
      reply := some { exchange := (q.ctl l).exchange, refused := why, notices := (q.ctl l).attention,
                      results := results } } := by
    simp [Part.sendReply]
  have hn (k : Line) (e : k ≠ l) : (q.sendReply l why results).ctl k = q.ctl k := by
    simp [Part.sendReply, Part.ctl_onLine_ne _ e]
  refine ⟨⟨by rw [hl], by rw [hl, hq l]; exact hg⟩, ?_, fun k => ?_, fun k => ?_, fun k e => ?_, ?_⟩
  · rw [hl]
    simp only [Option.some.injEq, Reply.mk.injEq, and_true, true_and]
    refine ⟨?_, rfl⟩
    rw [hq l]; exact (hw l).2.2.1
  · by_cases e : k = l
    · subst e; rw [hl, hq k]; simp only; rw [(hw k).1]
    · rw [hn k e, hq k]; simp only; rw [(hw k).1]
  · by_cases e : k = l
    · subst e; rw [hl, hq k]; exact (hw k).2.1
    · rw [hn k e, hq k]; exact (hw k).2.1
  · rw [hn k e, hq k, (hw k).2.2.2 e]
  · simp only [Part.sendReply, Part.onLine, Part.onLines_lines, Lines.setCtl_superP, Lines.setCtl_superS, h, Lines.all]
    exact hs

/-- A refused order: the answer, and every block as it was. -/
theorem Part.orderEvent_refused {p : Part} (h : p.condition = .running) (l : Line) (code : Byte) (ops : List Operand)
    (order : Part → Verdict) (why : Reason) (results : List Operand)
    (hv : order (p.working l code ops) = .refused why results) :
    Answered l (some why) results 0#16 p (Part.orderEvent l code ops order p)
      ∧ SameBlocks l p (Part.orderEvent l code ops order p) := by
  rw [Part.orderEvent_running h, hv]
  refine ⟨p.sendReply_answered _ l code ops _ _ 0#16 ?_, ?_⟩
  · simp [Lines.all]
  · have hf := p.working_frame l code ops
    unfold SameBlocks Part.answer Part.sendReply Part.onLine Part.onLines
    generalize p.working l code ops = q at hf
    simp only
    rw [hf]

/-- A taken order: the part its rule gives, with the reply. -/
theorem Part.orderEvent_taken {p : Part} (h : p.condition = .running) (l : Line) (code : Byte) (ops : List Operand)
    (order : Part → Verdict) (q : Part) (results : List Operand)
    (hv : order (p.working l code ops) = .taken q results) :
    Part.orderEvent l code ops order p = q.sendReply l none results := by
  rw [Part.orderEvent_running h, hv]
  rfl

end Sys2Proof.Machine
end

