-- ==== Sys2Proof/Laws/Finish.lean ====
section
/-!
SUPPORT. The work that follows an event comes to its end: each step lowers `workLeft`, so after `work` none is left.
-/

namespace Sys2Proof.Machine

open Sys2Proof

/-- The work of the queue and the reports, demands apart. -/
def PageQueue.batchWork (q : PageQueue) : Nat :=
  (q.queue.map Batch.work).sum + (q.reports.map Report.work).sum

theorem PageQueue.work_eq (q : PageQueue) : q.work = q.batchWork + (q.demands.map Demand.work).sum := by
  unfold PageQueue.work PageQueue.batchWork; omega

/-! ## Admission -/

theorem Part.siteList_length (p : Part) (d : Direction) : (p.siteList d).length ≤ 6 := by
  refine (List.length_filter_le _ _).trans ?_
  cases d <;> decide

theorem sum_toServe (l : List SiteId) :
    ((l.map fun k => ({ site := k, condition := .toServe } : SiteEntry)).map SiteEntry.work).sum = 3 * l.length := by
  induction l with
  | nil => rfl
  | cons k rest ih => simp only [List.map_cons, List.sum_cons, ih, List.length_cons, SiteEntry.work]; omega

theorem Part.admission_batchWork (d : Demand) (p : Part) :
    (p.admission d).pages.batchWork ≤ p.pages.batchWork + d.work := by
  unfold Part.admission
  simp only
  split
  · simp [Part.report, PageQueue.batchWork, Report.work, Demand.work]; omega
  · split
    · simp [Part.report, PageQueue.batchWork, Report.work, Demand.work]; omega
    · have h1 := p.siteList_length p.sites.direction.flip
      have h2 := List.length_filter_le d.restrict.allows (p.siteList p.sites.direction.flip)
      simp only [PageQueue.batchWork, Part.onPages_pages, Part.onSites_pages, List.map_append, List.sum_append,
        List.map_cons, List.map_nil, List.sum_cons, List.sum_nil, Batch.work, sum_toServe, Demand.work]
      split <;> omega

theorem Part.admission_sequencer (d : Demand) (p : Part) :
    (p.admission d).sites.sequencer = p.sites.sequencer := by
  unfold Part.admission
  simp only
  split
  · rfl
  · split <;> rfl

theorem Part.admitFrom_work (l : List Demand) (p : Part) :
    (Part.admitFrom l p).pages.work ≤ p.pages.batchWork + (l.map Demand.work).sum
      ∧ (Part.admitFrom l p).sites.sequencer = p.sites.sequencer := by
  induction l generalizing p with
  | nil => simp [Part.admitFrom, PageQueue.work, PageQueue.batchWork]
  | cons d rest ih =>
    unfold Part.admitFrom
    split
    · have h1 := ih (p.admission d)
      have h2 := p.admission_batchWork d
      refine ⟨?_, h1.2.trans (p.admission_sequencer d)⟩
      simp only [List.map_cons, List.sum_cons]
      omega
    · refine ⟨?_, rfl⟩
      simp [PageQueue.work, PageQueue.batchWork]; omega

theorem Part.tryAdmissions_work (p : Part) :
    p.tryAdmissions.pages.work ≤ p.pages.work ∧ p.tryAdmissions.sites.sequencer = p.sites.sequencer := by
  have h := p.admitFrom_work p.pages.demands
  rw [← PageQueue.work_eq] at h
  exact h

theorem Part.demand_work (d : Demand) (p : Part) :
    (p.demand d).pages.work ≤ p.pages.work + d.work ∧ (p.demand d).sites.sequencer = p.sites.sequencer := by
  unfold Part.demand
  split
  · have h := p.admission_batchWork d
    refine ⟨?_, p.admission_sequencer d⟩
    rw [PageQueue.work_eq, PageQueue.work_eq, p.admission_demands d]
    omega
  · split
    · refine ⟨?_, rfl⟩
      simp [PageQueue.work]; omega
    · refine ⟨?_, rfl⟩
      simp [Part.report, PageQueue.work, Report.work, Demand.work]; omega

theorem Part.workLeft_le {p q : Part} {n : Nat} (h : q.pages.work ≤ p.pages.work + n)
    (hs : q.sites.sequencer = p.sites.sequencer) : q.workLeft ≤ p.workLeft + n := by
  unfold Part.workLeft
  rw [hs]
  omega

theorem Part.demandReleases_work (o : Owner) (ms : List MemberId) (p : Part) :
    (p.demandReleases o ms).workLeft ≤ p.workLeft + 42 := by
  have one (l : List MemberId) (p : Part) :
      (if l = [] then p else p.demandMembers .release o l).workLeft ≤ p.workLeft + 21 := by
    split
    · omega
    · have h := p.demand_work { kind := .release, owner := o, content := .members l, restrict := .all }
      exact Part.workLeft_le h.1 h.2
  have h1 := one (ms.take Config.releaseRun) p
  have h2 := one (ms.drop Config.releaseRun) (if ms.take Config.releaseRun = [] then p
    else p.demandMembers .release o (ms.take Config.releaseRun))
  unfold Part.demandReleases
  simp only
  omega

/-! ## Operations that leave the page queue and the sequencer alone -/

/-- The page queue and the sequencer of `q` are those of `p`. -/
def SamePages (p q : Part) : Prop :=
  q.pages = p.pages ∧ q.sites = p.sites

theorem SamePages.workLeft {p q : Part} (h : SamePages p q) : q.workLeft = p.workLeft := by
  unfold Part.workLeft
  rw [h.1, h.2]

theorem SamePages.workStep {p q : Part} (h : SamePages p q) : q.workStep = none ↔ p.workStep = none := by
  unfold Part.workStep
  rw [h.1, h.2]
  split
  · simp
  · split
    · split
      · simp
      · split
        · simp
        · split <;> simp
    · simp

theorem SamePages.trans {p q r : Part} (h : SamePages p q) (g : SamePages q r) : SamePages p r :=
  ⟨g.1.trans h.1, g.2.trans h.2⟩

theorem SamePages.refl (p : Part) : SamePages p p := ⟨rfl, rfl⟩

theorem Part.modify_pages (i : SlotId) (f : Callout → Callout) (p : Part) : SamePages p (p.modify i f) := by
  unfold Part.modify
  split <;> exact ⟨rfl, rfl⟩

theorem Part.raise_samePages (n : Notice) (p : Part) : SamePages p (p.raise n) := ⟨rfl, rfl⟩

theorem Part.raiseIf_pages (b : Bool) (n : Notice) (p : Part) : SamePages p (p.raiseIf b n) := by
  unfold Part.raiseIf
  split <;> exact ⟨rfl, rfl⟩

theorem Part.modifyMember_pages (m : MemberId) (f : Member → Member) (p : Part) :
    SamePages p (p.modifyMember m f) := by
  unfold Part.modifyMember
  split <;> exact ⟨rfl, rfl⟩

theorem Part.disengageList_pages (n : CalloutNo) (l : List MemberId) (p : Part) :
    SamePages p (l.foldl (fun p m => p.disengage m n) p) := by
  induction l generalizing p with
  | nil => exact .refl p
  | cons m rest ih => exact (p.modifyMember_pages m _).trans (ih _)

theorem Part.releaseMembers_pages (i : SlotId) (ms : List MemberId) (p : Part) :
    SamePages p (p.releaseMembers i ms) := by
  unfold Part.releaseMembers
  split
  · exact .refl p
  · exact ((p.modify_pages i _).trans (Part.disengageList_pages _ _ _)).trans (Part.raiseIf_pages _ _ _)

theorem Part.recompute_pages (i : SlotId) (p : Part) : SamePages p (p.recompute i) := by
  unfold Part.recompute
  split
  · exact .refl p
  · exact (p.modify_pages i _).trans (Part.raiseIf_pages _ _ _)

theorem Part.enter_pages (i : SlotId) (st : CalloutState) (p : Part) : SamePages p (p.enter i st) :=
  (p.modify_pages i _).trans (Part.raise_samePages _ _)

theorem Part.degrade_pages (i : SlotId) (p : Part) : SamePages p (p.degrade i) :=
  (p.modify_pages i _).trans (Part.raise_samePages _ _)

/-! ## The steps of work -/

theorem Part.enterCrewed_workLeft (i : SlotId) (p : Part) : (p.enterCrewed i).workLeft ≤ p.workLeft + 42 := by
  have h := ((p.enter_pages i .crewed).trans (Part.modify_pages i Callout.stopWindow _)).workLeft
  unfold Part.enterCrewed
  simp only
  split
  · omega
  · split
    · omega
    · next c _ _ =>
      rw [(Part.recompute_pages _ _).workLeft]
      have h2 := (Part.releaseMembers_pages i c.assessment.surplus ((p.enter i .crewed).modify i Callout.stopWindow)).workLeft
      have h3 := Part.demandReleases_work c.owner c.assessment.surplus
        (((p.enter i .crewed).modify i Callout.stopWindow).releaseMembers i c.assessment.surplus)
      omega

theorem Part.alertEnded_workLeft (i : SlotId) (p : Part) : (p.alertEnded i).workLeft ≤ p.workLeft + 42 := by
  have h := (p.modify_pages i fun c => { c with alertStatus := .ended }).workLeft
  unfold Part.alertEnded
  generalize p.modify i (fun c => { c with alertStatus := .ended }) = q at h
  simp only
  split
  · omega
  · split
    · have h2 := ((q.enter_pages i .counting).trans (Part.modify_pages i Callout.startWindow _)).workLeft
      have h3 := Part.enterCrewed_workLeft i (q.enterCounting i)
      change (q.enterCounting i).workLeft = _ at h2
      unfold Part.takeOutcome
      split
      · omega
      · split
        · split <;> omega
        · split <;> omega
        · split
          · omega
          · have h4 := (((q.enterCounting i).enter_pages i .counting).trans
              (Part.modify_pages i Callout.startWindow _)).workLeft
            change ((q.enterCounting i).enterCounting i).workLeft = _ at h4
            omega
        all_goals omega
    · omega

theorem sum_work_filter (g : Demand → Bool) (l : List Demand) :
    ((l.filter g).map Demand.work).sum ≤ (l.map Demand.work).sum := sum_filter_le _ _ _

theorem Part.withdraw_workLeft (o : Owner) (ks : BatchKind → Bool) (p : Part) :
    (p.withdraw o ks).2.workLeft ≤ p.workLeft := by
  have h1 : (p.withdrawDemands o ks).2.workLeft ≤ p.workLeft := by
    have := sum_filter_le Demand.work (fun d => !named o ks d.owner d.kind) p.pages.demands
    simp only [Part.withdrawDemands, Part.workLeft, Part.onPages_pages, Part.onPages_sites, PageQueue.work]
    omega
  have h2 (p : Part) : (p.withdrawBehind o ks).2.workLeft ≤ p.workLeft := by
    unfold Part.withdrawBehind
    split
    · simp
    · next b rest hq =>
      have := sum_filter_le Batch.work (fun x => !named o ks x.owner x.kind) rest
      simp only [Part.workLeft, Part.onPages_pages, Part.onPages_sites, PageQueue.work, hq, List.map_cons,
        List.sum_cons]
      omega
  have h3 (p : Part) : (p.withdrawCurrent o ks).2.workLeft ≤ p.workLeft := by
    unfold Part.withdrawCurrent
    split
    · simp
    · next b rest hq =>
      split
      · split
        · simp only [Part.onCurrent, Part.workLeft, Part.onPages_pages, Part.onPages_sites, hq, PageQueue.work,
            List.map_cons, List.sum_cons]
          exact Nat.le_refl _
        · simp only [Part.setSequencer, Part.workLeft, Part.onPages_pages, Part.onPages_sites, Part.onSites_pages,
            Part.onSites_sites, hq, PageQueue.work, List.map_cons, List.sum_cons, Batch.work, Sequencer.turns]
          omega
      · simp
  have h4 (p : Part) : p.tryAdmissions.workLeft ≤ p.workLeft := by
    have h := p.tryAdmissions_work
    exact Part.workLeft_le (n := 0) h.1 h.2
  exact (h4 _).trans ((h3 _).trans ((h2 _).trans h1))

theorem Part.becomeFree_workLeft (i : SlotId) (endCode : Nat) (p : Part) :
    (p.becomeFree i endCode).workLeft ≤ p.workLeft := by
  have h : (p.withdrawFor i everyKind).2.workLeft ≤ p.workLeft := by
    unfold Part.withdrawFor
    split
    · simp
    · next c _ =>
      have h := p.withdraw_workLeft c.owner everyKind
      simp only
      split
      · rw [(Part.degrade_pages _ _).workLeft]; exact h
      · exact h
  unfold Part.becomeFree
  simp only
  split
  · exact h
  · exact h

theorem Part.takeReport_workLeft (r : Report) (p : Part) : (p.takeReport r).workLeft + 1 ≤ p.workLeft + r.work := by
  unfold Part.takeReport
  split
  · split
    · simp [Report.work]
    · split
      · rw [(Part.modify_pages _ _ _).workLeft]; simp [Report.work]
      · simp [Report.work]
  · next o kind form failed =>
    have hk : 1 ≤ kind.endWork := by cases kind <;> decide
    split
    · simp only [Report.work]; omega
    · next i _ =>
      have h0 : (if failed = true then p.degrade i else p).workLeft = p.workLeft := by
        split
        · exact (p.degrade_pages i).workLeft
        · rfl
      have hb (p : Part) : (p.batchEnded i kind).workLeft + 1 ≤ p.workLeft + kind.endWork := by
        unfold Part.batchEnded
        split
        · omega
        · split
          · have := p.alertEnded_workLeft i
            simp only [BatchKind.endWork]; omega
          · split
            · have := p.becomeFree_workLeft i 3
              simp only [BatchKind.endWork]; omega
            · simp only [BatchKind.endWork]; omega
          all_goals simp only [BatchKind.endWork]; omega
      simp only
      split
      · have := hb (if failed = true then p.degrade i else p); simp only [Report.work]; omega
      · have := hb (if failed = true then p.degrade i else p); simp only [Report.work]; omega
      · simp only [Report.work]; omega

/-! ## Turns -/

theorem Batch.remaining_of_not_over {b : Batch} (h : b.over = false) : ∃ e l, b.remaining = e :: l := by
  unfold Batch.over at h
  cases hr : b.remaining with
  | nil => rw [hr] at h; simp at h
  | cons e l => exact ⟨e, l, rfl⟩

theorem Batch.mem_remaining {b : Batch} {e : SiteEntry} {l : List SiteEntry} (h : b.remaining = e :: l) :
    e ∈ b.sites ∧ e.remaining = true := by
  have : e ∈ b.remaining := by rw [h]; simp
  exact List.mem_filter.mp this

theorem SiteEntry.work_of_remaining {e : SiteEntry} (h : e.remaining = true) : 2 ≤ e.work := by
  unfold SiteEntry.remaining at h
  unfold SiteEntry.work
  split <;> simp_all

theorem sum_setSite (k : SiteId) (o : PassOutcome) (l : List SiteEntry) :
    ((l.map fun e => if e.site = k then ({ e with condition := .settled o } : SiteEntry) else e).map
      SiteEntry.work).sum ≤ (l.map SiteEntry.work).sum
    ∧ ∀ e ∈ l, e.site = k → 2 ≤ e.work →
      ((l.map fun e => if e.site = k then ({ e with condition := .settled o } : SiteEntry) else e).map
        SiteEntry.work).sum + 2 ≤ (l.map SiteEntry.work).sum := by
  induction l with
  | nil => simp
  | cons x rest ih =>
    have hx : (if x.site = k then ({ x with condition := .settled o } : SiteEntry) else x).work ≤ x.work := by
      split
      · simp [SiteEntry.work]
      · exact Nat.le_refl _
    refine ⟨?_, fun e he hk hw => ?_⟩
    · simp only [List.map_cons, List.sum_cons]; omega
    · simp only [List.map_cons, List.sum_cons]
      rcases List.mem_cons.mp he with rfl | he
      · have : (if e.site = k then ({ e with condition := .settled o } : SiteEntry) else e).work = 0 := by
          rw [if_pos hk]; simp [SiteEntry.work]
        omega
      · have := ih.2 e he hk hw
        omega

theorem Part.onCurrent_cons {p : Part} {b : Batch} {rest : List Batch} (h : p.pages.queue = b :: rest)
    (f : Batch → Batch) : (p.onCurrent f).pages = { p.pages with queue := f b :: rest } := by
  simp [Part.onCurrent, h]

/-- Settling a site that remained lowers the work left. -/
theorem Part.settle_workLeft {p : Part} {b : Batch} {rest : List Batch} {e : SiteEntry} {l : List SiteEntry}
    (hq : p.pages.queue = b :: rest) (hr : b.remaining = e :: l) (o : PassOutcome) :
    (p.settle e.site o).workLeft + 1 ≤ p.workLeft := by
  have hm := Batch.mem_remaining hr
  have hs := (sum_setSite e.site o b.sites).2 e hm.1 rfl (SiteEntry.work_of_remaining hm.2)
  have hov : b.over = false := by unfold Batch.over; rw [hr]; rfl
  unfold Part.settle
  have hc : p.current? = some b := by unfold Part.current?; rw [hq]; rfl
  rw [hc]
  simp only
  have hp := Part.onCurrent_cons hq fun _ => b.setSite e.site (.settled o)
  split
  · next h =>
    simp only [Part.report, Part.workLeft, Part.onPages_pages, Part.onPages_sites, hp, PageQueue.work, hq,
      List.map_append, List.sum_append, List.map_cons, List.map_nil, List.sum_cons, List.sum_nil, Batch.work, h, hov,
      Report.work]
    simp only [Batch.setSite, Part.onCurrent, Part.onPages_sites, if_true, Bool.false_eq_true, if_false]
    omega
  · next h =>
    have h : (b.setSite e.site (.settled o)).over = false := by simpa using h
    simp only [Part.report, Part.workLeft, Part.onPages_pages, Part.onPages_sites, hp, PageQueue.work, hq,
      List.map_append, List.sum_append, List.map_cons, List.map_nil, List.sum_cons, List.sum_nil, Batch.work, h, hov,
      Report.work]
    simp only [Batch.setSite, Part.onCurrent, Part.onPages_sites, Bool.false_eq_true, if_false]
    omega

theorem sum_filter_site (k : SiteId) (l : List SiteEntry) (e : SiteEntry) (he : e ∈ l) (hk : e.site = k) :
    ((l.filter fun x => x.site != k).map SiteEntry.work).sum + e.work ≤ (l.map SiteEntry.work).sum := by
  induction l with
  | nil => simp at he
  | cons x rest ih =>
    have hf := sum_filter_le SiteEntry.work (fun x => x.site != k) rest
    rcases List.mem_cons.mp he with rfl | he
    · rw [List.filter_cons_of_neg (by simp [hk])]
      simp only [List.map_cons, List.sum_cons]
      omega
    · have := ih he
      by_cases h : x.site = k
      · rw [List.filter_cons_of_neg (by simp [h])]
        simp only [List.map_cons, List.sum_cons]
        omega
      · rw [List.filter_cons_of_pos (by simp [h])]
        simp only [List.map_cons, List.sum_cons]
        omega

theorem Part.keySite_idle {p : Part} {b : Batch} {rest : List Batch} (hq : p.pages.queue = b :: rest) (k : SiteId)
    (forced : Bool) :
    (p.keySite k forced).pages.work = p.pages.work ∧ (p.keySite k forced).sites.sequencer.turns = 0 := by
  unfold Part.keySite
  have hc : p.current? = some b := by unfold Part.current?; rw [hq]; rfl
  rw [hc]
  refine ⟨?_, rfl⟩
  have hq' : (p.debit k (airtime (p.sites.records.get k).leadIn b.pages)).pages.queue = b :: rest := hq
  have hp := Part.onCurrent_cons hq' Batch.start
  simp only [Part.setSequencer, Part.onSites_pages, hp, PageQueue.work, hq, List.map_cons]
  rfl

theorem Part.turn_workLeft {p : Part} {b : Batch} {rest : List Batch} (hq : p.pages.queue = b :: rest)
    (ho : b.over = false) (hi : p.sites.sequencer = .idle) : p.turn.workLeft + 1 ≤ p.workLeft := by
  obtain ⟨e, l, hr⟩ := Batch.remaining_of_not_over ho
  have hm := Batch.mem_remaining hr
  unfold Part.turn
  have hc : p.current? = some b := by unfold Part.current?; rw [hq]; rfl
  rw [hc]
  simp only [hr]
  split
  · exact Part.settle_workLeft hq hr _
  · exact Part.settle_workLeft hq hr _
  · next ht =>
    have hto : e.condition = .toServe := by
      unfold Part.turnCheck at ht
      simp only at ht
      split at ht
      · cases ht
      · split at ht
        · cases ht
        · split at ht
          · split at ht
            · next h => simp at h; exact h.1
            · cases ht
          · cases ht
    have hw : e.work = 3 := by unfold SiteEntry.work; rw [hto]
    have hf := sum_filter_site e.site b.sites e hm.1 rfl
    have hov : (b.defer e.site).over = false := by
      unfold Batch.over Batch.remaining Batch.defer
      simp [List.filter_append, SiteEntry.remaining]
    have hp := Part.onCurrent_cons hq (Batch.defer e.site)
    simp only [Part.workLeft, hp, PageQueue.work, hq, List.map_cons, List.sum_cons, Batch.work, hov, ho]
    simp only [Batch.defer, Part.onCurrent, Part.onPages_sites, List.map_append, List.sum_append, List.map_cons,
      List.map_nil, List.sum_cons, List.sum_nil, Bool.false_eq_true, if_false]
    have h2 : ({ site := e.site, condition := .deferred } : SiteEntry).work = 2 := rfl
    omega
  · unfold Part.clearCheck
    split
    · have h := Part.keySite_idle hq e.site false
      have ht : Sequencer.idle.turns = 1 := rfl
      simp only [Part.workLeft, h.1, h.2, hi, ht]
      omega
    · simp [Part.workLeft, Part.setSequencer, hi, Sequencer.turns]

theorem Part.workStep_workLeft {p q : Part} (h : p.workStep = some q) : q.workLeft + 1 ≤ p.workLeft := by
  unfold Part.workStep at h
  split at h
  · next r rest hr =>
    cases h
    have h1 := Part.takeReport_workLeft r (p.onPages fun q => { q with reports := rest })
    have h2 : (p.onPages fun q => { q with reports := rest }).workLeft + r.work = p.workLeft := by
      simp only [Part.workLeft, Part.onPages_pages, Part.onPages_sites, PageQueue.work, hr, List.map_cons,
        List.sum_cons]
      omega
    omega
  · split at h
    · next hi =>
      split at h
      · cases h
      · next b rest hq =>
        split at h
        · next ho =>
          cases h
          have h1 := (p.onPages fun q => { q with queue := q.queue.tail }).tryAdmissions_work
          have h2 : (p.onPages fun q => { q with queue := q.queue.tail }).workLeft + 2 ≤ p.workLeft := by
            simp only [Part.workLeft, Part.onPages_pages, Part.onPages_sites, PageQueue.work, hq, List.map_cons,
              List.sum_cons, List.tail_cons, Batch.work]
            omega
          have h3 := Part.workLeft_le (n := 0) h1.1 h1.2
          unfold Part.leaveQueue
          omega
        · next ho =>
          split at h
          · cases h
          · cases h
            exact Part.turn_workLeft hq (by simpa using ho) hi
    · cases h

/-- With as many steps as `workLeft`, all the work is done. -/
theorem Part.workFor_done (n : Nat) (p : Part) (h : p.workLeft ≤ n) : (Part.workFor n p).workStep = none := by
  induction n generalizing p with
  | zero =>
    unfold Part.workFor
    cases hs : p.workStep with
    | none => rfl
    | some q => have := Part.workStep_workLeft hs; omega
  | succ n ih =>
    unfold Part.workFor
    cases hs : p.workStep with
    | none => exact hs
    | some q =>
      have := Part.workStep_workLeft hs
      exact ih q (by omega)

/-- After an event no work is left over. -/
theorem Part.finish_done (p : Part) : p.finish.Quiet := by
  have h := Part.workFor_done p.workLeft p (Nat.le_refl _)
  have hs : SamePages p.work p.finish := ⟨rfl, rfl⟩
  exact hs.workStep.mpr h

end Sys2Proof.Machine
end

