-- ==== Sys2Proof/Laws/Frames.lean ====
section
/-!
SUPPORT. What the receiver of a line does with the bytes it gets (R175): how it finds a frame does not hang on the number
of tries it is allowed, and a frame command changes only what its line had not read, before a frame found is taken.
-/

namespace Sys2Proof.Machine

open Sys2Proof

theorem seekSync_length (bytes : List Byte) : (seekSync bytes).length ≤ bytes.length := by
  induction bytes using seekSync.induct with
  | case1 => simp [seekSync]
  | case2 => simp [seekSync]
  | case3 => simp_all [seekSync]
  | case4 a b rest h => simp [seekSync, h]
  | case5 a b rest h ih =>
    unfold seekSync
    rw [if_neg h]
    simp only [List.length_cons] at *
    omega

/-- More tries than bytes are as good as any number. -/
theorem hearFor_enough (n m : Nat) (kind : Byte) (bytes : List Byte) (hn : bytes.length < n) (hm : bytes.length < m) :
    hearFor n kind bytes = hearFor m kind bytes := by
  induction n generalizing m bytes with
  | zero => omega
  | succ n ih =>
    cases m with
    | zero => omega
    | succ m =>
      have hs := seekSync_length bytes
      unfold hearFor
      split
      · next e =>
        rw [e] at hs
        simp only [List.length_cons] at hs
        have key (l : List Byte) (hl : l.length ≤ bytes.length - 4) : hearFor n kind l = hearFor m kind l :=
          ih m l (by omega) (by omega)
        split
        · exact key _ (by omega)
        · split
          · rfl
          · simp only
            rw [key _ (by simp only [List.length_drop]; omega)]
      · rfl

/-- The receiver tried on a run of bytes any number of times above its length. -/
theorem hearFor_eq (n : Nat) (kind : Byte) (bytes : List Byte) (h : bytes.length < n) :
    hearFor n kind bytes = hear kind bytes :=
  hearFor_enough n _ kind bytes h (by omega)

/-- One frame at the front of the bytes, not above the length limit and whole: it is heard, or passed over. -/
theorem hear_frame (kind k n c1 c2 : Byte) (payload more : List Byte) (hn : n.toNat ≤ 40)
    (hp : payload.length = n.toNat) :
    hear kind ([0xC3#8, 0x3C#8, k, n] ++ payload ++ [c1, c2] ++ more)
      = if k = kind ∧ [c1, c2] = bytesOf 2 (linkCheck k payload).toNat ∧ lengthSuits k payload = true
        then (some payload, more) else hear kind more := by
  have e1 : (payload ++ c1 :: c2 :: more).take n.toNat = payload := by rw [← hp]; simp
  have e2 : (payload ++ c1 :: c2 :: more).drop n.toNat = c1 :: c2 :: more := by rw [← hp]; simp
  have e3 : (payload ++ c1 :: c2 :: more).drop (n.toNat + 2) = more := by
    rw [← List.drop_drop, e2]; rfl
  have hlen : ¬ (payload ++ c1 :: c2 :: more).length < n.toNat + 2 := by simp; omega
  show hearFor _ _ _ = _
  simp only [List.cons_append, List.nil_append, List.append_assoc, List.length_cons]
  rw [hearFor]
  simp only [seekSync, and_self, if_true, if_neg (show ¬ 40 < n.toNat by omega), if_neg hlen, e1, e2, e3,
    List.take_succ_cons, List.take_zero]
  split
  · rfl
  · exact hearFor_eq _ _ _ (by simp; omega)

/-- A length above 40: the next sync is looked for behind it. -/
theorem hear_long (kind k n : Byte) (more : List Byte) (hn : 40 < n.toNat) :
    hear kind ([0xC3#8, 0x3C#8, k, n] ++ more) = hear kind more := by
  show hearFor _ _ _ = _
  simp only [List.cons_append, List.nil_append, List.length_cons]
  rw [hearFor]
  simp only [seekSync, and_self, if_true, if_pos hn]
  exact hearFor_eq _ _ _ (by omega)

/-- What a frame command does to its line before a frame it finds is taken. -/
theorem Part.receive_eq {α : Type} (l : Line) (kind : Byte) (read : List Byte → Option α) (take : α → Part → Part)
    (frame : List Byte) (p : Part) :
    p.receive l kind read take frame
      = let q := p.onLine l fun c => { c with received := unread kind ((p.ctl l).received ++ frame) }
        match read ((p.ctl l).received ++ frame) with
        | some x => take x q
        | none => q := rfl

end Sys2Proof.Machine
end

