-- ==== Sys2Proof/Tests/Slice0.lean ====
section
/-!
SUPPORT. Small tests, each of one command on a small state, with expected values from the spec's worked sequences and
rules, and a witness for the hypotheses of each statement.
-/

set_option Elab.async false

namespace Sys2Proof.Tests

open Sys2Proof Sys2Proof.Machine

/-! ## Small states -/

def reqA : RoleCounts := { oic := 1, drv := 1, ba := 2, gen := 0 }

/-- Plan 7 of section 1.13, with a secondary group. -/
def plan7 : Plan where
  entries := [{ main := .a, alternate := none, need := reqA }]
  primary := 0x000C#16
  secondary := 0x0020#16
  window := 300
  turnout := 8
  sirenPolicy := .atLevel0
  sirenPattern := 1
  template := []

def hand (address : Address) (oic drv ba : Bool) : Member where
  callSign := [0x4D#8]
  address := address
  quals := { oic := oic, drv := drv, ba := ba }
  groups := 0x002C#16
  availability := .available
  engaged := none

/-- The members of section 5.6, numbered from 0, at addresses 1 above their numbers. -/
def crew56 : List (MemberId × Member) :=
  [(11, hand 12#21 true true false), (30, hand 31#21 false true true), (6, hand 7#21 false false true),
   (43, hand 44#21 true false false), (18, hand 19#21 false false false), (49, hand 50#21 false false true),
   (62, hand 63#21 false false true)]

def siteOf (divisor credit : Nat) : SiteRecord where
  enabled := true
  stationPowered := false
  leadIn := 150
  clearWait := 20
  ceiling := 36000
  divisor := divisor
  credit := credit
  accrual := 0

/-- A part with plan 7, class 12, the crew, groups 2, 3 and 5 and site 0; nothing is called out. -/
def ready : State := { State.reset with
  resolver := { State.reset.resolver with
    plans := State.reset.resolver.plans.set 6 (some plan7)
    classes := State.reset.resolver.classes.set 12 (.direct 6)
    appliances := State.reset.resolver.appliances.set 0 { seats := 6, inService := true, committed := none } }
  roster := {
    members := crew56.foldl (fun t x => t.set x.1 (some x.2)) State.reset.roster.members
    groups := ((State.reset.roster.groups.set 2 { address := 102#21, enabled := true }).set 3
      { address := 103#21, enabled := true }).set 5 { address := 105#21, enabled := true } }
  sites := { State.reset.sites with records := State.reset.sites.records.set 0 (siteOf 10 5000) } }

def answer (m : MemberId) (minute estimate sequence : Nat) : Response where
  member := m
  kind := .attending
  eta := some (estimate - minute)
  minute := minute
  estimate := some estimate
  sequence := some sequence
  source := .site 0
  lastChange := 60 * minute

def bare (st : CalloutState) (responses : List Response) : Callout where
  number := 42#8
  reference := [0x41#8]
  origin := .p
  cls := 12
  zone := 5
  plan := 6
  window := 300
  turnout := 8
  sirenPolicy := .atLevel0
  sirenPattern := 1
  token := 3711#12
  state := st
  prior := none
  appliances := [{ letter := .a, need := reqA, departed := false, crew := [] }]
  primary := 0x000C#16
  paged := 0#16
  secondary := 0x0020#16
  repaged := []
  text := []
  alertStatus := .none
  alertGroups := 0#16
  standDownGroups := none
  heldBack := []
  responses := responses
  sequence := responses.length
  assessment := { candidates := [], entries := [], outcome := .short }
  level := 0
  exhausted := false
  elapsed := 30
  elapsedMs := 0
  accumulation := if st = .inOpen then .start 8 else .stopped
  responseWindow := if st = .counting then .start 300 else .stopped
  flags :=
    { substituted := false, applianceOmitted := false, groupsOmitted := false, txDegraded := false
      aidRequested := false, responseLost := false }

/-- A callout with its assessment as the ready part computes it. -/
def called (st : CalloutState) (responses : List Response) : Callout :=
  { bare st responses with assessment := ready.assessment (bare st responses) }

/-- The ready part with one callout, in slot 1, that holds appliance A. -/
def withCallout (c : Callout) : State := { ready with
  table := { slots := ready.table.slots.set 0 (.live c), freeOrder := [1, 2, 3, 4, 5, 6, 7]
             lastNumber := 42#8, lastToken := 3711#12 }
  resolver := { ready.resolver with
    appliances := ready.resolver.appliances.set 0 { seats := 6, inService := true, committed := some 42#8 } }
  station := { ready.station with lamps := ready.station.lamps.set 0 .called } }

def atState (st : CalloutState) : State := withCallout (called st [])

def pageOf (who : Addressee) (chars : Nat) : Page where
  addressee := who
  address := 102#21
  kind := .alert
  token := 3711#12
  number := 42#8
  cls := 12
  zone := 5
  escalated := false
  text := List.replicate chars 0x41#8

def batchOf (kind : BatchKind) (number : CalloutNo) (pages : List Page) (sites : List SiteId) : Batch where
  kind := kind
  owner := { number := number, token := 3711#12 }
  pages := pages
  sites := sites.map fun k => { site := k, condition := .toServe }
  started := false
  withdrawing := false

/-- A part whose sequencer is at work on these batches. -/
def sending (x : Sequencer) (queue : List Batch) : State :=
  let s := atState .alerting
  { s with
    pages := { queue := queue, demands := [], reports := [] }
    sites := { s.sites with records := s.sites.records.set 3 (siteOf 10 2061), sequencer := x } }

def onLine (l : Line) (c : LineController) : State :=
  { ready with lines := ready.lines.setCtl l c }

def stoppedPart (x : Condition) : State := { State.reset with condition := x }

/-! ## What a command leaves -/

def leaves {α : Type} (c : Instr) (s : State) (f : Part → α) : Option α :=
  match exec c s with
  | .next t => some (f t.toPart)
  | _ => none

/-- What the reply of an order carries: its refusal, if any, and its results. -/
def replies (c : Instr) (l : Line) (s : State) : Option (Option Reason × List Operand) :=
  (leaves c s fun t => (t.ctl l).reply.map fun r => (r.refused, r.results)).getD none

def letterA : Operand := .text [0x41#8]

/-! ## Well-formedness: an ill-formed term for each check -/

theorem test_wf_text_of_39 : (Instr.alert .p [.text (List.replicate 39 0x41#8)]).wellFormed = false := by decide
theorem test_wf_text_of_38 : (Instr.alert .p [.text (List.replicate 38 0x41#8)]).wellFormed = true := by decide
theorem test_wf_assigned_kind : (Instr.siren .p [.unassigned 3#8]).wellFormed = false := by decide
theorem test_wf_nine_operands : (Instr.keep .p (List.replicate 9 .absent)).wellFormed = false := by decide
theorem test_wf_plan_operands : (Instr.editPlanEntry .console .absent (List.replicate 7 .absent)).wellFormed = false := by
  decide
theorem test_wf_plan_number : (Instr.editPlanReport .console (.unassigned 0#8) []).wellFormed = false := by decide
theorem test_wf_unit_operands : (Instr.editUnitPattern .console (List.replicate 8 .absent)).wellFormed = false := by
  decide
theorem test_wf_known_code : (Instr.unknownOrder .s 32#8 []).wellFormed = false := by decide
theorem test_wf_sync : (Instr.order .p [0xC3#8, 0x3D#8, 2#8, 0#8, 0#8, 0#8]).wellFormed = false := by decide
theorem test_wf_frame_kind : (Instr.order .p [0xC3#8, 0x3C#8, 1#8, 0#8, 0#8, 0#8]).wellFormed = false := by decide
theorem test_wf_frame_length : (Instr.operand .p ([0xC3#8, 0x3C#8, 3#8, 41#8] ++ List.replicate 43 0#8)).wellFormed = false := by
  decide
theorem test_wf_frame_check : (Instr.opening .p [0xC3#8, 0x3C#8, 1#8, 0#8, 0#8]).wellFormed = false := by decide
theorem test_wf_frame : (Instr.order .p (linkFrame 2#8 [1#8, 6#8])).wellFormed = true := by decide +kernel

theorem test_no_table_bits : decodeTableWord 8 1 = none := by decide
theorem test_fetch_word : ready.withFetchWord 8 1 = ready := by decide +kernel

/-! ## Formats and airtime -/

/-- The check of R175: register 0xFFFF, polynomial 0x1021, no inversion, over the nine ASCII digits "123456789" is
0x29B1, the published check value of that rule. -/
theorem test_check_value : checkOf (bitsOfBytes [0x31#8, 0x32#8, 0x33#8, 0x34#8, 0x35#8, 0x36#8, 0x37#8, 0x38#8, 0x39#8])
    = 0x29B1#16 := by decide +kernel

/-- The frame sizes of section 10.7. -/
theorem test_frame_sizes : (linkFrame 1#8 [0x4B#8, 0x52#8, 0x30#8, 0x37#8, 17#8]).length = 11
    ∧ (linkFrame 2#8 [1#8, 6#8]).length = 8
    ∧ (linkFrame 3#8 (operandBytes (.text (List.replicate 7 0x31#8)))).length = 15 := by decide +kernel

/-- The airtime table of section 8.6. -/
theorem test_airtime : airtime 150 [pageOf (.member 0) 0] = 230 ∧ airtime 0 [pageOf (.member 0) 0] = 80
    ∧ airtime 150 (List.replicate 3 (pageOf (.group 2) 0)) = 310
    ∧ airtime 150 (List.replicate 3 (pageOf (.group 2) 18)) = 610
    ∧ airtime 150 (List.replicate 16 (pageOf (.member 0) 24)) = 2750 := by decide +kernel

/-- A burst with one page of one character: the data of its address, header and text block, from the tables of section 10.8. -/
theorem test_burst : (burstOf [pageOf (.group 2) 1]).length = 240
    ∧ ((burstOf [pageOf (.group 2) 1]).drop 96).take 32 = bitsOf 0x00033120#32
    ∧ ((burstOf [pageOf (.group 2) 1]).drop 144).take 32 = bitsOf 0xE7F2A30A#32
    ∧ ((burstOf [pageOf (.group 2) 1]).drop 192).take 32 = bitsOf 0x41202020#32 := by decide +kernel

/-! ## Exchanges (section 10.7) -/

def opening17 : List Byte := linkFrame 1#8 [0x30#8, 0x30#8, 0x30#8, 0x30#8, 17#8]

theorem test_opening : leaves (.opening .p opening17) ready (fun t => ((t.ctl .p).state, (t.ctl .p).exchange, (t.ctl .p).gap))
    = some (.opened, 17#8, some 500) := by decide +kernel

/-- A frame whose check is wrong is discarded, and the next sync behind it brings the OPENING (R175). -/
theorem test_opening_behind_damage : leaves (.opening .p ([0xC3#8, 0x3C#8, 1#8, 0#8, 0#8, 0#8] ++ opening17)) ready
    (fun t => ((t.ctl .p).state, (t.ctl .p).exchange, (t.ctl .p).received)) = some (.opened, 17#8, []) := by decide +kernel

theorem test_order_collects : leaves (.order .p (linkFrame 2#8 [1#8, 6#8]))
    (onLine .p { LineController.cold with state := .opened, gap := some 210 })
    (fun t => ((t.ctl .p).state, (t.ctl .p).declared, (t.ctl .p).gap)) = some (.collecting, 6, some 500) := by
  decide +kernel

/-- The bytes of a frame may come in two runs (R175). -/
theorem test_order_in_two_runs : leaves (.order .p ((linkFrame 2#8 [1#8, 6#8]).drop 5))
    (onLine .p { LineController.cold with
      state := .opened, gap := some 210, received := (linkFrame 2#8 [1#8, 6#8]).take 5 })
    (fun t => ((t.ctl .p).state, (t.ctl .p).declared, (t.ctl .p).received)) = some (.collecting, 6, []) := by
  decide +kernel

def collecting (declared : Nat) (operands : List Operand) : LineController :=
  { LineController.cold with state := .collecting, code := 1#8, declared := declared, operands := operands, gap := some 470 }

/-- The sixth operand completes the ALERT, which is worked at once (section 10.7). -/
theorem test_operand_completes : leaves (.operand .p (linkFrame 3#8 [3#8]))
    (onLine .p (collecting 6 [.text [0x41#8], num 12, num 5, .absent, .absent]))
    (fun t => ((t.ctl .p).state, (t.ctl .p).gap, t.table.lastNumber)) = some (.replying, none, 1#8) := by decide +kernel

theorem test_gap_expiry : leaves (.gapTimerExpiry .p) (onLine .p (collecting 6 [])) (fun t => (t.ctl .p).state)
    = some .idle := by decide +kernel

def replying (results : List Operand) : LineController := { LineController.cold with
  state := .replying, reply := some { exchange := 0#8, refused := none, notices := true, results := results } }

/-- The line comes UP, with its timer at 30 s and LINES raised (section 10.7). -/
theorem test_reply_ends : leaves (.endWithReply .p) (onLine .p (replying []))
    (fun t => ((t.ctl .p).state, t.lines.superP, (t.ctl .console).flags))
    = some (.idle, { up := true, timer := some 30000 }, 0x0240#16) := by decide +kernel

theorem test_supervision_expiry : leaves (.supervisionTimerExpiry .s)
    { ready with lines := { ready.lines with superS := { up := true, timer := some 0 } } }
    (fun t => (t.lines.superS, (t.ctl .p).flags)) = some ({ up := false, timer := none }, 0x0240#16) := by decide +kernel

/-- The end of a reply loaded the timer afresh, so the expiry that waited does not happen (R184). -/
theorem test_supervision_reloaded : leaves (.supervisionTimerExpiry .s)
    { ready with lines := { ready.lines with superS := { up := true, timer := some 30000 } } }
    (fun t => (t.lines.superS, (t.ctl .p).flags)) = some ({ up := true, timer := some 30000 }, 0x0200#16) := by decide +kernel

theorem test_unknown_order : replies (.unknownOrder .p 33#8 []) .p ready = some (some .unknownOrder, []) := by
  decide +kernel

/-! ## Callouts (sections 1.13 and 2.7) -/

def alert12 : List Operand := [.text [0x41#8], num 12, num 5, .absent, .absent, .absent]

/-- The number after 41 is 42, and the token after 2474 is 3711; the slot is the head of the free order. -/
theorem test_alert_created : replies (.alert .p alert12) .p
    { ready with table := { ready.table with freeOrder := [5, 3, 4, 6, 7], lastNumber := 41#8, lastToken := 2474#12 } }
    = some (none, [num 0, num 42, num 3711, num 1]) := by decide +kernel

/-- The token after 3711 is 852, and the number after 255 is 1 (section 2.7, R2). -/
theorem test_alert_wraps : replies (.alert .s alert12) .s
    { ready with table := { ready.table with lastNumber := 255#8, lastToken := 3711#12 } }
    = some (none, [num 0, num 1, num 852, num 1]) := by decide +kernel

theorem test_add_merges : leaves (.add .s [num 42, .absent, .set 0x0030#16]) (atState .inOpen)
    (fun t => (t.callout? 0).map fun c => (c.primary, c.secondary, c.accumulation.remaining))
    = some (some (0x003C#16, 0x0020#16, 8000)) := by decide +kernel

/-- Groups 2 and 3 hold AVAILABLE members, so the ALERT batch of two pages is demanded, on site 0. -/
theorem test_commit : leaves (.commit .p [num 42]) (atState .inOpen)
    (fun t => ((t.callout? 0).map Callout.state, t.pages.queue.map fun b => b.pages.length)) = some (some .alerting, [2]) := by
  decide +kernel

theorem test_hold : leaves (.hold .console [num 42]) (atState .counting)
    (fun t => (t.callout? 0).map fun c => (c.state, c.prior, c.responseWindow.mark))
    = some (some (.held, some .counting, .frozen)) := by decide +kernel

theorem test_resume : leaves (.resume .console [num 42])
    (withCallout { called .held [] with prior := some .crewed })
    (fun t => (t.callout? 0).map fun c => (c.state, c.responseWindow.remaining)) = some (some (.counting, 300000)) := by
  decide +kernel

/-- A callout whose pages reached nobody is FREE at once, and its slot joins the end of the free order. -/
theorem test_stand_down : leaves (.standDown .p [num 42]) (atState .counting)
    (fun t => ((t.callout? 0).isSome, t.table.freeOrder, (t.appliance .a).committed))
    = some (false, [1, 2, 3, 4, 5, 6, 7, 0], none) := by decide +kernel

theorem test_depart : replies (.depart .console [num 42, letterA]) .console (atState .crewed)
    = some (none, [num 42, num 6]) := by decide +kernel

theorem test_accumulation_expiry : leaves (.accumulationTimerExpiry 0) (atState .inOpen)
    (fun t => ((t.callout? 0).map Callout.state, t.station.run.isSome)) = some (some .alerting, true) := by decide +kernel

theorem test_window_expiry : leaves (.responseWindowExpiry 0) (withCallout { called .counting [] with level := 3 })
    (fun t => ((t.callout? 0).map fun c => (c.level, c.exhausted), (t.ctl .p).flags))
    = some (some (3, true), 0x0210#16) := by decide +kernel

theorem test_elapsed_stops : leaves .elapsedTimeSecond (withCallout { called .held [] with elapsed := 65535 })
    (fun t => (t.callout? 0).map Callout.elapsed) = some (some 65535) := by decide +kernel

/-! ## Crew assessment (section 5.6) -/

def firstFour : List Response := [answer 11 0 5 1, answer 30 1 4 2, answer 6 1 7 3, answer 43 2 4 4]

/-- All seven members of section 5.6: four slots, two spare seats and one over. -/
def allSeven : List Response := firstFour ++ [answer 18 2 4 5, answer 49 2 5 6, answer 62 2 6 7]

/-- The seating at 2:20. -/
theorem test_seating_220 : (called .counting firstFour).assessment.candidates.map (fun x => (x.member, x.assignment))
    = [(30, .seated .a (.role .drv)), (43, .seated .a (.role .oic)), (11, .seated .a .spare), (6, .seated .a (.role .ba))]
    ∧ (called .counting firstFour).assessment.outcome = .short := by decide +kernel

/-- The seating at 4:30: member 7, now at estimate 15, is SURPLUS, and the crewed time is 7. -/
theorem test_seating_430 :
    let c := called .counting [answer 11 0 5 1, answer 30 1 4 2, answer 6 3 15 3, answer 43 2 4 4, answer 18 2 11 5,
      answer 49 3 7 6, answer 62 4 6 7]
    c.assessment.surplus = [6] ∧ c.assessment.entries.map AppliancePart.crewedAt = [some 7]
      ∧ c.assessment.outcome = .crewed := by decide +kernel

/-! ## Responses -/

/-- Member 50's answer at 3:05 fills the crew, and the callout enters CREWED (section 5.6). -/
theorem test_return_frame : leaves (.returnFrame 0 (returnFrameBits 50#21 3711#12 0#3 4#6) false)
    (withCallout { called .counting (firstFour ++ [answer 18 2 11 5]) with elapsed := 185 })
    (fun t => (t.callout? 0).map fun c => (c.state, (c.responses.map Response.estimate).getLast?))
    = some (some (.crewed, some (some 7))) := by decide +kernel

theorem test_duty_report : leaves (.returnFrame 0 (returnFrameBits 50#21 0#12 2#3 0#6) false) ready
    (fun t => (t.member? 49).map Member.availability) = some (some .offDuty) := by decide +kernel

/-- The member, the callout, TAKEN 0, ATTENDING 1, sequence 1, estimate 0 + 5 (R80). -/
theorem test_relay : replies (.relayResponse .p [num 12, num 42, num 0, num 5]) .p (atState .counting)
    = some (none, [num 12, num 42, num 0, num 1, num 1, num 5]) := by decide +kernel

/-- Booked on at 5:20: ARRIVED 2, with estimate 5 and the sequence number kept (section 5.6). -/
theorem test_book_on : replies (.bookOn .console [num 44, num 42]) .console
    (withCallout { called .counting firstFour with elapsed := 320 })
    = some (none, [num 44, num 42, num 0, num 2, num 4, num 5]) := by decide +kernel

/-! ## Transmitter sites (section 8.12) -/

def batchP : Batch := batchOf .alert 60#8 (List.replicate 3 (pageOf (.group 2) 18)) [3]
def batchQ : Batch := batchOf .release 61#8 [pageOf (.member 6) 0] [3, 2, 1, 0]

/-- A forced keying after the clear wait debits the airtime of 610 ms. -/
theorem test_clear_wait_expiry : leaves (.clearWaitExpiry 3) (sending (.clearWait 3 0) [batchP])
    (fun t => (t.sites.sequencer, (t.sites.records.get 3).credit)) = some (.leadIn 3 true 150, 1451) := by decide +kernel

theorem test_channel_clear : leaves (.channelClearAsserted 3) (sending (.clearWait 3 900) [batchP])
    (fun t => (t.sites.sequencer, t.pins.channelClear.get 3)) = some (.leadIn 3 false 150, true) := by decide +kernel

/-- The burst of batch P lasts 460 ms. -/
theorem test_lead_in_end : leaves (.leadInEnd 3) (sending (.leadIn 3 false 0) [batchP]) (fun t => t.sites.sequencer)
    = some (.burst 3 false 460) := by decide +kernel

/-- The pass that ends batch P goes over into a joined pass of batch Q: 80 ms are debited. -/
theorem test_join : leaves (.burstEnd 3) (sending (.burst 3 false 0) [batchP, batchQ])
    (fun t => (t.sites.sequencer, (t.sites.records.get 3).credit, t.pages.queue.length))
    = some (.burst 3 false 80, 1981, 1) := by decide +kernel

theorem test_credit_at_ceiling : leaves (.creditAccrual 0)
    { ready with sites := { ready.sites with records := ready.sites.records.set 0 (siteOf 10 36000) } }
    (fun t => (t.sites.records.get 0).credit) = some 36000 := by decide +kernel

/-- A ceiling cut below the credit takes the credit with it (R159). -/
theorem test_edit_site : replies (.editSite .console [num 0, .absent, .absent, .absent, .absent, num 4000]) .console ready
    = some (none, [num 0, num 1, num 0, num 150, num 20, num 4000, num 10, num 4000, num 0, num 0, num 0]) := by
  decide +kernel

/-! ## Siren and supply -/

def wailing : State := { ready with station := { ready.station with
  run := some { pattern := 1, pending := none, cycles := 1, phase := .on, time := 0, onTime := 4, period := 10 } } }

theorem test_siren : replies (.siren .s [num 2, num 99]) .s ready = some (none, [num 0, num 2, .absent, num 15]) := by
  decide +kernel

theorem test_siren_stop : replies (.sirenStop .p []) .p wailing = some (none, [num 1]) := by decide +kernel

theorem test_on_time_end : leaves .sirenOnTimeEnd wailing (fun t => (t.station.run.map SirenRun.phase, t.sirenRelay))
    = some (some .off, false) := by decide +kernel

theorem test_last_period : leaves .sirenPeriodBoundary wailing (fun t => t.station.run) = some none := by decide +kernel

def onBattery (st : SupplyState) : State := { ready with
  pins := { ready.pins with mainsPresent := false }, supply := { ready.supply with state := st } }

/-- RESERVE is left only at 0.30 V above the level, and a sample below 10.50 V brings cutoff (R170, R171). -/
theorem test_sample : leaves (.batterySample 1189) (onBattery .reserve) (fun t => t.supply.state) = some .reserve
    ∧ leaves (.batterySample 1190) (onBattery .reserve) (fun t => t.supply.state) = some .battery
    ∧ leaves (.batterySample 1049) (onBattery .battery) Part.condition = some (.cutoff .cutoff) := by decide +kernel

theorem test_mains_falls : leaves .mainsPresentFalls ready (fun t => (t.supply.state, (t.ctl .s).flags))
    = some (.battery, 0x0280#16) := by decide +kernel

theorem test_mains_rises : leaves .mainsPresentRises (onBattery .reserve) (fun t => t.supply.state) = some .mains := by
  decide +kernel

/-! ## Configuration, store and starts -/

/-- The answers to an edit of the general settings, and the default pattern's on-time held below its period (R193). -/
theorem test_edit_unit : replies (.editUnitGeneral .console [.text [0x4B#8, 0x52#8, 0x30#8, 0x37#8], num 30]) .console ready
    = some (none, [.text [0x4B#8, 0x52#8, 0x30#8, 0x37#8], num 30, num 1, num 116, num 30, num 30])
    ∧ replies (.editUnitPattern .console [num 1, .absent, num 10]) .console ready = some (some .badOperand, []) := by
  decide +kernel

theorem test_save : replies (.save .console [num 2]) .console ready = some (none, [num 2, num 1]) := by decide +kernel

def saving : State := { ready with
  store := { ready.store with busy := some (ready.snapshot .plans), states := { ready.store.states with plans := .writing } } }

theorem test_write_end : leaves (.saveWriteEnd false) saving (fun t => (t.store.states.plans, t.store.stored.plans.isSome))
    = some (.valid, true)
    ∧ leaves (.saveWriteEnd true) saving (fun t => (t.store.states.plans, t.store.error)) = some (.failed, true) := by
  decide +kernel

theorem test_query_store : replies (.queryStore .console []) .console saving
    = some (none, [num 1, num 2, num 1, num 0, num 1, num 1, num 2, num 1]) := by decide +kernel

theorem test_clear_error : replies (.clearStoreError .console []) .console ready = some (none, [num 0]) := by decide +kernel

theorem test_restart : replies (.restart .console []) .console ready = some (none, [num 3]) := by decide +kernel

theorem test_warm_restart : leaves .warmRestart (atState .counting)
    (fun t => ((t.callout? 0).map Callout.state, t.cause, t.station.lamps.get 0)) = some (some .counting, .warm, .called) := by
  decide +kernel

/-- Members and plans that were never saved are gone after a cold start (R192). -/
theorem test_cold_start : leaves (.coldStart .power 1300) ready
    (fun t => ((t.member? 6).isSome, (t.plan? 6).isSome, t.store.states.roster)) = some (false, false, .defaulted) := by
  decide +kernel

/-- A stored copy of another length than its contents fails its check (R192). -/
theorem test_copy_of_wrong_length (x : UnitSection) (check : BitVec 16) :
    ({ StoredCopies.blank with
        unit := some { contents := x, length := (Config.sectionBytes (.unit x)).length + 1, check := check } } :
      StoredCopies).readUnit = none := by
  simp [StoredCopies.readUnit, readCopy, StoredCopy.passes]

theorem test_stops : leaves .resetInputHeld ready Part.condition = some .resetHeld
    ∧ leaves .powerLoss ready Part.condition = some .off := by decide +kernel

/-! ## Plans and the roster -/

theorem test_edit_plan_entry : replies (.editPlanEntry .console (num 7) [num 1, letterA, num 1, num 1, num 4, num 1]) .console
    ready = some (some .badOperand, []) := by decide +kernel

theorem test_edit_plan_remove : replies (.editPlanRemoveEntry .console (num 7) [num 1]) .console ready
    = some (some .wrongState, []) := by decide +kernel

theorem test_edit_plan_delete : leaves (.editPlanDelete .console (num 7) []) ready (fun t => (t.plan? 6).isSome)
    = some false := by decide +kernel

theorem test_edit_plan_settings : leaves (.editPlanSettings .console (num 7) [num 900, num 30, num 0]) ready
    (fun t => (t.plan? 6).map fun x => (x.window, x.turnout, x.sirenPolicy, x.sirenPattern))
    = some (some (900, 30, .none, 1)) := by decide +kernel

theorem test_edit_plan_groups : leaves (.editPlanGroups .console (num 7) [.absent, .set 0x0001#16]) ready
    (fun t => (t.plan? 6).map fun x => (x.primary, x.secondary)) = some (some (0x000C#16, 0x0001#16)) := by decide +kernel

/-- An UNDEFINED plan is reported and not refused (R39). -/
theorem test_edit_plan_report : replies (.editPlanReport .console (num 48) []) .console ready
    = some (none, [num 48, num 0]) := by decide +kernel

theorem test_edit_class : replies (.editClass .console [num 63, num 2, num 8]) .console ready
    = some (none, [num 63, num 2, num 8]) := by decide +kernel

theorem test_edit_zone : replies (.editZone .console [num 3, .absent, num 7]) .console ready
    = some (none, [num 3, .absent, num 7, num 7]) := by decide +kernel

/-- Four slots are needed by plan 7 on appliance A, so three seats are too few (R43). -/
theorem test_edit_appliance : replies (.editAppliance .console [letterA, num 3]) .console ready
    = some (some .badOperand, []) := by decide +kernel

theorem test_set_availability : replies (.setAvailability .p [num 7, num 2]) .p ready = some (some .notPermitted, [])
    ∧ replies (.setAvailability .p [num 7, num 1]) .p ready = some (none, [num 7, num 1, num 0]) := by decide +kernel

theorem test_edit_member : replies (.editMember .console [num 128, .absent, .absent, num 7]) .console ready
    = some (some .duplicate, []) := by decide +kernel

theorem test_edit_group : replies (.editGroup .console [num 2, .absent, num 0]) .console ready
    = some (none, [num 2, num 102, num 0, num 7, num 7]) := by decide +kernel

/-! ## Queries and notices -/

theorem test_query_callout : replies (.queryCallout .p [num 43]) .p (atState .held) = some (some .notFound, []) := by
  decide +kernel

theorem test_query_crew : replies (.queryCrew .p [num 42, num 44]) .p (atState .held) = some (some .notFound, []) := by
  decide +kernel

theorem test_query_member : replies (.queryMember .p [num 1]) .p ready = some (some .notFound, []) := by decide +kernel

theorem test_query_unit : ((replies (.queryUnit .s []) .s ready).map fun x => x.2.take 8)
    = some [num 0, num 0, num 1240, num 116, num 0, num 0, num 1, .text [0x30#8, 0x30#8, 0x30#8, 0x30#8]] := by
  decide +kernel

theorem test_read_notices : replies (.readNotices .p []) .p ready = some (none, [.set 0x0200#16, .set 0x03FF#16, num 1]) := by
  decide +kernel

theorem test_ack_notice : replies (.ackNotice .p [.set 0x0200#16]) .p ready = some (none, [.set 0#16]) := by decide +kernel

theorem test_set_mask : replies (.setMask .p [.set 0x0400#16]) .p ready = some (some .badOperand, []) := by decide +kernel

theorem test_keep : replies (.keep .p []) .p ready = some (none, [])
    ∧ replies (.keep .console []) .console ready = some (some .notPermitted, []) := by decide +kernel

/-- An order on a line that is REPLYING breaks its reply off, and the frame being sent goes on (R180). -/
theorem test_keep_breaks_reply : leaves (.keep .p []) (onLine .p (replying [num 1]))
    (fun t => ((t.ctl .p).tail.isSome, (t.ctl .p).reply.map Reply.results, t.lines.breaks)) = some (true, some [], 1) := by
  decide +kernel

/-! ## The clock -/

theorem test_tick : (match step wailing with
    | .next t => t.station.run.map SirenRun.time
    | _ => none) = some 1 := by decide +kernel

/-- The warm restart waits for the frame of the broken-off reply, and falls due with its end (R180, R196). -/
theorem test_tick_ends_frame : (match step { onLine .console { LineController.cold with
        tail := some { frame := [0xC3#8], left := 1 } } with restart := .ending } with
    | .next t => some (t.restart, (t.ctl .console).tail)
    | _ => none) = some (.due, none) := by decide +kernel

/-! ## Witnesses: concrete states and operands that meet the hypotheses of the statements -/

theorem slot_mem : ∀ i : SlotId, i ∈ slotIds := by decide

theorem slot_all (p : Part) (q : Callout → Prop) [DecidablePred q]
    (h : slotIds.all (fun i => (p.callout? i).all fun c => decide (q c)) = true) :
    ∀ i c, p.callout? i = some c → q c := by
  intro i c hc
  have hi := slot_mem i
  have := List.all_eq_true.mp h i hi
  rw [hc] at this
  simpa using this

theorem slot_pairs (p : Part) (q : Callout → Callout → Prop) [∀ c d, Decidable (q c d)]
    (h : slotIds.all (fun i => slotIds.all fun j => i == j ||
      (p.callout? i).all fun c => (p.callout? j).all fun d => decide (q c d)) = true) :
    ∀ i j c d, p.callout? i = some c → p.callout? j = some d → i ≠ j → q c d := by
  intro i j c d hc hd hij
  have hi := slot_mem i
  have hj := slot_mem j
  have := List.all_eq_true.mp (List.all_eq_true.mp h i hi) j hj
  rw [hc, hd] at this
  simpa [hij] using this

theorem free_order_right (p : Part) (h : p.table.freeOrder.Nodup
    ∧ ∀ i : SlotId, p.table.freeOrder.contains i = (p.callout? i).isNone) : p.FreeOrderRight := by
  refine ⟨h.1, fun i => ?_⟩
  have hi := h.2 i
  rw [← List.contains_iff_mem, hi]
  unfold Part.callout? Slot.callout?
  cases p.slot i <;> simp

theorem lamps_right (p : Part) (h : (applianceIds.all fun ap => p.station.lamps.get ap.index == p.lampFor ap) = true) :
    p.LampsRight := by
  refine p.lampsRight_iff.2 fun ap => ?_
  have : ap ∈ applianceIds := by cases ap <;> decide
  simpa using List.all_eq_true.mp h ap this

theorem lines_all (q : Line → Prop) (h : q .p ∧ q .s ∧ q .console) : ∀ l, q l := by
  intro l; cases l
  · exact h.1
  · exact h.2.1
  · exact h.2.2

theorem one_callout (p : Part) (h : slotIds.all (fun j => j == 0 || (p.callout? j).isNone) = true) (q : SlotId → Callout → Prop) :
    ∀ j d, j ≠ 0 → p.callout? j = some d → q j d := by
  intro j d hj hd
  have := List.all_eq_true.mp h j (slot_mem j)
  rw [hd] at this
  simp [hj] at this

theorem one_number (p : Part) (h : slotIds.all (fun j => j == 0 || (p.callout? j).isNone) = true)
    (h0 : (p.callout? 0).all (fun c => c.number != 0#8 && c.token != 0#12) = true) : p.NumbersDistinct := by
  refine ⟨fun i c hc => ?_, fun i j c d hc hd hij => ?_⟩
  · by_cases hi : i = 0
    · subst hi
      rw [hc] at h0
      simpa using h0
    · exact one_callout p h (fun _ _ => _) i c hi hc
  · by_cases hi : i = 0
    · exact one_callout p h (fun _ _ => _) j d (fun e => hij (hi.trans e.symm)) hd
    · exact one_callout p h (fun _ _ => _) i c hi hc

/-- Three callouts, in slots 1, 2 and 3. -/
def threeCalls : State :=
  let s := atState .counting
  { s with table := { s.table with
      slots := (s.table.slots.set 1 (.live { bare .inOpen [] with number := 1#8, token := 1#12, reference := [0x42#8],
                                                                  appliances := (bare .inOpen []).appliances.map
                                                                    fun e => { e with letter := .b } })).set 2
        (.live { bare .held [] with number := 255#8, token := 4095#12, reference := [0x43#8], prior := some .inOpen,
                                    appliances := (bare .held []).appliances.map fun e => { e with letter := .c } })
      freeOrder := [7, 6, 5, 4, 3] } }

/-- The same part after the callout's slot has been freed. -/
def freed : State := { ready with table := { ready.table with
  slots := ready.table.slots.set 0 (.free (some ((called .mobile []).summarise 2))) } }

/-- A part with a COUNTING callout that four members have answered. -/
def answering : State := withCallout (called .counting firstFour)

theorem witness_StoppedPartTakesNothing : (stoppedPart .resetHeld).condition ≠ .running
    ∧ (stoppedPart (.cutoff .cutoff)).condition ≠ .running ∧ (stoppedPart (.cutoff .cutoff)).pending = []
    ∧ (stoppedPart .off).condition = .off ∧ Instr.reachesStopped .elapsedTimeSecond = false := by decide +kernel

/-- A second of a part cut off ends: its sample falls due (R171). -/
theorem test_cutoff_sample : (match step { stoppedPart (.cutoff .power) with
      supply := { State.reset.supply with sampleTimer := 1 } } with
    | .next t => some (t.pending, t.supply.sampleTimer)
    | _ => none) = some ([.batterySample State.reset.pins.batterySense], 1000) := by decide +kernel

def ticking : State :=
  let s := onLine .s { LineController.cold with
    state := .opened, gap := some 1, tail := some { frame := [], left := 2 } }
  { s with
    restart := .ending
    lines := { s.lines with superP := { up := true, timer := some 1 }, superS := { up := true, timer := some 1 } }
    table := { s.table with slots := (s.table.slots.set 0 (.live { bare .inOpen [] with
      accumulation := { remaining := 1, mark := .running } })).set 7 (.live { bare .counting [] with
      responseWindow := { remaining := 1, mark := .running }, elapsedMs := 999 }) }
    sites := { s.sites with sequencer := .clearWait 3 1 }
    pins := { s.pins with channelClear := s.pins.channelClear.set 3 true }
    station := { s.station with
      run := some { pattern := 1, pending := none, cycles := 1, phase := .on, time := 3999, onTime := 4, period := 10 } }
    supply := { s.supply with sampleTimer := 1 } }

theorem witness_ClockTick : ticking.pending = [] ∧ ticking.condition = .running ∧ ticking.restart ≠ .due
    ∧ ticking.restart = .ending ∧ ticking.lines.console.tail = none
    ∧ (ticking.ctl .s).gap = some 1 ∧ ticking.lines.superP.timer = some 1 ∧ ticking.lines.superS.timer = some 1
    ∧ (ticking.callout? 0).map Callout.accumulation = some { remaining := 1, mark := .running }
    ∧ (ticking.callout? 7).map Callout.responseWindow = some { remaining := 1, mark := .running }
    ∧ (match step ticking with | .next t => t.pending.length | _ => 0) = 9 := by decide +kernel

theorem witness_ElapsedSecondAndCreditAccrual : (atState .held).condition = .running := by decide +kernel

theorem witness_OpeningTaken : ready.condition = .running
    ∧ openingOf ((ready.ctl .p).received ++ opening17) = some (ready.settings.stationCode, 17#8)
    ∧ ((onLine .p (replying [])).ctl .p).state = .replying
    ∧ openingOf (((onLine .p (replying [])).ctl .p).received ++ opening17) = some (ready.settings.stationCode, 17#8)
    ∧ openingOf (((onLine .s { LineController.cold with received := [0xC3#8] }).ctl .s).received
        ++ (linkFrame 1#8 [0#8, 0#8, 0#8, 0#8, 255#8]).drop 1) = some ([0#8, 0#8, 0#8, 0#8], 255#8) := by decide +kernel

theorem witness_FramesTaken : ready.condition = .running ∧ (ready.ctl .p).received = []
    ∧ orderOf (linkFrame 2#8 [1#8, 0#8]) = some (1#8, 0) ∧ orderOf (linkFrame 2#8 [1#8, 1#8]) = some (1#8, 1)
    ∧ orderOf (linkFrame 2#8 [1#8, 8#8]) = some (1#8, 8) ∧ orderOf (linkFrame 2#8 [1#8, 9#8]) = some (1#8, 9)
    ∧ operandOf (linkFrame 3#8 (operandBytes (num 7))) = some (num 7)
    ∧ openingOf [] = none ∧ orderOf [] = none ∧ operandOf [] = none
    ∧ ((onLine .p (collecting 2 [.absent])).ctl .p).operands.length + 1 = 2
    ∧ ((onLine .p (collecting 3 [.absent])).ctl .p).operands.length + 1 < 3 := by decide +kernel

theorem witness_FrameCompletesOrder : (Instr.keep .p []).wellFormed = true
    ∧ (Instr.keep .p []).exchange? = some (.p, 17#8, [])
    ∧ ((onLine .p { LineController.cold with state := .opened, gap := some 1 }).ctl .p).state = .opened
    ∧ ((onLine .p { LineController.cold with state := .opened, gap := some 1 }).ctl .p).received = []
    ∧ orderOf (linkFrame 2#8 [17#8, 0#8]) = some (17#8, 0)
    ∧ (Instr.alert .p alert12).exchange? = some (.p, 1#8, alert12)
    ∧ ((onLine .p (collecting 6 (alert12.take 5))).ctl .p).operands ++ [.absent] = alert12
    ∧ ((onLine .p (collecting 6 (alert12.take 5))).ctl .p).declared = alert12.length
    ∧ ((onLine .p (collecting 6 (alert12.take 5))).ctl .p).code = 1#8
    ∧ ((onLine .p (collecting 6 (alert12.take 5))).ctl .p).received = []
    ∧ operandOf (linkFrame 3#8 [3#8]) = some .absent := by decide +kernel

theorem witness_ReplyEndsAndSupervision : (onLine .p (replying [])).condition = .running
    ∧ ((onLine .p (replying [])).ctl ControlLine.p.line).state = .replying
    ∧ 0 < (onLine .p (replying [])).settings.period .p
    ∧ ((onLine .console (replying [])).ctl .console).state = .replying ∧ (ready.ctl .s).state ≠ .replying
    ∧ (ticking.lines.super .s).up = true ∧ (ticking.lines.super .s).timer ≠ some 0
    ∧ ({ ready.lines with superP := { up := true, timer := some 0 } }.super .p) = { up := true, timer := some 0 }
    ∧ (ready.lines.super .p).up = false ∧ Line.s ≠ .console ∧ ([.absent] : List Operand) ≠ [] := by
  decide +kernel

/-- A console that sends a reply while the frame of a broken-off RESTART reply is still on its way (log entries 21, 29). -/
def lateRestart : State :=
  { onLine .console { replying [num 3] with tail := some { frame := [0xC3#8], left := 2 } } with restart := .ending }

theorem witness_ReplyEndsAndSupervision_restart : lateRestart.condition = .running
    ∧ (lateRestart.ctl .console).state = .replying ∧ lateRestart.restart = .ending
    ∧ (lateRestart.ctl .console).tail ≠ none
    ∧ leaves (.endWithReply .console) lateRestart (fun t => (t.restart, (t.ctl .console).tail)) = some (.due, none) := by
  decide +kernel

theorem witness_RefusedOrderChangesNothing : ready.condition = .running
    ∧ (Instr.commit .p []).exchange? = some (.p, 3#8, [])
    ∧ replies (.commit .p []) .p ready = some (some .badOperand, []) := by decide +kernel

theorem witness_UnknownAndBarredOrders : (Instr.depart .p []).barred = true ∧ (Instr.keep .console []).barred = true
    ∧ (Instr.depart .p []).exchange? = some (.p, 20#8, [])
    ∧ orderOf (linkFrame 2#8 [0#8, 1#8]) = some (0#8, 1) ∧ orderOf (linkFrame 2#8 [255#8, 8#8]) = some (255#8, 8)
    ∧ ((onLine .p { LineController.cold with state := .opened, gap := some 1 }).ctl .p).state = .opened
    ∧ ((onLine .p { LineController.cold with state := .opened, gap := some 1 }).ctl .p).received = [] := by
  decide +kernel

theorem witness_NoticeFlagsStay : ∃ t, exec (.keep .p []) ready = .next t ∧ t.condition = .running :=
  ⟨_, rfl, by decide +kernel⟩

theorem witness_NoticeOrders : ready.condition = .running ∧ ([] : List Operand) ≠ [.set 0#16]
    ∧ 0x03FF#16 &&& 0xFC00#16 = 0#16 ∧ 0x0400#16 &&& 0xFC00#16 ≠ 0#16 := by decide +kernel

theorem witness_NoticeOrders_refused : ∀ b : Set16, b &&& 0xFC00#16 = 0#16 → ([.set 0x0400#16] : List Operand) ≠ [.set b] := by
  intro b h e
  simp only [List.cons.injEq, Operand.set.injEq, and_true] at e
  subst e
  exact absurd h (by decide)

theorem witness_QueryUnit : (atState .mobile).condition = .running ∧ ([.absent] : List Operand) ≠ [] := by decide +kernel

theorem witness_QueryCallout : ¬ NumberOrAbsent (.set 0#16) ∧ (atState .counting).condition = .running ∧ Spells [.absent] []
    ∧ Spells [.absent] [.absent] ∧ (1#32).toInt = 1 ∧ (255#32).toInt = 255 ∧ (0#32).toInt < 1 ∧ 255 < (256#32).toInt
    ∧ ((atState .counting).callout? 0).map (fun c => (c.number.toNat : Int)) = some (42#32).toInt
    ∧ freed.slot 0 = .free (some ((called .mobile []).summarise 2))
    ∧ (((called .mobile []).summarise 2).number.toNat : Int) = (42#32).toInt
    ∧ 1 < [Operand.absent, .absent].length :=
  ⟨id, by unfold Spells; decide +kernel⟩

theorem witness_QueryCrewAndMember : answering.condition = .running ∧ (42#8 : CalloutNo) ≠ 0#8
    ∧ answering.lookup 42 = some (0, called .counting firstFour) ∧ answering.lookup 255 = none
    ∧ Spells [num 42, .absent, .absent] [num 42] ∧ Spells [num 42, num 44, .absent] [num 42, num 44]
    ∧ ((called .counting firstFour).responses.find? fun r => r.member == 43).isSome = true
    ∧ ((called .counting firstFour).responses.find? fun r => r.member == 127) = none
    ∧ (called .counting firstFour).responses[3]?.isSome = true ∧ (called .counting firstFour).responses[31]? = none
    ∧ (128#32).toInt = 128 ∧ 128 < (129#32).toInt ∧ 32 < (33#32).toInt ∧ (num 1 : Operand) ≠ .absent
    ∧ answering.member? 127 = none ∧ answering.member? 6 = some (hand 7#21 false false true) := by
  unfold Spells; decide +kernel

theorem witness_SirenOrders : ready.condition = .running ∧ (num 4 = num ((3 : PatternId).val + 1))
    ∧ ([.absent] : List Operand) ≠ [] := by decide +kernel

/-- A pattern absent, 0 or 5, of another kind, cycles of another kind or 0, and a third operand. -/
theorem witness_SirenOrders_refused : ¬ NumberIn (operandAt [] 0) 1 4 ∧ ¬ NumberIn (operandAt [num 0] 0) 1 4
    ∧ ¬ NumberIn (operandAt [num 5] 0) 1 4 ∧ ¬ NumberIn (operandAt [.set 1#16] 0) 1 4
    ∧ ¬ NumberOrAbsent (operandAt [num 1, .set 1#16] 1) ∧ (∃ x, operandAt [num 1, num 0] 1 = .number x ∧ x.toInt < 1)
    ∧ 2 < [num 1, num 1, .absent].length := by
  simp [operandAt, num, NumberOrAbsent]

theorem witness_SirenRunEvents : ∃ r, wailing.condition = .running ∧ wailing.station.run = some r ∧ r.phase = .on :=
  ⟨_, by decide +kernel, rfl, by decide +kernel⟩

theorem witness_SupplyStates : ready.condition = .running ∧ 1050 ≤ ready.supply.lastSample.val
    ∧ (onBattery .battery).condition = .running ∧ (onBattery .reserve).supply.state = .reserve
    ∧ 1050 ≤ (1050 : Level).val := by decide +kernel

/-- A part on battery that waits for a clear channel at site 3, which is station-powered or not. -/
def onMast (powered : Bool) (queue : List Batch) : State :=
  let s := sending (.clearWait 3 900) queue
  { s with
    pins := { s.pins with mainsPresent := false }, supply := { s.supply with state := .battery, lastSample := 1159 }
    sites := { s.sites with records := s.sites.records.set 3 { siteOf 10 2061 with stationPowered := powered } } }

def batchR : Batch := batchOf .supplement 42#8 [pageOf (.group 2) 0] [3]

theorem witness_SupplyStates_reserve : (onMast true [batchQ]).condition = .running ∧ (onMast true [batchQ]).Quiet
    ∧ (onMast true [batchQ]).supply.state = .battery ∧ 1050 ≤ (1159 : Level).val
    ∧ (1159 : Level).val < (onMast true [batchQ]).supply.reserveLevel * 10
    ∧ (onMast true [batchQ]).sites.sequencer = .clearWait 3 900
    ∧ ((onMast true [batchQ]).sites.records.get 3).stationPowered = true
    ∧ (onMast true [batchQ]).pages.queue = [batchQ] ∧ batchQ.withdrawing = false ∧ (∃ e ∈ batchQ.remaining, e.site = 3)
    ∧ (batchQ.settledAt 3 .skippedReserve).remaining.map SiteEntry.site = [2, 1, 0]
    ∧ leaves (.batterySample 1159) (onMast true [batchQ])
        (fun t => (t.sites.sequencer, t.inhibited 2, t.pages.queue)) =
      some (.clearWait 2 ((State.reset.sites.records.get 2).clearWait * 100), false,
        [batchQ.settledAt 3 .skippedReserve]) := by
  unfold Part.Quiet; decide +kernel

theorem witness_SupplyStates_last : (onMast true [batchR]).Quiet ∧ batchR.withdrawing = false
    ∧ (∃ e ∈ batchR.remaining, e.site = 3) ∧ (batchR.settledAt 3 .skippedReserve).remaining = []
    ∧ (onMast true [batchR]).findOwner batchR.owner = some 0
    ∧ (onMast true [batchR]).callout? 0 = some (called .alerting []) ∧ (called .alerting []).state ≠ .closing
    ∧ batchR.kind ≠ .alert ∧ (onMast true [batchR]).pages.demands = [] := by
  unfold Part.Quiet; decide +kernel

theorem witness_SupplyStates_others : (onMast false [batchQ]).Quiet
    ∧ (∀ k left, (onMast false [batchQ]).sites.sequencer = .clearWait k left →
        ((onMast false [batchQ]).sites.records.get k).stationPowered = false)
    ∧ (({ onMast false [batchQ] with supply := { State.reset.supply with lastSample := 1159 } } : State).supply.state = .mains
        ∧ 1050 ≤ (1159 : Level).val) := by
  refine ⟨by unfold Part.Quiet; decide +kernel, fun k left h => ?_, by decide +kernel⟩
  have e : (onMast false [batchQ]).sites.sequencer = .clearWait 3 900 := rfl
  rw [e] at h
  injection h with h
  subst h
  decide +kernel

theorem witness_CutoffAndRecovery : (onBattery .battery).condition = .running
    ∧ (onBattery .battery).supply.state ≠ .mains ∧ (1049 : Level).val < 1050
    ∧ ({ ready with supply := { ready.supply with lastSample := 1049 } } : State).supply.state = .mains
    ∧ ready.condition ≠ .off ∧ (stoppedPart (.cutoff .power)).condition = .cutoff .power
    ∧ (1099 : Level).val < 1100 ∧ ¬ (1100 : Level).val < 1100 := by decide +kernel

/-- Two parts alike in all that a cutoff leaves, with one callout and with none: after it they are the same. -/
theorem witness_CutoffAndRecovery_forgets :
    let s : State := { atState .crewed with pins := (onBattery .battery).pins, supply := (onBattery .battery).supply }
    let u := onBattery .battery
    s.toPart ≠ u.toPart ∧ u.condition = s.condition ∧ u.cause = s.cause ∧ u.pins = s.pins
      ∧ u.store.stored = s.store.stored ∧ u.supply.state = s.supply.state ∧ u.supply.lastSample = s.supply.lastSample
      ∧ u.lines.breaks = s.lines.breaks := by decide +kernel

/-- A copy as the end of a write leaves it passes its check. -/
theorem copy_passes (u : UnitSection) : ((StoredCopies.blank.put (.unit u)).readUnit) = some u := by
  simp [StoredCopies.readUnit, StoredCopies.put, readCopy, StoredCopy.passes, StoredCopy.write]

theorem ready_runs : ready.condition = .running := by decide +kernel

theorem witness_ColdStart : (¬ ∃ k, ready.condition = .cutoff k) ∧ (stoppedPart (.cutoff .power)).condition = .cutoff .power
    ∧ ready.store.stored.readUnit = none ∧ ready.store.stored.readRoster = none ∧ ready.store.stored.readPlans = none
    ∧ ready.store.stored.readStation = none ∧ (∃ c : StoredCopies, c.readUnit = some UnitSection.default)
    ∧ (stoppedPart (.cutoff .power)).pins.mainsPresent = true ∧ 1100 ≤ (1100 : Level).val ∧ ¬ 1100 ≤ (1099 : Level).val :=
  ⟨fun ⟨_, h⟩ => by simp [ready_runs] at h,
    rfl, rfl, rfl, rfl, rfl, ⟨_, copy_passes _⟩, by decide +kernel, by decide, by decide⟩

theorem witness_EditUnit : ready.condition = .running
    ∧ Spells [optionalText none, optionalNumber (some 30#32), optionalNumber (some 4#32), optionalNumber (some 126#32),
        optionalNumber (some 120#32), optionalNumber none] [.absent, num 30, num 4, num 126, num 120]
    ∧ (inRange (some 2#32) 2 30 && inRange (some 108#32) 108 126 && inRange (some 5#32) 5 120 && inRange none 1 4) = true
    ∧ inRange (some 31#32) 2 30 = false
    ∧ Spells [.number 4#32, optionalNumber (some 60#32), optionalNumber (some 59#32), optionalNumber (some 15#32)]
        [num 4, num 60, num 59, num 15]
    ∧ (ready.station.patterns.get 3).period ≤ 60 ∧ ¬ NumberOrAbsent (operandAt [.absent, .set 0#16] 1)
    ∧ (∀ t, operandAt [num 1] 0 ≠ optionalText t) ∧ 6 < (List.replicate 7 Operand.absent).length
    ∧ (∀ x, operandAt ([] : List Operand) 0 = .number x → x.toInt < 1 ∨ 4 < x.toInt) :=
  ⟨by decide +kernel, by unfold Spells; decide, by decide, by decide, by unfold Spells; decide, by decide +kernel,
    id, fun t => by cases t <;> exact Operand.noConfusion, by decide, fun _ h => nomatch h⟩

/-- A member WITHHELD is stored with the mark, and one OFF_DUTY without it (R194, section 3.1). -/
theorem test_snapshot_marks : leaves (.save .console [num 1])
    { ready with roster := { ready.roster with
        members := (ready.roster.members.set 0 (some { hand 1#21 false false true with availability := .withheld })).set 1
          (some { hand 2#21 false false true with availability := .offDuty }) } }
    (fun t => match t.store.busy with
      | some (.roster r) => [r.members.get 0, r.members.get 1].map fun x => x.map StoredMember.withheld
      | _ => []) = some [some true, some false] := by decide +kernel

theorem witness_Save : ready.condition = .running ∧ saving.store.busy ≠ none
    ∧ ({ ready with store := { ready.store with error := true } } : State).store.error = true := by decide +kernel

theorem witness_Save_refused : ¬ NumberIn (operandAt [] 0) 0 3 ∧ ¬ NumberIn (operandAt [num 4] 0) 0 3
    ∧ ¬ NumberIn (operandAt [.text []] 0) 0 3 ∧ 1 < [num 0, .absent].length := by
  simp [operandAt, num]

theorem witness_QueryStoreAndClear : saving.condition = .running ∧ (Line.p ≠ .console) := by decide +kernel

theorem witness_Restart : ready.condition = .running ∧ ready.restart = .none
    ∧ ({ onLine .console (replying [num 3]) with restart := .replying } : State).restart = .replying
    ∧ ({ ready with restart := .due } : State).restart = .due ∧ ready.pending = [] := by decide +kernel

/-- An ALERTING callout whose ALERT batch goes to groups 2 and 3. -/
def alerting : State := withCallout { called .alerting [] with alertGroups := 0x000C#16, alertStatus := .outstanding }

def alertAgain : Demand where
  kind := .alert
  owner := { number := 42#8, token := 3711#12 }
  content := .groups [2, 3]
  restrict := .all

theorem alone_numbers : alerting.NumbersDistinct :=
  ⟨slot_all alerting.toPart (fun c => c.number ≠ 0#8 ∧ c.token ≠ 0#12) (by decide +kernel),
    slot_pairs alerting.toPart
      (fun c d => c.number ≠ d.number ∧ c.token ≠ d.token ∧ c.reference ≠ d.reference) (by decide +kernel)⟩

theorem witness_WarmRestart :
    (∀ i c, (atState .counting).callout? i = some c → c.state ≠ .alerting ∧ c.state ≠ .closing)
    ∧ alerting.NumbersDistinct ∧ (atState .counting).condition = .running ∧ alerting.condition = .running ∧ alerting.demandsAgain = [alertAgain]
    ∧ alertAgain.content ≠ .groups [] ∧ alerting.siteList (Direction.flip^[1] alerting.sites.direction) = [0]
    ∧ alerting.turnCost 0 (alerting.formPages alertAgain) ≤ (alerting.sites.records.get 0).credit
    ∧ (alerting.sites.records.get 0).credit ≤ (alerting.sites.records.get 0).ceiling
    ∧ (alerting.callout? 0).map Callout.state = some .alerting :=
  ⟨slot_all (atState .counting).toPart (fun c => c.state ≠ .alerting ∧ c.state ≠ .closing) (by decide +kernel),
    alone_numbers, by decide +kernel⟩

/-! ### The invariants, at a state with three callouts -/

theorem witness_BoundsKept : threeCalls.CreditsWithin ∧ threeCalls.QueueWithin ∧ threeCalls.Quiet
    ∧ (sending (.clearWait 3 1) [batchP]).Quiet ∧ ∃ t, step threeCalls = .next t :=
  ⟨by unfold Part.CreditsWithin; decide +kernel, by unfold Part.QueueWithin; decide +kernel,
    by unfold Part.Quiet; decide +kernel, by unfold Part.Quiet; decide +kernel, _, rfl⟩

theorem witness_LinesAndNoticesKept : threeCalls.LinesSound ∧ threeCalls.NoticesWithin ∧ threeCalls.RestartSound
    ∧ ({ onLine .console (replying [num 3]) with restart := .replying } : State).RestartSound
    ∧ ∃ t, step threeCalls = .next t :=
  ⟨⟨lines_all (fun l => (threeCalls.ctl l).Sound) (by unfold LineController.Sound; decide +kernel), by
      unfold Supervision.Sound; decide +kernel, by unfold Supervision.Sound; decide +kernel⟩,
    lines_all (fun l => (threeCalls.ctl l).flags &&& ~~~allNotices = 0#16 ∧ (threeCalls.ctl l).mask &&& ~~~allNotices = 0#16)
      (by decide +kernel), by unfold Part.RestartSound; decide +kernel, by unfold Part.RestartSound; decide +kernel, _, rfl⟩

theorem witness_StationAndStoreKept : (onBattery .reserve).SirenSound
    ∧ ({ ready with store := { ready.store with error := true } } : State).StoreSound ∧ (atState .counting).LampsRight
    ∧ ∃ t, step (atState .counting) = .next t :=
  ⟨by unfold Part.SirenSound; decide +kernel, by unfold Part.StoreSound; decide +kernel,
    lamps_right _ (by decide +kernel), _, rfl⟩

/-- Each lamp there is: A's callout is crewed or not, or A has departed, and B is committed to none. -/
theorem witness_StationAndStoreKept_lamps : (atState .counting).NumbersDistinct
    ∧ (atState .counting).callout? 0 = some (called .counting []) ∧ ((atState .counting).appliance .a).committed = some 42#8
    ∧ ((atState .counting).appliance .b).committed = none ∧ (atState .counting).station.lamps.get 0 = .called
    ∧ (withCallout (called .crewed allSeven)).lampFor .a = .crewed
    ∧ (withCallout { called .mobile [] with appliances := [{ letter := .a, need := reqA, departed := true, crew := [] }] }).lampFor
        .a = .dark
    ∧ (atState .counting).lampDrives .a = (true, false) ∧ (atState .counting).attentionOutput = true
    ∧ (stoppedPart .off).condition ≠ .running :=
  ⟨one_number _ (by decide +kernel) (by decide +kernel), by decide +kernel⟩

theorem three_free : threeCalls.FreeOrderRight := free_order_right _ (by decide +kernel)

theorem three_numbers : threeCalls.NumbersDistinct :=
  ⟨slot_all threeCalls.toPart (fun c => c.number ≠ 0#8 ∧ c.token ≠ 0#12) (by decide +kernel),
    slot_pairs threeCalls.toPart
      (fun c d => c.number ≠ d.number ∧ c.token ≠ d.token ∧ c.reference ≠ d.reference) (by decide +kernel)⟩

theorem witness_CalloutTableKept : threeCalls.FreeOrderRight ∧ threeCalls.NumbersDistinct ∧ threeCalls.CalloutsSound
    ∧ ∃ t, step threeCalls = .next t :=
  ⟨three_free, three_numbers, slot_all threeCalls.toPart (fun c => (c.responses.map Response.member).Nodup
    ∧ c.responses.length ≤ Config.responsePlaces ∧ c.appliances ≠ [] ∧ (c.appliances.map ApplianceEntry.letter).Nodup)
    (by decide +kernel), _, rfl⟩

/-- Plan 7 in the working copy, and in the snapshot a SAVE is writing. -/
theorem witness_CalloutTableKept_plans : saving.PlansSound ∧ saving.plan? 6 = some plan7 ∧ saving.store.busy ≠ none := by
  refine ⟨?_, by decide +kernel, by decide +kernel⟩
  have h : ∀ n : PlanId, (ready.resolver.plans.get n).all (fun pl => decide (pl = plan7)) = true := by decide +kernel
  have sound : plan7.Sound := by unfold Plan.Sound; decide
  rintro plans (rfl | ⟨x, hx, rfl⟩ | ⟨x, hx, rfl⟩) n pl hn
  · have := h n
    rw [show saving.resolver.plans = ready.resolver.plans from rfl] at hn
    rw [hn] at this
    exact (of_decide_eq_true this) ▸ sound
  · exact absurd hx nofun
  · cases hx
    have := h n
    rw [show ready.resolver.plans.get n = some pl from hn] at this
    exact (of_decide_eq_true this) ▸ sound

theorem witness_CalloutTableKept_states : threeCalls.AppliancesWithin ∧ threeCalls.StatesRight
    ∧ (threeCalls.callout? 2).map (fun c => (c.state, c.prior)) = some (.held, some .inOpen) :=
  ⟨slot_all threeCalls.toPart (fun c => c.appliances.length ≤ 3 ∧ ∀ e ∈ c.appliances, e.need.sum ≠ 0) (by decide +kernel),
    slot_all threeCalls.toPart (fun c => (c.state = .held ↔ c.prior ≠ none)
      ∧ (∀ st ∈ c.prior, st = .inOpen ∨ st = .alerting ∨ st = .counting ∨ st = .crewed)
      ∧ (c.heldBack ≠ [] → c.state = .held) ∧ c.heldBack.length ≤ 8
      ∧ (c.state = .closing ↔ c.standDownGroups ≠ none)) (by decide +kernel), by decide +kernel⟩

/-- Member 49 attends callout 42, and appliance A is committed to it. -/
def attended : State :=
  { withCallout (called .counting [answer 49 0 5 1]) with
    roster := { ready.roster with
      members := ready.roster.members.set 49 (some { hand 50#21 false false true with engaged := some 42#8 }) } }

theorem attended_callout : attended.callout? 0 = some (called .counting [answer 49 0 5 1]) := by decide +kernel

theorem attended_engaged : attended.EngagementRight := by
  refine ⟨fun m x n hm hn => ?_, fun i c r hc hr hk => ?_⟩
  · have h : ∀ k : MemberId, (attended.member? k).all (fun y => y.engaged.all fun n =>
        decide (n = 42#8 ∧ k = 49 ∧ y.availability = .available)) = true := by decide +kernel
    have := h m
    rw [hm, Option.all_some, hn, Option.all_some] at this
    obtain ⟨rfl, rfl, ha⟩ := of_decide_eq_true this
    exact ⟨ha, 0, _, answer 49 0 5 1, attended_callout, rfl, List.mem_singleton.2 rfl, rfl, .inl rfl⟩
  · have h := slot_all attended.toPart (fun c => ∀ r ∈ c.responses,
      c.state ≠ .closing ∧ (attended.member? r.member).any (fun x => decide (x.engaged = some c.number)) = true)
      (by decide +kernel) i c hc r hr
    obtain ⟨x, hx, he⟩ := Option.any_eq_true _ _ |>.1 h.2
    exact ⟨h.1, x, hx, of_decide_eq_true he⟩

theorem attended_committed : attended.CommitmentRight := by
  refine ⟨fun ap n hn => ?_, slot_all attended.toPart (fun c => c.state ≠ .closing → ∀ e ∈ c.appliances,
    (attended.appliance e.letter).committed = some c.number) (by decide +kernel)⟩
  have h : ∀ ap ∈ applianceIds, ap = .a ∨ (attended.appliance ap).committed = none := by decide +kernel
  obtain rfl | h := h ap (by cases ap <;> decide)
  · cases (show some 42#8 = some n from hn)
    exact ⟨0, _, attended_callout, rfl, by decide, _, List.mem_singleton.2 rfl, rfl⟩
  · exact absurd (h.symm.trans hn) nofun

/-- The premises of the two lemmas that keep the lists in step, met together at one state. -/
theorem witness_CalloutTableKept_engaged : attended.FreeOrderRight ∧ attended.NumbersDistinct ∧ attended.CalloutsSound
    ∧ attended.StatesRight ∧ attended.EngagementRight ∧ attended.CommitmentRight ∧ ∃ t, step attended = .next t :=
  ⟨free_order_right _ (by decide +kernel), one_number _ (by decide +kernel) (by decide +kernel),
    slot_all attended.toPart (fun c => (c.responses.map Response.member).Nodup ∧ c.responses.length ≤ 32
      ∧ c.appliances ≠ [] ∧ (c.appliances.map ApplianceEntry.letter).Nodup) (by decide +kernel),
    slot_all attended.toPart (fun c => (c.state = .held ↔ c.prior ≠ none)
      ∧ (∀ st ∈ c.prior, st = .inOpen ∨ st = .alerting ∨ st = .counting ∨ st = .crewed)
      ∧ (c.heldBack ≠ [] → c.state = .held) ∧ c.heldBack.length ≤ 8
      ∧ (c.state = .closing ↔ c.standDownGroups ≠ none)) (by decide +kernel),
    attended_engaged, attended_committed, _, rfl⟩

theorem witness_CalloutHistory : threeCalls.FreeOrderRight ∧ ∃ t a b, step threeCalls = .next t
    ∧ threeCalls.callout? 0 = some a ∧ t.callout? 0 = some b ∧ a.elapsed ≤ 65535 :=
  ⟨three_free, _, _, _, rfl, rfl, rfl, by decide +kernel⟩

/-- What a step with this command in front leaves in slot 1: its state's number, or none for a FREE slot. -/
def stepped (c : Instr) (s : State) : Option (Option CalloutState × List Bool) :=
  match step { s with pending := [c] } with
  | .next t => some ((t.callout? 0).map Callout.state, [Line.p, .s, .console].map fun l => (t.ctl l).flags.getLsbD 0)
  | _ => none

/-- A state that changes, a callout made, and a slot that becomes FREE. -/
theorem witness_CalloutHistory_raised :
    stepped (.hold .p [num 42]) (atState .counting) = some (some .held, [true, true, true])
    ∧ stepped (.alert .p alert12) ready = some (some .inOpen, [true, true, true])
    ∧ stepped (.standDown .p [num 42]) (atState .counting) = some (none, [true, true, true])
    ∧ (∀ cause x, [Instr.standDown .p [num 42]].head? ≠ some (.coldStart cause x)) :=
  ⟨by decide +kernel, by decide +kernel, by decide +kernel, nofun⟩

theorem witness_ConfigurationStays : ∃ t, exec (.setAvailability .p [num 7, num 1]) ready = .next t
    ∧ ready.condition = .running ∧ t.condition = .running ∧ (Instr.setAvailability .p [num 7, num 1]).mayConfigure = false
    ∧ (∀ ops, Instr.setAvailability .p [num 7, num 1] ≠ .setAvailability .console ops) ∧ (ready.member? 6).isSome = true :=
  ⟨_, rfl, by decide +kernel, by decide +kernel, rfl, nofun, by decide +kernel⟩

/-! ### Sites and configuration -/

theorem witness_EditSite : ready.condition = .running
    ∧ Spells [.number 5#32, optionalNumber (some 1#32), optionalNumber none, optionalNumber none, optionalNumber none,
        optionalNumber none, optionalNumber none] [num 5, num 1]
    ∧ Spells [.number 3#32, optionalNumber none, optionalNumber none, optionalNumber (some 500#32),
        optionalNumber (some 100#32), optionalNumber (some 60000#32), optionalNumber (some 100#32)]
        [num 3, .absent, .absent, num 500, num 100, num 60000, num 100]
    ∧ (inRange (some 1#32) 0 1 && inRange (some 500#32) 50 500 && inRange (some 60000#32) 1000 60000
        && inRange (some 2#32) 2 100) = true
    ∧ (6#32).toInt = 6 ∧ (sending (.clearWait 3 1) [batchP]).sites.sequencer.site? = some 3
    ∧ 7 < (List.replicate 8 Operand.absent).length ∧ (∀ x, operandAt ([] : List Operand) 0 ≠ .number x)
    ∧ ¬ NumberOrAbsent (operandAt [num 0, .set 0#16] 1) :=
  ⟨by decide +kernel, by unfold Spells; decide, by unfold Spells; decide, by decide, by decide, by decide +kernel,
    by decide, fun _ => Operand.noConfusion, id⟩

/-- A part with work in its queue and a demand that waits. -/
def waiting : State :=
  let s := sending (.clearWait 3 900) [batchQ]
  { s with pages := { s.pages with demands := [alertAgain] } }

theorem witness_DemandsAdmitted : (atState .alerting).pages.demands = [] ∧ alertAgain.content = .groups [2, 3]
    ∧ (waiting.pages.demands = [alertAgain]) ∧ 0 + 1 + 2 ≤ 64
    ∧ (atState .alerting).findOwner alertAgain.owner = some 0
    ∧ (atState .alerting).callout? 0 = some (called .alerting [])
    ∧ ((atState .alerting).formPages alertAgain).length = 2 := by
  refine ⟨?_, ?_, ?_, ?_, ?_, ?_, ?_⟩ <;> decide +kernel

/-- A batch each of whose sites is settled. -/
def batchDone : Batch := { batchP with sites := [{ site := 3, condition := .settled .done }] }

theorem witness_TurnsTaken :
    ({ ready with pages := { ready.pages with reports := [.pass alertAgain.owner .done 0#16] } } : State).pages.reports
      = [.pass alertAgain.owner .done 0#16]
    ∧ (sending (.clearWait 3 1) [batchP]).pages.reports = [] ∧ (sending (.clearWait 3 1) [batchP]).sites.sequencer ≠ .idle
    ∧ (sending .idle [batchP]).pages.queue = [batchP] ∧ (sending .idle [batchP]).sites.sequencer = .idle
    ∧ batchP.withdrawing = false ∧ batchP.sites = [] ++ { site := 3, condition := .toServe } :: []
    ∧ (∀ e ∈ batchDone.sites, e.condition = .settled .done) ∧ 1 < batchQ.remaining.length := by
  decide +kernel

theorem witness_ClearWaitEnds : (sending (.clearWait 3 1) [batchP]).condition = .running
    ∧ (sending (.clearWait 3 1) [batchP]).sites.sequencer = .clearWait 3 1
    ∧ (sending (.clearWait 3 1) [batchP]).pages.queue = [batchP] ∧ ∀ left, ready.sites.sequencer ≠ .clearWait 0 left :=
  ⟨by decide +kernel, by decide +kernel, by decide +kernel, fun _ => nofun⟩

/-- A pass of a callout's only batch, on its last site. -/
def lastPass : State := sending (.burst 3 false 0) [batchOf .supplement 42#8 [pageOf (.group 2) 0] [3]]

theorem witness_PassEvents : lastPass.condition = .running ∧ lastPass.sites.sequencer = .burst 3 false 0
    ∧ lastPass.pages.queue = [batchOf .supplement 42#8 [pageOf (.group 2) 0] [3]]
    ∧ lastPass.pages.demands = [] ∧ lastPass.pages.reports = []
    ∧ lastPass.findOwner { number := 42#8, token := 3711#12 } = some 0
    ∧ (lastPass.callout? 0).map Callout.state = some .alerting
    ∧ (batchOf .supplement 42#8 [pageOf (.group 2) 0] [3]).remaining = [{ site := 3, condition := .toServe }]
    ∧ (sending (.leadIn 3 true 0) [batchP]).sites.sequencer = .leadIn 3 true 0 := by decide +kernel

/-- A pass of callout 42 that was keyed FORCED, on the sites still to serve, its batch withdrawing or not. -/
def forcedPass (withdrawing : Bool) (sites : List SiteId) : State :=
  sending (.burst 3 true 0)
    [{ batchOf .supplement 42#8 [pageOf (.group 2) 0] sites with started := true, withdrawing := withdrawing }]

/-- The last pass, one with a site left, and one of a withdrawing batch: each fails its batch. -/
theorem witness_PassEvents_forced : (∀ w, (forcedPass w [3, 0]).condition = .running
      ∧ (forcedPass w [3, 0]).sites.sequencer = .burst 3 true 0 ∧ (forcedPass w [3, 0]).pages.reports = []
      ∧ (forcedPass w [3, 0]).pages.demands = []
      ∧ (forcedPass w [3, 0]).findOwner { number := 42#8, token := 3711#12 } = some 0
      ∧ (forcedPass w [3, 0]).callout? 0 = some (called .alerting []))
    ∧ (batchR.settledAt 3 .forced).failed = true ∧ (batchR.settledAt 3 .forced).remaining = []
    ∧ (batchR.settledAt 3 .done).failed = false ∧ batchR.kind ≠ .alert ∧ (called .alerting []).state ≠ .closing
    ∧ leaves (.burstEnd 3) (forcedPass false [3, 0]) (fun t => (t.sites.sequencer, t.inhibited 0)) =
      some (.clearWait 0 2000, false)
    ∧ leaves (.burstEnd 3) (forcedPass true [3, 0]) (fun t => (t.sites.sequencer, t.pages.queue)) = some (.idle, []) := by
  decide +kernel

theorem witness_PassEvents_reports : (atState .closing).findOwner alertAgain.owner = some 0
    ∧ (atState .closing).callout? 0 = some (called .closing []) ∧ (called .closing []).state = .closing
    ∧ (atState .alerting).findOwner alertAgain.owner = some 0
    ∧ (atState .alerting).callout? 0 = some (called .alerting [])
    ∧ (called .alerting []).assessment.outcome ≠ .crewed
    ∧ (atState .alerting).findOwner { number := 42#8, token := 1#12 } = none := by decide +kernel

theorem witness_PassEvents_idle : (∀ forced left, ready.sites.sequencer ≠ .leadIn 0 forced left)
    ∧ ∀ forced left, ready.sites.sequencer ≠ .burst 0 forced left :=
  ⟨fun _ _ => nofun, fun _ _ => nofun⟩

theorem witness_AirtimeAndKeying : lastPass.keyOutput 3 = true ∧ lastPass.keyOutput 0 = false
    ∧ lastPass.condition = .running ∧ lastPass.sites.sequencer = .burst 3 false 0
    ∧ lastPass.pages.queue = [batchOf .supplement 42#8 [pageOf (.group 2) 0] [3]] := by decide +kernel

theorem witness_EditClassAndZone : ready.condition = .running ∧ ready.resolver.classes.get 12 = .direct 6
    ∧ Spells [num 63, num 0, .absent] [num 63, num 0] ∧ Spells [num 12, .absent, .absent] [num 12]
    ∧ ready.resolver.classes.get 63 = .unused ∧ Spells [num 8, .absent, num 0] [num 8, .absent, num 0] := by
  unfold Spells; decide +kernel

/-- Each bound just passed, a form without its value, a value without its form, another kind, and too many operands. -/
theorem witness_EditClassAndZone_refused : ¬ NumberIn (operandAt [num 64] 0) 0 63 ∧ ¬ AbsentOrIn (operandAt [num 0, num 3] 1) 0 2
    ∧ ¬ NumberOrAbsent (operandAt [num 0, num 1, .set 1#16] 2)
    ∧ (operandAt [num 0, .absent, num 1] 1 = .absent ∧ operandAt [num 0, .absent, num 1] 2 ≠ .absent)
    ∧ (NumberIn (operandAt [num 0, num 0, num 1] 1) 0 0 ∧ operandAt [num 0, num 0, num 1] 2 ≠ .absent)
    ∧ (NumberIn (operandAt [num 0, num 1, num 49] 1) 1 1 ∧ ¬ NumberIn (operandAt [num 0, num 1, num 49] 2) 1 48)
    ∧ (NumberIn (operandAt [num 0, num 2] 1) 2 2 ∧ ¬ NumberIn (operandAt [num 0, num 2] 2) 1 8)
    ∧ ¬ NumberIn (operandAt [] 0) 1 8 ∧ ¬ AbsentOrIn (operandAt [num 1, num 32] 1) 0 31
    ∧ ¬ AbsentOrIn (operandAt [num 1, .absent, num 49] 2) 0 48 ∧ 3 < (List.replicate 4 Operand.absent).length := by
  simp [operandAt, num, NumberOrAbsent]

/-- Each bound at its edge, and operands left out, absent and of the wrong kind. -/
theorem witness_EditPlan : ready.condition = .running ∧ ready.plan? 47 = none ∧ ready.plan? 6 = some plan7
    ∧ Spells [optionalNumber none, optionalNumber (some 30#32), optionalNumber none, optionalNumber none, optionalText none]
        [.absent, num 30]
    ∧ Spells [optionalNumber (some 900#32), optionalNumber none, optionalNumber (some 2#32), optionalNumber (some 4#32),
        optionalText (some [])] [num 900, .absent, num 2, num 4, .text []]
    ∧ inRange (some 60#32) 60 900 = true ∧ inRange (some 59#32) 60 900 = false ∧ inRange (some 4#32) 1 4 = true
    ∧ inRange (some 5#32) 1 4 = false ∧ inRange (some 0#32) 1 4 = false
    ∧ Spells [optionalSet none, optionalSet (some 0#16)] [.absent, .set 0#16] ∧ Spells [optionalSet none, optionalSet none] []
    ∧ (0#32).toInt < 1 ∧ (3#32).toInt = 3 ∧ (1 : Int) < (3#32).toInt ∧ 48 < (49#32).toInt ∧ ([num 1] : List Operand) ≠ []
    ∧ 5 < (List.replicate 6 Operand.absent).length ∧ 2 < (List.replicate 3 Operand.absent).length
    ∧ 1 < (List.replicate 2 Operand.absent).length := by
  unfold Spells; decide +kernel

theorem witness_EditPlan_kinds : (∀ x, Operand.absent = .number x → x.toInt < 1 ∨ 48 < x.toInt)
    ∧ (∀ x, num 49 = .number x → x.toInt < 1 ∨ 48 < x.toInt) ∧ ¬ NumberOrAbsent (operandAt [.set 0#16] 0)
    ∧ (∀ x, operandAt [.absent, .absent, .absent, .absent, num 1] 4 ≠ optionalText x)
    ∧ (∀ b, operandAt [num 1] 0 ≠ optionalSet b) ∧ ∀ x, operandAt ([] : List Operand) 0 ≠ .number x :=
  ⟨nofun, fun x h => by cases h; decide, id, fun x => by cases x <;> nofun, fun b => by cases b <;> nofun, nofun⟩

/-- The record a taken part answers (R39), with one operand given. -/
theorem test_edit_plan_record : replies (.editPlanSettings .console (num 7) [.absent, num 30]) .console ready
    = some (none, [num 7, num 1, num 1, num 300, num 30, num 1, num 2, .text [], .set 0x000C#16, .set 0x0020#16, letterA,
        num 1, num 1, num 2, num 0]) := by decide +kernel

theorem witness_EditPlanEntry : ready.condition = .running ∧ 2 < 2 ^ 31
    ∧ (replies (.editPlanEntry .console (num 7) [num 2, .text [0x42#8, 0x43#8], num 1, num 1, num 0, num 2]) .console
        ready).map Prod.fst = some none ∧ (0#32).toInt < 1 ∧ 3 < (4#32).toInt ∧ (-1#32).toInt < 0 := by decide +kernel

theorem witness_EditPlanEntry_letters : (∀ x : Appliance, ([0x45#8] : Text) ≠ [x.letter])
    ∧ ∀ x y : Appliance, x ≠ y → ([0x45#8] : Text) ≠ [x.letter, y.letter] :=
  ⟨fun x => by cases x <;> decide, fun x y _ => by simp⟩

theorem witness_EditAppliance :
    (∀ x : Appliance, operandAt [] 0 ≠ .text [x.letter]) ∧ (∀ x : Appliance, operandAt [.text [0x45#8]] 0 ≠ .text [x.letter])
    ∧ (∀ n ∈ some 6, n < 2 ^ 31) ∧ ready.condition = .running
    ∧ (atState .held).condition = .running ∧ ((atState .held).appliance .a).committed ≠ none
    ∧ Spells [letterA, optNum (some 6), optNum none] [letterA, num 6] ∧ Spells [letterA, optNum none, optNum none] [letterA] :=
  ⟨nofun, fun x => by cases x <;> decide, by simp, by unfold Spells; decide +kernel⟩

theorem witness_EditAppliance_refused : ¬ AbsentOrIn (operandAt [letterA, num 1] 1) 2 6
    ∧ ¬ AbsentOrIn (operandAt [letterA, num 7] 1) 2 6 ∧ ¬ AbsentOrIn (operandAt [letterA, .absent, num 2] 2) 0 1
    ∧ 3 < [letterA, .absent, .absent, .absent].length := by
  simp [operandAt, num]

def withheld49 : State := { ready with roster := { ready.roster with
  members := ready.roster.members.set 49 (some { hand 50#21 false false true with availability := .withheld }) } }

theorem witness_SetAvailability : ready.condition = .running ∧ ready.member? 6 = some (hand 7#21 false false true)
    ∧ ready.member? 127 = none ∧ (1 : Nat) ≤ 2 := by decide +kernel

/-- A control line that is barred, by the code and by the mark, and operands that are BAD_OPERAND on one that is not. -/
theorem witness_SetAvailability_refused : (Line.p ≠ .console ∧ NumberIn (operandAt [.absent, num 2] 1) 2 2)
    ∧ (∃ (m : MemberId) (x : Member), operandAt [num 50] 0 = num (m.val + 1) ∧ withheld49.member? m = some x
        ∧ x.availability = .withheld)
    ∧ ¬ NumberIn (operandAt [num 129, num 0] 0) 1 128 ∧ ¬ NumberIn (operandAt [num 1, num 3] 1) 0 2
    ∧ ¬ NumberIn (operandAt [num 1] 1) 0 2 ∧ 2 < [num 1, num 1, .absent].length
    ∧ ¬ (Line.console ≠ .console) :=
  ⟨by simp [operandAt, num], ⟨49, _, rfl, rfl, rfl⟩, by simp [operandAt, num]⟩

/-- A member without an engagement; for an engaged one see `witness_SetAvailability_leaves`. -/
theorem witness_SetAvailability_alone : (hand 7#21 false false true).engaged = none ∧ ready.Quiet ∧ ready.LampsRight :=
  ⟨by decide, by unfold Part.Quiet; decide +kernel, lamps_right _ (by decide +kernel)⟩

theorem witness_EditMember : ready.condition = .running ∧ (some 1#21 ≠ some 0#21)
    ∧ ready.member? 127 = none ∧ (ready.member? 6).isSome = true ∧ (none : Option Address) ≠ some 0#21
    ∧ (ready.roster.groups.get 2).address = 102#21
    ∧ Spells [num 7, num 0, .text [0x4D#8], .absent, .absent, .absent] [num 7, num 0, .text [0x4D#8]]
    ∧ Spells [num 7, num 1, .absent, .absent, .absent, .absent] [num 7, num 1] := by
  unfold Spells; decide +kernel

/-- Each bound just passed, a qualification beyond the three, a delete flag with a field, other kinds, and too many. -/
theorem witness_EditMember_refused : ¬ NumberIn (operandAt [num 129] 0) 1 128 ∧ ¬ AbsentOrIn (operandAt [num 1, num 2] 1) 0 1
    ∧ (∀ t, operandAt [num 1, .absent, num 1] 2 ≠ optionalText t)
    ∧ ¬ AbsentOrIn (operandAt [num 1, .absent, .absent, num 0] 3) 1 2097151
    ∧ ¬ AbsentOrIn (operandAt [num 1, .absent, .absent, num 2097152] 3) 1 2097151
    ∧ (∀ b, operandAt [.absent, .absent, .absent, .absent, num 1] 4 ≠ optionalSet b)
    ∧ (∃ b : Set16, operandAt [num 1, .absent, .absent, .absent, .set 8#16] 4 = .set b ∧ b &&& 0xFFF8#16 ≠ 0#16)
    ∧ (NumberIn (operandAt [num 1, num 1, .absent, .absent, .absent, .set 0#16] 1) 1 1
      ∧ ∃ k, 2 ≤ k ∧ k ≤ 5 ∧ operandAt [num 1, num 1, .absent, .absent, .absent, .set 0#16] k ≠ .absent)
    ∧ 6 < (List.replicate 7 Operand.absent).length :=
  ⟨by simp [operandAt, num], by simp [operandAt, num], fun t => by cases t <;> nofun, by simp [operandAt, num],
    by simp [operandAt, num], fun b => by cases b <;> nofun, ⟨8#16, rfl, by decide⟩,
    ⟨by simp [operandAt, num], 5, by decide, by decide, nofun⟩, by decide⟩

/-- No member and no group holds the address of a member to be created. -/
theorem witness_EditMember_free : ready.member? 127 = none ∧ ¬ ((∃ k y, k ≠ 127 ∧ ready.member? k = some y ∧ y.address = 1#21)
    ∨ ∃ g, (ready.roster.groups.get g).address = 1#21) := by
  refine ⟨by decide +kernel, ?_⟩
  rintro (⟨k, y, -, hk, hy⟩ | ⟨g, hg⟩)
  · have : ∀ k : MemberId, (ready.member? k).all (fun y => y.address != 1#21) = true := by decide +kernel
    simpa [hk, hy] using this k
  · exact absurd hg ((by decide +kernel : ∀ g : GroupId, (ready.roster.groups.get g).address ≠ 1#21) g)

theorem witness_EditGroup : ready.condition = .running ∧ (ready.roster.groups.get 15).address = 0#21
    ∧ (called .held []).primary.getLsbD 2 = true ∧ (atState .held).condition = .running
    ∧ Spells [num 15, optNum (some 2097151), optNum none] [num 15, num 2097151] ∧ Spells [num 2, optNum none, optNum none] [num 2] := by
  unfold Spells; decide +kernel

theorem witness_EditGroup_refused : ¬ NumberIn (operandAt [num 16] 0) 0 15 ∧ ¬ NumberIn (operandAt [] 0) 0 15
    ∧ ¬ AbsentOrIn (operandAt [num 0, num 2097152] 1) 0 2097151 ∧ ¬ AbsentOrIn (operandAt [num 0, .absent, num 2] 2) 0 1
    ∧ 3 < (List.replicate 4 Operand.absent).length := by
  simp [operandAt, num]

/-! ### Callouts and responses -/

theorem witness_AlertCreates : ∃ x, ready.FreeOrderRight
    ∧ (∀ j c, ready.callout? j = some c → c.reference ≠ x.reference)
    ∧ ready.condition = .running ∧ ready.Quiet ∧ alert12.length ≤ 6 ∧ alertArgs alert12 = some x ∧ x.atOnce = false
    ∧ ready.table.freeOrder = 0 :: [1, 2, 3, 4, 5, 6, 7] ∧ ready.resolvePlan x.override x.cls x.zone = some (6, plan7)
    ∧ (ready.attempt (fun _ => false) plan7).committed ≠ [] ∧ (∀ e ∈ plan7.entries, e.need.sum ≠ 0) :=
  ⟨{ reference := [0x41#8], cls := 12, zone := 5, override := none, text := none, atOnce := false },
    free_order_right _ (by decide +kernel), slot_all ready.toPart (fun c => c.reference ≠ [0x41#8]) (by decide +kernel),
    by unfold Part.Quiet; decide +kernel⟩

theorem witness_AlertRefused : ready.condition = .running ∧ alertArgs [] = none ∧ (alertArgs alert12).isSome = true
    ∧ ((atState .counting).findLive fun c => c.reference == [0x41#8]) = some 0
    ∧ ({ ready with table := { ready.table with freeOrder := [] } } : State).table.freeOrder = []
    ∧ ready.resolvePlan none 0 5 = none
    ∧ ((withCallout { called .counting [] with reference := [0x42#8] }).attempt (fun _ => false) plan7).committed = []
    ∧ (alertArgs [.text [0x41#8], num 63, num 31, num 48, .text [], num 1]).isSome = true
    ∧ plan7.entries = [] ++ [{ main := .a, alternate := none, need := reqA }]
    ∧ ({ plan7 with entries := [] } : Plan).entries = [] := by decide +kernel

/-- An ALERT with the last three operands left out, one with the text alone, one with each; and operands of another kind. -/
theorem witness_AlertRefused_operands :
    Spells [.text [0x61#8, 0x41#8], num 63, num 31, optionalNumber none, optionalText none, optionalNumber none]
      [.text [0x61#8, 0x41#8], num 63, num 31]
    ∧ Spells [.text [0x41#8], num 0, num 0, optionalNumber none, optionalText (some []), optionalNumber none]
        [.text [0x41#8], num 0, num 0, .absent, .text []]
    ∧ (alertArgs [.text [0x61#8, 0x41#8], num 63, num 31]).map (fun x => (x.reference, x.atOnce)) = some ([0x20#8, 0x41#8], false)
    ∧ inRange (some 49#32) 1 48 = false ∧ inRange (some 2#32) 0 1 = false ∧ inRange none 1 48 = true
    ∧ (∀ t, operandAt [num 1] 0 ≠ .text t) ∧ (∀ x, operandAt [.text []] 1 ≠ .number x)
    ∧ ¬ NumberOrAbsent (operandAt [.absent, .absent, .absent, .text []] 3) :=
  ⟨by unfold Spells; decide, by unfold Spells; decide, by decide +kernel, by decide, by decide, by decide, nofun, nofun, id⟩

/-- Entry by entry (R45): the main in use, the alternate takes its place; and an appliance taken by an earlier entry is not
free for a later one. -/
theorem test_attempt : ({ ready with
      resolver := { ready.resolver with
        appliances := ready.resolver.appliances.set 0 { seats := 6, inService := false, committed := none } } } : State).attempt
        (fun _ => false)
        { plan7 with entries := [{ main := .a, alternate := some .b, need := reqA }, { main := .b, alternate := none, need := reqA }] }
    = { committed := [(.b, reqA)], substituted := true, omitted := true } := by decide +kernel

theorem witness_AddTaken : (atState .inOpen).condition = .running
    ∧ (atState .inOpen).callout? 0 = some (called .inOpen []) ∧ (called .inOpen []).state = .inOpen
    ∧ (atState .inOpen).lookup 42 = some (0, called .inOpen []) ∧ (atState .inOpen).plan? 6 = some plan7
    ∧ Spells [num 42, .absent, optionalSet none] [num 42]
    ∧ Spells [num 42, optNum (some ((6 : PlanId).val + 1)), optionalSet (some 0x0020#16)] [num 42, num 7, .set 0x0020#16]
    ∧ ((alertArgs alert12).map AlertArgs.atOnce) = some false
    ∧ ((atState .inOpen).findLive fun d => d.reference == [0x41#8]) = some 0
    ∧ (atState .crewed).lookup 42 = some (0, called .crewed []) ∧ (called .crewed []).state = .crewed
    ∧ (atState .crewed).plan? 6 = some plan7 ∧ (atState .crewed).Quiet ∧ (atState .crewed).pages.demands = []
    ∧ (atState .crewed).judgedYes (0x0020#16 &&& ~~~(called .crewed []).primary) = 0x0020#16 := by
  unfold Spells Part.Quiet; decide +kernel

/-- A CREWED callout, appliance B in service, and a plan with B as its main. -/
def crewedAndB : State :=
  let s := withCallout (called .crewed allSeven)
  { s with resolver := { s.resolver with
      plans := s.resolver.plans.set 0 (some { plan7 with entries := [{ main := .b, alternate := none, need := reqA }] })
      appliances := s.resolver.appliances.set 1 { seats := 4, inService := true, committed := none } } }

/-- B is appended, and with its slots open the callout falls from CREWED to COUNTING, with CREW raised (R20, R105). -/
theorem witness_AddTaken_reassessed : crewedAndB.Quiet ∧ crewedAndB.lookup 42 = some (0, called .crewed allSeven)
    ∧ crewedAndB.plan? 0 = some { plan7 with entries := [{ main := .b, alternate := none, need := reqA }] }
    ∧ ((crewedAndB.attempt (fun ap => ap == .a)
        { plan7 with entries := [{ main := .b, alternate := none, need := reqA }] }).committed.take 2) ≠ []
    ∧ leaves (.add .p [num 42, num 1]) crewedAndB
        (fun t => (t.callout? 0).map fun c => (c.state, c.appliances.map ApplianceEntry.letter, (t.ctl .s).flags.getLsbD 2))
      = some (some (.counting, [.a, .b], true)) := by
  unfold Part.Quiet; decide +kernel

/-! ### Demands handed over: the three places where `Handed` says where a demand goes -/

theorem witness_Handed (d : Demand) (h : d = alertAgain ∨ d = { alertAgain with kind := .release, content := .members [6] }) :
    (let s := atState .alerting
    (s.batchFor d).pages ≠ [] ∧ (s.batchFor d).sites ≠ [] ∧ s.pages.queue = [] ∧ s.pages.demands = [] ∧ s.pages.room d = true
      ∧ s.sites.sequencer = .idle ∧ s.nextSites d = [0] ∧ s.turnCost 0 (s.batchFor d).pages ≤ (s.sites.records.get 0).credit
      ∧ (s.sites.records.get 0).credit ≤ (s.sites.records.get 0).ceiling ∧ s.Quiet)
    ∧ (let s := sending (.clearWait 3 900) [batchQ]
      (s.batchFor d).pages ≠ [] ∧ (s.batchFor d).sites ≠ [] ∧ s.pages.queue ≠ [] ∧ s.pages.demands = []
        ∧ s.pages.room d = true ∧ s.Quiet)
    ∧ (waiting.batchFor d).pages ≠ [] ∧ (waiting.batchFor d).sites ≠ [] ∧ waiting.pages.queue ≠ []
      ∧ waiting.pages.demands ≠ [] ∧ waiting.pages.demands.length < 16 ∧ waiting.Quiet := by
  unfold Part.Quiet
  rcases h with rfl | rfl <;> decide +kernel

theorem witness_LeavesOpen : (atState .inOpen).condition = .running
    ∧ (atState .inOpen).callout? 0 = some (called .inOpen []) ∧ (called .inOpen []).state = .inOpen
    ∧ (atState .inOpen).lookup 42 = some (0, called .inOpen [])
    ∧ (called .inOpen []).accumulation.mark = .running
    ∧ (atState .inOpen).judgedYes (called .inOpen []).primary = 0x000C#16 ∧ (atState .inOpen).Quiet
    ∧ (called .inOpen []).sirenPolicy = .atLevel0
    ∧ ({ called .inOpen [] with accumulation := .stopped } : Callout).accumulation.mark ≠ .running := by
  unfold Part.Quiet; decide +kernel

/-- An ALERT with the "at once" flag beside the same one without it: created, and merged into an OPEN callout (R9, R10). -/
def atOnce12 : List Operand := [.text [0x41#8], num 12, num 5, .absent, .absent, num 1]

theorem witness_LeavesOpen_atOnce : ∃ x, (∃ s c, exec (.alert .p alert12) ready = .next s ∧ s.callout? 0 = some c ∧ s.condition = .running ∧ c.state = .inOpen
      ∧ (s.findLive fun d => d.reference == x.reference) = some 0
      ∧ ((s.ctl .p).reply.map Reply.results) = some [num 0, num c.number.toNat, num c.token.toNat, num 1])
    ∧ (∃ s c, exec (.alert .p alert12) (atState .inOpen) = .next s ∧ s.callout? 0 = some c ∧ s.condition = .running
      ∧ c.state = .inOpen ∧ (s.findLive fun d => d.reference == x.reference) = some 0
      ∧ ((s.ctl .p).reply.map Reply.results) = some [num 1, num c.number.toNat, num c.token.toNat, num 1])
    ∧ ready.Quiet ∧ (atState .inOpen).Quiet ∧ alertArgs atOnce12 = some x ∧ x.atOnce = true
    ∧ alertArgs alert12 = some { x with atOnce := false } :=
  ⟨{ reference := [0x41#8], cls := 12, zone := 5, override := none, text := none, atOnce := true },
    ⟨_, _, rfl, rfl, by decide +kernel⟩, ⟨_, _, rfl, rfl, by decide +kernel⟩, by unfold Part.Quiet; decide +kernel⟩

theorem test_alert_at_once : replies (.alert .p atOnce12) .p ready = some (none, [num 0, num 1, num 1237, num 2]) := by
  decide +kernel

theorem witness_HoldAndResumeTaken : (atState .counting).condition = .running
    ∧ (atState .counting).lookup 42 = some (0, called .counting []) ∧ (called .counting []).state = .counting
    ∧ (withCallout { called .held [] with prior := some .alerting }).lookup 42
      = some (0, { called .held [] with prior := some .alerting }) := by decide +kernel

/-- Callout 42 with its ALERT batch between two passes, the first FORCED, a REPAGE batch behind it and so many demands. -/
def backed (demands : Nat) : State :=
  let s := sending (.clearWait 3 900)
    [{ batchOf .alert 42#8 [pageOf (.group 2) 0] [5, 3] with
        sites := [{ site := 5, condition := .settled .forced }, { site := 3, condition := .toServe }], started := true },
     batchOf .repage 42#8 [pageOf (.member 6) 0] [0], batchQ]
  { s with pages := { s.pages with demands := List.replicate demands alertAgain } }

/-- What HOLD finds, in the order of R138, and the two ways to TX_DEGRADED: a failed batch, and a ninth entry. -/
theorem witness_HoldAndResumeTaken_held : (backed 1).condition = .running ∧ (backed 1).Quiet
    ∧ (backed 1).lookup 42 = some (0, called .alerting [])
    ∧ (backed 1).handedBack { number := 42#8, token := 3711#12 } =
      [{ kind := .alert, content := .formed [pageOf (.group 2) 0], owed := .only [3] },
       { kind := .repage, content := .formed [pageOf (.member 6) 0], owed := .all },
       { kind := .alert, content := .groups [2, 3], owed := .all }]
    ∧ ((backed 1).pages.queue.head?.map Batch.failed) = some true ∧ (backed 1).sites.sequencer = .clearWait 3 900
    ∧ ((backed 7).handedBack { number := 42#8, token := 3711#12 }).length = 9 := by
  unfold Part.Quiet; decide +kernel

/-- The last pass of an OUTSTANDING ALERT: its entry owes no site, so none is made and the ALERT is ENDED (R24). -/
def lastAlert : State :=
  { sending (.burst 3 false 5) [{ batchOf .alert 42#8 [pageOf (.group 2) 0] [3] with started := true }] with
    table := alerting.table }

theorem witness_HoldAndResumeTaken_ended : lastAlert.condition = .running ∧ lastAlert.Quiet
    ∧ (lastAlert.lookup 42).map (fun x => x.2.alertStatus) = some .outstanding
    ∧ lastAlert.handedBack { number := 42#8, token := 3711#12 } =
      [{ kind := .alert, content := .formed [pageOf (.group 2) 0], owed := .only [] }]
    ∧ leaves (.hold .p [num 42]) lastAlert (fun t => (t.callout? 0).map fun c => (c.heldBack, c.alertStatus))
      = some (some ([], .ended)) := by
  unfold Part.Quiet; decide +kernel

/-- A HELD callout with two held-back entries, on a part with this page queue and sequencer. -/
def resumable (x : Sequencer) (queue : List Batch) (demands : List Demand) : State :=
  let s := withCallout { called .held [] with prior := some .alerting, heldBack :=
    [{ kind := .alert, content := .formed [pageOf (.group 2) 0], owed := .only [0] },
     { kind := .repage, content := .members [6], owed := .all }] }
  { s with pages := { queue := queue, demands := demands, reports := [] }, sites := { s.sites with sequencer := x } }

def madeAgain : List Demand :=
  [{ kind := .alert, owner := { number := 42#8, token := 3711#12 }, content := .formed [pageOf (.group 2) 0]
     restrict := .only [0] },
   { kind := .repage, owner := { number := 42#8, token := 3711#12 }, content := .members [6], restrict := .all }]

theorem can_take (p : Part) (a b : Demand) (h : p.pages.demands.length ≤ 14
      ∧ (p.batchAt 0 a).pages ≠ [] ∧ (p.batchAt 0 a).sites ≠ [] ∧ (p.batchAt 1 b).pages ≠ [] ∧ (p.batchAt 1 b).sites ≠ [])
    (k : SiteId) (first : p.pages.queue ≠ [] ∨ p.sites.sequencer = .idle
      ∧ (p.batchAt 0 a).sites = [{ site := k, condition := .toServe }]
      ∧ p.turnCost k (p.formPages a) ≤ (p.sites.records.get k).credit
      ∧ (p.sites.records.get k).credit ≤ (p.sites.records.get k).ceiling) : p.CanTake [a, b] := by
  refine ⟨by simpa using h.1, fun _ => ⟨fun n d hd => ?_, fun hq d rest hd => ?_⟩⟩
  · match n, hd with
    | 0, hd => cases hd; exact ⟨h.2.1, h.2.2.1⟩
    | 1, hd => cases hd; exact ⟨h.2.2.2.1, h.2.2.2.2⟩
  · obtain hne | ⟨hs, hl, hc⟩ := first
    · exact absurd hq hne
    · cases hd
      refine ⟨hs, fun e more he => ?_⟩
      rw [hl] at he
      cases he
      exact hc

/-- RESUME with the queue empty, with a queue that has room for the first entry alone, and behind a demand that waits. -/
theorem witness_HoldAndResumeTaken_again :
    (resumable .idle [] []).Quiet ∧ (resumable .idle [] []).CanTake madeAgain
    ∧ (resumable (.clearWait 3 900) [{ batchQ with pages := List.replicate 60 (pageOf (.member 6) 0) }] []).Quiet
    ∧ (resumable (.clearWait 3 900) [{ batchQ with pages := List.replicate 60 (pageOf (.member 6) 0) }] []).CanTake madeAgain
    ∧ leaves (.resume .p [num 42])
        (resumable (.clearWait 3 900) [{ batchQ with pages := List.replicate 60 (pageOf (.member 6) 0) }] [])
        (fun t => (t.pages.used, t.pages.demands)) = some (63, madeAgain.drop 1)
    ∧ (resumable (.clearWait 3 900) [batchQ] [alertAgain]).Quiet
    ∧ (resumable (.clearWait 3 900) [batchQ] [alertAgain]).CanTake madeAgain :=
  ⟨by unfold Part.Quiet; decide +kernel, can_take _ _ _ (by decide +kernel) 0 (.inr (by decide +kernel)), by unfold Part.Quiet; decide +kernel,
    can_take _ _ _ (by decide +kernel) 0 (.inl (by decide +kernel)), by decide +kernel, by unfold Part.Quiet; decide +kernel, by decide +kernel, fun h => nomatch h⟩

/-- From ALERTING with the status ENDED and nothing of the ALERT held back, and with the ALERT demanded again. -/
theorem witness_HoldAndResumeTaken_alerting :
    (let c : Callout := { called .held [] with prior := some .alerting, alertStatus := .ended }
    (withCallout c).lookup 42 = some (0, c) ∧ c.assessment.outcome ≠ .crewed ∧ ¬ ∃ e ∈ c.heldBack, e.kind = .alert)
    ∧ ((resumable .idle [] []).lookup 42).map (fun x => (x.2.prior, x.2.assessment.outcome, x.2.heldBack.map HeldEntry.kind))
      = some (some .alerting, .short, [.alert, .repage])
    ∧ leaves (.resume .p [num 42]) (resumable .idle [] []) (fun t => (t.callout? 0).map Callout.state)
      = some (some .alerting) := by decide +kernel

/-- A HELD callout, with one entry held back, whose outcome is CREWED with a surplus. -/
def heldCrewed : Callout :=
  { called .held allSeven with
    prior := some .alerting, alertStatus := .ended, heldBack := [{ kind := .repage, content := .members [6], owed := .all }] }

theorem witness_HoldAndResumeTaken_crewed : (withCallout heldCrewed).CanTake
      ((heldCrewed.heldBack.map fun e =>
          { kind := e.kind, owner := heldCrewed.owner, content := e.content, restrict := e.owed })
        ++ releasesFor heldCrewed.owner heldCrewed.assessment.surplus)
    ∧ (withCallout heldCrewed).Quiet ∧ (withCallout heldCrewed).lookup 42 = some (0, heldCrewed)
    ∧ heldCrewed.assessment.outcome = .crewed ∧ heldCrewed.assessment.surplus = [6]
    ∧ leaves (.resume .p [num 42]) (withCallout heldCrewed)
        (fun t => (t.callout? 0).map fun c => (c.state, c.responseWindow, (c.responses.find? fun r => r.member == 6).map Response.kind))
      = some (some (.crewed, .stopped, some .released)) :=
  ⟨can_take (withCallout heldCrewed).toPart { kind := .repage, owner := heldCrewed.owner, content := .members [6], restrict := .all }
      { kind := .release, owner := heldCrewed.owner, content := .members [6], restrict := .all }
      (by decide +kernel) 0 (.inr (by decide +kernel)),
    by unfold Part.Quiet; decide +kernel⟩

/-! The groups a STAND-DOWN must reach, as its statement says them, in a part where a site is keyed and in one where none is. -/

theorem groups_keyed (p : Part) (c : Callout) (groups : GroupSet) (b : Batch) (rest : List Batch) (keyed : Prop) (k : keyed)
    (hq : p.pages.queue = b :: rest)
    (h : ∀ g : GroupId, groups.getLsbD g.val = (c.primary.getLsbD g.val && c.paged.getLsbD g.val
      || (b.owner == c.owner && b.pages.any fun x => x.addressee == .group g))) :
    ∀ g : GroupId, groups.getLsbD g.val = true ↔
      c.primary.getLsbD g.val = true ∧ c.paged.getLsbD g.val = true
        ∨ keyed ∧ ∃ b rest, p.pages.queue = b :: rest ∧ b.owner = c.owner ∧ ∃ x ∈ b.pages, x.addressee = .group g := by
  intro g
  rw [h g]
  simp only [Bool.or_eq_true, Bool.and_eq_true, beq_iff_eq, List.any_eq_true, k, true_and]
  refine or_congr Iff.rfl ⟨fun e => ⟨b, rest, hq, e⟩, fun ⟨b', rest', hq', e⟩ => ?_⟩
  cases hq.symm.trans hq'
  exact e

theorem groups_unkeyed (p : Part) (c : Callout) (groups : GroupSet) (keyed : Prop) (k : ¬ keyed)
    (h : ∀ g : GroupId, groups.getLsbD g.val = (c.primary.getLsbD g.val && c.paged.getLsbD g.val)) :
    ∀ g : GroupId, groups.getLsbD g.val = true ↔
      c.primary.getLsbD g.val = true ∧ c.paged.getLsbD g.val = true
        ∨ keyed ∧ ∃ b rest, p.pages.queue = b :: rest ∧ b.owner = c.owner ∧ ∃ x ∈ b.pages, x.addressee = .group g := by
  intro g
  rw [h g]
  simp [k]

/-- Callout 42, COUNTING with group 3 PAGED, its ALERT on the air to group 2, a REPAGE batch behind and a demand waiting. -/
def lastCall : Callout := { called .counting allSeven with paged := 0x0008#16 }

def onAir : State :=
  let s := sending (.burst 3 false 5) [{ batchOf .alert 42#8 [pageOf (.group 2) 0] [3, 0] with started := true },
    batchOf .repage 42#8 [pageOf (.member 6) 0] [0]]
  { s with table := (withCallout lastCall).table, pages := { s.pages with demands := [alertAgain] } }

theorem witness_StandDownTaken_onAir : (∀ g : GroupId, (0x000C#16).getLsbD g.val = true ↔
      lastCall.primary.getLsbD g.val = true ∧ lastCall.paged.getLsbD g.val = true
        ∨ (∃ k n, (∃ forced, onAir.sites.sequencer = .leadIn k forced n) ∨ ∃ forced, onAir.sites.sequencer = .burst k forced n)
          ∧ ∃ b rest, onAir.pages.queue = b :: rest ∧ b.owner = lastCall.owner ∧ ∃ x ∈ b.pages, x.addressee = .group g)
    ∧ onAir.NumbersDistinct ∧ (onAir.without lastCall.owner fun _ => true).HeadWaits
    ∧ (onAir.without lastCall.owner fun _ => true).Quiet ∧ onAir.condition = .running ∧ onAir.callout? 0 = some lastCall
    ∧ lastCall.state ≠ .inOpen ∧ lastCall.state ≠ .mobile ∧ (0x000C#16 : GroupSet) ≠ 0#16
    ∧ (lastCall.responses.map Response.member).Nodup ∧ (∃ r ∈ lastCall.responses, r.kind = .attending)
    ∧ leaves (.standDown .p [num 42]) onAir (fun t => (t.pages.queue.map fun b => (b.kind, b.withdrawing), t.pages.demands))
      = some ([(.alert, true), (.standDown, false)], []) :=
  ⟨groups_keyed _ _ _ _ _ _ ⟨3, 5, .inr ⟨false, rfl⟩⟩ rfl (by decide +kernel),
    one_number _ (by decide +kernel) (by decide +kernel), fun _ _ => nofun, by unfold Part.Quiet; decide +kernel⟩

/-- The same callout with no site keyed and the queue empty. -/
theorem witness_StandDownTaken : (∀ g : GroupId, (0x0008#16).getLsbD g.val = true ↔
      lastCall.primary.getLsbD g.val = true ∧ lastCall.paged.getLsbD g.val = true
        ∨ (∃ k n, (∃ forced, (withCallout lastCall).sites.sequencer = .leadIn k forced n)
            ∨ ∃ forced, (withCallout lastCall).sites.sequencer = .burst k forced n)
          ∧ ∃ b rest, (withCallout lastCall).pages.queue = b :: rest ∧ b.owner = lastCall.owner
            ∧ ∃ x ∈ b.pages, x.addressee = .group g)
    ∧ (withCallout lastCall).NumbersDistinct ∧ ((withCallout lastCall).without lastCall.owner fun _ => true).HeadWaits
    ∧ ((withCallout lastCall).without lastCall.owner fun _ => true).Quiet ∧ (withCallout lastCall).Quiet
    ∧ (withCallout lastCall).condition = .running ∧ (withCallout lastCall).callout? 0 = some lastCall
    ∧ lastCall.state ≠ .closing :=
  ⟨groups_unkeyed _ _ _ _ (fun ⟨_, _, h⟩ => h.elim (fun ⟨_, e⟩ => nomatch e) fun ⟨_, e⟩ => nomatch e) (by decide +kernel),
    one_number _ (by decide +kernel) (by decide +kernel), fun _ _ => nofun, by unfold Part.Quiet; decide +kernel⟩

/-- A STAND-DOWN waits when a RELEASE of 60 pages leaves no room, and another callout's demand waits before it. -/
theorem test_head_waits : ({ ready with
    pages := { queue := [{ batchQ with pages := List.replicate 62 (pageOf (.member 6) 0) }]
               demands := [alertAgain], reports := [] } } : State).HeadWaits := by
  intro d rest h
  cases h
  decide +kernel

theorem witness_DepartTaken : (atState .crewed).condition = .running
    ∧ (atState .crewed).lookup 42 = some (0, called .crewed []) ∧ (called .crewed []).state = .crewed
    ∧ ((called .crewed []).appliances.map ApplianceEntry.letter).Nodup
    ∧ { letter := .a, need := reqA, departed := false, crew := [] } ∈ (called .crewed []).appliances := by decide +kernel

theorem can_take_one (p : Part) (a : Demand) (h : p.pages.demands.length ≤ 15 ∧ (p.batchAt 0 a).pages ≠ []
    ∧ (p.batchAt 0 a).sites ≠ []) (busy : p.pages.queue ≠ []) : p.CanTake [a] := by
  refine ⟨Nat.succ_le_succ h.1, fun _ => ⟨fun n d hd => ?_, fun hq => absurd hq busy⟩⟩
  match n, hd with
  | 0, hd => cases hd; exact h.2

/-- The same callout on the air: its only appliance departs with six members on board, and the seventh is released (R26). -/
theorem witness_DepartTaken_mobile : (onAir.without lastCall.owner fun k => k != .release && k != .standDown).CanTake
      (releasesFor lastCall.owner [6])
    ∧ (onAir.without lastCall.owner fun k => k != .release && k != .standDown).HeadWaits
    ∧ (onAir.without lastCall.owner fun k => k != .release && k != .standDown).Quiet
    ∧ onAir.lookup 42 = some (0, lastCall) ∧ lastCall.appliances.map ApplianceEntry.letter = [.a]
    ∧ leaves (.depart .console [num 42, letterA]) onAir (fun t => ((t.callout? 0).map fun c =>
        (c.state, c.alertStatus, c.appliances.map fun e => e.crew.length), t.pages.queue.map Batch.kind))
      = some (some (.mobile, .ended, [6]), [.alert, .release]) :=
  ⟨can_take_one _ _ (by decide +kernel) (by decide +kernel), fun _ _ => nofun, by unfold Part.Quiet; decide +kernel⟩

/-- Two appliances: A departs and B is left, on a part with no work left over. -/
theorem witness_DepartTaken_left :
    (let c : Callout := { called .counting allSeven with
      appliances := (called .counting []).appliances ++ [{ letter := .b, need := reqA, departed := false, crew := [] }] }
    (withCallout c).Quiet ∧ (withCallout c).lookup 42 = some (0, c) ∧ (c.appliances.map ApplianceEntry.letter).Nodup
      ∧ leaves (.depart .console [num 42, letterA]) (withCallout c)
        (fun t => (t.callout? 0).map fun c => (c.state, c.appliances.map ApplianceEntry.departed))
        = some (some (.counting, [true, false]))) := by
  unfold Part.Quiet; decide +kernel

theorem witness_OrdersByState : ready.condition = .running ∧ ready.lookup 255 = none
    ∧ (atState .crewed).lookup 42 = some (0, called .crewed []) ∧ heldCrewed.state = .held ∧ heldCrewed.prior ≠ none
    ∧ (withCallout heldCrewed).lookup 42 = some (0, heldCrewed)
    ∧ (atState .closing).lookup 42 = some (0, called .closing []) ∧ (called .mobile []).state = .mobile
    ∧ (called .closing []).hasAppliance .d = false ∧ (called .closing []).hasAppliance .a = true
    ∧ (255#8 : CalloutNo) ≠ 0#8 ∧ ready.member? 127 = none ∧ (atState .closing).condition = .running
    ∧ (atState .closing).member? 6 = some (hand 7#21 false false true)
    ∧ (1 : Nat) ≤ 1 ∧ Spells [num 128, num 255, num 1, optionalNumber none] [num 128, num 255, num 1] := by
  unfold Spells; decide +kernel

/-- Each bound just passed, an operand left out that the order needs, another kind, and too many operands. -/
theorem witness_OrdersByState_refused : operandAt [] 0 = .absent ∧ ¬ NumberOrAbsent (operandAt [.set 0#16] 0)
    ∧ (∀ b, operandAt [num 1, .absent, num 1] 2 ≠ optionalSet b)
    ∧ (∀ ap : Appliance, operandAt [num 1, .text [0x45#8]] 1 ≠ .text [ap.letter]) ∧ (∀ v ∈ some 0#32, 0 ≤ v.toInt)
    ∧ (∃ x, operandAt [num 1, num 1, num 0, .number (-1#32)] 3 = .number x ∧ x.toInt < 0)
    ∧ ¬ AbsentOrIn (operandAt [num 1, num 49] 1) 1 48 ∧ ¬ NumberIn (operandAt [num 129] 0) 1 128
    ∧ ¬ NumberIn (operandAt [num 1, num 256] 1) 1 255 ∧ ¬ NumberIn (operandAt [num 1, num 1, num 2] 2) 0 1
    ∧ ¬ AbsentOrIn (operandAt [num 1, num 0] 1) 1 255 ∧ 4 < (List.replicate 5 Operand.absent).length :=
  ⟨rfl, id, fun b => by cases b <;> nofun, fun x => by cases x <;> decide, by simp, ⟨_, rfl, by decide⟩,
    by simp [operandAt, num]⟩

/-- A booking without a number: no callout is there to choose; the one there is; and the one the member is engaged on. -/
theorem witness_OrdersByState_chosen : Spells [num 50, .absent] [num 50]
    ∧ (∀ j : SlotId, ready.callout? j = none) ∧ (∀ j d, j ≠ 0 → answering.callout? j = some d → False)
    ∧ (∃ d, answering.callout? 0 = some d ∧ d.state = .counting) ∧ answering.member? 127 = none
    ∧ attended.member? 49 = some { hand 50#21 false false true with engaged := some 42#8 }
    ∧ attended.findCallout 42#8 = some 0
    ∧ (threeCalls.callout? 0).map Callout.state = some .counting ∧ (threeCalls.callout? 2).map Callout.state = some .held :=
  ⟨by unfold Spells; decide, by decide +kernel,
    one_callout answering.toPart (by decide +kernel) (fun _ _ => False), ⟨_, rfl, rfl⟩, by decide +kernel⟩

theorem witness_WindowExpiry : (atState .counting).condition = .running ∧ (atState .counting).Quiet
    ∧ (atState .counting).callout? 0 = some (called .counting []) ∧ (called .counting []).state = .counting
    ∧ (called .counting []).responseWindow.mark = .running ∧ (called .counting []).level = 0
    ∧ (atState .counting).repageSelection { called .counting [] with paged := 0x000C#16 } ≠ []
    ∧ (atState .counting).judgedYes ((called .counting []).secondary &&& ~~~(called .counting []).primary) ≠ 0#16
    ∧ (atState .counting).localWorking = true := by
  unfold Part.Quiet; decide +kernel

theorem witness_WindowExpiry_idle : ∀ c, (atState .crewed).callout? 0 = some c →
    c.state ≠ .counting ∨ c.responseWindow.mark ≠ .running :=
  slot_all (atState .crewed).toPart (fun c => c.state ≠ .counting ∨ c.responseWindow.mark ≠ .running)
    (by decide +kernel) 0

theorem witness_ReturnFrames : ready.LampsRight ∧ ready.condition = .running ∧ ready.Quiet
    ∧ lastPass.siteKeyed 3 = true ∧ ready.siteKeyed 0 = false
    ∧ (ReturnFrame.ofBits 0#58).check ≠ (ReturnFrame.ofBits 0#58).expected
    ∧ (ReturnFrame.ofBits (returnFrameBits 7#21 0#12 4#3 0#6)).code.toNat = 4
    ∧ ready.memberAt 7#21 = some 6 ∧ ready.member? 6 = some (hand 7#21 false false true) :=
  ⟨lamps_right _ (by decide +kernel), by unfold Part.Quiet; decide +kernel⟩

/-- A duty code with a token, and the token of a CLOSING callout. -/
theorem witness_ReturnFrames_token : (atState .closing).LampsRight
    ∧ (∀ i c, (atState .closing).callout? i = some c → c.token = 3711#12 → c.state = .closing) ∧ (atState .closing).Quiet
    ∧ (ReturnFrame.ofBits (returnFrameBits 7#21 3711#12 2#3 0#6)).token = 3711#12
    ∧ (ReturnFrame.ofBits (returnFrameBits 7#21 3711#12 2#3 0#6)).code = 2#3 :=
  ⟨lamps_right _ (by decide +kernel),
    slot_all (atState .closing).toPart (fun c => c.token = 3711#12 → c.state = .closing) (by decide +kernel),
    by unfold Part.Quiet; decide +kernel⟩

theorem answering_sound : answering.condition = .running ∧ answering.Quiet ∧ answering.NumbersDistinct
    ∧ answering.callout? 0 = some (called .counting firstFour) ∧ answering.member? 49 = some (hand 50#21 false false true) :=
  ⟨by decide +kernel, by unfold Part.Quiet; decide +kernel, one_number _ (by decide +kernel) (by decide +kernel),
    by decide +kernel, by decide +kernel⟩

theorem heard : HeardAt 0 0 (called .counting firstFour) 49 (hand 50#21 false false true) answering.toPart :=
  ⟨by decide +kernel, by decide +kernel, by decide +kernel, by decide +kernel⟩

/-- Each of the seven ways a response comes. -/
theorem witness_Brings : let b := Brings answering.toPart 0 (called .counting firstFour) 49 (hand 50#21 false false true)
    b (.returnFrame 0 (returnFrameBits 50#21 3711#12 0#3 63#6) false) .attending (some 60) (.site 0)
    ∧ b (.returnFrame 0 (returnFrameBits 50#21 3711#12 1#3 0#6) false) .unavailable none (.site 0)
    ∧ b (.relayResponse .p [num 50, num 42, num 0]) .attending none (.line .p)
    ∧ b (.relayResponse .s [num 50, num 42, num 1, num 61]) .unavailable none (.line .s)
    ∧ b (.bookOn .console [num 50, num 42]) .arrived none (.line .console)
    ∧ b (.bookOn .console [num 50]) .arrived none (.line .console)
    ∧ Brings answering.toPart 0 (called .counting firstFour) 49 { hand 50#21 false false true with engaged := some 42#8 }
        (.bookOn .console [num 50]) .arrived none (.line .console) :=
  ⟨.frameAttend 0 63#6 heard, .frameUnavailable 0 0#6 heard,
    .relayAttend .p [num 50, num 42, num 0] none (by decide) (by simp) (by unfold Spells; decide),
    .relayUnavailable .s [num 50, num 42, num 1, num 61] (some 61#32) (by decide) (by simp)
      (by unfold Spells; decide),
    .bookOn (by decide +kernel) (by decide) (by decide +kernel),
    .bookOnOnly [num 50] (by decide) (by simp [hand]) (by decide +kernel)
      (fun j d hd _ => Classical.byContradiction fun hj =>
        (one_callout answering.toPart (by decide +kernel) (fun _ _ => False) j d hj hd))
      (by unfold Spells; decide),
    .bookOnEngaged [num 50] (by decide +kernel) (by decide) rfl (by unfold Spells; decide)⟩

/-- A new record and a changed one, of a member AVAILABLE and engaged on nothing. -/
theorem witness_ResponsesTaken :
    (∀ j d, j ≠ 0 → answering.callout? j = some d → (hand 50#21 false false true).engaged = some d.number →
      ∀ r, (d.responses.find? fun r => r.member == 49) = some r → r.kind ≠ .arrived)
    ∧ (called .counting firstFour).state ≠ .closing
    ∧ (hand 50#21 false false true).availability ≠ .withheld ∧ (called .counting firstFour).state ≠ .mobile
    ∧ ((called .counting firstFour).responses.find? fun r => r.member == 49) = none
    ∧ (called .counting firstFour).responses.length < 32
    ∧ ((called .counting firstFour).responses.find? fun r => r.member == 30) = some (answer 30 1 4 2)
    ∧ (answer 30 1 4 2).kind ≠ .arrived ∧ (answer 30 1 4 2).eta ≠ some 60 :=
  ⟨one_callout _ (by decide +kernel) _, by decide +kernel⟩

/-- A full list of 32 records, the first of them RELEASED. -/
def fullList (first : ResponseKind) : List Response :=
  { answer 64 0 5 1 with kind := first } :: (List.range 31).map fun k => answer (Fin.ofNat 128 (65 + k)) 0 5 (k + 2)

theorem witness_ResponsesTaken_full : (called .counting (fullList .released)).responses.length = 32
    ∧ (∃ r ∈ (called .counting (fullList .released)).responses, r.inactive = true)
    ∧ ((called .counting (fullList .released)).responses.find? fun r => r.member == 49) = none :=
  ⟨by decide +kernel, ⟨_, List.mem_cons_self .., rfl⟩, by decide +kernel⟩

/-- A callout in slot 2 that member 49 has answered. -/
def other (kind : ResponseKind) : Callout :=
  let c := bare .counting [{ answer 49 0 5 1 with kind := kind }]
  { c with number := 1#8, token := 1#12, reference := [0x42#8]
           appliances := c.appliances.map fun e => { e with letter := .b } }

/-- Member 49, on that callout, answers the one in slot 1 (R88). -/
def moving (kind : ResponseKind) : State :=
  { answering with
    table := { answering.table with slots := answering.table.slots.set 1 (.live (other kind)) }
    roster := { answering.roster with
      members := answering.roster.members.set 49 (some { hand 50#21 false false true with engaged := some 1#8 }) } }

theorem moving_callout (kind : ResponseKind) : (moving kind).callout? 1 = some (other kind) := by
  cases kind <;> decide +kernel

theorem witness_ResponsesTaken_move : (moving .attending).Quiet ∧ (moving .attending).NumbersDistinct
    ∧ (moving .attending).callout? 0 = some (called .counting firstFour)
    ∧ (moving .attending).member? 49 = some { hand 50#21 false false true with engaged := some 1#8 }
    ∧ (answer 49 0 5 1).inactive = false ∧ (other .attending).state ≠ .closing
    ∧ (moving .attending).callout? 1 = some (other .attending)
    ∧ leaves (.relayResponse .p [num 50, num 42, num 0]) (moving .attending) (fun t =>
        (t.callout? 1).map fun d => (d.state, d.responses.map Response.kind)) = some (some (.counting, [.withdrawn])) :=
  ⟨by unfold Part.Quiet; decide +kernel,
    ⟨slot_all (moving .attending).toPart (fun c => c.number ≠ 0#8 ∧ c.token ≠ 0#12) (by decide +kernel),
      slot_pairs (moving .attending).toPart
        (fun c d => c.number ≠ d.number ∧ c.token ≠ d.token ∧ c.reference ≠ d.reference) (by decide +kernel)⟩,
    by decide +kernel, by decide +kernel, rfl, by decide, moving_callout .attending, by decide +kernel⟩

/-- Member 49 is engaged on callout 1, COUNTING: leaving AVAILABLE withdraws the record there, and other qualifications have
the callout assessed afresh. -/
theorem witness_SetAvailability_leaves : (moving .attending).Quiet
    ∧ (moving .attending).callout? 1 = some (other .attending) ∧ (moving .attending).condition = .running
    ∧ (moving .attending).member? 49 = some { hand 50#21 false false true with engaged := some 1#8 }
    ∧ (hand 50#21 false false true).availability = .available ∧ (moving .attending).findCallout 1#8 = some 1
    ∧ (other .attending).state ≠ .closing
    ∧ (moving .attending).isArrived 49 { hand 50#21 false false true with engaged := some 1#8 } = false
    ∧ leaves (.setAvailability .p [num 50, num 1]) (moving .attending)
        (fun t => (t.callout? 1).map fun d => d.responses.map fun r => (r.kind, r.source))
      = some (some [(.withdrawn, .line .p)]) :=
  ⟨witness_ResponsesTaken_move.1, moving_callout .attending, by decide +kernel⟩

/-- Member 49, who attends the callout in slot 2, goes off duty at site 1. -/
theorem witness_ReturnFrames_leaves : (moving .attending).Quiet ∧ (moving .attending).condition = .running
    ∧ (moving .attending).siteKeyed 0 = false ∧ (moving .attending).memberAt 50#21 = some 49
    ∧ (moving .attending).member? 49 = some { hand 50#21 false false true with engaged := some 1#8 }
    ∧ (moving .attending).isArrived 49 { hand 50#21 false false true with engaged := some 1#8 } = false
    ∧ (moving .attending).findCallout 1#8 = some 1
    ∧ (moving .attending).callout? 1 = some (other .attending) ∧ (other .attending).state ≠ .closing
    ∧ leaves (.returnFrame 0 (returnFrameBits 50#21 0#12 2#3 0#6) false) (moving .attending) (fun t =>
        ((t.callout? 1).map fun d => d.responses.map fun r => (r.kind, r.source), (t.member? 49).map Member.availability))
      = some (some [(.withdrawn, .site 0)], some .offDuty) := by
  refine ⟨witness_ResponsesTaken_move.1, ?_, ?_, ?_, ?_, ?_, ?_, moving_callout .attending, ?_, ?_⟩ <;> decide +kernel

theorem witness_EditMember_assessed : (moving .attending).Quiet
    ∧ (some { oic := true, drv := false, ba := false : Qualifications }).getD (hand 50#21 false false true).quals
      ≠ (hand 50#21 false false true).quals
    ∧ (∃ n, ({ hand 50#21 false false true with engaged := some 1#8 } : Member).engaged = some n
      ∧ (moving .attending).findCallout n = some 1)
    ∧ (moving .attending).callout? 1 = some (other .attending) ∧ (other .attending).state ≠ .closing
    ∧ leaves (.editMember .console [num 50, .absent, .absent, .absent, .set 1#16]) (moving .attending)
        (fun t => (t.callout? 1).map fun d => d.assessment.candidates.map CandidatePart.assignment)
      = some (some [.seated .b (.role .oic)]) :=
  ⟨witness_ResponsesTaken_move.1, by decide, ⟨1#8, rfl, by decide +kernel⟩, moving_callout .attending, by decide,
    by decide +kernel⟩

/-- The cases in which no response is taken: a WITHHELD member, a repeat, a member ARRIVED elsewhere, a MOBILE callout and
a full list. -/
theorem witness_ResponsesNotTaken :
    ({ hand 50#21 false false true with availability := .withheld } : Member).availability = .withheld
    ∧ ((called .counting firstFour).responses.find? fun r => r.member == 30) = some (answer 30 1 4 2)
    ∧ (answer 30 1 4 2).kind = .attending ∧ answering.LampsRight
    ∧ (∃ j d r, j ≠ (0 : SlotId) ∧ (moving .arrived).callout? j = some d
        ∧ ({ hand 50#21 false false true with engaged := some 1#8 } : Member).engaged = some d.number
        ∧ (d.responses.find? fun r => r.member == 49) = some r ∧ r.kind = .arrived)
    ∧ (called .mobile []).state = .mobile ∧ (atState .mobile).Quiet
    ∧ (atState .mobile).callout? 0 = some (called .mobile [])
    ∧ ¬ ((called .counting (fullList .attending)).responses.length < 32
        ∨ ∃ r ∈ (called .counting (fullList .attending)).responses, r.inactive = true) :=
  ⟨by decide, by decide +kernel, by decide, lamps_right _ (by decide +kernel),
    ⟨1, _, _, by decide, moving_callout .arrived, rfl, rfl, rfl⟩,
    by decide +kernel, by unfold Part.Quiet; decide +kernel, by decide +kernel, by decide +kernel⟩

theorem witness_Formats : (List.replicate 40 0xFF#8).length ≤ 40 ∧ lengthSuits 4#8 (List.replicate 40 0xFF#8) = true
    ∧ (∀ b ∈ [0x3C#8, 0xFF#8], b ≠ 0xC3#8)
    ∧ (Operand.text (List.replicate 38 0x41#8)).wellFormed = true ∧ (Operand.unassigned 4#8).wellFormed = true
    ∧ bytesOf 2 (linkCheck 1#8 []).toNat ≠ [0#8, 0#8] ∧ lengthSuits 1#8 [0#8] = false ∧ (2#8 : Byte) ≠ 1#8
    ∧ ([0#8] : List Byte).length = (1#8 : Byte).toNat ∧ 40 < (41#8 : Byte).toNat ∧ ([0#8] : List Byte).length < 0 + 2
    ∧ ready.condition = .running ∧ (stoppedPart .off).condition ≠ .running := by decide +kernel

/-- A reply behind the frame of a broken-off one: both are what the line sends (log entry 29). -/
theorem witness_Formats_both : lateRestart.condition = .running ∧ (lateRestart.ctl .console).tail ≠ none
    ∧ (lateRestart.ctl .console).reply ≠ none ∧ (lateRestart.transmit .console).map List.length = [1, 10, 12] := by
  decide +kernel

theorem witness_AssessmentSound : ((called .counting firstFour).appliances.map ApplianceEntry.letter).Nodup
    ∧ ({ letter := .a, need := reqA, departed := false, crew := [] } : ApplianceEntry).departed = false
    ∧ (called .counting firstFour).appliances[0]? = some { letter := .a, need := reqA, departed := false, crew := [] }
    ∧ ((assess (fun _ => 6) (fun _ => { oic := true, drv := true, ba := true })
        (called .counting firstFour)).entries[0]?).isSome = true
    ∧ (called .counting allSeven).assessment.candidates.map (fun x => (x.member, x.assignment)) =
      [(30, .seated .a (.role .drv)), (43, .seated .a (.role .oic)), (18, .seated .a .spare), (11, .seated .a .spare),
       (49, .seated .a (.role .ba)), (62, .seated .a (.role .ba)), (6, .surplus)] := by decide +kernel

end Sys2Proof.Tests
end

/-!
SUPPORT. What an order's operands read as: for each way of reading an operand (R182), the operand that gives a value.
-/

namespace Sys2Proof.Machine

open Sys2Proof

/-! ## Numbers -/

theorem toInt_ofNat_of_lt {x : Nat} (hx : x < 2 ^ 31) : (BitVec.ofNat 32 x).toInt = x := by
  rw [BitVec.toInt_ofNat']
  exact Int.bmod_eq_of_le (by omega) (by omega)

/-- A NUMBER operand writes the number `x` just when its value is `x`. -/
theorem number_eq_num_iff {v : BitVec 32} {x : Nat} (hx : x < 2 ^ 31) : Operand.number v = num x ↔ v.toInt = x := by
  refine ⟨fun h => ?_, fun h => congrArg Operand.number (BitVec.eq_of_toInt_eq ?_)⟩
  · rw [Operand.number.inj h, toInt_ofNat_of_lt hx]
  · rw [h, toInt_ofNat_of_lt hx]

theorem num_inj {x y : Nat} (hx : x < 2 ^ 31) (hy : y < 2 ^ 31) : num x = num y ↔ x = y := by
  rw [show num x = .number (BitVec.ofNat 32 x) from rfl, number_eq_num_iff hy, toInt_ofNat_of_lt hx, Nat.cast_inj]

theorem numberIn_num {x : Nat} (hx : x < 2 ^ 31) (lo hi : Int) : NumberIn (num x) lo hi ↔ lo ≤ x ∧ x ≤ hi := by
  rw [num, numberIn_number, toInt_ofNat_of_lt hx]

theorem absentOrIn_num (x : Nat) (lo hi : Int) : AbsentOrIn (num x) lo hi ↔ NumberIn (num x) lo hi := by
  simp [AbsentOrIn, num]

theorem absentOrIn_optNum {x : Option Nat} (hx : ∀ y ∈ x, y < 2 ^ 31) (lo hi : Int) :
    AbsentOrIn (optNum x) lo hi ↔ ∀ y ∈ x, lo ≤ (y : Int) ∧ (y : Int) ≤ hi := by
  cases x with
  | none => simp [optNum]
  | some y => simp [optNum, absentOrIn_num, numberIn_num (hx y rfl)]

@[simp] theorem num_ne_absent (x : Nat) : num x ≠ .absent := nofun

@[simp] theorem numberOrAbsent_num (x : Nat) : NumberOrAbsent (num x) := trivial

@[simp] theorem numberOrAbsent_absent : NumberOrAbsent .absent := trivial

theorem within_eq_some {v : BitVec 32} {lo hi x : Nat} (hhi : hi < 2 ^ 31) :
    within lo hi v.toInt = some x ↔ Operand.number v = num x ∧ lo ≤ x ∧ x ≤ hi := by
  unfold within
  constructor
  · intro h
    split at h
    · have hx : v.toInt = x := by cases h; omega
      exact ⟨(number_eq_num_iff (by omega)).2 hx, by omega⟩
    · cases h
  · rintro ⟨h, hlo, hx⟩
    rw [number_eq_num_iff (by omega)] at h
    rw [h, if_pos (by omega), Int.toNat_natCast]

theorem numbered_natCast_add {n lo : Nat} (i : Fin n) : numbered n lo ((i.val + lo : Nat) : Int) = some i := by
  have e : (((i.val + lo : Nat) : Int) - lo).toNat = i.val := by omega
  unfold numbered
  rw [dif_pos ⟨by omega, by omega⟩]
  exact congrArg some (Fin.ext e)

theorem numbered_eq_some {n lo : Nat} {x : Int} {i : Fin n} :
    numbered n lo x = some i ↔ x = ((i.val + lo : Nat) : Int) := by
  refine ⟨fun h => ?_, fun h => h ▸ numbered_natCast_add i⟩
  unfold numbered at h
  split at h
  · cases h; simp only; omega
  · cases h

/-! ## Operands read -/

variable {ops : List Operand} {j : Nat}

theorem needWithin_eq_some {lo hi x : Nat} (hhi : hi < 2 ^ 31) :
    needWithin ops j lo hi = some x ↔ operandAt ops j = num x ∧ lo ≤ x ∧ x ≤ hi := by
  unfold needWithin needNumber
  cases operandAt ops j with
  | number v => exact within_eq_some hhi
  | text _ | set _ | absent | unassigned _ => simp [num]

theorem needIndex_eq_some {n lo : Nat} {i : Fin n} (hn : n + lo ≤ 2 ^ 31) :
    needIndex ops j n lo = some i ↔ operandAt ops j = num (i.val + lo) := by
  unfold needIndex needNumber
  cases operandAt ops j with
  | number v => rw [number_eq_num_iff (by omega)]; exact numbered_eq_some
  | text _ | set _ | absent | unassigned _ => simp [num]

theorem optNumber_eq_some_cast {x : Option Nat} (hx : ∀ y ∈ x, y < 2 ^ 31) :
    optNumber ops j = some (x.map Nat.cast) ↔ operandAt ops j = optNum x := by
  unfold optNumber
  cases x with
  | none => cases operandAt ops j <;> simp [optNum]
  | some y =>
    cases operandAt ops j with
    | number v => simpa [optNum] using (number_eq_num_iff (hx y rfl)).symm
    | text _ | set _ | absent | unassigned _ => simp [optNum, num]

theorem optWithin_eq_some {lo hi : Nat} {x : Option Nat} (hhi : hi < 2 ^ 31) :
    optWithin ops j lo hi = some x ↔ operandAt ops j = optNum x ∧ ∀ y ∈ x, lo ≤ y ∧ y ≤ hi := by
  unfold optWithin optNumber
  cases x with
  | none => cases operandAt ops j <;> simp [optNum]
  | some y =>
    cases operandAt ops j with
    | number v => simpa [optNum] using within_eq_some hhi
    | text _ | set _ | absent | unassigned _ => simp [optNum, num]

theorem optIndex_eq_some {n lo : Nat} {i : Option (Fin n)} (hn : n + lo ≤ 2 ^ 31) :
    optIndex ops j n lo = some i ↔ operandAt ops j = optNum (i.map fun i => i.val + lo) := by
  unfold optIndex optNumber
  cases i with
  | none => cases operandAt ops j <;> simp [optNum]
  | some i =>
    cases operandAt ops j with
    | number v =>
      rw [Option.map_some, optNum, number_eq_num_iff (by omega), ← numbered_eq_some]
      simp
    | text _ | set _ | absent | unassigned _ => simp [optNum, num]

/-! ## Appliance letters -/

@[simp] theorem applianceOfByte_letter (x : Appliance) : applianceOfByte x.letter = some x := by
  cases x <;> rfl

theorem applianceOfByte_eq_some {b : Byte} {x : Appliance} : applianceOfByte b = some x ↔ b = x.letter := by
  refine ⟨fun h => ?_, fun h => h ▸ applianceOfByte_letter x⟩
  unfold applianceOfByte at h
  split at h
  · cases h; assumption
  · split at h
    · cases h; assumption
    · split at h
      · cases h; assumption
      · split at h
        · cases h; assumption
        · cases h

theorem Appliance.letter_inj {x y : Appliance} : x.letter = y.letter ↔ x = y :=
  ⟨fun h => by simpa using congrArg applianceOfByte h, congrArg _⟩

/-- The letters of a main and perhaps an alternate, as an operand writes them. -/
theorem letters_inj {m m' : Appliance} {x x' : Option Appliance}
    (h : m.letter :: (x.map Appliance.letter).toList = m'.letter :: (x'.map Appliance.letter).toList) :
    m = m' ∧ x = x' := by
  obtain ⟨hm, hx⟩ := List.cons.inj h
  refine ⟨Appliance.letter_inj.1 hm, ?_⟩
  cases x <;> cases x' <;> simp_all [Appliance.letter_inj]

theorem needLetters_eq_some {m : Appliance} {x : Option Appliance} :
    needLetters ops j = some (m, x)
      ↔ operandAt ops j = .text (m.letter :: (x.map Appliance.letter).toList) ∧ x ≠ some m := by
  unfold needLetters needText
  constructor
  · intro h
    split at h
    · next b hb =>
      split at hb
      · next t ht =>
        cases hb
        obtain ⟨y, hy, e⟩ := Option.map_eq_some_iff.1 h
        cases e
        exact ⟨by rw [ht, applianceOfByte_eq_some.1 hy]; rfl, nofun⟩
      · cases hb
    · next b c hb =>
      split at hb
      · next t ht =>
        cases hb
        split at h
        · next y z hy hz =>
          split at h
          · cases h
          · next hne =>
            cases h
            exact ⟨by rw [ht, applianceOfByte_eq_some.1 hy, applianceOfByte_eq_some.1 hz]; rfl,
              fun e => hne (Option.some.inj e).symm⟩
        · cases h
      · cases hb
    · cases h
  · rintro ⟨h, hne⟩
    rw [h]
    cases x with
    | none => simp
    | some y =>
      have : m ≠ y := fun e => hne (e ▸ rfl)
      simp [this]

/-! ## Operands spelled -/

theorem spells_self (ops : List Operand) : Spells ops ops := ⟨Nat.le_refl _, fun _ _ => rfl⟩

theorem spells_three {a b c : Operand} : Spells [a, b, c] ops ↔
    ops.length ≤ 3 ∧ operandAt ops 0 = a ∧ operandAt ops 1 = b ∧ operandAt ops 2 = c := by
  refine and_congr_right fun _ => ⟨fun h => ⟨h 0 (by simp), h 1 (by simp), h 2 (by simp)⟩, ?_⟩
  rintro ⟨h0, h1, h2⟩ k hk
  have hk : k < 3 := hk
  interval_cases k <;> assumption

theorem spells_six {a b c d e f : Operand} : Spells [a, b, c, d, e, f] ops ↔
    ops.length ≤ 6 ∧ operandAt ops 0 = a ∧ operandAt ops 1 = b ∧ operandAt ops 2 = c ∧ operandAt ops 3 = d
      ∧ operandAt ops 4 = e ∧ operandAt ops 5 = f := by
  refine and_congr_right fun _ => ⟨fun h =>
    ⟨h 0 (by simp), h 1 (by simp), h 2 (by simp), h 3 (by simp), h 4 (by simp), h 5 (by simp)⟩, ?_⟩
  rintro ⟨h0, h1, h2, h3, h4, h5⟩ k hk
  have hk : k < 6 := hk
  interval_cases k <;> assumption

end Sys2Proof.Machine

/-!
SUPPORT. From an order's verdict to what its command does.
-/

namespace Sys2Proof.Machine

open Sys2Proof

theorem leads_of_taking {c : Instr} {s : State} {f : Part → Part} {P : Part → Prop} (hc : exec c s = s.taking f)
    (h : P (f s.toPart)) : Leads c s P :=
  ⟨{ s with toPart := f s.toPart }, hc, rfl, h⟩

@[simp] theorem Part.working_resolver (p : Part) (l : Line) (code : Byte) (ops : List Operand) :
    (p.working l code ops).resolver = p.resolver := by
  rw [p.working_frame l code ops]

section
variable {c : Instr} {l : Line} {s : State} {code : Byte} {ops : List Operand} {order : Part → Verdict}

theorem refuses_of_verdict {why : Reason} {results : List Operand} (hs : s.condition = .running)
    (hc : exec c s = s.taking (Part.orderEvent l code ops order))
    (hv : order (s.toPart.working l code ops) = .refused why results) : Refuses c l s why results :=
  leads_of_taking hc (Part.orderEvent_refused hs l code ops order why results hv)

/-- An order that changes the plan resolver alone. -/
theorem takes_of_onResolver {f : Resolver → Resolver} {results : List Operand} (hs : s.condition = .running)
    (hc : exec c s = s.taking (Part.orderEvent l code ops order))
    (hv : order (s.toPart.working l code ops) = .taken ((s.toPart.working l code ops).onResolver f) results) :
    Takes c l s results 0#16 { s.toPart with resolver := f s.resolver } := by
  refine leads_of_taking hc ?_
  rw [Part.orderEvent_taken hs l code ops order _ results hv]
  refine ⟨s.toPart.sendReply_answered _ l code ops none results 0#16 (by simp [Lines.all]), ?_⟩
  have hw := s.toPart.working_frame l code ops
  generalize s.toPart.working l code ops = w at hw
  rw [hw]
  rfl

/-- An order that changes nothing. -/
theorem takes_of_unchanged {results : List Operand} (hs : s.condition = .running)
    (hc : exec c s = s.taking (Part.orderEvent l code ops order))
    (hv : order (s.toPart.working l code ops) = .taken (s.toPart.working l code ops) results) :
    Takes c l s results 0#16 s.toPart :=
  takes_of_onResolver (f := id) hs hc hv

end

/-! ## The checks before an order's own -/

section
variable {arity declared : Nat} {body : Verdict}

theorem checked_of_le (ha : arity ≤ 8) (h : declared ≤ arity) :
    checked (consoleOnly .console) arity declared body = body := by
  have h8 : ¬ 8 < declared := by omega
  simp [checked, consoleOnly, h8, h]

theorem checked_of_lt (h : arity < declared) : checked (consoleOnly .console) arity declared body = badOperand := by
  simp [checked, consoleOnly, h]

theorem checked_badOperand : checked (consoleOnly .console) arity declared badOperand = badOperand := by
  simp [checked, consoleOnly]

end

end Sys2Proof.Machine

/-!
PROOF. EDIT-CLASS and EDIT-ZONE (R37, R38): each is taken for the operands that spell one of its forms, and for no other.
-/

namespace Sys2Proof.Machine

open Sys2Proof

/-! ## EDIT-CLASS (R37) -/

/-- The form code of a class entry. -/
def ClassEntry.form : ClassEntry → Nat
  | .unused => 0
  | .direct _ => 1
  | .byZone _ => 2

/-- The plan or map number that goes with the form. -/
def ClassEntry.value : ClassEntry → Option Nat
  | .unused => none
  | .direct n => some (n.val + 1)
  | .byZone m => some (m.val + 1)

theorem classResults_eq (k : ClassId) (e : ClassEntry) : classResults k e = [num k.val, num e.form, optNum e.value] := by
  cases e <;> rfl

theorem ClassEntry.value_lt (e : ClassEntry) : ∀ y ∈ e.value, y < 2 ^ 31 := by
  cases e with
  | unused => exact nofun
  | direct n | byZone n => rintro _ ⟨⟩; omega

theorem ClassEntry.form_lt (e : ClassEntry) : ∀ y ∈ some e.form, y < 2 ^ 31 := by
  cases e <;> simp [form]

theorem classEdit_spelled (e : ClassEntry) : classEdit (some (e.form : Int)) (e.value.map Nat.cast) = some (some e) := by
  cases e with
  | unused => rfl
  | direct n => exact congrArg (Option.map _) (numbered_natCast_add n)
  | byZone m => exact congrArg (Option.map _) (numbered_natCast_add m)

theorem exists_of_numbered_ne_none {n : Nat} {v : Option Int} {α : Type} {g : Fin n → α}
    (h : (v.bind (numbered n 1)).map g ≠ none) : ∃ i : Fin n, v = some ((i.val + 1 : Nat) : Int) := by
  cases v with
  | none => exact absurd rfl h
  | some x =>
    obtain ⟨i, hi⟩ := Option.ne_none_iff_exists'.1 fun e : numbered n 1 x = none => h (congrArg (Option.map g) e)
    exact ⟨i, congrArg some (numbered_eq_some.1 hi)⟩

/-- A form and a value that are not refused are both absent, or are those of an entry. -/
theorem classEdit_of_ne_none {f v : Option Int} (h : classEdit f v ≠ none) :
    (f = none ∧ v = none) ∨ ∃ e : ClassEntry, f = some (e.form : Int) ∧ v = e.value.map Nat.cast := by
  unfold classEdit at h
  cases f with
  | none => cases v <;> simp_all
  | some f =>
    simp only at h
    split at h
    · next hf => exact .inr ⟨.unused, by simp [hf, ClassEntry.form], by cases v <;> simp_all [ClassEntry.value]⟩
    · split at h
      · next hf =>
        obtain ⟨n, rfl⟩ := exists_of_numbered_ne_none h
        exact .inr ⟨.direct n, by simp [hf, ClassEntry.form], rfl⟩
      · split at h
        · next hf =>
          obtain ⟨m, rfl⟩ := exists_of_numbered_ne_none h
          exact .inr ⟨.byZone m, by simp [hf, ClassEntry.form], rfl⟩
        · exact absurd rfl h

section
variable {ops : List Operand} (p : Part)

theorem editClassOrder_reads {k : ClassId} (h : Spells [num k.val, .absent, .absent] ops) :
    editClassOrder .console ops.length ops p = .taken p (classResults k (p.resolver.classes.get k)) := by
  obtain ⟨hlen, h0, h1, h2⟩ := spells_three.1 h
  have hk : needIndex ops 0 64 0 = some k := (needIndex_eq_some (by omega)).2 h0
  have hf : optNumber ops 1 = some none := (optNumber_eq_some_cast (x := none) nofun).2 h1
  have hv : optNumber ops 2 = some none := (optNumber_eq_some_cast (x := none) nofun).2 h2
  unfold editClassOrder
  rw [checked_of_le (by omega) hlen, hk, hf, hv]
  rfl

theorem editClassOrder_replaces {k : ClassId} {e : ClassEntry} (h : Spells (classResults k e) ops) :
    editClassOrder .console ops.length ops p = .taken (p.setClass k e) (classResults k e) := by
  rw [classResults_eq] at h
  obtain ⟨hlen, h0, h1, h2⟩ := spells_three.1 h
  have hk : needIndex ops 0 64 0 = some k := (needIndex_eq_some (by omega)).2 h0
  have hf : optNumber ops 1 = some (some (e.form : Int)) := (optNumber_eq_some_cast e.form_lt).2 h1
  have hv : optNumber ops 2 = some (e.value.map Nat.cast) := (optNumber_eq_some_cast e.value_lt).2 h2
  unfold editClassOrder
  rw [checked_of_le (by omega) hlen, hk, hf, hv]
  simp only [classEdit_spelled]

theorem editClassOrder_refused (hread : ∀ k : ClassId, ¬ Spells [num k.val, .absent, .absent] ops)
    (hedit : ∀ k e, ¬ Spells (classResults k e) ops) : editClassOrder .console ops.length ops p = badOperand := by
  unfold editClassOrder
  by_cases hlen : ops.length ≤ 3
  · split
    · next k f v hk hf hv =>
      have h0 := (needIndex_eq_some (by omega)).1 hk
      have unread : classEdit f v = none := by
        by_contra hne
        rcases classEdit_of_ne_none hne with ⟨rfl, rfl⟩ | ⟨e, rfl, rfl⟩
        · have h1 := (optNumber_eq_some_cast (x := none) nofun).1 hf
          have h2 := (optNumber_eq_some_cast (x := none) nofun).1 hv
          exact hread k (spells_three.2 ⟨hlen, h0, h1, h2⟩)
        · have h1 := (optNumber_eq_some_cast e.form_lt).1 hf
          have h2 := (optNumber_eq_some_cast e.value_lt).1 hv
          exact hedit k e (classResults_eq k e ▸ spells_three.2 ⟨hlen, h0, h1, h2⟩)
      rw [unread]
      exact checked_badOperand
    · exact checked_badOperand
  · exact checked_of_lt (by omega)

end

theorem execEditClass_eq (ops : List Operand) (s : State) : exec (.editClass .console ops) s
    = s.taking (Part.orderEvent .console 25#8 ops (editClassOrder .console ops.length ops)) := rfl

/-- The operands R37 refuses spell neither a read nor an entry. -/
theorem not_spells_class {ops : List Operand} (h : 3 < ops.length ∨ ¬ NumberIn (operandAt ops 0) 0 63
    ∨ ¬ AbsentOrIn (operandAt ops 1) 0 2 ∨ ¬ NumberOrAbsent (operandAt ops 2)
    ∨ (operandAt ops 1 = .absent ∧ operandAt ops 2 ≠ .absent)
    ∨ (NumberIn (operandAt ops 1) 0 0 ∧ operandAt ops 2 ≠ .absent)
    ∨ (NumberIn (operandAt ops 1) 1 1 ∧ ¬ NumberIn (operandAt ops 2) 1 48)
    ∨ (NumberIn (operandAt ops 1) 2 2 ∧ ¬ NumberIn (operandAt ops 2) 1 8)) (k : ClassId) :
    ¬ Spells [num k.val, .absent, .absent] ops ∧ ∀ e, ¬ Spells (classResults k e) ops := by
  constructor
  · intro hread
    obtain ⟨hlen, h0, h1, h2⟩ := spells_three.1 hread
    rw [h0, h1, h2] at h
    simp (disch := omega) [numberIn_num] at h
    omega
  · intro e hedit
    rw [classResults_eq] at hedit
    obtain ⟨hlen, h0, h1, h2⟩ := spells_three.1 hedit
    rw [h0, h1, h2] at h
    cases e with
    | unused | direct _ | byZone _ =>
      simp (disch := omega) [numberIn_num, absentOrIn_num, ClassEntry.form, ClassEntry.value, optNum] at h
      omega

/-! ## EDIT-ZONE (R38) -/

section
variable {ops : List Operand} (p : Part)

/-- The plan operand of EDIT-ZONE: 0 for no plan. -/
def zonePlanNumber (n : Option PlanId) : Nat :=
  (n.map fun n => n.val + 1).getD 0

theorem planResult_eq (n : Option PlanId) : planResult n = num (zonePlanNumber n) := rfl

theorem zonePlanNumber_le (n : Option PlanId) : zonePlanNumber n ≤ 48 := by
  cases n <;> simp only [zonePlanNumber, Option.map_none, Option.map_some, Option.getD_none, Option.getD_some] <;> omega

theorem numbered_zonePlanNumber (n : Option PlanId) : numbered 48 1 (zonePlanNumber n : Int) = n := by
  cases n with
  | none => rfl
  | some n => exact numbered_natCast_add n

theorem ZoneMap.effective_eq (m : ZoneMap) (z : ZoneId) :
    m.effective z = if (m.zones.get z).isSome then m.zones.get z else m.default := by
  unfold effective
  cases m.zones.get z <;> rfl

theorem editZoneOrder_reads {k : MapId} {z : Option ZoneId}
    (h : Spells [num (k.val + 1), optNum (z.map Fin.val), .absent] ops) :
    editZoneOrder .console ops.length ops p = .taken p (zoneResults k z (p.resolver.maps.get k)) := by
  obtain ⟨hlen, h0, h1, h2⟩ := spells_three.1 h
  have hk : needIndex ops 0 8 1 = some k := (needIndex_eq_some (by omega)).2 h0
  have hz : optIndex ops 1 32 0 = some z := (optIndex_eq_some (by omega)).2 h1
  have hn : optWithin ops 2 0 48 = some none := (optWithin_eq_some (by omega)).2 ⟨h2, nofun⟩
  unfold editZoneOrder
  rw [checked_of_le (by omega) hlen, hk, hz, hn]

theorem editZoneOrder_sets {k : MapId} {z : Option ZoneId} {n : Option PlanId}
    (h : Spells [num (k.val + 1), optNum (z.map Fin.val), planResult n] ops) :
    editZoneOrder .console ops.length ops p
      = let m := (p.resolver.maps.get k).setAt z n
        .taken (p.onResolver fun r => { r with maps := r.maps.set k m }) (zoneResults k z m) := by
  obtain ⟨hlen, h0, h1, h2⟩ := spells_three.1 h
  have hk : needIndex ops 0 8 1 = some k := (needIndex_eq_some (by omega)).2 h0
  have hz : optIndex ops 1 32 0 = some z := (optIndex_eq_some (by omega)).2 h1
  have hn : optWithin ops 2 0 48 = some (some (zonePlanNumber n)) :=
    (optWithin_eq_some (by omega)).2
      ⟨h2.trans (planResult_eq n), by rintro _ ⟨⟩; exact ⟨Nat.zero_le _, zonePlanNumber_le n⟩⟩
  unfold editZoneOrder
  rw [checked_of_le (by omega) hlen, hk, hz, hn]
  simp only [numbered_zonePlanNumber]

/-- The operands R38 refuses: one of them does not read as a map, a zone or a plan, or there are too many. -/
theorem editZoneOrder_refused (h : 3 < ops.length ∨ ¬ NumberIn (operandAt ops 0) 1 8
    ∨ ¬ AbsentOrIn (operandAt ops 1) 0 31 ∨ ¬ AbsentOrIn (operandAt ops 2) 0 48) : editZoneOrder .console ops.length ops p = badOperand := by
  unfold editZoneOrder
  by_cases hlen : ops.length ≤ 3
  · split
    · next k z n hk hz hn =>
      have h0 := (needIndex_eq_some (by omega)).1 hk
      have h1 := (optIndex_eq_some (by omega)).1 hz
      obtain ⟨h2, hn⟩ := (optWithin_eq_some (by omega)).1 hn
      have hz (y : Nat) (hy : y ∈ z.map fun i => i.val + 0) : y ≤ 31 := by
        obtain ⟨i, -, rfl⟩ := Option.map_eq_some_iff.1 hy
        omega
      rcases h with h | h | h | h
      · omega
      · exact absurd ((numberIn_num (by omega) _ _).2 (by omega)) (h0 ▸ h)
      · exact absurd ((absentOrIn_optNum (fun y hy => by have := hz y hy; omega) _ _).2
          fun y hy => by have := hz y hy; omega) (h1 ▸ h)
      · exact absurd ((absentOrIn_optNum (fun y hy => by have := hn y hy; omega) _ _).2
          fun y hy => by have := hn y hy; omega) (h2 ▸ h)
    · exact checked_badOperand
  · exact checked_of_lt (by omega)

end

theorem execEditZone_eq (ops : List Operand) (s : State) : exec (.editZone .console ops) s
    = s.taking (Part.orderEvent .console 26#8 ops (editZoneOrder .console ops.length ops)) := rfl

/-- Settles O40: each order is taken for just the operands that spell one of its forms. -/
theorem editClassAndZone : Obligations.EditClassAndZone := by
  unfold Obligations.EditClassAndZone
  intro s hs
  refine ⟨fun k e ops => ?_, fun ops h => ?_, fun k z n ops => ?_, fun ops h => ?_⟩
  · have edits (h : Spells (classResults k e) ops) :=
      takes_of_onResolver (f := fun r => { r with classes := r.classes.set k e }) hs (execEditClass_eq ops s)
        (editClassOrder_replaces _ h)
    have reads (h : Spells [num k.val, .absent, .absent] ops) (he : s.resolver.classes.get k = e) :
        Takes (.editClass .console ops) .console s (classResults k e) 0#16 s.toPart :=
      takes_of_unchanged hs (execEditClass_eq ops s) (by rw [editClassOrder_reads _ h, Part.working_resolver, he])
    cases e with
    | unused | direct _ | byZone _ => exact ⟨edits, reads⟩
  · exact refuses_of_verdict hs (execEditClass_eq ops s)
      (editClassOrder_refused _ (fun k => (not_spells_class h k).1) fun k => (not_spells_class h k).2)
  · have sets (h : Spells [num (k.val + 1), optNum (z.map Fin.val), planResult n] ops) :=
      takes_of_onResolver hs (execEditZone_eq ops s) (editZoneOrder_sets _ h)
    have reads (h : Spells [num (k.val + 1), optNum (z.map Fin.val), .absent] ops) :=
      takes_of_unchanged hs (execEditZone_eq ops s) (editZoneOrder_reads _ h)
    rw [Part.working_resolver] at sets reads
    cases z with
    | none => exact ⟨sets, reads⟩
    | some z =>
      simp only [zoneResults, ZoneMap.effectiveAt, ZoneMap.effective_eq] at sets reads
      exact ⟨sets, reads⟩
  · exact refuses_of_verdict hs (execEditZone_eq ops s) (editZoneOrder_refused _ h)
end Sys2Proof.Machine

/-!
PROOF. The part ENTRY of EDIT-PLAN (R40): it is taken for just the operands that spell an entry that fits its plan at its
place, and for no other.
-/

namespace Sys2Proof.Machine

open Sys2Proof

/-- The entries of a plan, none while it is UNDEFINED. -/
def Part.entriesOf (p : Part) (n : PlanId) : List PlanEntry :=
  ((p.plan? n).map Plan.entries).getD []

/-- What R40 asks of an entry that is to stand at index `k` (from 1) of plan `n`. -/
def Part.EntryFits (p : Part) (n : PlanId) (k : Nat) (e : PlanEntry) : Prop :=
  1 ≤ k ∧ k ≤ (p.entriesOf n).length + 1 ∧ k ≤ 3 ∧ e.alternate ≠ some e.main
    ∧ e.need.oic ≤ 1 ∧ e.need.drv ≤ 1 ∧ e.need.ba ≤ 4 ∧ e.need.gen ≤ 4
    ∧ e.need.sum ≠ 0 ∧ e.need.sum ≤ (p.appliance e.main).seats
    ∧ (∀ x ∈ e.alternate, e.need.sum ≤ (p.appliance x).seats)
    ∧ ∀ x ∈ (p.entriesOf n).take (k - 1) ++ (p.entriesOf n).drop k, x.main ≠ e.main

/-- Plan `n` with the entry at index `k`: replaced there or appended, or the plan the entry defines. -/
def Part.entered (p : Part) (n : PlanId) (k : Nat) (e : PlanEntry) : Plan :=
  ((p.plan? n).map (Plan.putEntry (k - 1) e)).getD (.define e)

theorem Part.entered_of_undefined {p : Part} {n : PlanId} (h : p.plan? n = none) (k : Nat) (e : PlanEntry) :
    p.entered n k e = .define e := by
  simp [entered, h]

theorem Part.entered_of_defined {p : Part} {n : PlanId} {k : Nat} {pl : Plan} (h : p.plan? n = some pl) (hk : 1 ≤ k)
    (e : PlanEntry) :
    p.entered n k e = { pl with entries := pl.entries.take (k - 1) ++ e :: pl.entries.drop k } := by
  simp [entered, h, Plan.putEntry, Nat.sub_add_cancel hk]

/-- The operands that give an entry with its index. -/
def entryOperands (k : Nat) (e : PlanEntry) : List Operand :=
  num k :: entryResults e

variable {p : Part} {n : PlanId} {k : Nat} {e : PlanEntry} {ops : List Operand}

theorem Part.seatsSuffice_iff : p.seatsSuffice e = true
    ↔ e.need.sum ≤ (p.appliance e.main).seats ∧ ∀ x ∈ e.alternate, e.need.sum ≤ (p.appliance x).seats := by
  unfold seatsSuffice
  cases e.alternate <;> simp

theorem mainElsewhere_eq_false_iff {ap : Appliance} {es : List PlanEntry} :
    mainElsewhere k ap es = false ↔ ∀ x ∈ es.take k ++ es.drop (k + 1), x.main ≠ ap := by
  simp only [mainElsewhere, List.any_eq_false, beq_iff_eq, ne_eq]

theorem spells_entryOperands : Spells (entryOperands k e) ops ↔
    ops.length ≤ 6 ∧ operandAt ops 0 = num k
      ∧ operandAt ops 1 = .text (e.main.letter :: (e.alternate.map Appliance.letter).toList)
      ∧ operandAt ops 2 = num e.need.oic ∧ operandAt ops 3 = num e.need.drv
      ∧ operandAt ops 4 = num e.need.ba ∧ operandAt ops 5 = num e.need.gen :=
  spells_six

theorem planEntry_taken (h : Spells (entryOperands k e) ops) (hfit : p.EntryFits n k e) :
    planEntry n ops p = p.planTaken n (some (p.entered n k e)) := by
  obtain ⟨hlen, h0, h1, h2, h3, h4, h5⟩ := spells_entryOperands.1 h
  obtain ⟨hk1, hk, hk3, halt, hoic, hdrv, hba, hgen, hsum, hmain, hother, helse⟩ := hfit
  have hindex : needWithin ops 0 1 (min 3 ((p.entriesOf n).length + 1)) = some k :=
    (needWithin_eq_some (by omega)).2 ⟨h0, by omega⟩
  have count {j x hi : Nat} (ho : operandAt ops j = num x) (hx : x ≤ hi) (hhi : hi < 2 ^ 31) :
      needWithin ops j 0 hi = some x :=
    (needWithin_eq_some hhi).2 ⟨ho, Nat.zero_le _, hx⟩
  have hseats : p.seatsSuffice e = true := Part.seatsSuffice_iff.2 ⟨hmain, hother⟩
  have hnone : mainElsewhere (k - 1) e.main (p.entriesOf n) = false := by
    rw [mainElsewhere_eq_false_iff, Nat.sub_add_cancel hk1]
    exact helse
  unfold Part.entriesOf at hindex hnone
  simp only [planEntry, if_neg (Nat.not_lt.2 hlen), hindex, needLetters_eq_some.2 ⟨h1, halt⟩,
    count h2 hoic (by omega), count h3 hdrv (by omega), count h4 hba (by omega), count h5 hgen (by omega)]
  rw [if_neg (by simp [hsum, hseats, hnone])]
  unfold Part.entered
  cases p.plan? n <;> rfl

theorem planEntry_refused (h : ∀ k e, Spells (entryOperands k e) ops → ¬ p.EntryFits n k e) :
    planEntry n ops p = badOperand := by
  unfold planEntry
  simp only
  split
  · rfl
  · next hlen =>
    split
    · next k main alternate oic drv ba gen hk hl h2 h3 h4 h5 =>
      obtain ⟨h0, hk1, hk⟩ := (needWithin_eq_some (by omega)).1 hk
      obtain ⟨h1, halt⟩ := needLetters_eq_some.1 hl
      obtain ⟨h2, -, hoic⟩ := (needWithin_eq_some (by omega)).1 h2
      obtain ⟨h3, -, hdrv⟩ := (needWithin_eq_some (by omega)).1 h3
      obtain ⟨h4, -, hba⟩ := (needWithin_eq_some (by omega)).1 h4
      obtain ⟨h5, -, hgen⟩ := (needWithin_eq_some (by omega)).1 h5
      refine if_pos (by_contra fun hok => ?_)
      simp only [not_or, Bool.not_eq_false, Bool.not_eq_true] at hok
      obtain ⟨hsum, hseats, helse⟩ := hok
      obtain ⟨hmain, hother⟩ := Part.seatsSuffice_iff.1 hseats
      rw [mainElsewhere_eq_false_iff, Nat.sub_add_cancel hk1] at helse
      exact h k ⟨main, alternate, ⟨oic, drv, ba, gen⟩⟩
        (spells_entryOperands.2 ⟨by omega, h0, h1, h2, h3, h4, h5⟩)
        ⟨hk1, by unfold Part.entriesOf; omega, by omega, halt, hoic, hdrv, hba, hgen, hsum, hmain, hother, helse⟩
    · rfl

/-- Operands within a word's range spell one entry at one index. -/
theorem entryOperands_inj {k' : Nat} {e' : PlanEntry} (h : Spells (entryOperands k' e') (entryOperands k e))
    (hlt : k < 2 ^ 31 ∧ e.need.oic < 2 ^ 31 ∧ e.need.drv < 2 ^ 31 ∧ e.need.ba < 2 ^ 31 ∧ e.need.gen < 2 ^ 31)
    (hfit : p.EntryFits n k' e') : k' = k ∧ e' = e := by
  obtain ⟨-, h0, h1, h2, h3, h4, h5⟩ := spells_entryOperands.1 h
  obtain ⟨-, -, hk3, -, hoic, hdrv, hba, hgen, -⟩ := hfit
  obtain ⟨hk, hoic', hdrv', hba', hgen'⟩ := hlt
  obtain ⟨hmain, halt⟩ := letters_inj (Operand.text.inj h1)
  have ek := (num_inj hk (by omega)).1 h0
  have eoic := (num_inj hoic' (by omega)).1 h2
  have edrv := (num_inj hdrv' (by omega)).1 h3
  have eba := (num_inj hba' (by omega)).1 h4
  have egen := (num_inj hgen' (by omega)).1 h5
  obtain ⟨main, alternate, oic, drv, ba, gen⟩ := e
  obtain ⟨main', alternate', oic', drv', ba', gen'⟩ := e'
  subst hmain halt eoic edrv eba egen
  exact ⟨ek.symm, rfl⟩

/-! ## The command -/

variable {s : State}

theorem execEditPlanEntry_eq (plan : Operand) (ops : List Operand) (s : State) :
    exec (.editPlanEntry .console plan ops) s
      = s.taking (Part.orderEvent .console 24#8 (plan :: num 3 :: ops)
          (editPlanPart .console (ops.length + 2) plan fun n => planEntry n ops)) := rfl

theorem editPlanPart_of_le {d : Nat} (hd : d ≤ 8) (n : PlanId) (body : PlanId → Part → Verdict) (p : Part) :
    editPlanPart .console d (num (n.val + 1)) body p = body n p := by
  have hn : needIndex [num (n.val + 1)] 0 48 1 = some n := (needIndex_eq_some (by omega)).2 rfl
  unfold editPlanPart
  rw [checked_of_le (Nat.le_refl _) hd, hn]

theorem editPlanPart_of_lt {d : Nat} (hd : 8 < d) (plan : Operand) (body : PlanId → Part → Verdict) (p : Part) :
    editPlanPart .console d plan body p = badOperand :=
  checked_of_lt hd

theorem Part.entryFits_working {l : Line} {code : Byte} {given : List Operand} :
    (p.working l code given).EntryFits n k e ↔ p.EntryFits n k e := by
  simp only [EntryFits, entriesOf, plan?, appliance, working_resolver]

theorem Part.entered_working {l : Line} {code : Byte} {given : List Operand} :
    (p.working l code given).entered n k e = p.entered n k e := by
  simp only [entered, plan?, working_resolver]

theorem editPlanEntry_takes (hs : s.condition = .running) (h : Spells (entryOperands k e) ops)
    (hfit : s.toPart.EntryFits n k e) {pl : Plan} (hpl : s.toPart.entered n k e = pl) :
    Takes (.editPlanEntry .console (num (n.val + 1)) ops) .console s (planResults n (some pl)) 0#16
      { s.toPart with resolver := { s.resolver with plans := s.resolver.plans.set n (some pl) } } := by
  have hlen : ops.length ≤ 6 := h.1
  refine takes_of_onResolver (f := fun r => { r with plans := r.plans.set n (some pl) }) hs (execEditPlanEntry_eq _ _ _) ?_
  rw [editPlanPart_of_le (by omega), planEntry_taken h (Part.entryFits_working.2 hfit), Part.entered_working, hpl]
  rfl

theorem editPlanEntry_refuses (hs : s.condition = .running)
    (h : ∀ k e, Spells (entryOperands k e) ops → ¬ s.toPart.EntryFits n k e) :
    Refuses (.editPlanEntry .console (num (n.val + 1)) ops) .console s .badOperand [] := by
  refine refuses_of_verdict hs (execEditPlanEntry_eq _ _ _) ?_
  by_cases hlen : ops.length ≤ 6
  · rw [editPlanPart_of_le (by omega), planEntry_refused fun k e hsp => mt Part.entryFits_working.1 (h k e hsp)]
    rfl
  · exact editPlanPart_of_lt (by omega) _ _ _

/-- A count operand that is no number from 0 up spells no entry that fits. -/
theorem not_entryFits_of_count {j : Nat} (hj : 2 ≤ j ∧ j ≤ 5) (h : ¬ NumberIn (operandAt ops j) 0 4)
    (hsp : Spells (entryOperands k e) ops) : ¬ p.EntryFits n k e := by
  rintro ⟨-, -, -, -, hoic, hdrv, hba, hgen, -⟩
  obtain ⟨-, -, -, h2, h3, h4, h5⟩ := spells_entryOperands.1 hsp
  have count {x : Nat} (ho : operandAt ops j = num x) (hx : x ≤ 4) : False :=
    h (ho ▸ (numberIn_num (by omega) _ _).2 (by omega))
  obtain rfl | rfl | rfl | rfl : j = 2 ∨ j = 3 ∨ j = 4 ∨ j = 5 := by omega
  · exact count h2 (by omega)
  · exact count h3 (by omega)
  · exact count h4 (by omega)
  · exact count h5 (by omega)

theorem operandAt_set_self {j : Nat} (hj : j < ops.length) (o : Operand) : operandAt (ops.set j o) j = o := by
  simp [operandAt, hj]

/-- Letters that are not a main alone or with another appliance spell no entry that fits. -/
theorem not_entryFits_of_letters {t : Text} (ht : operandAt ops 1 = .text t) (hone : ∀ x : Appliance, t ≠ [x.letter])
    (htwo : ∀ x y : Appliance, x ≠ y → t ≠ [x.letter, y.letter]) (hsp : Spells (entryOperands k e) ops) :
    ¬ p.EntryFits n k e := by
  rintro ⟨-, -, -, halt, -⟩
  obtain ⟨-, -, h1, -⟩ := spells_entryOperands.1 hsp
  have e1 := Operand.text.inj (ht.symm.trans h1)
  cases ha : e.alternate with
  | none => exact hone e.main (by rw [e1, ha]; rfl)
  | some x => exact htwo e.main x (fun h => halt (by rw [ha, h])) (by rw [e1, ha]; rfl)

theorem not_entryFits_of_index (h : ¬ NumberIn (operandAt ops 0) 1 3) (hsp : Spells (entryOperands k e) ops) :
    ¬ p.EntryFits n k e := by
  rintro ⟨hk1, -, hk3, -⟩
  obtain ⟨-, h0, -⟩ := spells_entryOperands.1 hsp
  exact h (h0 ▸ (numberIn_num (by omega) _ _).2 (by omega))

theorem entryResults_eq_match : entryResults = fun e =>
    [.text (match e.alternate with | none => [e.main.letter] | some x => [e.main.letter, x.letter]),
     num e.need.oic, num e.need.drv, num e.need.ba, num e.need.gen] := by
  funext e
  unfold entryResults
  cases e.alternate <;> rfl

/-- The record answered (R39), its letters read off the main and the alternate. -/
theorem planResults_some (n : PlanId) (pl : Plan) : planResults n (some pl) =
    [num (n.val + 1), num 1, num pl.entries.length, num pl.window, num pl.turnout, num pl.sirenPolicy.code,
     num (pl.sirenPattern.val + 1), .text pl.template, .set pl.primary, .set pl.secondary]
      ++ pl.entries.flatMap fun e =>
        [.text (match e.alternate with | none => [e.main.letter] | some x => [e.main.letter, x.letter]),
         num e.need.oic, num e.need.drv, num e.need.ba, num e.need.gen] :=
  entryResults_eq_match ▸ rfl

/-- Settles O42: the order is taken just when its operands spell an entry that fits. -/
theorem editPlanEntry : Obligations.EditPlanEntry := by
  unfold Obligations.EditPlanEntry
  intro s n k main alternate need hs hk hoic hdrv hba hgen
  refine ⟨?_, fun j h2 h5 => ⟨?_, fun v hv => ?_⟩, fun t rest hone htwo => ?_, fun x rest hx => ?_, fun given hlen => ?_⟩
  · let e : PlanEntry := { main := main, alternate := alternate, need := need }
    have hself : Spells (entryOperands k e) (entryOperands k e) := spells_self _
    split
    · next hfit =>
      have taken {pl : Plan} (hpl : s.toPart.entered n k e = pl) := editPlanEntry_takes hs hself hfit hpl
      simp only [planResults_some] at taken
      cases hp : s.plan? n with
      | none => exact taken (Part.entered_of_undefined hp k e)
      | some pl => exact taken (Part.entered_of_defined hp hfit.1 e)
    · next hunfit =>
      refine editPlanEntry_refuses hs fun k' e' hsp hfit => hunfit ?_
      obtain ⟨rfl, rfl⟩ := entryOperands_inj (e := e) hsp ⟨hk, hoic, hdrv, hba, hgen⟩ hfit
      exact hfit
  · refine editPlanEntry_refuses hs fun k e => not_entryFits_of_count ⟨h2, h5⟩ ?_
    rw [operandAt_set_self (by simp; omega)]
    exact numberIn_absent _ _
  · refine editPlanEntry_refuses hs fun k e => not_entryFits_of_count ⟨h2, h5⟩ ?_
    rw [operandAt_set_self (by simp; omega), numberIn_number]
    omega
  · exact editPlanEntry_refuses hs fun k e => not_entryFits_of_letters rfl hone htwo
  · refine editPlanEntry_refuses hs fun k e => not_entryFits_of_index ?_
    show ¬ NumberIn (.number x) 1 3
    rw [numberIn_number]
    omega
  · refine editPlanEntry_refuses hs fun k e hsp => absurd hsp.1 ?_
    exact Nat.not_le.2 hlen

end Sys2Proof.Machine

/-!
PROOF. SIREN and SIREN-STOP (R165, R166, R167): what a request comes to, by the supply state and the run in progress, the
operands SIREN is taken for, and the end of a run.
-/

namespace Sys2Proof.Machine

open Sys2Proof

/-! ## Taken orders that write the siren run -/

@[simp] theorem Part.working_station (p : Part) (l : Line) (code : Byte) (ops : List Operand) :
    (p.working l code ops).station = p.station := by
  rw [p.working_frame l code ops]

@[simp] theorem Part.working_supply (p : Part) (l : Line) (code : Byte) (ops : List Operand) :
    (p.working l code ops).supply = p.supply := by
  rw [p.working_frame l code ops]

section
variable {c : Instr} {l : Line} {s : State} {code : Byte} {ops : List Operand} {order : Part → Verdict}

/-- An order that leaves `after`, but for the lines and the restart, which stay as they were when it was worked. -/
theorem takes_of_taken {q after : Part} {results : List Operand} (hs : s.condition = .running)
    (hc : exec c s = s.taking (Part.orderEvent l code ops order))
    (hv : order (s.toPart.working l code ops) = .taken q results)
    (hq : q = { after with lines := (s.toPart.working l code ops).lines, restart := (s.toPart.breakOff l).restart }) :
    Takes c l s results 0#16 after := by
  refine leads_of_taking hc ?_
  rw [Part.orderEvent_taken hs l code ops order q results hv]
  subst hq
  exact ⟨s.toPart.sendReply_answered _ l code ops none results 0#16 (by simp [Lines.all]), rfl⟩

theorem takes_of_setRun {r : Option SirenRun} {results : List Operand} (hs : s.condition = .running)
    (hc : exec c s = s.taking (Part.orderEvent l code ops order))
    (hv : order (s.toPart.working l code ops) = .taken ((s.toPart.working l code ops).setRun r) results) :
    Takes c l s results 0#16 (s.toPart.setRun r) :=
  takes_of_taken hs hc hv (congrArg (Part.setRun r) (s.toPart.working_frame l code ops))

/-- What a taken order leaves, read off the part after it. -/
theorem Takes.leads {results : List Operand} {raised : Set16} {after : Part} {P : Part → Prop}
    (h : Takes c l s results raised after)
    (hP : ∀ lines restart, P { after with lines := lines, restart := restart }) : Leads c s P := by
  obtain ⟨t, hexec, hpending, -, ht⟩ := h
  exact ⟨t, hexec, hpending, ht ▸ hP _ _⟩

end

/-! ## The checks before an order's own, on an order of any line -/

section
variable {l : Line} {arity declared : Nat} {body : Verdict}

theorem checked_anyLine_of_le (ha : arity ≤ 8) (h : declared ≤ arity) :
    checked (anyLine l) arity declared body = body := by
  have h8 : ¬ 8 < declared := by omega
  simp [checked, anyLine, h8, h]

theorem checked_anyLine_of_lt (h : arity < declared) : checked (anyLine l) arity declared body = badOperand := by
  simp [checked, anyLine, h]

end

/-! ## A siren request (R165) -/

section
variable {p : Part} {pat : PatternId} {n : Nat} {r : SirenRun}

theorem Part.sirenRequest_dropped (h : p.supply.state = .reserve) :
    p.sirenRequest pat n = p ∧ p.sirenOutcome = .dropped :=
  ⟨if_pos h, if_pos h⟩

theorem Part.sirenRequest_started (h : p.supply.state ≠ .reserve) (hr : p.station.run = none) :
    p.sirenRequest pat n = p.setRun (some (p.beginPeriod pat none n)) ∧ p.sirenOutcome = .started := by
  simp [sirenRequest, sirenOutcome, h, hr]

theorem Part.sirenRequest_merged (h : p.supply.state ≠ .reserve) (hr : p.station.run = some r) :
    p.sirenRequest pat n = p.setRun (some (r.merge pat n)) ∧ p.sirenOutcome = .merged := by
  simp [sirenRequest, sirenOutcome, h, hr]

/-- A request on the part an order is worked on: that part's lines and restart stay. -/
theorem Part.sirenRequest_working (p : Part) (l : Line) (code : Byte) (ops : List Operand) :
    (p.working l code ops).sirenRequest pat n = { p.sirenRequest pat n with
      lines := (p.working l code ops).lines, restart := (p.breakOff l).restart } := by
  have hw := p.working_frame l code ops
  by_cases hres : p.supply.state = .reserve
  · rw [(sirenRequest_dropped (by rwa [working_supply])).1, (sirenRequest_dropped hres).1]
    exact hw
  · cases hrun : p.station.run with
    | none =>
      rw [(sirenRequest_started (by rwa [working_supply]) (by rwa [working_station])).1,
        (sirenRequest_started hres hrun).1, beginPeriod, working_station]
      exact congrArg (setRun _) hw
    | some r =>
      rw [(sirenRequest_merged (by rwa [working_supply]) (by rwa [working_station])).1,
        (sirenRequest_merged hres hrun).1]
      exact congrArg (setRun _) hw

theorem Part.sirenOutcome_working (p : Part) (l : Line) (code : Byte) (ops : List Operand) :
    (p.working l code ops).sirenOutcome = p.sirenOutcome := by
  simp only [sirenOutcome, working_supply, working_station]

/-- The four results, whether or not a run is in progress (R166). -/
theorem Part.sirenResults_eq (o : SirenOutcome) (p : Part) : p.sirenResults o =
    [num o.code, optNum (p.station.run.map fun r => r.pattern.val + 1),
     optNum (p.station.run.bind fun r => r.pending.map fun n => n.val + 1),
     num ((p.station.run.map SirenRun.cycles).getD 0)] := by
  unfold sirenResults
  cases p.station.run <;> rfl

end

/-! ## SIREN (R166) -/

/-- The cycles operand asks for `n` cycles: the pattern's own when it is absent, and its value, 15 at most, otherwise. -/
def AsksCycles (own : Nat) (o : Operand) (n : Nat) : Prop :=
  o = .absent ∧ n = own ∨ ∃ x, o = .number x ∧ 1 ≤ x.toInt ∧ n = min x.toInt.toNat 15

theorem optNumber_of_number {ops : List Operand} {j : Nat} {x : BitVec 32} (h : operandAt ops j = .number x) :
    optNumber ops j = some (some x.toInt) := by
  rw [optNumber, h]

theorem optNumber_eq_none_iff {ops : List Operand} {j : Nat} :
    optNumber ops j = none ↔ ¬ NumberOrAbsent (operandAt ops j) := by
  unfold optNumber
  cases operandAt ops j <;> simp [NumberOrAbsent]

section
variable {l : Line} {ops : List Operand} {p : Part} {pat : PatternId} {n : Nat}

theorem sirenOrder_taken (hlen : ops.length ≤ 2) (hpat : operandAt ops 0 = num (pat.val + 1))
    (hn : AsksCycles (p.station.patterns.get pat).cycles (operandAt ops 1) n) :
    sirenOrder l ops.length ops p
      = .taken (p.sirenRequest pat n) ((p.sirenRequest pat n).sirenResults p.sirenOutcome) := by
  have hindex : needIndex ops 0 4 1 = some pat := (needIndex_eq_some (by omega)).2 hpat
  unfold sirenOrder
  rw [checked_anyLine_of_le (by omega) hlen, hindex]
  obtain ⟨h1, rfl⟩ | ⟨x, h1, hx, rfl⟩ := hn
  · rw [(optNumber_eq_some_cast (x := none) nofun).2 h1]
    rfl
  · rw [optNumber_of_number h1]
    exact if_neg (Int.not_lt.2 hx)

theorem sirenOrder_refused (h : 2 < ops.length ∨ ¬ NumberIn (operandAt ops 0) 1 4 ∨ ¬ NumberOrAbsent (operandAt ops 1)
      ∨ ∃ x, operandAt ops 1 = .number x ∧ x.toInt < 1) :
    sirenOrder l ops.length ops p = badOperand := by
  by_cases hlen : ops.length ≤ 2
  · unfold sirenOrder
    rw [checked_anyLine_of_le (by omega) hlen]
    split
    · next pat cycles hpat hcycles =>
      have hpat := (needIndex_eq_some (by omega)).1 hpat
      have hin : NumberIn (operandAt ops 0) 1 4 := hpat ▸ (numberIn_num (by omega) _ _).2 (by omega)
      obtain h | h | h | ⟨x, h, hx⟩ := h
      · omega
      · exact absurd hin h
      · rw [optNumber_eq_none_iff.2 h] at hcycles
        cases hcycles
      · rw [optNumber_of_number h] at hcycles
        cases hcycles
        exact if_pos hx
    · rfl
  · exact checked_anyLine_of_lt (by omega)

/-- The operands of each form R166 gives, read place by place. -/
theorem sirenOperands_read {own : Nat} (h : (ops = [num (pat.val + 1)] ∨ ops = [num (pat.val + 1), .absent]) ∧ n = own
      ∨ ∃ x : BitVec 32, ops = [num (pat.val + 1), .number x] ∧ 1 ≤ x.toInt ∧ n = min x.toInt.toNat 15) :
    ops.length ≤ 2 ∧ operandAt ops 0 = num (pat.val + 1) ∧ AsksCycles own (operandAt ops 1) n := by
  obtain ⟨rfl | rfl, hn⟩ | ⟨x, rfl, hx⟩ := h
  · exact ⟨by simp, rfl, .inl ⟨rfl, hn⟩⟩
  · exact ⟨by simp, rfl, .inl ⟨rfl, hn⟩⟩
  · exact ⟨by simp, rfl, .inr ⟨x, rfl, hx⟩⟩

end

/-! ## The commands -/

section
variable {s : State}

theorem execSiren_eq (l : Line) (ops : List Operand) (s : State) :
    exec (.siren l ops) s = s.taking (Part.orderEvent l 7#8 ops (sirenOrder l ops.length ops)) := rfl

theorem execSirenStop_eq (l : Line) (ops : List Operand) (s : State) :
    exec (.sirenStop l ops) s = s.taking (Part.orderEvent l 8#8 ops (sirenStopOrder l ops.length ops)) := rfl

theorem siren_takes {l : Line} {ops : List Operand} {pat : PatternId} {n : Nat} (hs : s.condition = .running)
    (hlen : ops.length ≤ 2) (hpat : operandAt ops 0 = num (pat.val + 1))
    (hn : AsksCycles (s.station.patterns.get pat).cycles (operandAt ops 1) n) :
    Takes (.siren l ops) l s ((s.toPart.sirenRequest pat n).sirenResults s.toPart.sirenOutcome) 0#16
      (s.toPart.sirenRequest pat n) := by
  refine takes_of_taken hs (execSiren_eq l ops s) ?_ (s.toPart.sirenRequest_working l 7#8 ops)
  rw [sirenOrder_taken hlen hpat (by rwa [Part.working_station]), Part.sirenRequest_working,
    Part.sirenOutcome_working]
  rfl

theorem sirenStop_takes (hs : s.condition = .running) (l : Line) :
    Takes (.sirenStop l []) l s [flag s.station.run.isSome] 0#16 (s.toPart.setRun none) :=
  takes_of_setRun hs (execSirenStop_eq l [] s) (by
    rw [sirenStopOrder, checked_anyLine_of_le (by omega) (by simp), Part.working_station])

end

/-- Settles O17: the request's outcome is read off the supply state and the run in progress. -/
theorem sirenOrders : Obligations.SirenOrders := by
  unfold Obligations.SirenOrders
  refine ⟨fun l s hs => ⟨fun pat ops n hops => ?_, fun ops h => ?_⟩, fun l s hs => ⟨?_, ?_, fun ops h => ?_⟩⟩
  · obtain ⟨hlen, hpat, hn⟩ := sirenOperands_read hops
    have htakes := siren_takes (l := l) hs hlen hpat hn
    rw [Part.sirenResults_eq] at htakes
    split
    · next hres =>
      obtain ⟨hreq, hout⟩ := Part.sirenRequest_dropped (p := s.toPart) (pat := pat) (n := n) hres
      rwa [hreq, hout] at htakes
    · next hres =>
      split
      · next hrun =>
        obtain ⟨hreq, hout⟩ := Part.sirenRequest_started (pat := pat) (n := n) hres hrun
        rwa [hreq, hout] at htakes
      · next r hrun =>
        obtain ⟨hreq, hout⟩ := Part.sirenRequest_merged (pat := pat) (n := n) hres hrun
        rwa [hreq, hout] at htakes
  · exact refuses_of_verdict hs (execSiren_eq l ops s) (sirenOrder_refused h)
  · exact sirenStop_takes hs l
  · exact (sirenStop_takes hs l).leads fun lines restart => by simp [Part.sirenRelay, Part.setRun]
  · exact refuses_of_verdict hs (execSirenStop_eq l ops s) (checked_anyLine_of_lt (List.length_pos_iff.2 h))

end Sys2Proof.Machine

/-!
PROOF. READ-NOTICES, ACK-NOTICE and SET-MASK (R187, R188, R189): what each answers and writes on its own line, and the
operands it is taken for.
-/

namespace Sys2Proof.Machine

open Sys2Proof

/-! ## Flags and mask of a line, written while an order is worked -/

/-- A line's flags and mask changed, and nothing else of it. -/
def LineController.editNotices (f g : Set16 → Set16) (c : LineController) : LineController :=
  { c with flags := f c.flags, mask := g c.mask }

section
variable (p : Part) (l : Line) (f g : Set16 → Set16)

/-- Which frame a line is sending does not depend on its notices. -/
theorem Part.frameUnderWay_editNotices :
    (p.onLine l (.editNotices f g)).frameUnderWay l = p.frameUnderWay l := by
  cases l <;> rfl

@[simp] theorem Part.editNotices_state : ((p.onLine l (.editNotices f g)).ctl l).state = (p.ctl l).state := by
  rw [ctl_onLine]
  rfl

theorem Part.breakReply_editNotices :
    (p.onLine l (.editNotices f g)).breakReply l = (p.breakReply l).onLine l (.editNotices f g) := by
  unfold breakReply
  rw [editNotices_state, frameUnderWay_editNotices]
  split
  · cases l <;> rfl
  · rfl

theorem Part.breakOff_editNotices :
    (p.onLine l (.editNotices f g)).breakOff l = (p.breakOff l).onLine l (.editNotices f g) := by
  unfold breakOff
  rw [editNotices_state, breakReply_editNotices, onLine_restart]
  simp only
  split <;> rfl

/-- Taking up an order and editing its line's notices come to the same in either order. -/
theorem Part.working_editNotices (code : Byte) (ops : List Operand) :
    (p.onLine l (.editNotices f g)).working l code ops = (p.working l code ops).onLine l (.editNotices f g) := by
  unfold working
  rw [breakOff_editNotices]
  cases l <;> rfl

theorem Part.working_attention (code : Byte) (ops : List Operand) (k : Line) :
    ((p.working l code ops).ctl k).attention = (p.ctl k).attention := by
  obtain ⟨hflags, hmask, -, -⟩ := p.working_ctl l code ops k
  rw [LineController.attention, hflags, hmask]
  rfl

end

/-- A taken order that edits the notices of its own line alone. -/
theorem leads_of_editNotices {c : Instr} {l : Line} {s : State} {code : Byte} {ops : List Operand}
    {order : Part → Verdict} {f g : Set16 → Set16} {results : List Operand} (hs : s.condition = .running)
    (hc : exec c s = s.taking (Part.orderEvent l code ops order))
    (hv : order (s.toPart.working l code ops)
      = .taken ((s.toPart.working l code ops).onLine l (.editNotices f g)) results) :
    Leads c s fun t => Answered l none results 0#16 (s.toPart.onLine l (.editNotices f g)) t
      ∧ SameBlocks l s.toPart t := by
  refine leads_of_taking hc ?_
  rw [Part.orderEvent_taken hs l code ops order _ results hv]
  constructor
  · refine Part.sendReply_answered _ _ l code ops none results 0#16 ?_
    rw [Part.working_editNotices]
    simp [Lines.all]
  · have hw := s.toPart.working_frame l code ops
    generalize s.toPart.working l code ops = w at hw
    rw [hw]
    rfl

/-! ## The set of flag codes -/

section
variable {l : Line} {ops : List Operand} {b : Set16}

theorem noticeSet_singleton (hb : b &&& 0xFC00#16 = 0#16) : noticeSet [.set b] = some b :=
  if_pos hb

/-- Operands other than one SET of codes 0 to 9 are too many, or give no set. -/
theorem noticeSet_eq_none (h : ∀ b : Set16, b &&& 0xFC00#16 = 0#16 → ops ≠ [.set b]) (hlen : ops.length ≤ 1) :
    noticeSet ops = none := by
  match ops with
  | [] => rfl
  | [.set b] => exact if_neg fun hb => h b hb rfl
  | [.number _] | [.text _] | [.absent] | [.unassigned _] => rfl
  | _ :: _ :: _ => simp at hlen

/-! ## The verdicts -/

variable (p : Part)

theorem readNoticesOrder_taken : readNoticesOrder l 0 [] p
    = .taken p [.set (p.ctl l).flags, .set (p.ctl l).mask, flag (p.ctl l).attention] :=
  checked_anyLine_of_le (by omega) (by omega)

theorem ackNoticeOrder_taken (hb : b &&& 0xFC00#16 = 0#16) : ackNoticeOrder l 1 [.set b] p
    = .taken (p.onLine l (.editNotices (· &&& ~~~b) id)) [.set ((p.ctl l).flags &&& ~~~b)] := by
  rw [ackNoticeOrder, checked_anyLine_of_le (by omega) (by omega), noticeSet_singleton hb]
  rfl

theorem setMaskOrder_taken (hb : b &&& 0xFC00#16 = 0#16) : setMaskOrder l 1 [.set b] p
    = .taken (p.onLine l (.editNotices id fun _ => b)) [.set b] := by
  rw [setMaskOrder, checked_anyLine_of_le (by omega) (by omega), noticeSet_singleton hb]
  rfl

theorem ackNoticeOrder_refused (h : ∀ b : Set16, b &&& 0xFC00#16 = 0#16 → ops ≠ [.set b]) :
    ackNoticeOrder l ops.length ops p = badOperand := by
  by_cases hlen : ops.length ≤ 1
  · rw [ackNoticeOrder, checked_anyLine_of_le (by omega) hlen, noticeSet_eq_none h hlen]
  · exact checked_anyLine_of_lt (Nat.not_le.1 hlen)

theorem setMaskOrder_refused (h : ∀ b : Set16, b &&& 0xFC00#16 = 0#16 → ops ≠ [.set b]) :
    setMaskOrder l ops.length ops p = badOperand := by
  by_cases hlen : ops.length ≤ 1
  · rw [setMaskOrder, checked_anyLine_of_le (by omega) hlen, noticeSet_eq_none h hlen]
  · exact checked_anyLine_of_lt (Nat.not_le.1 hlen)

end

/-! ## The commands -/

section
variable {s : State} (l : Line) (ops : List Operand)

theorem execReadNotices_eq (s : State) : exec (.readNotices l ops) s
    = s.taking (Part.orderEvent l 13#8 ops (readNoticesOrder l ops.length ops)) := rfl

theorem execAckNotice_eq (s : State) : exec (.ackNotice l ops) s
    = s.taking (Part.orderEvent l 14#8 ops (ackNoticeOrder l ops.length ops)) := rfl

theorem execSetMask_eq (s : State) : exec (.setMask l ops) s
    = s.taking (Part.orderEvent l 15#8 ops (setMaskOrder l ops.length ops)) := rfl

theorem readNotices_takes (hs : s.condition = .running) : Takes (.readNotices l []) l s
    [.set (s.ctl l).flags, .set (s.ctl l).mask, flag (s.ctl l).attention] 0#16 s.toPart := by
  obtain ⟨hflags, hmask, -, -⟩ := s.toPart.working_ctl l 13#8 [] l
  refine takes_of_unchanged hs (execReadNotices_eq l [] s) ?_
  rw [← hflags, ← hmask, ← s.toPart.working_attention l 13#8 [] l]
  exact readNoticesOrder_taken _

theorem ackNotice_leads (hs : s.condition = .running) {b : Set16} (hb : b &&& 0xFC00#16 = 0#16) :
    Leads (.ackNotice l [.set b]) s fun t =>
      Answered l none [.set ((s.ctl l).flags &&& ~~~b)] 0#16 (s.toPart.onLine l (.editNotices (· &&& ~~~b) id)) t
        ∧ SameBlocks l s.toPart t := by
  obtain ⟨hflags, -⟩ := s.toPart.working_ctl l 14#8 [.set b] l
  refine leads_of_editNotices hs (execAckNotice_eq l [.set b] s) ?_
  rw [← hflags]
  exact ackNoticeOrder_taken _ hb

theorem setMask_leads (hs : s.condition = .running) {b : Set16} (hb : b &&& 0xFC00#16 = 0#16) :
    Leads (.setMask l [.set b]) s fun t =>
      Answered l none [.set b] 0#16 (s.toPart.onLine l (.editNotices id fun _ => b)) t ∧ SameBlocks l s.toPart t :=
  leads_of_editNotices hs (execSetMask_eq l [.set b] s) (setMaskOrder_taken _ hb)

end

/-- Settles O13: an edit of a line's notices commutes with taking up the order, so the reply finds the edited line. -/
theorem noticeOrders : Obligations.NoticeOrders := by
  unfold Obligations.NoticeOrders
  refine ⟨fun l s hs => ⟨readNotices_takes l hs, fun ops h => ?_⟩,
    fun l s hs => ⟨fun b hb => ⟨ackNotice_leads l hs hb, setMask_leads l hs hb⟩, fun ops h => ⟨?_, ?_⟩⟩⟩
  · exact refuses_of_verdict hs (execReadNotices_eq l ops s) (checked_anyLine_of_lt (List.length_pos_iff.2 h))
  · exact refuses_of_verdict hs (execAckNotice_eq l ops s) (ackNoticeOrder_refused _ h)
  · exact refuses_of_verdict hs (execSetMask_eq l ops s) (setMaskOrder_refused _ h)

end Sys2Proof.Machine

/-!
PROOF. QUERY-UNIT (R197): the 28 results as the part stands, and nothing changed.
-/

namespace Sys2Proof.Machine

open Sys2Proof

section
variable (p : Part)

/-- Results 13 to 16, whether or not a run is in progress. -/
theorem Part.runResults_eq : p.runResults =
    [num (if p.station.run.isSome then 1 else 0), optNum (p.station.run.map fun r => r.pattern.val + 1),
     optNum (p.station.run.bind fun r => r.pending.map fun n => n.val + 1),
     num ((p.station.run.map SirenRun.cycles).getD 0)] := by
  unfold runResults
  cases p.station.run <;> rfl

/-- Result 7 is 1 just when neither control line is UP (R185). -/
theorem Part.flag_localWorking :
    flag p.localWorking = num (if p.lines.superP.up ∨ p.lines.superS.up then 0 else 1) := by
  unfold localWorking
  cases p.lines.superP.up <;> cases p.lines.superS.up <;> rfl

/-- Taking up an order changes nothing that QUERY-UNIT reads. -/
theorem Part.unitResults_working (l : Line) (code : Byte) (ops : List Operand) :
    (p.working l code ops).unitResults = p.unitResults := by
  obtain ⟨hP, hS⟩ := p.working_super l code ops
  have hw := p.working_frame l code ops
  generalize p.working l code ops = w at hP hS hw
  rw [hw]
  simp only [unitResults, localWorking, hP, hS]
  rfl

end

theorem execQueryUnit_eq (l : Line) (ops : List Operand) (s : State) :
    exec (.queryUnit l ops) s = s.taking (Part.orderEvent l 12#8 ops (queryUnitOrder l ops.length ops)) := rfl

theorem queryUnit_takes {s : State} (hs : s.condition = .running) (l : Line) :
    Takes (.queryUnit l []) l s s.toPart.unitResults 0#16 s.toPart := by
  refine takes_of_unchanged hs (execQueryUnit_eq l [] s) ?_
  rw [queryUnitOrder, checked_anyLine_of_le (by omega) (by simp), Part.unitResults_working]

/-- Settles O14: the results are those of the part before the order, which taking it up leaves as they are. -/
theorem queryUnit : Obligations.QueryUnit := by
  unfold Obligations.QueryUnit
  refine fun l s hs => ⟨?_, fun ops h => ?_⟩
  · have htakes := queryUnit_takes hs l
    rw [Part.unitResults, Part.runResults_eq, Part.flag_localWorking] at htakes
    exact htakes
  · exact refuses_of_verdict hs (execQueryUnit_eq l ops s) (checked_anyLine_of_lt (List.length_pos_iff.2 h))

end Sys2Proof.Machine

/-!
SUPPORT. The starts and the configuration store: a cold start loads the store, and a warm restart leaves it alone (R195,
R196).
-/

namespace Sys2Proof.Machine

open Sys2Proof

theorem Leads.imp {c : Instr} {s : State} {P Q : Part → Prop} (h : Leads c s P) (hPQ : ∀ t, P t → Q t) :
    Leads c s Q := by
  obtain ⟨t, hexec, hpending, ht⟩ := h
  exact ⟨t, hexec, hpending, hPQ _ ht⟩

/-- A part that runs takes a cold start of any cause at once. -/
theorem Part.coldStartFor_running {p : Part} (h : p.condition = .running) (cause : ColdCause) (x : Level) :
    p.coldStartFor cause x = p.coldStart (startCauseOf cause) x := by
  unfold coldStartFor
  rw [h]

theorem Part.coldStart_store (cause : StartCause) (x : Level) (p : Part) :
    (p.coldStart cause x).store = .load p.store.stored := rfl

@[simp] theorem Part.breakReply_store (p : Part) (l : Line) : (p.breakReply l).store = p.store := by
  rw [p.breakReply_frame l]

theorem Part.restartLines_store (p : Part) : p.restartLines.store = p.store := by
  simp [restartLines]

theorem Part.demandAgain_onlyPages (c : Callout) (p : Part) : OnlyPages p (p.demandAgain c) := by
  unfold demandAgain
  cases c.state with
  | alerting | closing => exact p.demandGroups_onlyPages ..
  | inOpen | counting | crewed | held | mobile => exact .refl p

theorem WorkFrame.ite {ex : Option SlotId} {p q r : Part} (b : Prop) [Decidable b] (hq : WorkFrame ex p q)
    (hr : WorkFrame ex p r) : WorkFrame ex p (if b then q else r) := by
  split
  · exact hq
  · exact hr

/-- What a warm restart does for one callout lies within what the work may do. -/
theorem Part.restoreSlot_work (lost : Owner → List BatchKind) (ex : Option SlotId) (p : Part) (i : SlotId) :
    WorkFrame ex p (p.restoreSlot lost i) := by
  unfold restoreSlot
  split
  · exact .refl ex p
  · next c _ =>
    have hdegraded := WorkFrame.ite ((lost c.owner).any fun k => !c.state.redemands k) (p.degrade_work ex i)
      (.refl ex p)
    refine (hdegraded.trans (.ite _ ?_ (.refl ex _))).trans (.of_pages (Part.demandAgain_onlyPages c _))
    exact Part.modify_work_still ex i _ _ (fun _ => rfl) fun _ => ⟨rfl, rfl, rfl, rfl⟩

theorem Part.restoreSlots_work (lost : Owner → List BatchKind) (ex : Option SlotId) (l : List SlotId) (p : Part) :
    WorkFrame ex p (l.foldl (restoreSlot lost) p) := by
  induction l generalizing p with
  | nil => exact .refl ex p
  | cons i l ih => exact (p.restoreSlot_work lost ex i).trans (ih _)

theorem Part.finish_store (p : Part) : p.finish.store = p.store := by
  obtain ⟨hwork, hfinish⟩ := p.finish_work
  rw [hfinish, refreshLamps_frame]
  exact hwork.store

theorem Part.warmRestart_store (p : Part) : p.warmRestart.store = p.store := by
  unfold warmRestart
  rw [finish_store, (Part.restoreSlots_work _ none _ _).store, restartLines_store]
  rfl

end Sys2Proof.Machine

/-!
PROOF. QUERY-STORE and CLEAR-STORE-ERROR (R195): the toggle, the error, and what the two starts make of them.
-/

namespace Sys2Proof.Machine

open Sys2Proof

/-! ## The checks before an order's own, on a line that is not the console -/

theorem checked_consoleOnly_of_ne {l : Line} {arity declared : Nat} {body : Verdict} (h : l ≠ .console) :
    checked (consoleOnly l) arity declared body = refuse .notPermitted := by
  simp [checked, consoleOnly, h]

/-! ## Taken orders that write the store -/

@[simp] theorem Part.working_store (p : Part) (l : Line) (code : Byte) (ops : List Operand) :
    (p.working l code ops).store = p.store := by
  rw [p.working_frame l code ops]

theorem takes_of_onStore {c : Instr} {l : Line} {s : State} {code : Byte} {ops : List Operand}
    {order : Part → Verdict} {f : Store → Store} {results : List Operand} (hs : s.condition = .running)
    (hc : exec c s = s.taking (Part.orderEvent l code ops order))
    (hv : order (s.toPart.working l code ops) = .taken ((s.toPart.working l code ops).onStore f) results) :
    Takes c l s results 0#16 (s.toPart.onStore f) :=
  takes_of_taken hs hc hv (congrArg (Part.onStore f) (s.toPart.working_frame l code ops))

/-- A poll writes the toggle alone. -/
theorem Store.poll_eq (st : Store) :
    st.poll = { st with toggle := if st.busy.isSome then !st.toggle else st.toggle } := by
  unfold poll
  split <;> rfl

/-! ## The commands -/

section
variable {s : State}

theorem execQueryStore_eq (l : Line) (ops : List Operand) (s : State) :
    exec (.queryStore l ops) s = s.taking (Part.orderEvent l 30#8 ops (queryStoreOrder l ops.length ops)) := rfl

theorem execClearStoreError_eq (l : Line) (ops : List Operand) (s : State) : exec (.clearStoreError l ops) s
    = s.taking (Part.orderEvent l 31#8 ops (clearStoreErrorOrder l ops.length ops)) := rfl

theorem execColdStart_eq (cause : ColdCause) (x : Level) (s : State) :
    exec (.coldStart cause x) s = s.taking (Part.coldStartFor cause x) := rfl

theorem execWarmRestart_eq (s : State) :
    exec .warmRestart s = s.taking (Part.whenRunning Part.warmRestart) := rfl

theorem queryStore_takes (hs : s.condition = .running) :
    Takes (.queryStore .console []) .console s s.store.poll.results 0#16 (s.toPart.onStore Store.poll) :=
  takes_of_onStore hs (execQueryStore_eq .console [] s) (by
    rw [queryStoreOrder, checked_of_le (by omega) (by simp), Part.working_store])

theorem clearStoreError_takes (hs : s.condition = .running) :
    Takes (.clearStoreError .console []) .console s [num 0] 0#16
      (s.toPart.onStore fun st => { st with error := false }) :=
  takes_of_onStore hs (execClearStoreError_eq .console [] s) (checked_of_le (by omega) (by simp))

theorem coldStart_leads_store (hs : s.condition = .running) (cause : ColdCause) (x : Level) :
    Leads (.coldStart cause x) s fun t => t.store = .load s.store.stored :=
  leads_of_taking (execColdStart_eq cause x s) (by rw [Part.coldStartFor_running hs, Part.coldStart_store])

theorem warmRestart_leads_store (hs : s.condition = .running) :
    Leads .warmRestart s fun t => t.store = s.store :=
  leads_of_taking (execWarmRestart_eq s) (by rw [Part.whenRunning, if_pos hs, Part.warmRestart_store])

end

/-- Settles O24: the two orders write the store alone, a cold start loads it, and a warm restart leaves it. -/
theorem queryStoreAndClear : Obligations.QueryStoreAndClear := by
  unfold Obligations.QueryStoreAndClear
  intro s hs
  refine ⟨?_, clearStoreError_takes hs, fun ops h => ?_, fun l ops h => ?_, fun cause x => ?_, ?_⟩
  · have htakes := queryStore_takes hs
    rw [Part.onStore, Store.poll_eq] at htakes
    exact htakes
  · have hlen : 0 < ops.length := List.length_pos_iff.2 h
    exact ⟨refuses_of_verdict hs (execQueryStore_eq _ ops s) (checked_of_lt hlen),
      refuses_of_verdict hs (execClearStoreError_eq _ ops s) (checked_of_lt hlen)⟩
  · exact ⟨refuses_of_verdict hs (execQueryStore_eq l ops s) (checked_consoleOnly_of_ne h),
      refuses_of_verdict hs (execClearStoreError_eq l ops s) (checked_consoleOnly_of_ne h)⟩
  · exact (coldStart_leads_store hs cause x).imp fun t ht => ht ▸ ⟨rfl, rfl, rfl⟩
  · exact (warmRestart_leads_store hs).imp fun t ht => ht ▸ ⟨rfl, rfl, rfl⟩

end Sys2Proof.Machine

/-!
SUPPORT. What a command does to the part: every command ends in a next state, and an order's command is its own rule
worked and answered on its line.
-/

namespace Sys2Proof.Machine

open Sys2Proof

/-- The rule of an order's command: what the order comes to on the part it is worked on. Commands that are no orders have
none, and stand here as a refusal that nothing uses. -/
def orderRule : Instr → Part → Verdict
  | .unknownOrder _ _ _ => fun _ => refuse .unknownOrder
  | .alert l ops => alertOrder l ops.length ops
  | .add l ops => addOrder l ops.length ops
  | .commit l ops => commitOrder l ops.length ops
  | .hold l ops => holdOrder l ops.length ops
  | .resume l ops => resumeOrder l ops.length ops
  | .standDown l ops => standDownOrder l ops.length ops
  | .depart l ops => departOrder l ops.length ops
  | .siren l ops => sirenOrder l ops.length ops
  | .sirenStop l ops => sirenStopOrder l ops.length ops
  | .queryCallout l ops => queryCalloutOrder l ops.length ops
  | .queryCrew l ops => queryCrewOrder l ops.length ops
  | .queryMember l ops => queryMemberOrder l ops.length ops
  | .queryUnit l ops => queryUnitOrder l ops.length ops
  | .readNotices l ops => readNoticesOrder l ops.length ops
  | .ackNotice l ops => ackNoticeOrder l ops.length ops
  | .setMask l ops => setMaskOrder l ops.length ops
  | .setAvailability l ops => setAvailabilityOrder l ops.length ops
  | .keep l ops => keepOrder l ops.length ops
  | .relayResponse l ops => relayOrder l ops.length ops
  | .bookOn l ops => bookOnOrder l ops.length ops
  | .editMember l ops => editMemberOrder l ops.length ops
  | .editGroup l ops => editGroupOrder l ops.length ops
  | .editAppliance l ops => editApplianceOrder l ops.length ops
  | .editPlanDelete l plan ops => editPlanPart l (ops.length + 2) plan fun n => planDelete n ops
  | .editPlanSettings l plan ops => editPlanPart l (ops.length + 2) plan fun n => planSettings n ops
  | .editPlanGroups l plan ops => editPlanPart l (ops.length + 2) plan fun n => planGroups n ops
  | .editPlanEntry l plan ops => editPlanPart l (ops.length + 2) plan fun n => planEntry n ops
  | .editPlanRemoveEntry l plan ops => editPlanPart l (ops.length + 2) plan fun n => planRemoveEntry n ops
  | .editPlanReport l plan ops => editPlanPart l (ops.length + 2) plan fun n => planReport n ops
  | .editClass l ops => editClassOrder l ops.length ops
  | .editZone l ops => editZoneOrder l ops.length ops
  | .editSite l ops => editSiteOrder l ops.length ops
  | .editUnitGeneral l ops => editUnitPart l (ops.length + 1) (unitGeneral ops)
  | .editUnitPattern l ops => editUnitPart l (ops.length + 1) (unitPattern ops)
  | .save l ops => saveOrder l ops.length ops
  | .queryStore l ops => queryStoreOrder l ops.length ops
  | .clearStoreError l ops => clearStoreErrorOrder l ops.length ops
  | .restart l ops => restartOrder l ops.length ops
  | _ => fun _ => badOperand

/-- The effect of a command on the part. -/
def effect : Instr → Part → Part
  | .opening l f => Part.whenRunning (Part.receive l 1#8 openingOf (fun x => Part.takeOpening l x.1 x.2) f)
  | .order l f => Part.whenRunning (Part.receive l 2#8 orderOf (fun x => Part.takeOrder l x.1 x.2) f)
  | .operand l f => Part.whenRunning (Part.receive l 3#8 operandOf (Part.takeOperand l) f)
  | .gapTimerExpiry l => Part.whenRunning (Part.gapExpires l)
  | .endWithReply l => Part.whenRunning (Part.endWithReply l)
  | .supervisionTimerExpiry l => Part.whenRunning (Part.supervisionExpires l)
  | .saveWriteEnd failed => Part.whenRunning (Part.writeEnds failed)
  | .warmRestart => Part.whenRunning Part.warmRestart
  | .coldStart cause x => Part.coldStartFor cause x
  | .resetInputHeld => Part.holdReset
  | .accumulationTimerExpiry i => Part.whenRunning (Part.accumulationExpires i)
  | .responseWindowExpiry i => Part.whenRunning (Part.windowExpires i)
  | .returnFrame k b spoiled => Part.whenRunning (Part.receiveFrame k b spoiled)
  | .channelClearAsserted k => Part.channelClear k
  | .clearWaitExpiry k => Part.whenRunning (Part.clearWaitExpires k)
  | .leadInEnd k => Part.whenRunning (Part.leadInEnds k)
  | .burstEnd k => Part.whenRunning (Part.burstEnds k)
  | .creditAccrual k => Part.whenRunning (Part.updateSite k SiteRecord.accrue)
  | .sirenOnTimeEnd => Part.whenRunning Part.onTimeEnds
  | .sirenPeriodBoundary => Part.whenRunning Part.periodEnds
  | .mainsPresentRises => Part.mainsRises
  | .mainsPresentFalls => Part.mainsFalls
  | .batterySample x => Part.takeSample x
  | .powerLoss => Part.losePower
  | .elapsedTimeSecond => Part.whenRunning (Part.onCallouts Callout.addSecond)
  | c => match c.exchange? with
    | some (l, code, ops) => Part.orderEvent l code ops (orderRule c)
    | none => id

theorem exec_eq (c : Instr) (s : State) : exec c s = s.taking (effect c) := by
  cases c <;> rfl

theorem effect_order {c : Instr} {l : Line} {code : Byte} {ops : List Operand}
    (h : c.exchange? = some (l, code, ops)) : effect c = Part.orderEvent l code ops (orderRule c) := by
  cases c <;> cases h <;> rfl

theorem exec_next_iff {c : Instr} {s t : State} : exec c s = .next t ↔ t = { s with toPart := effect c s.toPart } := by
  rw [exec_eq, State.taking, Host.Outcome.next.injEq]
  exact eq_comm

theorem leads_iff {c : Instr} {s : State} {P : Part → Prop} : Leads c s P ↔ P (effect c s.toPart) := by
  refine ⟨?_, leads_of_taking (exec_eq c s)⟩
  rintro ⟨t, hexec, -, ht⟩
  rw [exec_next_iff] at hexec
  rw [hexec] at ht
  exact ht

/-- A command whose effect leaves the part as it was. -/
theorem exec_eq_self {c : Instr} {s : State} (h : effect c s.toPart = s.toPart) : exec c s = .next s := by
  rw [exec_next_iff, h]

theorem Part.whenRunning_of_running {p : Part} (h : p.condition = .running) (f : Part → Part) : p.whenRunning f = f p :=
  if_pos h

theorem Part.whenRunning_of_stopped {p : Part} (h : p.condition ≠ .running) (f : Part → Part) : p.whenRunning f = p :=
  if_neg h

/-! ## The machine -/

theorem step_empty {s : State} (h : s.pending = []) : step s = .next s.idle := by
  unfold step
  rw [h]

theorem step_cons {s : State} {c : Instr} {rest : List Instr} (h : s.pending = c :: rest) :
    step s = .next { toPart := effect c s.toPart, pending := rest } := by
  unfold step
  rw [h]
  exact exec_eq c _

/-- What a step comes to: the clock's, or the effect of the command at the front. -/
theorem step_next {s t : State} (h : step s = .next t) :
    t.toPart = s.toPart.clock.1 ∨ ∃ c, s.pending.head? = some c ∧ t.toPart = effect c s.toPart := by
  cases hp : s.pending with
  | nil => rw [step_empty hp] at h; cases h; exact .inl rfl
  | cons c rest => rw [step_cons hp] at h; cases h; exact .inr ⟨c, rfl, rfl⟩

/-- Settles O1. -/
theorem stepTakesFront : Obligations.StepTakesFront := by
  unfold Obligations.StepTakesFront
  exact fun c rest s => rfl

/-- Settles O2. -/
theorem everyCommandCompletes : Obligations.EveryCommandCompletes := by
  unfold Obligations.EveryCommandCompletes
  exact fun c s => ⟨{ s with toPart := effect c s.toPart }, exec_eq c s, rfl⟩

end Sys2Proof.Machine


/-!
PROOF. A part that does not run, and the model's clock (log entries 4, 23): what a step does with no command waiting.
-/

namespace Sys2Proof.Machine

open Sys2Proof

/-- An event that only a running part takes leaves a stopped part as it is. -/
theorem effect_of_stopped {c : Instr} (h : c.reachesStopped = false) {p : Part} (hp : p.condition ≠ .running) :
    effect c p = p := by
  cases he : c.exchange? with
  | some x => exact (congrFun (effect_order he) p).trans (Part.whenRunning_of_stopped hp _)
  | none =>
    cases c
    all_goals first
      | exact Part.whenRunning_of_stopped hp _
      | exact absurd h nofun

theorem idle_of_off {s : State} (hs : s.condition = .resetHeld ∨ s.condition = .off) (hp : s.pending = []) :
    s.idle = s := by
  obtain ⟨p, pending⟩ := s
  cases hp
  rcases hs with h | h <;> simp [State.idle, Part.clock, show p.condition = _ from h]

theorem idle_of_cutoff {s : State} {cause : StartCause} (hs : s.condition = .cutoff cause) :
    s.idle = { s with
      supply := { s.supply with sampleTimer := if s.supply.sampleTimer ≤ 1 then 1000 else s.supply.sampleTimer - 1 }
      pending := if s.supply.sampleTimer ≤ 1 then [.batterySample s.pins.batterySense] else [] } := by
  simp [State.idle, Part.clock, hs, Part.sampleDue, dueIf, Part.onSupply, Supply.tick]

/-- Settles O3. -/
theorem stoppedPartTakesNothing : Obligations.StoppedPartTakesNothing := by
  unfold Obligations.StoppedPartTakesNothing
  refine fun s hs => ⟨fun c hc => exec_eq_self (effect_of_stopped hc hs), fun hp => ⟨fun h => ?_, fun cause h => ?_⟩⟩
  · rw [step_empty hp, idle_of_off h hp]
  · rw [step_empty hp, idle_of_cutoff h]

/-! ## A second that passes, and a credit accrual -/

theorem Part.slot_onCallouts (f : Callout → Callout) (p : Part) (i : SlotId) :
    (p.onCallouts f).slot i = (p.slot i).onLive f := by
  simp [Part.onCallouts, Part.slot]

theorem Part.records_updateSite (k j : SiteId) (f : SiteRecord → SiteRecord) (p : Part) :
    (p.updateSite k f).sites.records.get j = if k = j then f (p.sites.records.get j) else p.sites.records.get j := by
  simp only [Part.updateSite, Part.onSites_sites, Table.update, Table.get_set]
  split
  · next h => rw [h]
  · rfl

/-- Settles O5. -/
theorem elapsedSecondAndCreditAccrual : Obligations.ElapsedSecondAndCreditAccrual := by
  unfold Obligations.ElapsedSecondAndCreditAccrual
  refine fun s hs => ⟨leads_iff.2 ?_, fun k => leads_iff.2 ?_⟩
  · have h : effect .elapsedTimeSecond s.toPart = s.onCallouts Callout.addSecond := Part.whenRunning_of_running hs _
    rw [h]
    refine ⟨rfl, fun i => ?_⟩
    rw [Part.slot_onCallouts]
    cases s.slot i with
    | free x => rfl
    | live c => simp only [Slot.onLive, Callout.addSecond, Config.elapsedCap]
  · have h : effect (.creditAccrual k) s.toPart = s.updateSite k SiteRecord.accrue := Part.whenRunning_of_running hs _
    rw [h]
    refine ⟨rfl, fun j hj => ?_, ?_⟩
    · rw [Part.records_updateSite, if_neg (Ne.symm hj)]
    · rw [Part.records_updateSite, if_pos rfl]
      rfl

/-! ## A millisecond of a running part -/

section
variable {s : State}

theorem idle_of_running (hs : s.condition = .running) (hr : s.restart ≠ .due) :
    s.idle = { toPart := s.count, pending := s.count.dueEvents ++ s.sampleDue } := by
  simp [State.idle, Part.clock, hs, hr]

theorem mem_dueIf {b : Bool} {i e : Instr} : e ∈ dueIf b i ↔ b = true ∧ e = i := by
  unfold dueIf
  split <;> simp [*]

theorem countDown_eq (x : Option Nat) : countDown x = x.map (· - 1) := by
  cases x <;> rfl

theorem Part.ctl_count (p : Part) (l : Line) : p.count.ctl l = (p.ctl l).tick := by
  cases l <;> rfl

theorem Part.slot_count (p : Part) (i : SlotId) : p.count.slot i = (p.slot i).onLive Callout.tick := by
  simp [Part.count, Part.slot]

theorem Part.callout?_count (p : Part) (i : SlotId) : p.count.callout? i = (p.callout? i).map Callout.tick := by
  unfold Part.callout?
  rw [Part.slot_count]
  cases p.slot i <;> rfl

theorem Timer.tick_eq (t : Timer) :
    t.tick = if t.mark = .running then { remaining := t.remaining - 1, mark := .running } else t := by
  unfold Timer.tick
  split
  · next h => rw [← h]
  · rfl

theorem Callout.tick_eq (c : Callout) : c.tick = { c with
    accumulation := c.accumulation.tick, responseWindow := c.responseWindow.tick
    elapsed := if c.elapsedMs < 999 then c.elapsed else min (c.elapsed + 1) 65535
    elapsedMs := if c.elapsedMs < 999 then c.elapsedMs + 1 else 0 } := by
  unfold Callout.tick
  by_cases h : c.elapsedMs < 999
  · simp [h, Nat.not_le.2 h]
  · simp [h, Nat.not_lt.1 h, Callout.addSecond, Config.elapsedCap]

theorem SiteRecord.tick_eq (r : SiteRecord) : r.tick =
    if r.ceiling ≤ r.credit then { r with accrual := 0 }
    else if r.accrual + 1 < r.divisor then { r with accrual := r.accrual + 1 }
    else { r with accrual := 0, credit := r.credit + 1 } := by
  unfold SiteRecord.tick SiteRecord.accrue
  by_cases hc : r.ceiling ≤ r.credit
  · simp [hc]
  · by_cases hd : r.accrual + 1 < r.divisor
    · simp [hc, hd, Nat.not_le.2 hd]
    · simp [hc, hd, Nat.not_lt.1 hd, Nat.not_le.1 hc]

/-! ## The events that fall due -/

theorem countDown_eq_zero {x : Option Nat} : (countDown x == some 0) = true ↔ ∃ n, x = some n ∧ n ≤ 1 := by
  cases x with
  | none => simp [countDown]
  | some n => simp [countDown]; omega

theorem gap_count_eq_zero (p : Part) (l : Line) :
    ((p.count.ctl l).gap == some 0) = true ↔ ∃ n, (p.ctl l).gap = some n ∧ n ≤ 1 := by
  rw [p.ctl_count l]
  exact countDown_eq_zero

theorem super_count_eq_zero (p : Part) (l : ControlLine) :
    ((p.count.lines.super l).timer == some 0) = true ↔ ∃ n, (p.lines.super l).timer = some n ∧ n ≤ 1 := by
  cases l <;> exact countDown_eq_zero

theorem Timer.expired_tick {t : Timer} : t.tick.expired = true ↔ t.mark = .running ∧ t.remaining ≤ 1 := by
  rw [Timer.tick_eq]
  split
  · next h => simp [Timer.expired, h]; omega
  · next h => simp [Timer.expired, h]

theorem mem_live {p : Part} {i : SlotId} {c : Callout} : (i, c) ∈ p.live ↔ p.callout? i = some c := by
  have hi : i ∈ slotIds := by revert i; decide
  simp only [Part.live, List.mem_filterMap, Option.map_eq_some_iff, Prod.mk.injEq]
  constructor
  · rintro ⟨j, -, d, hd, rfl, rfl⟩
    exact hd
  · exact fun h => ⟨i, hi, c, h, rfl, rfl⟩

/-- The events of the live callouts whose timer, read by `q` after the counting, has run out. -/
theorem mem_expiries {p : Part} {q : Callout → Timer} (hq : ∀ c, q c.tick = (q c).tick) {f : SlotId → Instr} {e : Instr} :
    e ∈ (p.count.live.filter fun ic => (q ic.2).expired).map (fun ic => f ic.1)
      ↔ ∃ i c, e = f i ∧ p.callout? i = some c ∧ (q c).mark = .running ∧ (q c).remaining ≤ 1 := by
  simp only [List.mem_map, List.mem_filter, Prod.exists, mem_live, Part.callout?_count, Option.map_eq_some_iff]
  constructor
  · rintro ⟨i, _, ⟨⟨c, hc, rfl⟩, he⟩, rfl⟩
    rw [hq, Timer.expired_tick] at he
    exact ⟨i, c, rfl, hc, he⟩
  · rintro ⟨i, c, rfl, hc, he⟩
    exact ⟨i, c.tick, ⟨⟨c, hc, rfl⟩, by rwa [hq, Timer.expired_tick]⟩, rfl⟩

theorem Callout.tick_accumulation (c : Callout) : c.tick.accumulation = c.accumulation.tick := by rw [Callout.tick_eq]

theorem Callout.tick_responseWindow (c : Callout) : c.tick.responseWindow = c.responseWindow.tick := by
  rw [Callout.tick_eq]

theorem mem_sequencerDue_count {p : Part} {e : Instr} : e ∈ p.count.sequencerDue ↔
    (∃ k left, p.sites.sequencer = .clearWait k left
        ∧ (e = .channelClearAsserted k ∧ p.pins.channelClear.get k = true ∨ e = .clearWaitExpiry k ∧ left ≤ 1))
      ∨ (∃ k forced left, p.sites.sequencer = .leadIn k forced left ∧ left ≤ 1 ∧ e = .leadInEnd k)
      ∨ (∃ k forced left, p.sites.sequencer = .burst k forced left ∧ left ≤ 1 ∧ e = .burstEnd k) := by
  have hs : p.count.sites.sequencer = p.sites.sequencer.tick := rfl
  have hp : p.count.pins = p.pins := rfl
  have zero (n : Nat) : (n - 1 == 0) = true ↔ n ≤ 1 := by simp; omega
  unfold Part.sequencerDue
  rw [hs, hp]
  cases p.sites.sequencer with
  | idle => simp [Sequencer.tick]
  | clearWait k left => simp [Sequencer.tick, mem_dueIf, zero, and_comm]
  | leadIn k forced left => simp [Sequencer.tick, mem_dueIf, zero]
  | burst k forced left => simp [Sequencer.tick, mem_dueIf, zero]

theorem mem_runDue_count {p : Part} {e : Instr} : e ∈ (p.count.station.run.map SirenRun.dueEvents).getD [] ↔
    ∃ r, p.station.run = some r
      ∧ (r.phase = .on ∧ r.onTime * 1000 ≤ r.time + 1 ∧ e = .sirenOnTimeEnd
        ∨ r.phase = .off ∧ (r.period - r.onTime) * 1000 ≤ r.time + 1 ∧ e = .sirenPeriodBoundary) := by
  have hr : p.count.station.run = p.station.run.map SirenRun.tick := rfl
  rw [hr]
  cases p.station.run with
  | none => simp
  | some r => cases h : r.phase <;> simp [SirenRun.dueEvents, SirenRun.tick, h, mem_dueIf]

theorem mem_dueEvents_count {p : Part} {e : Instr} : e ∈ p.count.dueEvents ↔
    (∃ l, e = .gapTimerExpiry l ∧ ∃ n, (p.ctl l).gap = some n ∧ n ≤ 1)
      ∨ (∃ l, e = .supervisionTimerExpiry l ∧ ∃ n, (p.lines.super l).timer = some n ∧ n ≤ 1)
      ∨ (∃ i c, e = .accumulationTimerExpiry i ∧ p.callout? i = some c ∧ c.accumulation.mark = .running
          ∧ c.accumulation.remaining ≤ 1)
      ∨ (∃ i c, e = .responseWindowExpiry i ∧ p.callout? i = some c ∧ c.responseWindow.mark = .running
          ∧ c.responseWindow.remaining ≤ 1)
      ∨ e ∈ p.count.sequencerDue ∨ e ∈ (p.count.station.run.map SirenRun.dueEvents).getD [] := by
  have gap (l : Line) : e ∈ dueIf ((p.count.ctl l).gap == some 0) (.gapTimerExpiry l)
      ↔ e = .gapTimerExpiry l ∧ ∃ n, (p.ctl l).gap = some n ∧ n ≤ 1 := by
    rw [mem_dueIf, gap_count_eq_zero, and_comm]
  have super (l : ControlLine) : e ∈ dueIf ((p.count.lines.super l).timer == some 0) (.supervisionTimerExpiry l)
      ↔ e = .supervisionTimerExpiry l ∧ ∃ n, (p.lines.super l).timer = some n ∧ n ≤ 1 := by
    rw [mem_dueIf, super_count_eq_zero, and_comm]
  have lines {q : Line → Prop} : (∃ l, q l) ↔ q .p ∨ q .s ∨ q .console :=
    ⟨fun ⟨l, h⟩ => by cases l <;> simp [h], by rintro (h | h | h) <;> exact ⟨_, h⟩⟩
  have controls {q : ControlLine → Prop} : (∃ l, q l) ↔ q .p ∨ q .s :=
    ⟨fun ⟨l, h⟩ => by cases l <;> simp [h], by rintro (h | h) <;> exact ⟨_, h⟩⟩
  rw [lines, controls, ← gap, ← gap, ← gap, ← super, ← super, ← mem_expiries Callout.tick_accumulation,
    ← mem_expiries Callout.tick_responseWindow]
  simp only [Part.dueEvents, List.mem_append, or_assoc]
  rfl

/-- Settles O4: each counter's own equation, and then what is due by the counters. -/
theorem clockTick : Obligations.ClockTick := by
  unfold Obligations.ClockTick
  intro s hp hs hr sent
  refine ⟨s.idle, step_empty hp, ?_⟩
  rw [idle_of_running hs hr]
  refine ⟨fun l => ?_, ?_, ?_, ?_, fun i => ?_, fun k => ?_, ?_, rfl, rfl,
    ⟨hs, rfl, rfl, rfl, rfl, rfl, rfl, rfl, rfl, rfl⟩, fun e => ?_⟩
  · rw [← countDown_eq]
    exact s.toPart.ctl_count l
  · rw [← countDown_eq]
    rfl
  · rw [← countDown_eq]
    rfl
  · simp [Part.count, RestartPhase.tick]
    rfl
  · refine (s.toPart.slot_count i).trans ?_
    cases s.slot i with
    | free x => rfl
    | live c => simp only [Slot.onLive, Callout.tick_eq, Timer.tick_eq]
  · refine (Table.get_map _ _ k).trans (SiteRecord.tick_eq _)
  · refine ⟨rfl, ?_⟩
    show s.sites.sequencer.tick = _
    cases s.sites.sequencer <;> rfl
  · rw [List.mem_append, mem_dueEvents_count, mem_sequencerDue_count, mem_runDue_count, Part.sampleDue, mem_dueIf]
    simp only [or_assoc, decide_eq_true_eq, and_comm]

end

end Sys2Proof.Machine


/-!
SUPPORT. What the operand readers read, and when they read nothing (R182).
-/

namespace Sys2Proof.Machine

open Sys2Proof

/-! ## Operands of a kind -/

theorem toNat_toInt_of_nonneg {x : BitVec 32} (h : 0 ≤ x.toInt) : x.toInt.toNat = x.toNat := by
  have := BitVec.toInt_eq_toNat_cond x
  have := x.isLt
  split at * <;> omega

theorem Spells.length_le {ops given : List Operand} (h : Spells ops given) : given.length ≤ ops.length := h.1

/-- The operand given at a place of what is spelled. -/
theorem Spells.at {ops given : List Operand} (h : Spells ops given) (k : Nat) (hk : k < ops.length := by simp) :
    operandAt given k = operandAt ops k :=
  h.2 k hk

theorem not_numberIn_of {o : Operand} (h : ∀ x, o ≠ .number x) (lo hi : Int) : ¬ NumberIn o lo hi :=
  fun ⟨x, hx, _⟩ => h x hx

theorem not_absentOrIn_of_kind {o : Operand} (h : ¬ NumberOrAbsent o) (lo hi : Int) : ¬ AbsentOrIn o lo hi := by
  rintro (rfl | ⟨x, rfl, -⟩)
  · exact h trivial
  · exact h trivial

theorem absentOrIn_optional {v : Option (BitVec 32)} {lo hi : Int} :
    AbsentOrIn (optionalNumber v) lo hi ↔ inRange v lo hi = true := by
  cases v <;> simp [optionalNumber, inRange]

theorem ne_none_of_eq_some {α : Type} {x : Option α} {y : α} (h : x = some y) : x ≠ none := by simp [h]

/-! ## Records listed -/

theorem Table.mem_cells {n : Nat} {α : Type} {t : Table n α} {a : α} : a ∈ t.cells ↔ ∃ i, t.get i = a := by
  obtain ⟨cells, rfl⟩ := t
  rw [List.mem_iff_get]
  exact Iff.rfl

theorem mem_ascending {n : Nat} (i : Fin n) : i ∈ ascending n := by
  simp [ascending, List.mem_filterMap, i.isLt, Fin.ext_iff]

theorem mem_inUse {p : Part} {m : MemberId} {x : Member} : (m, x) ∈ p.inUse ↔ p.member? m = some x := by
  simp only [Part.inUse, List.mem_filterMap, Option.map_eq_some_iff, Prod.mk.injEq]
  constructor
  · rintro ⟨k, -, y, hy, rfl, rfl⟩
    exact hy
  · exact fun h => ⟨m, mem_ascending m, x, h, rfl, rfl⟩

variable {ops : List Operand} {j : Nat}

/-! ## Readers that read nothing -/

theorem within_eq_none {lo hi : Nat} {x : Int} : within lo hi x = none ↔ ¬ ((lo : Int) ≤ x ∧ x ≤ hi) := by
  simp [within]

theorem numbered_eq_none {n lo : Nat} {x : Int} : numbered n lo x = none ↔ ¬ ((lo : Int) ≤ x ∧ x ≤ (n + lo : Int) - 1) := by
  unfold numbered
  split
  · simp; omega
  · simp; omega

theorem needWithin_eq_none {lo hi : Nat} : needWithin ops j lo hi = none ↔ ¬ NumberIn (operandAt ops j) lo hi := by
  unfold needWithin needNumber
  cases operandAt ops j <;> simp [within_eq_none]

theorem optWithin_eq_none {lo hi : Nat} : optWithin ops j lo hi = none ↔ ¬ AbsentOrIn (operandAt ops j) lo hi := by
  unfold optWithin optNumber
  cases operandAt ops j <;> simp [within_eq_none]

theorem needIndex_eq_none {n lo : Nat} :
    needIndex ops j n lo = none ↔ ¬ NumberIn (operandAt ops j) lo ((n + lo : Int) - 1) := by
  unfold needIndex needNumber
  cases operandAt ops j <;> simp [numbered_eq_none]

theorem optIndex_eq_none {n lo : Nat} :
    optIndex ops j n lo = none ↔ ¬ AbsentOrIn (operandAt ops j) lo ((n + lo : Int) - 1) := by
  unfold optIndex optNumber
  cases operandAt ops j <;> simp [numbered_eq_none]

theorem optFlag_eq_none : optFlag ops j = none ↔ ¬ AbsentOrIn (operandAt ops j) 0 1 := by
  have h := optWithin_eq_none (ops := ops) (j := j) (lo := 0) (hi := 1)
  rw [← Nat.cast_zero, ← Nat.cast_one, ← h]
  unfold optFlag
  split <;> simp_all

theorem optText_eq_none : optText ops j = none ↔ ∀ t, operandAt ops j ≠ optionalText t := by
  unfold optText
  cases operandAt ops j with
  | text t => simpa using ⟨some t, rfl⟩
  | absent => simpa using ⟨none, rfl⟩
  | number _ | set _ | unassigned _ => simp only [true_iff]; intro t; cases t <;> nofun

theorem optSet_eq_none : optSet ops j = none ↔ ∀ b, operandAt ops j ≠ optionalSet b := by
  unfold optSet
  cases operandAt ops j with
  | set b => simpa using ⟨some b, rfl⟩
  | absent => simpa using ⟨none, rfl⟩
  | number _ | text _ | unassigned _ => simp only [true_iff]; intro t; cases t <;> nofun

/-! ## What is read -/

theorem optNumber_of_optional {v : Option (BitVec 32)} (h : operandAt ops j = optionalNumber v) :
    optNumber ops j = some (v.map BitVec.toInt) := by
  unfold optNumber
  rw [h]
  cases v <;> rfl

theorem optWithin_of_optional {lo hi : Nat} {v : Option (BitVec 32)} (h : operandAt ops j = optionalNumber v)
    (hv : inRange v lo hi = true) : optWithin ops j lo hi = some (v.map BitVec.toNat) := by
  unfold optWithin
  rw [optNumber_of_optional h]
  cases v with
  | none => rfl
  | some x =>
    obtain ⟨hlo, hhi⟩ : (lo : Int) ≤ x.toInt ∧ x.toInt ≤ hi := by simpa [inRange] using hv
    simp [within, hlo, hhi, toNat_toInt_of_nonneg (by omega : 0 ≤ x.toInt)]

theorem optFlag_of_optional {v : Option (BitVec 32)} (h : operandAt ops j = optionalNumber v)
    (hv : inRange v 0 1 = true) : optFlag ops j = some (v.map fun x => x == 1#32) := by
  unfold optFlag
  rw [optWithin_of_optional (lo := 0) (hi := 1) h hv]
  cases v with
  | none => rfl
  | some x => simp only [Option.map_some, Option.some.injEq]; rw [Bool.eq_iff_iff]; simp [← BitVec.toNat_inj]

theorem needNumber_of_number {x : BitVec 32} (h : operandAt ops j = .number x) : needNumber ops j = some x.toInt := by
  rw [needNumber, h]

theorem numbered_of_le {n lo : Nat} [NeZero n] {x : BitVec 32} (hlo : (lo : Int) ≤ x.toInt)
    (hhi : x.toInt < (n + lo : Nat)) : numbered n lo x.toInt = some (Fin.ofNat n (x.toNat - lo)) := by
  have hx := toNat_toInt_of_nonneg (by omega : 0 ≤ x.toInt)
  unfold numbered
  rw [dif_pos (by omega), Option.some.injEq, Fin.ext_iff]
  simp only [Fin.ofNat]
  rw [Nat.mod_eq_of_lt (by omega)]
  omega

theorem needIndex_of_number {n lo : Nat} [NeZero n] {x : BitVec 32} (h : operandAt ops j = .number x)
    (hlo : (lo : Int) ≤ x.toInt) (hhi : x.toInt < (n + lo : Nat)) :
    needIndex ops j n lo = some (Fin.ofNat n (x.toNat - lo)) := by
  unfold needIndex
  rw [needNumber_of_number h]
  exact numbered_of_le hlo hhi

theorem optIndex_of_optional {n lo : Nat} [NeZero n] {v : Option (BitVec 32)} (h : operandAt ops j = optionalNumber v)
    (hv : inRange v lo ((n + lo : Int) - 1) = true) :
    optIndex ops j n lo = some (v.map fun x => Fin.ofNat n (x.toNat - lo)) := by
  unfold optIndex
  rw [optNumber_of_optional h]
  cases v with
  | none => rfl
  | some x =>
    obtain ⟨hlo, hhi⟩ : (lo : Int) ≤ x.toInt ∧ x.toInt ≤ (n + lo : Int) - 1 := by simpa [inRange] using hv
    exact congrArg (Option.map some) (numbered_of_le hlo (by omega))

theorem needWithin_of_number {lo hi : Nat} {x : BitVec 32} (h : operandAt ops j = .number x)
    (hlo : (lo : Int) ≤ x.toInt) (hhi : x.toInt ≤ hi) : needWithin ops j lo hi = some x.toNat := by
  unfold needWithin
  rw [needNumber_of_number h]
  simp [within, hlo, hhi, toNat_toInt_of_nonneg (by omega : 0 ≤ x.toInt)]

theorem optText_of_optional {t : Option Text} (h : operandAt ops j = optionalText t) : optText ops j = some t := by
  unfold optText
  rw [h]
  cases t <;> rfl

theorem optSet_of_optional {b : Option Set16} (h : operandAt ops j = optionalSet b) : optSet ops j = some b := by
  unfold optSet
  rw [h]
  cases b <;> rfl

theorem optFlag_of_flag {b : Option Bool} (h : operandAt ops j = optNum (b.map fun b => if b then 1 else 0)) :
    optFlag ops j = some b := by
  have e : optWithin ops j 0 1 = some (b.map fun b => if b then 1 else 0) := by
    refine (optWithin_eq_some (by omega)).2 ⟨h, ?_⟩
    rintro y hy
    obtain ⟨c, -, rfl⟩ := Option.mem_map.1 hy
    cases c <;> simp
  unfold optFlag
  rw [e]
  rcases b with _ | _ | _ <;> rfl

theorem needLetter_eq_some {x : Appliance} : needLetter ops j = some x ↔ operandAt ops j = .text [x.letter] := by
  unfold needLetter needText
  cases operandAt ops j with
  | text t => rcases t with _ | ⟨b, _ | ⟨c, t⟩⟩ <;> simp [applianceOfByte_eq_some]
  | number _ | set _ | absent | unassigned _ => simp

theorem needLetter_eq_none : needLetter ops j = none ↔ ∀ x : Appliance, operandAt ops j ≠ .text [x.letter] := by
  rw [Option.eq_none_iff_forall_ne_some]
  simp only [ne_eq, needLetter_eq_some]

end Sys2Proof.Machine


/-!
PROOF. The siren run's events (R164), the end of a clear wait (R150), and the end of a reply, supervision, KEEP and RESTART
(R179, R184, R185, R196).
-/

namespace Sys2Proof.Machine

open Sys2Proof

/-- The effect of an event that only a running part takes. -/
theorem leads_of_event {c : Instr} {s : State} {f : Part → Part} {P : Part → Prop} (hs : s.condition = .running)
    (hc : effect c = Part.whenRunning f) (h : P (f s.toPart)) : Leads c s P := by
  rw [leads_iff, hc, Part.whenRunning_of_running hs]
  exact h

/-- An event that leaves the running part as it was. -/
theorem exec_eq_self_of_event {c : Instr} {s : State} {f : Part → Part} (hs : s.condition = .running)
    (hc : effect c = Part.whenRunning f) (h : f s.toPart = s.toPart) : exec c s = .next s :=
  exec_eq_self (by rw [hc, Part.whenRunning_of_running hs, h])

/-- The command of an order works its own rule. -/
theorem exec_order {c : Instr} {l : Line} {code : Byte} {ops : List Operand} (h : c.exchange? = some (l, code, ops))
    (s : State) : exec c s = s.taking (Part.orderEvent l code ops (orderRule c)) := by
  rw [exec_eq, effect_order h]

/-! ## The siren run (R164) -/

theorem Part.sirenRelay_of_run {p : Part} {r : SirenRun} (hp : p.condition = .running) (hr : p.station.run = some r) :
    p.sirenRelay = true ↔ r.phase = .on := by
  simp [sirenRelay, isRunning, hp, hr]

theorem Part.onTimeEnds_of_on {p : Part} {r : SirenRun} (hr : p.station.run = some r) (h : r.phase = .on) :
    p.onTimeEnds = p.setRun (some { r with phase := .off, time := 0 }) := by
  unfold onTimeEnds
  rw [hr]
  exact if_pos h

theorem Part.onTimeEnds_of_off {p : Part} {r : SirenRun} (hr : p.station.run = some r) (h : r.phase = .off) :
    p.onTimeEnds = p := by
  unfold onTimeEnds
  rw [hr]
  exact if_neg (h ▸ nofun)

theorem Part.periodEnds_of_run {p : Part} {r : SirenRun} (hr : p.station.run = some r) :
    p.periodEnds = p.setRun (if r.cycles ≤ 1 then none
      else some (p.beginPeriod (r.pending.getD r.pattern) none (r.cycles - 1))) := by
  unfold periodEnds
  rw [hr]
  simp only
  split <;> rfl

/-- Settles O18. -/
theorem sirenRunEvents : Obligations.SirenRunEvents := by
  unfold Obligations.SirenRunEvents
  intro s r hs hr
  refine ⟨Part.sirenRelay_of_run hs hr, fun h => ?_, fun h => ?_, ?_⟩
  · exact leads_of_event hs rfl (Part.onTimeEnds_of_on hr h)
  · exact exec_eq_self_of_event hs rfl (Part.onTimeEnds_of_off hr h)
  · exact leads_of_event hs rfl (Part.periodEnds_of_run hr)

/-! ## The end of a clear wait (R150) -/

theorem Part.keySite_cons {p : Part} {b : Batch} {rest : List Batch} (hq : p.pages.queue = b :: rest) (k : SiteId)
    (forced : Bool) :
    p.keySite k forced = { p with
      pages := { p.pages with queue := { b with started := true } :: rest }
      sites := { p.sites with
        records := p.sites.records.set k { p.sites.records.get k with
          credit := (p.sites.records.get k).credit - ((p.sites.records.get k).leadIn + burstTime b.pages) }
        sequencer := .leadIn k forced (p.sites.records.get k).leadIn } } := by
  have hb : p.current? = some b := congrArg List.head? hq
  simp only [keySite, hb, onCurrent, debit, updateSite, setSequencer, onPages, onSites, hq, Batch.start, airtime,
    Table.update]

/-- Settles O37. -/
theorem clearWaitEnds : Obligations.ClearWaitEnds := by
  unfold Obligations.ClearWaitEnds
  intro s k hs
  refine ⟨fun left b rest hw hq => ⟨?_, ?_⟩, fun h => ⟨?_, ?_⟩⟩
  · rw [leads_iff]
    have he : Part.channelClear k s.toPart
        = Part.keySite k false { s.toPart with pins := { s.pins with channelClear := s.pins.channelClear.set k true } } := by
      simp [Part.channelClear, hw, hs]
    exact he.trans (Part.keySite_cons (by exact hq) k false)
  · refine leads_of_event hs rfl ?_
    simp only [Part.clearWaitExpires, hw, if_true, Part.keySite_cons hq]
  · rw [leads_iff]
    show Part.channelClear k s.toPart = _
    unfold Part.channelClear
    simp only
    split
    · next j left hj =>
      refine if_neg ?_
      rintro ⟨-, rfl⟩
      exact h left hj
    all_goals rfl
  · refine exec_eq_self_of_event hs rfl ?_
    unfold Part.clearWaitExpires
    split
    · next j left hj =>
      refine if_neg ?_
      rintro rfl
      exact h left hj
    all_goals rfl

/-! ## The end of a reply, and supervision (R179, R184, R185) -/

theorem Part.endWithReply_control {p : Part} {l : ControlLine} (h : (p.ctl l.line).state = .replying) :
    p.endWithReply l.line = Part.supervise l (p.onLine l.line LineController.replied) := by
  unfold endWithReply
  rw [if_pos h]
  cases l <;> rfl

theorem Part.super_replied (p : Part) (l : Line) (k : ControlLine) :
    (p.onLine l LineController.replied).lines.super k = p.lines.super k := by
  cases l <;> cases k <;> rfl

theorem Part.supervise_condition (l : ControlLine) (p : Part) : (p.supervise l).condition = p.condition := by
  unfold supervise raiseIf
  simp only
  split <;> rfl

theorem Part.supervise_timer (l : ControlLine) (p : Part) :
    (p.supervise l).lines.super l = .called (p.settings.period l) := by
  unfold supervise raiseIf
  cases l <;> simp only <;> split <;> rfl

theorem Part.afterReply_console (p : Part) : p.afterReply .console
    = { p with restart := if p.restart = .replying ∨ p.restart = .ending then .due else p.restart } := by
  unfold afterReply
  simp only
  split <;> rfl

/-- An order of the control lines alone, on a control line. -/
theorem checked_controlOnly {k : Line} (hk : k ≠ .console) {arity declared : Nat} (body : Verdict) :
    checked (controlOnly k) arity declared body
      = if 8 < declared ∨ arity < declared then badOperand else body := by
  simp [checked, controlOnly, hk]

/-- Settles O9. -/
theorem replyEndsAndSupervision : Obligations.ReplyEndsAndSupervision := by
  unfold Obligations.ReplyEndsAndSupervision
  intro l s hs
  refine ⟨fun h => ?_, fun h => ?_, fun k h => ?_, fun hu ht => ?_, fun h => ?_, fun h hpos => ?_, fun k hk => ?_,
    fun k ops hk hops => ?_, fun ops => ?_, ?_⟩
  · refine leads_of_event hs rfl ?_
    rw [Part.endWithReply_control h]
    simp only [Part.supervise, Part.super_replied, Part.raiseIf]
    cases (s.lines.super l).up <;> rfl
  · refine leads_of_event hs rfl ?_
    have he : s.toPart.endWithReply .console
        = (s.toPart.onLine .console LineController.replied).afterReply .console := if_pos h
    rw [he]
    exact Part.afterReply_console _
  · exact exec_eq_self_of_event hs rfl (if_neg h)
  · exact leads_of_event hs rfl (if_pos ⟨hu, ht⟩)
  · refine exec_eq_self_of_event hs rfl (if_neg ?_)
    rintro ⟨hu, ht⟩
    obtain h | h := h
    · exact Bool.false_ne_true (h.symm.trans hu)
    · exact h ht
  · have he : effect (.endWithReply l.line) s.toPart = Part.supervise l (s.toPart.onLine l.line LineController.replied) :=
      (Part.whenRunning_of_running hs _).trans (Part.endWithReply_control h)
    refine ⟨_, exec_next_iff.2 rfl, exec_eq_self_of_event ?_ rfl (if_neg ?_)⟩
    · rw [he]
      exact (Part.supervise_condition l _).trans hs
    · rw [he, Part.supervise_timer]
      rintro ⟨-, ht⟩
      have : s.settings.period l * 1000 = 0 := Option.some.inj ht
      omega
  · refine takes_of_unchanged hs (exec_order rfl s) ?_
    exact checked_controlOnly hk _
  · refine refuses_of_verdict hs (exec_order rfl s) ?_
    exact (checked_controlOnly hk _).trans (if_pos (.inr (List.length_pos_iff.2 hops)))
  · exact refuses_of_verdict hs (exec_order rfl s) rfl
  · simp [Part.localWorking]

/-! ## RESTART (R196) -/

/-- A RESTART and a warm restart already on its way, the reply in progress being broken off (log entries 21, 29). -/
theorem Part.order_breakOff (p : Part) : (p.breakOff .console).restart.order = match p.restart with
    | .none => .replying
    | .replying => if (p.ctl .console).state = .replying then .ending else .replying
    | .ending => .ending
    | .due => .due := by
  have hb : (p.breakReply .console).restart = p.restart := by rw [p.breakReply_frame .console]
  unfold breakOff
  by_cases hc : (p.ctl .console).state = .replying <;> cases hr : p.restart
    <;> simp [hc, hb, hr, RestartPhase.order]

/-- Settles O25. -/
theorem restart : Obligations.Restart := by
  unfold Obligations.Restart
  intro s hs
  refine ⟨?_, fun ops hops => ?_, fun hr hp => ?_⟩
  · rw [leads_iff, effect_order rfl, Part.orderEvent_taken hs .console 32#8 [] _ _ [num 3] rfl]
    refine ⟨s.toPart.sendReply_answered _ .console 32#8 [] none _ 0#16 (by simp [Lines.all]), ?_⟩
    have hw := s.toPart.working_frame .console 32#8 []
    generalize s.toPart.working .console 32#8 [] = w at hw
    rw [hw]
    simp only [Part.order_breakOff]
    rfl
  · refine refuses_of_verdict hs (exec_order rfl s) ?_
    exact checked_of_lt (List.length_pos_iff.2 hops)
  · rw [step_empty hp]
    simp [State.idle, Part.clock, hs, hr]

end Sys2Proof.Machine


/-!
PROOF. EDIT-SITE (R158, R159) and EDIT-UNIT (R163, R193): what each reads, what it sets, and when it is refused.
-/

namespace Sys2Proof.Machine

open Sys2Proof

/-! ## Orders that change one block of the part they are worked on -/

@[simp] theorem Part.working_sites (p : Part) (l : Line) (code : Byte) (ops : List Operand) :
    (p.working l code ops).sites = p.sites := by
  rw [p.working_frame l code ops]

@[simp] theorem Part.working_settings (p : Part) (l : Line) (code : Byte) (ops : List Operand) :
    (p.working l code ops).settings = p.settings := by
  rw [p.working_frame l code ops]

@[simp] theorem Part.working_roster (p : Part) (l : Line) (code : Byte) (ops : List Operand) :
    (p.working l code ops).roster = p.roster := by
  rw [p.working_frame l code ops]

@[simp] theorem Part.working_table (p : Part) (l : Line) (code : Byte) (ops : List Operand) :
    (p.working l code ops).table = p.table := by
  rw [p.working_frame l code ops]

section
variable {c : Instr} {l : Line} {code : Byte} {ops : List Operand} {s : State}

/-- An order refused by its own rule. -/
theorem refuses_of_rule {why : Reason} {results : List Operand} (hs : s.condition = .running)
    (hc : c.exchange? = some (l, code, ops))
    (hv : orderRule c (s.toPart.working l code ops) = .refused why results) : Refuses c l s why results :=
  refuses_of_verdict hs (exec_order hc s) hv

theorem takes_of_rule {q after : Part} {results : List Operand} (hs : s.condition = .running)
    (hc : c.exchange? = some (l, code, ops))
    (hv : orderRule c (s.toPart.working l code ops) = .taken q results)
    (hq : q = { after with lines := (s.toPart.working l code ops).lines, restart := (s.toPart.breakOff l).restart }) :
    Takes c l s results 0#16 after :=
  takes_of_taken hs (exec_order hc s) hv hq

/-- An order whose effect `f` writes neither the lines nor the restart, and reads neither. -/
theorem takes_of_rule_map {f : Part → Part} {results : List Operand} (hs : s.condition = .running)
    (hc : c.exchange? = some (l, code, ops))
    (hv : orderRule c (s.toPart.working l code ops) = .taken (f (s.toPart.working l code ops)) results)
    (hf : ∀ p lines restart, f { p with lines := lines, restart := restart }
      = { f p with lines := lines, restart := restart }) : Takes c l s results 0#16 (f s.toPart) :=
  takes_of_rule hs hc hv ((congrArg f (s.toPart.working_frame l code ops)).trans (hf _ _ _))

theorem takes_of_rule_unchanged {results : List Operand} (hs : s.condition = .running)
    (hc : c.exchange? = some (l, code, ops))
    (hv : orderRule c (s.toPart.working l code ops) = .taken (s.toPart.working l code ops) results) :
    Takes c l s results 0#16 s.toPart :=
  takes_of_unchanged hs (exec_order hc s) hv

end

/-! ## EDIT-SITE -/

section
variable {ops : List Operand} {p : Part} {k : SiteId}

theorem siteEdit_eq_some {e : SiteEdit} : siteEdit ops = some e ↔
    optFlag ops 1 = some e.enabled ∧ optFlag ops 2 = some e.stationPowered ∧ optWithin ops 3 50 500 = some e.leadIn
      ∧ optWithin ops 4 5 100 = some e.clearWait ∧ optWithin ops 5 1000 60000 = some e.ceiling
      ∧ optWithin ops 6 2 100 = some e.divisor := by
  unfold siteEdit
  split
  · next h1 h2 h3 h4 h5 h6 => rw [h1, h2, h3, h4, h5, h6]; cases e; simp
  · next h => simp only [reduceCtorEq, false_iff]; rintro ⟨h1, h2, h3, h4, h5, h6⟩; exact h _ _ _ _ _ _ h1 h2 h3 h4 h5 h6

theorem editSiteOrder_of_edit {e : SiteEdit} (hlen : ops.length ≤ 7) (hk : needIndex ops 0 6 0 = some k)
    (he : siteEdit ops = some e) : editSiteOrder .console ops.length ops p
      = if e.isRead then .taken p (p.siteResults k)
        else if p.sites.sequencer.site? = some k then refuse .wrongState
        else .taken (p.updateSite k e.apply) ((p.updateSite k e.apply).siteResults k) := by
  unfold editSiteOrder
  rw [checked_of_le (by omega) hlen, hk, he]

theorem editSiteOrder_refused (h : 7 < ops.length ∨ needIndex ops 0 6 0 = none ∨ siteEdit ops = none) :
    editSiteOrder .console ops.length ops p = badOperand := by
  unfold editSiteOrder
  obtain h | h | h := h
  · exact checked_of_lt h
  · rw [h]; exact checked_badOperand
  · rw [h]; cases needIndex ops 0 6 0 <;> exact checked_badOperand

/-- Six fields that lie in their ranges are an edit, and no others are. -/
theorem siteEdit_eq_none : siteEdit ops = none ↔ ¬ (AbsentOrIn (operandAt ops 1) 0 1 ∧ AbsentOrIn (operandAt ops 2) 0 1
    ∧ AbsentOrIn (operandAt ops 3) 50 500 ∧ AbsentOrIn (operandAt ops 4) 5 100
    ∧ AbsentOrIn (operandAt ops 5) 1000 60000 ∧ AbsentOrIn (operandAt ops 6) 2 100) := by
  have h1 := optFlag_eq_none (ops := ops) (j := 1)
  have h2 := optFlag_eq_none (ops := ops) (j := 2)
  have h3 := optWithin_eq_none (ops := ops) (j := 3) (lo := 50) (hi := 500)
  have h4 := optWithin_eq_none (ops := ops) (j := 4) (lo := 5) (hi := 100)
  have h5 := optWithin_eq_none (ops := ops) (j := 5) (lo := 1000) (hi := 60000)
  have h6 := optWithin_eq_none (ops := ops) (j := 6) (lo := 2) (hi := 100)
  norm_cast at h1 h2 h3 h4 h5 h6
  rw [← not_iff_not, not_not, ← ne_eq, Option.ne_none_iff_exists']
  simp only [siteEdit_eq_some]
  constructor
  · rintro ⟨e, e1, e2, e3, e4, e5, e6⟩
    refine ⟨by_contra fun h => ?_, by_contra fun h => ?_, by_contra fun h => ?_, by_contra fun h => ?_,
      by_contra fun h => ?_, by_contra fun h => ?_⟩
    all_goals simp_all
  · rintro ⟨g1, g2, g3, g4, g5, g6⟩
    obtain ⟨a, ha⟩ := Option.ne_none_iff_exists'.1 fun h => h1.1 h g1
    obtain ⟨b, hb⟩ := Option.ne_none_iff_exists'.1 fun h => h2.1 h g2
    obtain ⟨c, hc⟩ := Option.ne_none_iff_exists'.1 fun h => h3.1 h g3
    obtain ⟨d, hd⟩ := Option.ne_none_iff_exists'.1 fun h => h4.1 h g4
    obtain ⟨e, he⟩ := Option.ne_none_iff_exists'.1 fun h => h5.1 h g5
    obtain ⟨f, hf⟩ := Option.ne_none_iff_exists'.1 fun h => h6.1 h g6
    exact ⟨⟨a, b, c, d, e, f⟩, ha, hb, hc, hd, he, hf⟩

end

theorem SiteRecord.setCeiling_eq (c : Nat) (r : SiteRecord) : r.setCeiling c = { r with
    ceiling := c, credit := if c ≤ r.credit then c else r.credit
    accrual := if c ≤ r.credit ∨ r.credit = r.ceiling then 0 else r.accrual } := by
  unfold setCeiling
  by_cases hc : c ≤ r.credit
  · simp [hc]
  · by_cases hr : r.credit = r.ceiling
    · rw [if_neg hc, if_pos hr, if_neg hc, if_pos (.inr hr)]
    · simp [hc, hr]

theorem SiteRecord.setDivisor_eq (d : Nat) (r : SiteRecord) : r.setDivisor d = { r with
    divisor := d, accrual := if d ≠ r.divisor then 0 else r.accrual } := by
  unfold setDivisor
  by_cases hd : d = r.divisor <;> simp [hd]

/-- Every field, the credit and the accrual count after an edit (R159). -/
theorem SiteEdit.apply_eq (e : SiteEdit) (r : SiteRecord) : e.apply r =
    { enabled := e.enabled.getD r.enabled, stationPowered := e.stationPowered.getD r.stationPowered
      leadIn := e.leadIn.getD r.leadIn, clearWait := e.clearWait.getD r.clearWait
      ceiling := e.ceiling.getD r.ceiling, divisor := e.divisor.getD r.divisor
      credit := if e.ceiling.isSome ∧ e.ceiling.getD r.ceiling ≤ r.credit then e.ceiling.getD r.ceiling else r.credit
      accrual := if e.ceiling.isSome ∧ (e.ceiling.getD r.ceiling ≤ r.credit ∨ r.credit = r.ceiling)
          ∨ e.divisor.getD r.divisor ≠ r.divisor then 0 else r.accrual } := by
  obtain ⟨enabled, powered, leadIn, wait, ceiling, divisor⟩ := e
  cases ceiling with
  | none => cases divisor <;> simp [apply, SiteRecord.setDivisor_eq]
  | some c =>
    cases divisor with
    | none => simp [apply, SiteRecord.setCeiling_eq]
    | some d => by_cases hd : d = r.divisor <;> simp [apply, SiteRecord.setCeiling_eq, SiteRecord.setDivisor_eq, hd]

theorem Part.siteResults_eq (k : SiteId) (p : Part) : p.siteResults k =
    [num k.val, num (if (p.sites.records.get k).enabled then 1 else 0),
     num (if (p.sites.records.get k).stationPowered then 1 else 0), num (p.sites.records.get k).leadIn,
     num (p.sites.records.get k).clearWait, num (p.sites.records.get k).ceiling, num (p.sites.records.get k).divisor,
     num (p.sites.records.get k).credit, num (p.sites.records.get k).accrual,
     num (match p.sites.sequencer with
       | .idle => 0
       | .clearWait j _ => if j = k then 1 else 0
       | .leadIn j _ _ | .burst j _ _ => if j = k then 2 else 0),
     num (match p.sites.direction with | .ascending => 0 | .descending => 1)] := by
  unfold siteResults flag
  cases hq : p.sites.sequencer <;> cases p.sites.direction <;>
    simp [Sequencer.siteCode, Sequencer.site?, Sequencer.keyed?, Direction.code] <;> split_ifs <;> rfl

/-- Settles O34. -/
theorem editSite : Obligations.EditSite := by
  unfold Obligations.EditSite
  intro s hs
  refine ⟨fun x enabled powered leadIn clearWait ceiling divisor ops h => ?_, fun ops h => ?_⟩
  · have hlen := h.length_le
    have e0 : operandAt ops 0 = .number x := h.at 0
    have e1 : operandAt ops 1 = optionalNumber enabled := h.at 1
    have e2 : operandAt ops 2 = optionalNumber powered := h.at 2
    have e3 : operandAt ops 3 = optionalNumber leadIn := h.at 3
    have e4 : operandAt ops 4 = optionalNumber clearWait := h.at 4
    have e5 : operandAt ops 5 = optionalNumber ceiling := h.at 5
    have e6 : operandAt ops 6 = optionalNumber divisor := h.at 6
    intro k r isOne ceiling' divisor' r' results
    split
    · next hbad =>
      refine refuses_of_rule hs rfl (editSiteOrder_refused (.inr ?_))
      rw [needIndex_eq_none, siteEdit_eq_none, e0, e1, e2, e3, e4, e5, e6]
      simp only [numberIn_number, absentOrIn_optional]
      by_contra hok
      simp only [not_or, not_not] at hok
      obtain ⟨⟨h0, h5⟩, hok⟩ := hok
      exact hbad ⟨by simpa using h0, by simpa using h5, hok⟩
    · next hok =>
      simp only [not_not] at hok
      obtain ⟨h0, h5, g1, g2, g3, g4, g5, g6⟩ := hok
      have hk : needIndex ops 0 6 0 = some k := needIndex_of_number e0 (by simpa using h0) (by push_cast; omega)
      have he : siteEdit ops = some (SiteEdit.mk (enabled.map isOne) (powered.map isOne) (leadIn.map BitVec.toNat)
          (clearWait.map BitVec.toNat) (ceiling.map BitVec.toNat) (divisor.map BitVec.toNat)) :=
        siteEdit_eq_some.2 ⟨optFlag_of_optional e1 g1, optFlag_of_optional e2 g2, optWithin_of_optional e3 g3,
          optWithin_of_optional e4 g4, optWithin_of_optional e5 g5, optWithin_of_optional e6 g6⟩
      have hv (p : Part) := editSiteOrder_of_edit (p := p) hlen hk he
      split
      · next hread =>
        obtain ⟨rfl, rfl, rfl, rfl, rfl, rfl⟩ := hread
        refine takes_of_rule_unchanged hs rfl ((hv _).trans ?_)
        rw [if_pos (by rfl), Part.siteResults_eq, Part.working_sites] <;> rfl
      · next hedit =>
        have hread : SiteEdit.isRead ⟨enabled.map isOne, powered.map isOne, leadIn.map BitVec.toNat,
            clearWait.map BitVec.toNat, ceiling.map BitVec.toNat, divisor.map BitVec.toNat⟩ = false := by
          simpa [SiteEdit.isRead] using hedit
        rw [hread] at hv
        simp only [Bool.false_eq_true, if_false] at hv
        split
        · next hbusy => exact refuses_of_rule hs rfl ((hv _).trans (if_pos (by simpa using hbusy)))
        · next hfree =>
          have hfree : ¬ (s.toPart.working .console 27#8 ops).sites.sequencer.site? = some k := by
            rwa [Part.working_sites]
          have happly : SiteEdit.apply ⟨enabled.map isOne, powered.map isOne, leadIn.map BitVec.toNat,
              clearWait.map BitVec.toNat, ceiling.map BitVec.toNat, divisor.map BitVec.toNat⟩ r = r' := by
            rw [SiteEdit.apply_eq]
            simp [r', ceiling', divisor']
          have hset := congrArg (s.sites.records.set k) happly
          refine takes_of_rule hs rfl ((hv _).trans ((if_neg hfree).trans (congrArg _ ?_))) ?_
          · rw [Part.siteResults_eq]
            simp only [Part.updateSite, Table.update, Part.onSites_sites, Part.working_sites, Table.get_set_self]
            rw [happly] <;> rfl
          · have hw := s.toPart.working_frame .console 27#8 ops
            generalize s.toPart.working .console 27#8 ops = w at hw
            rw [hw]
            simp only [Part.updateSite, Table.update, Part.onSites]
            rw [hset]
  · refine refuses_of_rule hs rfl (editSiteOrder_refused ?_)
    rw [needIndex_eq_none, siteEdit_eq_none]
    obtain h | h | ⟨k, h1, h6, h⟩ := h
    · exact .inl h
    · exact .inr (.inl (not_numberIn_of h _ _))
    · refine .inr (.inr fun hok => ?_)
      obtain ⟨g1, g2, g3, g4, g5, g6⟩ := hok
      interval_cases k
      · exact not_absentOrIn_of_kind h _ _ g1
      · exact not_absentOrIn_of_kind h _ _ g2
      · exact not_absentOrIn_of_kind h _ _ g3
      · exact not_absentOrIn_of_kind h _ _ g4
      · exact not_absentOrIn_of_kind h _ _ g5
      · exact not_absentOrIn_of_kind h _ _ g6

end Sys2Proof.Machine


/-!
PROOF. EDIT-UNIT (R163, R193): the parts GENERAL and PATTERN.
-/

namespace Sys2Proof.Machine

open Sys2Proof

section
variable {ops : List Operand} {p : Part}

theorem optStationCode_of_optional {j : Nat} {t : Option Text} (h : operandAt ops j = optionalText t) :
    optStationCode ops j = if t.all (fun t => t.length == 4) then some (t.map clean) else none := by
  unfold optStationCode
  rw [optText_of_optional h]
  cases t <;> simp

theorem generalEdit_eq_some {e : GeneralEdit} : generalEdit ops = some e ↔
    optStationCode ops 0 = some e.stationCode ∧ optWithin ops 1 2 30 = some e.window
      ∧ optIndex ops 2 4 1 = some e.aidPattern ∧ optWithin ops 3 108 126 = some e.reserveLevel
      ∧ optWithin ops 4 5 120 = some e.periodP ∧ optWithin ops 5 5 120 = some e.periodS := by
  unfold generalEdit
  split
  · next h1 h2 h3 h4 h5 h6 => rw [h1, h2, h3, h4, h5, h6]; cases e; simp
  · next h => simp only [reduceCtorEq, false_iff]; rintro ⟨h1, h2, h3, h4, h5, h6⟩; exact h _ _ _ _ _ _ h1 h2 h3 h4 h5 h6

/-- A field out of its range leaves no edit. -/
theorem generalEdit_eq_none (h : optStationCode ops 0 = none ∨ ¬ AbsentOrIn (operandAt ops 1) 2 30
    ∨ ¬ AbsentOrIn (operandAt ops 2) 1 4 ∨ ¬ AbsentOrIn (operandAt ops 3) 108 126
    ∨ ¬ AbsentOrIn (operandAt ops 4) 5 120 ∨ ¬ AbsentOrIn (operandAt ops 5) 5 120) : generalEdit ops = none := by
  refine Option.eq_none_iff_forall_ne_some.2 fun e he => ?_
  obtain ⟨h0, h1, h2, h3, h4, h5⟩ := generalEdit_eq_some.1 he
  obtain h | h | h | h | h | h := h
  · exact ne_none_of_eq_some h0 h
  · exact ne_none_of_eq_some h1 (optWithin_eq_none.2 h)
  · exact ne_none_of_eq_some h2 (optIndex_eq_none.2 h)
  · exact ne_none_of_eq_some h3 (optWithin_eq_none.2 h)
  · exact ne_none_of_eq_some h4 (optWithin_eq_none.2 h)
  · exact ne_none_of_eq_some h5 (optWithin_eq_none.2 h)

theorem unitGeneral_of_edit {e : GeneralEdit} (hlen : ops.length ≤ 6) (he : generalEdit ops = some e) :
    editUnitPart .console (ops.length + 1) (unitGeneral ops) p
      = .taken (p.editGeneral e) (p.editGeneral e).generalResults := by
  unfold editUnitPart unitGeneral
  rw [checked_of_le (by omega) (by omega), if_neg (by omega), he]

theorem unitGeneral_refused (h : 6 < ops.length ∨ generalEdit ops = none) :
    editUnitPart .console (ops.length + 1) (unitGeneral ops) p = badOperand := by
  unfold editUnitPart unitGeneral
  by_cases hlen : 6 < ops.length
  · exact checked_of_lt (by omega)
  · rw [if_neg hlen, h.resolve_left hlen]
    exact checked_badOperand

/-! ## The part PATTERN -/

theorem unitPattern_of_edit {k : PatternId} {period onTime cycles : Option Nat} {y : Pattern} (hlen : ops.length ≤ 4)
    (hk : needIndex ops 0 4 1 = some k) (h1 : optWithin ops 1 2 60 = some period)
    (h2 : optWithin ops 2 1 59 = some onTime) (h3 : optWithin ops 3 1 15 = some cycles)
    (hy : (p.station.patterns.get k).edited period onTime cycles = some y) :
    editUnitPart .console (ops.length + 1) (unitPattern ops) p = .taken (p.setPattern k y) (patternResults k y) := by
  unfold editUnitPart unitPattern
  rw [checked_of_le (by omega) (by omega), if_neg (by omega), hk, h1, h2, h3]
  simp only [hy]

theorem unitPattern_refused (h : ops.length ≤ 4 → ∀ k period onTime cycles, needIndex ops 0 4 1 = some k →
      optWithin ops 1 2 60 = some period → optWithin ops 2 1 59 = some onTime → optWithin ops 3 1 15 = some cycles →
      (p.station.patterns.get k).edited period onTime cycles = none) :
    editUnitPart .console (ops.length + 1) (unitPattern ops) p = badOperand := by
  unfold editUnitPart unitPattern
  by_cases hlen : 4 < ops.length
  · rw [if_pos hlen]
    exact checked_badOperand
  · rw [checked_of_le (by omega) (by omega), if_neg hlen]
    split
    · next k period onTime cycles hk h1 h2 h3 => rw [h (by omega) k period onTime cycles hk h1 h2 h3]
    · rfl

end

theorem unitGeneral_takes {s : State} {ops : List Operand} {e : GeneralEdit} (hs : s.condition = .running)
    (hlen : ops.length ≤ 6) (he : generalEdit ops = some e) :
    Takes (.editUnitGeneral .console ops) .console s (s.toPart.editGeneral e).generalResults 0#16
      (s.toPart.editGeneral e) := by
  refine takes_of_rule_map hs rfl ((unitGeneral_of_edit hlen he).trans (congrArg _ ?_)) fun _ _ _ => rfl
  simp [Part.generalResults, Part.editGeneral]

theorem unit_stationCode_refused {ops : List Operand} (h : ∀ t, operandAt ops 0 ≠ optionalText t) :
    optStationCode ops 0 = none := by
  rw [optStationCode, optText_eq_none.2 h]

/-- An on-time that fits a period of 60 s at most is 59 s at most (R163). -/
theorem inRange_onTime {period onTime : Option (BitVec 32)} {y : Pattern} (hperiod : inRange period 2 60 = true)
    (hy : y.period ≤ 60) (hpos : onTime.all (fun v => 1 ≤ v.toInt) = true)
    (hfit : 1 ≤ (onTime.map BitVec.toNat).getD y.onTime
      ∧ (onTime.map BitVec.toNat).getD y.onTime < (period.map BitVec.toNat).getD y.period) :
    inRange onTime 1 59 = true := by
  cases onTime with
  | none => rfl
  | some v =>
    have hv : 1 ≤ v.toInt := by simpa using hpos
    have hp : (period.map BitVec.toNat).getD y.period ≤ 60 := by
      cases period with
      | none => exact hy
      | some w =>
        obtain ⟨hlo, hhi⟩ : 2 ≤ w.toInt ∧ w.toInt ≤ 60 := by simpa [inRange] using hperiod
        have := toNat_toInt_of_nonneg (by omega : 0 ≤ w.toInt)
        simp only [Option.map_some, Option.getD_some]
        omega
    have h0 := toNat_toInt_of_nonneg (by omega : 0 ≤ v.toInt)
    have h1 : v.toNat < 60 := lt_of_lt_of_le hfit.2 hp
    simp only [inRange, Option.all_some, Bool.and_eq_true, decide_eq_true_eq]
    omega

/-- Settles O22. -/
theorem editUnit : Obligations.EditUnit := by
  unfold Obligations.EditUnit
  intro s hs
  refine ⟨fun code window aid level periodP periodS ops h => ?_, fun ops h => ?_,
    fun x period onTime cycles ops h => ?_, fun ops h => ?_⟩
  · have e0 : operandAt ops 0 = optionalText code := h.at 0
    have e1 : operandAt ops 1 = optionalNumber window := h.at 1
    have e2 : operandAt ops 2 = optionalNumber aid := h.at 2
    have e3 : operandAt ops 3 = optionalNumber level := h.at 3
    have e4 : operandAt ops 4 = optionalNumber periodP := h.at 4
    have e5 : operandAt ops 5 = optionalNumber periodS := h.at 5
    split
    · next hok =>
      obtain ⟨g0, g1, g2, g3, g4, g5⟩ := hok
      have he : generalEdit ops = some ⟨code.map clean, window.map BitVec.toNat,
          aid.map fun v => Fin.ofNat 4 (v.toNat - 1), level.map BitVec.toNat, periodP.map BitVec.toNat,
          periodS.map BitVec.toNat⟩ :=
        generalEdit_eq_some.2 ⟨(optStationCode_of_optional e0).trans (if_pos g0), optWithin_of_optional e1 g1,
          optIndex_of_optional e2 g2, optWithin_of_optional e3 g3, optWithin_of_optional e4 g4,
          optWithin_of_optional e5 g5⟩
      exact unitGeneral_takes hs h.length_le he
    · next hbad =>
      refine refuses_of_rule hs rfl (unitGeneral_refused (.inr (generalEdit_eq_none ?_)))
      rw [optStationCode_of_optional e0, e1, e2, e3, e4, e5]
      simp only [absentOrIn_optional]
      by_contra hok
      simp only [not_or, not_not] at hok
      obtain ⟨g0, hok⟩ := hok
      exact hbad ⟨by_contra fun g => g0 (if_neg g), hok⟩
  · refine refuses_of_rule hs rfl (unitGeneral_refused ?_)
    obtain h | h | ⟨k, h1, h5, h⟩ := h
    · exact .inl h
    · exact .inr (generalEdit_eq_none (.inl (unit_stationCode_refused h)))
    · refine .inr (generalEdit_eq_none (.inr ?_))
      have hk (lo hi : Int) := not_absentOrIn_of_kind h lo hi
      interval_cases k
      · exact .inl (hk _ _)
      · exact .inr (.inl (hk _ _))
      · exact .inr (.inr (.inl (hk _ _)))
      · exact .inr (.inr (.inr (.inl (hk _ _))))
      · exact .inr (.inr (.inr (.inr (hk _ _))))
  · have e0 : operandAt ops 0 = .number x := h.at 0
    have e1 : operandAt ops 1 = optionalNumber period := h.at 1
    have e2 : operandAt ops 2 = optionalNumber onTime := h.at 2
    have e3 : operandAt ops 3 = optionalNumber cycles := h.at 3
    intro k y y' hperiod
    split
    · next hok =>
      obtain ⟨h1, h4, g1, g2, g3, hy⟩ := hok
      have hk : needIndex ops 0 4 1 = some k := needIndex_of_number e0 (by simpa using h1) (by push_cast; omega)
      have hon : inRange onTime 1 59 = true := inRange_onTime g1 hperiod g2 hy
      refine takes_of_rule_map (f := Part.setPattern k y') hs rfl (unitPattern_of_edit h.length_le hk
        (optWithin_of_optional e1 g1) (optWithin_of_optional e2 hon) (optWithin_of_optional e3 g3) ?_) fun _ _ _ => rfl
      rw [Part.working_station]
      exact if_pos hy
    · next hbad =>
      refine refuses_of_rule hs rfl (unitPattern_refused fun hlen k' period' onTime' cycles' hk h1 h2 h3 => ?_)
      have g0 := not_not.1 (mt needIndex_eq_none.2 (ne_none_of_eq_some hk))
      have g1 := not_not.1 (mt optWithin_eq_none.2 (ne_none_of_eq_some h1))
      have g2 := not_not.1 (mt optWithin_eq_none.2 (ne_none_of_eq_some h2))
      have g3 := not_not.1 (mt optWithin_eq_none.2 (ne_none_of_eq_some h3))
      rw [e0, numberIn_number] at g0
      rw [e1, absentOrIn_optional] at g1
      rw [e2, absentOrIn_optional] at g2
      rw [e3, absentOrIn_optional] at g3
      have hk' := needIndex_of_number (n := 4) (lo := 1) e0 g0.1 (by push_cast at *; omega)
      obtain rfl : k = k' := Option.some.inj (hk'.symm.trans hk)
      obtain rfl := Option.some.inj ((optWithin_of_optional e1 g1).symm.trans h1)
      obtain rfl := Option.some.inj ((optWithin_of_optional e2 g2).symm.trans h2)
      obtain rfl := Option.some.inj ((optWithin_of_optional e3 g3).symm.trans h3)
      rw [Part.working_station]
      refine if_neg fun hy => hbad ⟨g0.1, by simpa using g0.2, g1, ?_, g3, hy⟩
      cases onTime <;> simp_all [inRange]
  · refine refuses_of_rule hs rfl (unitPattern_refused fun hlen k period onTime cycles hk h1 h2 h3 => ?_)
    exfalso
    obtain h | h | ⟨j, hj1, hj3, h⟩ := h
    · omega
    · obtain ⟨x, hx, hlo, hhi⟩ := not_not.1 (mt needIndex_eq_none.2 (ne_none_of_eq_some hk))
      have := h x hx
      push_cast at *
      omega
    · interval_cases j
      · exact ne_none_of_eq_some h1 (optWithin_eq_none.2 (not_absentOrIn_of_kind h _ _))
      · exact ne_none_of_eq_some h2 (optWithin_eq_none.2 (not_absentOrIn_of_kind h _ _))
      · exact ne_none_of_eq_some h3 (optWithin_eq_none.2 (not_absentOrIn_of_kind h _ _))

end Sys2Proof.Machine


/-!
PROOF. EDIT-APPLIANCE (R43) and EDIT-GROUP (R67).
-/

namespace Sys2Proof.Machine

open Sys2Proof

theorem Part.working_appliance (p : Part) (l : Line) (code : Byte) (ops : List Operand) (ap : Appliance) :
    (p.working l code ops).appliance ap = p.appliance ap :=
  congrArg (fun r : Resolver => r.appliances.get ap.index) (p.working_resolver l code ops)

/-! ## EDIT-APPLIANCE -/

theorem Part.planNeedsMore_iff {p : Part} {ap : Appliance} {n : Nat} : p.planNeedsMore ap n = true ↔
    ∃ (k : PlanId) (pl : Plan) (e : PlanEntry), p.plan? k = some pl ∧ e ∈ pl.entries
      ∧ (e.main = ap ∨ e.alternate = some ap) ∧ n < e.need.sum := by
  unfold planNeedsMore
  rw [List.any_eq_true]
  constructor
  · rintro ⟨x, hx, h⟩
    obtain ⟨k, rfl⟩ := Table.mem_cells.1 hx
    split at h
    · cases h
    · next pl hpl =>
      obtain ⟨e, he, h⟩ := List.any_eq_true.1 h
      exact ⟨k, pl, e, hpl, he, by simpa using h⟩
  · rintro ⟨k, pl, e, hpl, he, h⟩
    refine ⟨p.resolver.plans.get k, Table.mem_cells.2 ⟨k, rfl⟩, ?_⟩
    rw [show p.resolver.plans.get k = some pl from hpl]
    exact List.any_eq_true.2 ⟨e, he, by simpa using h⟩

def ApplianceRecord.edited (seats : Option Nat) (inService : Option Bool) (x : ApplianceRecord) : ApplianceRecord :=
  { x with seats := seats.getD x.seats, inService := inService.getD x.inService }

/-- Each given field of the appliance set. -/
def Part.editAppliance (ap : Appliance) (seats : Option Nat) (inService : Option Bool) (p : Part) : Part :=
  p.onResolver fun r => { r with appliances := r.appliances.set ap.index ((p.appliance ap).edited seats inService) }

section
variable {ops : List Operand} {p : Part} {ap : Appliance} {seats : Option Nat} {inService : Option Bool}

theorem editApplianceOrder_of_edit (hlen : ops.length ≤ 3) (h0 : needLetter ops 0 = some ap)
    (h1 : optWithin ops 1 2 6 = some seats) (h2 : optFlag ops 2 = some inService) :
    editApplianceOrder .console ops.length ops p =
      if (seats.map (p.planNeedsMore ap)).getD false then badOperand
      else if (p.appliance ap).committed.isSome && (seats.isSome || inService.isSome) then refuse .wrongState
      else .taken (p.editAppliance ap seats inService) ((p.editAppliance ap seats inService).applianceResults ap) := by
  unfold editApplianceOrder
  rw [checked_of_le (by omega) hlen, h0, h1, h2]
  rfl

theorem editApplianceOrder_refused (h : 3 < ops.length ∨ needLetter ops 0 = none ∨ optWithin ops 1 2 6 = none
    ∨ optFlag ops 2 = none) : editApplianceOrder .console ops.length ops p = badOperand := by
  unfold editApplianceOrder
  by_cases hlen : 3 < ops.length
  · exact checked_of_lt hlen
  · rw [checked_of_le (by omega) (by omega)]
    split
    · next h0 h1 h2 => simp [hlen, h0, h1, h2] at h
    · rfl

end

theorem editAppliance_takes {s : State} {ops : List Operand} {ap : Appliance} {seats : Option Nat}
    {inService : Option Bool} (hs : s.condition = .running)
    (hv : editApplianceOrder .console ops.length ops (s.toPart.working .console 23#8 ops)
      = .taken ((s.toPart.working .console 23#8 ops).editAppliance ap seats inService)
          (((s.toPart.working .console 23#8 ops).editAppliance ap seats inService).applianceResults ap)) :
    Takes (.editAppliance .console ops) .console s ((s.toPart.editAppliance ap seats inService).applianceResults ap) 0#16
      (s.toPart.editAppliance ap seats inService) := by
  refine takes_of_rule_map hs rfl (hv.trans (congrArg _ ?_)) fun _ _ _ => rfl
  simp [Part.applianceResults, Part.editAppliance, Part.appliance]

/-- Settles O43. -/
theorem editAppliance : Obligations.EditAppliance := by
  unfold Obligations.EditAppliance
  intro s ap seats inService given hs hseats h x y c bad
  have hlen := h.length_le
  have h0 : needLetter given 0 = some ap := needLetter_eq_some.2 (h.at 0)
  have e1 : operandAt given 1 = optNum seats := h.at 1
  have h2 : optFlag given 2 = some inService := optFlag_of_flag (h.at 2)
  refine ⟨fun ops h => ?_, fun hbad => ?_, fun hbad => ?_⟩
  · refine refuses_of_rule hs rfl (editApplianceOrder_refused ?_)
    rw [needLetter_eq_none, optWithin_eq_none, optFlag_eq_none]
    exact h
  · obtain ⟨n, hn, hbad⟩ := hbad
    cases Option.mem_def.1 hn
    by_cases hin : 2 ≤ n ∧ n ≤ 6
    · have h1 : optWithin given 1 2 6 = some (some n) := (optWithin_eq_some (by omega)).2 ⟨e1, by simpa using hin⟩
      refine refuses_of_rule hs rfl ((editApplianceOrder_of_edit hlen h0 h1 h2).trans (if_pos ?_))
      rw [Option.map_some, Option.getD_some, Part.planNeedsMore_iff]
      simp only [Part.plan?, Part.working_resolver]
      exact hbad.resolve_left (by omega) |>.resolve_left (by omega)
    · refine refuses_of_rule hs rfl (editApplianceOrder_refused (.inr (.inr (.inl ?_))))
      rw [optWithin_eq_none, e1]
      exact fun h => hin (by simpa using (absentOrIn_optNum hseats 2 6).1 h)
  · have h1 : optWithin given 1 2 6 = some seats := by
      refine (optWithin_eq_some (by omega)).2 ⟨e1, fun n hn => ?_⟩
      by_contra hout
      exact hbad ⟨n, hn, by omega⟩
    have hv := editApplianceOrder_of_edit (p := s.toPart.working .console 23#8 given) hlen h0 h1 h2
    have hseats : ¬ (seats.map ((s.toPart.working .console 23#8 given).planNeedsMore ap)).getD false = true := by
      cases hn : seats with
      | none => simp
      | some n =>
        rw [Option.map_some, Option.getD_some, Part.planNeedsMore_iff]
        simp only [Part.plan?, Part.working_resolver]
        exact fun hmore => hbad ⟨n, hn, .inr (.inr hmore)⟩
    rw [if_neg hseats, Part.working_appliance] at hv
    by_cases hwrong : x.committed ≠ none ∧ (seats ≠ none ∨ inService ≠ none)
    · rw [if_pos hwrong]
      refine refuses_of_rule hs rfl (hv.trans (if_pos ?_))
      simpa [Option.isSome_iff_ne_none] using hwrong
    · rw [if_neg hwrong]
      rw [if_neg (by simpa [Option.isSome_iff_ne_none] using hwrong)] at hv
      have htakes := editAppliance_takes hs hv
      simp only [Part.applianceResults, Part.editAppliance, Part.appliance, Part.onResolver_resolver,
        Table.get_set_self] at htakes
      exact htakes

/-! ## EDIT-GROUP -/

def Group.edited (address : Option Address) (enabled : Option Bool) (x : Group) : Group :=
  { address := address.getD x.address, enabled := enabled.getD x.enabled }

def Part.setGroup (g : GroupId) (y : Group) (p : Part) : Part :=
  p.onRoster fun r => { r with groups := r.groups.set g y }

theorem Part.groupInCall_iff {p : Part} {g : GroupId} :
    p.groupInCall g = true ↔ ∃ i c, p.callout? i = some c ∧ c.primary.getLsbD g.val = true := by
  simp [groupInCall, List.any_eq_true, mem_live]

theorem Part.groupAddressTaken_iff {p : Part} {g : GroupId} {a : Address} : p.groupAddressTaken g a = true ↔
    (∃ m z, p.member? m = some z ∧ z.address = a) ∨ ∃ k, k ≠ g ∧ (p.roster.groups.get k).address = a := by
  simp [groupAddressTaken, List.any_eq_true, mem_inUse, mem_ascending]

section
variable {ops : List Operand} {p : Part} {g : GroupId} {address : Option Address} {enabled : Option Bool}

theorem editGroupOrder_of_edit (hlen : ops.length ≤ 3) (h0 : needIndex ops 0 16 0 = some g)
    (h1 : optWithin ops 1 0 2097151 = some (address.map BitVec.toNat)) (h2 : optFlag ops 2 = some enabled) {y : Group}
    (hy : (p.roster.groups.get g).edited address enabled = y) :
    editGroupOrder .console ops.length ops p =
      if address = none ∧ enabled = none then .taken p (p.groupResults g)
      else if y.enabled = true ∧ y.address = 0#21 then badOperand
      else if y.address ≠ (p.roster.groups.get g).address ∧ p.groupInCall g = true then refuse .wrongState
      else if address ≠ none ∧ y.address ≠ 0#21 ∧ p.groupAddressTaken g y.address = true then refuse .duplicate
      else .taken (p.setGroup g y) ((p.setGroup g y).groupResults g) := by
  have ha : (address.map BitVec.toNat).map (BitVec.ofNat 21) = address := by cases address <;> simp
  subst hy
  unfold editGroupOrder
  rw [checked_of_le (by omega) hlen, h0, h1, h2]
  simp only [ha]
  rfl

theorem editGroupOrder_refused (h : 3 < ops.length ∨ needIndex ops 0 16 0 = none ∨ optWithin ops 1 0 2097151 = none
    ∨ optFlag ops 2 = none) : editGroupOrder .console ops.length ops p = badOperand := by
  unfold editGroupOrder
  by_cases hlen : 3 < ops.length
  · exact checked_of_lt hlen
  · rw [checked_of_le (by omega) (by omega)]
    split
    · next h0 h1 h2 => simp [hlen, h0, h1, h2] at h
    · rfl

end

@[simp] theorem Part.working_callout? (p : Part) (l : Line) (code : Byte) (ops : List Operand) (i : SlotId) :
    (p.working l code ops).callout? i = p.callout? i := by
  rw [p.working_frame l code ops]
  rfl

@[simp] theorem Part.working_member? (p : Part) (l : Line) (code : Byte) (ops : List Operand) (m : MemberId) :
    (p.working l code ops).member? m = p.member? m := by
  rw [p.working_frame l code ops]
  rfl

theorem setGroup_takes {s : State} {ops : List Operand} {g : GroupId} {y : Group} (hs : s.condition = .running)
    (hv : editGroupOrder .console ops.length ops (s.toPart.working .console 22#8 ops)
      = .taken ((s.toPart.working .console 22#8 ops).setGroup g y)
          (((s.toPart.working .console 22#8 ops).setGroup g y).groupResults g)) :
    Takes (.editGroup .console ops) .console s ((s.toPart.setGroup g y).groupResults g) 0#16 (s.toPart.setGroup g y) := by
  refine takes_of_rule_map hs rfl (hv.trans (congrArg _ ?_)) fun _ _ _ => rfl
  simp [Part.groupResults, Part.setGroup, Part.groupMembers, Part.inUse, Part.member?]

/-- Settles O46. -/
theorem editGroup : Obligations.EditGroup := by
  unfold Obligations.EditGroup
  refine ⟨fun s ops hs h => ?_, fun s g address enabled given hs h => ?_⟩
  · refine refuses_of_rule hs rfl (editGroupOrder_refused ?_)
    rw [needIndex_eq_none, optWithin_eq_none, optFlag_eq_none]
    exact h
  · intro x y c after held results
    have h0 : needIndex given 0 16 0 = some g := (needIndex_eq_some (by omega)).2 (h.at 0)
    have h1 : optWithin given 1 0 2097151 = some (address.map BitVec.toNat) := by
      refine (optWithin_eq_some (by omega)).2 ⟨h.at 1, fun n hn => ?_⟩
      obtain ⟨a, -, rfl⟩ := Option.mem_map.1 hn
      have := a.isLt
      omega
    have h2 : optFlag given 2 = some enabled := optFlag_of_flag (h.at 2)
    have hv := editGroupOrder_of_edit (p := s.toPart.working .console 22#8 given) (y := y) h.length_le h0 h1 h2
      (by rw [Part.working_roster]; rfl)
    have hcall : (s.toPart.working .console 22#8 given).groupInCall g = true
        ↔ ∃ i k, s.callout? i = some k ∧ k.primary.getLsbD g.val = true := by
      rw [Part.groupInCall_iff]
      simp only [Part.working_callout?]
    have htaken : (address ≠ none ∧ y.address ≠ 0#21
        ∧ (s.toPart.working .console 22#8 given).groupAddressTaken g y.address = true) ↔ held := by
      rw [Part.groupAddressTaken_iff]
      simp only [Part.working_member?, Part.working_roster]
      rfl
    simp only [hcall, htaken, Part.working_roster] at hv
    split
    · next hread =>
      refine takes_of_rule_unchanged hs rfl (hv.trans ((if_pos hread).trans (congrArg _ ?_)))
      obtain ⟨rfl, rfl⟩ := hread
      simp only [Part.groupResults, Part.groupMembers, Part.inUse, Part.working_roster, Part.working_member?]
      rfl
    · next hedit =>
      rw [if_neg hedit] at hv
      split
      · next hbad => exact refuses_of_rule hs rfl (hv.trans (if_pos hbad))
      · next hok =>
        rw [if_neg hok] at hv
        split
        · next hwrong => exact refuses_of_rule hs rfl (hv.trans (if_pos hwrong))
        · next hfree =>
          rw [if_neg hfree] at hv
          refine ⟨fun hheld => refuses_of_rule hs rfl (hv.trans (if_pos hheld)), fun hheld => ?_⟩
          have htakes := setGroup_takes hs (hv.trans (if_neg hheld))
          simp only [Part.groupResults, Part.setGroup, Part.onRoster_roster, Table.get_set_self] at htakes
          exact htakes

end Sys2Proof.Machine


/-!
PROOF. The parts DELETE, SETTINGS, GROUPS, REMOVE-ENTRY and REPORT of EDIT-PLAN (R39, R41, R42).
-/

namespace Sys2Proof.Machine

open Sys2Proof

@[simp] theorem Part.working_plan? (p : Part) (l : Line) (code : Byte) (ops : List Operand) (n : PlanId) :
    (p.working l code ops).plan? n = p.plan? n := by
  rw [p.working_frame l code ops]
  rfl

/-- A plan operand that is no plan's number. -/
theorem editPlanPart_of_bad {o : Operand} (h : ∀ x, o = .number x → x.toInt < 1 ∨ 48 < x.toInt) (d : Nat)
    (body : PlanId → Part → Verdict) (p : Part) : editPlanPart .console d o body p = badOperand := by
  have hn : needIndex [o] 0 48 1 = none := by
    rw [needIndex_eq_none]
    rintro ⟨x, hx, hlo, hhi⟩
    have := h x hx
    push_cast at *
    omega
  unfold editPlanPart
  rw [hn]
  exact checked_badOperand

/-- A part's body that refuses whatever stands, on operands of any length. -/
theorem editPlanPart_badOperand {d : Nat} (n : PlanId) {body : PlanId → Part → Verdict} {p : Part}
    (h : body n p = badOperand) : editPlanPart .console d (num (n.val + 1)) body p = badOperand := by
  by_cases hd : d ≤ 8
  · exact (editPlanPart_of_le hd n body p).trans h
  · exact editPlanPart_of_lt (by omega) _ _ _

section
variable {s : State} {n : PlanId}

/-- A part that puts the plan `x` in the place of plan `n`. -/
theorem setPlan_takes {c : Instr} {ops : List Operand} {x : Option Plan} (hs : s.condition = .running)
    (hc : c.exchange? = some (.console, 24#8, ops))
    (hv : orderRule c (s.toPart.working .console 24#8 ops) = (s.toPart.working .console 24#8 ops).planTaken n x) :
    Takes c .console s (planResults n x) 0#16 (s.toPart.setPlan n x) :=
  takes_of_rule_map hs hc hv fun _ _ _ => rfl

/-- A part that edits a DEFINED plan, and is NOT_FOUND for an UNDEFINED one. -/
theorem planEdited {c : Instr} {ops : List Operand} (f : Plan → Plan) (hs : s.condition = .running)
    (hc : c.exchange? = some (.console, 24#8, ops))
    (hv : ∀ p, orderRule c p = match p.plan? n with
      | none => refuse .notFound
      | some pl => p.planTaken n (some (f pl))) :
    match s.plan? n with
    | none => Refuses c .console s .notFound []
    | some pl => Takes c .console s (planResults n (some (f pl))) 0#16 (s.toPart.setPlan n (some (f pl))) := by
  have hv := hv (s.toPart.working .console 24#8 ops)
  rw [Part.working_plan?] at hv
  cases hp : s.plan? n with
  | none => rw [hp] at hv; exact refuses_of_rule hs hc hv
  | some pl => rw [hp] at hv; exact setPlan_takes hs hc hv

end

/-! ## The parts' own operands -/

section
variable {ops : List Operand} {p : Part} {n : PlanId}

theorem SirenPolicy.ofCode_toNat {v : BitVec 32} : SirenPolicy.ofCode v.toNat
    = if v = 0#32 then .none else if v = 1#32 then .atLevel0 else .atLevel1 := by
  split
  · next h => rw [h]; rfl
  · next h0 =>
    split
    · next h => rw [h]; rfl
    · next h1 =>
      have h0 : v.toNat ≠ 0 := fun h => h0 (BitVec.eq_of_toNat_eq h)
      have h1 : v.toNat ≠ 1 := fun h => h1 (BitVec.eq_of_toNat_eq h)
      unfold ofCode
      split <;> simp_all

theorem planSettings_of_edit {window turnout policy : Option Nat} {pattern : Option PatternId} {text : Option Text}
    (hlen : ops.length ≤ 5) (h0 : optWithin ops 0 60 900 = some window) (h1 : optWithin ops 1 1 30 = some turnout)
    (h2 : optWithin ops 2 0 2 = some policy) (h3 : optIndex ops 3 4 1 = some pattern) (h4 : optText ops 4 = some text) :
    planSettings n ops p = match p.plan? n with
      | none => refuse .notFound
      | some pl => p.planTaken n (some
          { pl with window := window.getD pl.window, turnout := turnout.getD pl.turnout,
                    sirenPolicy := (policy.map SirenPolicy.ofCode).getD pl.sirenPolicy,
                    sirenPattern := pattern.getD pl.sirenPattern,
                    template := (text.map (cleanCut 24)).getD pl.template }) := by
  unfold planSettings
  rw [if_neg (by omega), h0, h1, h2, h3, h4] <;> rfl

theorem planSettings_refused (h : 5 < ops.length ∨ ¬ AbsentOrIn (operandAt ops 0) 60 900
    ∨ ¬ AbsentOrIn (operandAt ops 1) 1 30 ∨ ¬ AbsentOrIn (operandAt ops 2) 0 2 ∨ ¬ AbsentOrIn (operandAt ops 3) 1 4
    ∨ ∀ t, operandAt ops 4 ≠ optionalText t) : planSettings n ops p = badOperand := by
  unfold planSettings
  split
  · rfl
  · next hlen =>
    split
    · next h0 h1 h2 h3 h4 =>
      exfalso
      obtain h | h | h | h | h | h := h
      · exact hlen h
      · exact ne_none_of_eq_some h0 (optWithin_eq_none.2 h)
      · exact ne_none_of_eq_some h1 (optWithin_eq_none.2 h)
      · exact ne_none_of_eq_some h2 (optWithin_eq_none.2 h)
      · exact ne_none_of_eq_some h3 (optIndex_eq_none.2 h)
      · exact ne_none_of_eq_some h4 (optText_eq_none.2 h)
    · rfl

theorem planGroups_of_edit {primary secondary : Option GroupSet} (hlen : ops.length ≤ 2)
    (h0 : optSet ops 0 = some primary) (h1 : optSet ops 1 = some secondary) :
    planGroups n ops p = match p.plan? n with
      | none => refuse .notFound
      | some pl => p.planTaken n (some
          { pl with primary := primary.getD pl.primary, secondary := secondary.getD pl.secondary }) := by
  unfold planGroups
  rw [if_neg (by omega), h0, h1] <;> rfl

theorem planGroups_refused (h : 2 < ops.length ∨ optSet ops 0 = none ∨ optSet ops 1 = none) :
    planGroups n ops p = badOperand := by
  unfold planGroups
  split
  · rfl
  · next hlen =>
    split
    · next h0 h1 => simp [hlen, h0, h1] at h
    · rfl

theorem planRemoveEntry_refused (h : 1 < ops.length ∨ ¬ NumberIn (operandAt ops 0) 1 3) :
    planRemoveEntry n ops p = badOperand := by
  unfold planRemoveEntry
  split
  · rfl
  · next hlen => rw [needWithin_eq_none.2 (h.resolve_left hlen)]

end

/-- Settles O41. -/
theorem editPlan : Obligations.EditPlan := by
  unfold Obligations.EditPlan
  refine ⟨fun s o ops hs ho c hc => ?_, fun s n hs => ?_⟩
  · simp only [List.mem_cons, List.not_mem_nil, or_false] at hc
    obtain rfl | rfl | rfl | rfl | rfl | rfl := hc <;>
      exact refuses_of_rule hs rfl (editPlanPart_of_bad ho _ _ _)
  · intro plan withPlan answer edited
    have hanswer : planResults n = answer := by
      funext x
      cases x with
      | none => rfl
      | some pl => rw [planResults_some]; cases hp : pl.sirenPolicy <;> simp only [answer, hp] <;> rfl
    have hedited {c : Instr} {ops : List Operand} (f : Plan → Plan) (hc : c.exchange? = some (.console, 24#8, ops))
        (hv : ∀ p, orderRule c p = match p.plan? n with
          | none => refuse .notFound
          | some pl => p.planTaken n (some (f pl))) : edited c f := by
      have h := planEdited f hs hc hv
      rw [hanswer] at h
      exact h
    refine ⟨?_, ?_, fun window turnout policy pattern text ops h => ?_, fun primary secondary ops h => ?_, fun x => ?_,
      fun ops => ⟨fun hops => ⟨?_, ?_⟩, fun h => ?_, fun h => ?_, fun h => ?_⟩⟩
    · have hv (p : Part) : orderRule (.editPlanReport .console plan []) p = .taken p (planResults n (p.plan? n)) :=
        editPlanPart_of_le (by simp) _ _ _
      refine takes_of_rule_unchanged hs rfl ((hv _).trans ?_)
      rw [Part.working_plan?, hanswer]
    · have hv (p : Part) : orderRule (.editPlanDelete .console plan []) p = planDelete n [] p :=
        editPlanPart_of_le (by simp) _ _ _
      split
      · next hnone =>
        refine refuses_of_rule hs rfl ((hv _).trans ?_)
        simp [planDelete, hnone, refuse]
      · next hsome =>
        obtain ⟨pl, hpl⟩ := Option.ne_none_iff_exists'.1 hsome
        refine setPlan_takes (x := none) hs rfl ((hv _).trans ?_)
        simp [planDelete, hpl]
    · have e0 : operandAt ops 0 = optionalNumber window := h.at 0
      have e1 : operandAt ops 1 = optionalNumber turnout := h.at 1
      have e2 : operandAt ops 2 = optionalNumber policy := h.at 2
      have e3 : operandAt ops 3 = optionalNumber pattern := h.at 3
      have e4 : operandAt ops 4 = optionalText text := h.at 4
      have hlen : ops.length ≤ 5 := h.length_le
      intro c
      split
      · next hok =>
        obtain ⟨g0, g1, g2, g3⟩ := hok
        refine hedited _ rfl fun p => (editPlanPart_of_le (by omega) _ _ _).trans ((planSettings_of_edit hlen
          (optWithin_of_optional e0 g0) (optWithin_of_optional e1 g1) (optWithin_of_optional e2 g2)
          (optIndex_of_optional e3 g3) (optText_of_optional e4)).trans ?_)
        cases policy <;> simp [SirenPolicy.ofCode_toNat]
      · next hbad =>
        refine refuses_of_rule hs rfl (editPlanPart_badOperand _ (planSettings_refused (.inr ?_)))
        rw [e0, e1, e2, e3]
        simp only [absentOrIn_optional]
        by_contra hok
        simp only [not_or, not_not] at hok
        obtain ⟨g0, g1, g2, g3, -⟩ := hok
        exact hbad ⟨g0, g1, g2, g3⟩
    · have hlen : ops.length ≤ 2 := h.length_le
      exact hedited _ rfl fun p => (editPlanPart_of_le (by omega) _ _ _).trans
        (planGroups_of_edit hlen (optSet_of_optional (h.at 0)) (optSet_of_optional (h.at 1)))
    · intro c
      have hv (p : Part) : orderRule c p = planRemoveEntry n [.number x] p := editPlanPart_of_le (by simp) _ _ _
      split
      · next hx =>
        refine refuses_of_rule hs rfl ((hv _).trans (planRemoveEntry_refused (.inr ?_)))
        show ¬ NumberIn (.number x) 1 3
        rw [numberIn_number]
        omega
      · next hx =>
        have hx0 := toNat_toInt_of_nonneg (x := x) (by omega)
        have hk : needWithin [.number x] 0 1 3 = some x.toNat :=
          needWithin_of_number rfl (by push_cast; omega) (by push_cast; omega)
        have hv := hv (s.toPart.working .console 24#8 [plan, num 4, .number x])
        simp only [planRemoveEntry, List.length_singleton, lt_irrefl, if_false, hk, Part.working_plan?] at hv
        cases hp : s.plan? n with
        | none => rw [hp] at hv; exact refuses_of_rule hs rfl hv
        | some pl =>
          simp only [hp] at hv ⊢
          split
          · next hlong => exact refuses_of_rule hs rfl (hv.trans (if_pos (by omega)))
          · next hlong =>
            rw [if_neg (by omega)] at hv
            split
            · next hone => exact refuses_of_rule hs rfl (hv.trans (if_pos hone))
            · next hone =>
              have htakes := setPlan_takes hs rfl (hv.trans (if_neg hone))
              rw [hanswer, List.eraseIdx_eq_take_drop_succ, show x.toNat - 1 + 1 = x.toNat by omega] at htakes
              exact htakes
    · refine refuses_of_rule hs rfl (editPlanPart_badOperand _ ?_)
      exact if_pos (List.length_pos_iff.2 hops)
    · refine refuses_of_rule hs rfl (editPlanPart_badOperand _ ?_)
      exact if_pos (List.length_pos_iff.2 hops)
    · refine refuses_of_rule hs rfl (editPlanPart_badOperand _ (planSettings_refused ?_))
      obtain h | ⟨k, hk3, h⟩ | h := h
      · exact .inl h
      · have hk (lo hi : Int) := not_absentOrIn_of_kind h lo hi
        interval_cases k
        · exact .inr (.inl (hk _ _))
        · exact .inr (.inr (.inl (hk _ _)))
        · exact .inr (.inr (.inr (.inl (hk _ _))))
        · exact .inr (.inr (.inr (.inr (.inl (hk _ _)))))
      · exact .inr (.inr (.inr (.inr (.inr h))))
    · refine refuses_of_rule hs rfl (editPlanPart_badOperand _ (planGroups_refused ?_))
      obtain h | ⟨k, hk1, h⟩ := h
      · exact .inl h
      · interval_cases k
        · exact .inr (.inl (optSet_eq_none.2 h))
        · exact .inr (.inr (optSet_eq_none.2 h))
    · refine refuses_of_rule hs rfl (editPlanPart_badOperand _ (planRemoveEntry_refused ?_))
      exact h.imp id fun h => not_numberIn_of h _ _

end Sys2Proof.Machine


/-!
PROOF. QUERY-CALLOUT (R34, R35), QUERY-CREW (R110 to R112) and QUERY-MEMBER (R70): what each answers, changing nothing.
-/

namespace Sys2Proof.Machine

open Sys2Proof

@[simp] theorem Part.working_slot (p : Part) (l : Line) (code : Byte) (ops : List Operand) (i : SlotId) :
    (p.working l code ops).slot i = p.slot i := by
  rw [p.working_frame l code ops]
  rfl

theorem checked_anyLine_badOperand {l : Line} {arity declared : Nat} :
    checked (anyLine l) arity declared badOperand = badOperand := by
  simp [checked, anyLine]

/-- The first slot in slot order that satisfies a test. -/
theorem find_slotIds_eq_some {q : SlotId → Bool} {i : SlotId} (hi : q i = true) (hj : ∀ j, j < i → q j = false) :
    slotIds.find? q = some i := by
  revert hi hj
  fin_cases i <;> intro hi hj <;> simp_all [slotIds, Fin.forall_fin_succ]

/-! ## QUERY-CALLOUT -/

/-- The slot carries this number, as a live callout's or in the summary it keeps. -/
theorem Slot.holds_iff {x : Int} {y : Slot} : y.holds x = true ↔ match y with
    | .live c => (c.number.toNat : Int) = x
    | .free (some z) => (z.number.toNat : Int) = x
    | .free none => False := by
  rcases y with (_ | z) | c <;> simp [holds]

section
variable {l : Line} {p : Part}

theorem queryCalloutOrder_overview {ops : List Operand} (h : Spells [.absent] ops) :
    queryCalloutOrder l ops.length ops p = .taken p p.slotOverview := by
  unfold queryCalloutOrder
  rw [checked_anyLine_of_le (by omega) (by exact h.length_le), optNumber_of_optional (v := none) (h.at 0)]
  rfl

theorem queryCalloutOrder_named {x : BitVec 32} (h1 : 1 ≤ x.toInt) (h255 : x.toInt ≤ 255) :
    queryCalloutOrder l 1 [.number x] p = match slotIds.find? fun i => (p.slot i).holds x.toInt with
      | none => refuse .notFound
      | some i => .taken p ((p.slot i).details i) := by
  unfold queryCalloutOrder
  rw [checked_anyLine_of_le (by omega) (Nat.le_refl _), optNumber_of_number rfl]
  exact if_neg (by omega)

theorem queryCalloutOrder_refused {ops : List Operand} (h : 1 < ops.length ∨ ¬ NumberOrAbsent (operandAt ops 0)
    ∨ ∃ x, operandAt ops 0 = .number x ∧ (x.toInt < 1 ∨ 255 < x.toInt)) :
    queryCalloutOrder l ops.length ops p = badOperand := by
  unfold queryCalloutOrder
  obtain h | h | ⟨x, hx, h⟩ := h
  · exact checked_anyLine_of_lt h
  · rw [optNumber_eq_none_iff.2 h]
    exact checked_anyLine_badOperand
  · rw [optNumber_of_number hx]
    simp only [if_pos h]
    exact checked_anyLine_badOperand

end

theorem levelResult_eq (level : Fin 4) (b : Bool) : levelResult level b = num (level.val + 4 * if b then 1 else 0) := by
  cases b <;> rfl

/-- Settles O15. -/
theorem queryCallout : Obligations.QueryCallout := by
  unfold Obligations.QueryCallout
  intro l s hs bit flagSet carries
  have hcarries (j : SlotId) (x : BitVec 32) : (s.slot j).holds x.toInt = true ↔ carries j x :=
    Slot.holds_iff
  refine ⟨fun ops h => ?_, fun x i h1 h255 hi hj => ?_, fun x => ⟨fun hx => ?_, fun h1 h255 hj => ?_⟩, fun o ho => ?_,
    fun ops h => ?_⟩
  · refine takes_of_rule_unchanged hs rfl ((queryCalloutOrder_overview h).trans (congrArg _ ?_))
    simp only [Part.slotOverview, Part.working_slot]
    refine congrArg₂ _ rfl (List.map_congr_left fun j _ => ?_)
    cases s.slot j <;> rfl
  · have hfind : (slotIds.find? fun i => (s.slot i).holds x.toInt) = some i :=
      find_slotIds_eq_some ((hcarries i x).2 hi) fun j hlt => by
        rw [Bool.eq_false_iff, ne_eq, hcarries]
        exact hj j hlt
    have htakes : Takes (.queryCallout l [.number x]) l s ((s.slot i).details i) 0#16 s.toPart := by
      refine takes_of_rule_unchanged hs rfl ((queryCalloutOrder_named h1 h255).trans ?_)
      simp only [Part.working_slot, hfind]
    split
    · next c hc =>
      simp only [hc, Slot.details, Callout.details, levelResult_eq, timerResult, Bool.or_eq_true, Bool.and_eq_true,
        decide_eq_true_eq, bne_iff_ne, ne_eq, ite_not, lettersOf, List.map_map, Function.comp_def] at htakes
      exact htakes
    · next y hy =>
      simp only [hy, Slot.details, Summary.details, levelResult_eq] at htakes
      exact htakes
    · trivial
  · exact refuses_of_rule hs rfl (queryCalloutOrder_refused (.inr (.inr ⟨x, rfl, hx⟩)))
  · have hfind : (slotIds.find? fun i => (s.slot i).holds x.toInt) = none := by
      refine List.find?_eq_none.2 fun j _ => ?_
      rw [hcarries]
      exact hj j
    refine refuses_of_rule hs rfl ((queryCalloutOrder_named h1 h255).trans ?_)
    simp only [Part.working_slot, hfind]
    rfl
  · exact refuses_of_rule hs rfl (queryCalloutOrder_refused (.inr (.inl ho)))
  · exact refuses_of_rule hs rfl (queryCalloutOrder_refused (.inl h))

end Sys2Proof.Machine


/-!
SUPPORT. The forms in which QUERY-CREW and QUERY-MEMBER write numbers, places and counts.
-/

namespace Sys2Proof.Machine

open Sys2Proof

/-! ## The forms of the results (R70, R111, R112) -/

theorem decimal_eq (m : MemberId) : decimal (m.val + 1)
    = (Nat.digits 10 (m.val + 1)).reverse.map fun d => BitVec.ofNat 8 (0x30 + d) := by
  have split {n : Nat} (hn : 10 ≤ n) : Nat.digits 10 n = n % 10 :: Nat.digits 10 (n / 10) :=
    Nat.digits_def' (by omega) (by omega)
  have last {n : Nat} (h0 : n ≠ 0) (hn : n < 10) : Nat.digits 10 n = [n] := Nat.digits_of_lt 10 n h0 hn
  obtain ⟨n, hn⟩ : ∃ n, m.val + 1 = n := ⟨_, rfl⟩
  have hm := m.isLt
  rw [hn]
  unfold decimal
  simp only
  split
  · next h => rw [last (by omega) h]; simp [Nat.mod_eq_of_lt h]
  · next h =>
    split
    · next h' => rw [split (by omega), last (by omega) (by omega)]; simp [Nat.mod_eq_of_lt (by omega : n / 10 < 10)]
    · rw [split (by omega), split (by omega), last (by omega) (by omega)]
      simp [Nat.div_div_eq_div_mul, Nat.mod_eq_of_lt (by omega : n / 100 < 10)]

theorem spaced_eq (ws : List Text) : spaced ws = ([0x20#8] : Text).intercalate ws := by
  induction ws with
  | nil => rfl
  | cons w rest ih =>
    cases rest with
    | nil => simp [spaced]
    | cons v rest => rw [spaced, ih]; simp; simp

theorem placeOf_eq (m : MemberId) (k : Nat) (rs : List Response) :
    placeOf m k rs = (rs.findIdx? fun r => r.member == m).map (· + k) := by
  induction rs generalizing k with
  | nil => rfl
  | cons r rest ih =>
    unfold placeOf
    rw [List.findIdx?_cons]
    by_cases h : r.member = m
    · simp [h]
    · simp [h, ih, Function.comp_def, Nat.add_comm, Nat.add_left_comm]

/-- Counting what a list of places holds, by the things held and by the places. -/
theorem length_filter_filterMap {α β : Type} (f : α → Option β) (q : β → Bool) (l : List α) :
    ((l.filterMap fun i => (f i).map fun c => (i, c)).filter fun x => q x.2).length
      = (l.filter fun i => (f i).any q).length := by
  induction l with
  | nil => rfl
  | cons i l ih =>
    cases hf : f i with
    | none => simp [hf, ih]
    | some c => cases hq : q c <;> simp [hf, hq, ih]

theorem Part.recordsOf_eq (p : Part) (m : MemberId) :
    p.recordsOf m = (slotIds.filter fun i => (p.callout? i).any fun c => (c.record? m).isSome).length :=
  length_filter_filterMap (fun i => p.callout? i) (fun c => (c.record? m).isSome) slotIds

theorem Part.inUse_length (p : Part) (q : Member → Bool) : (p.inUse.filter fun mx => q mx.2).length
    = ((ascending 128).filter fun m => (p.member? m).any q).length :=
  length_filter_filterMap (fun m => p.member? m) q (ascending 128)

theorem Part.rosterCounts_eq (p : Part) : p.rosterCounts =
    [num ((ascending 128).filter fun m => (p.member? m).any fun _ => true).length,
     num ((ascending 128).filter fun m => (p.member? m).any fun x => x.availability == .available).length,
     num ((ascending 128).filter fun m => (p.member? m).any fun x => x.availability == .offDuty).length,
     num ((ascending 128).filter fun m => (p.member? m).any fun x => x.availability == .withheld).length,
     num ((ascending 128).filter fun m => (p.member? m).any fun x => x.engaged.isSome).length] := by
  simp only [← Part.inUse_length, List.filter_true]
  rfl

theorem Callout.crewSummary_eq (c : Callout) : c.crewSummary =
    [num c.number.toNat, num c.state.code, num c.assessment.outcome.code, num c.turnout, num c.responses.length,
     num c.assessment.candidates.length,
     num (c.assessment.candidates.filter fun x => x.assignment == .surplus).length]
      ++ (c.appliances.zip c.assessment.entries).flatMap fun ex =>
        [.text [ex.2.letter.letter], num (if ex.1.departed then 1 else 0), num ex.2.seats,
         num (if ex.2.filled then 1 else 0), optNum ex.2.crewedAt, num (if ex.2.inTime then 1 else 0),
         num ex.2.shortfall.oic, num ex.2.shortfall.drv, num ex.2.shortfall.ba, num ex.2.shortfall.gen,
         .text (([0x20#8] : Text).intercalate (ex.2.assigned.map fun y =>
           (Nat.digits 10 (y.member.val + 1)).reverse.map fun d => BitVec.ofNat 8 (0x30 + d)))] := by
  simp only [crewSummary, Assessment.surplus, List.length_map, entrySummary, flag, spaced_eq, decimal_eq]

theorem Assignment.letter?_eq (x : Assignment) :
    x.letter? = match x with | .seated ap _ => some ap | .surplus => none := by
  cases x <;> rfl

theorem Assignment.code_eq (x : Assignment) : x.code = match x with | .seated _ seat => seat.code | .surplus => 5 := by
  cases x <;> rfl

end Sys2Proof.Machine

/-!
PROOF. QUERY-CREW (R110 to R112) and QUERY-MEMBER (R70).
-/

namespace Sys2Proof.Machine

open Sys2Proof

/-- What QUERY-CREW answers about a callout it found (R111, R112). -/
def crewAnswer (p : Part) (c : Callout) : Option MemberId → Option Nat → Verdict
  | none, none => .taken p c.crewSummary
  | some m, _ =>
    if (c.record? m).isNone && (c.frozenPlace m).isNone then refuse .notFound else .taken p (c.memberDetail m)
  | none, some k => match c.responses[k - 1]? with
    | none => refuse .notFound
    | some r => .taken p (c.memberDetail r.member)

section
variable {l : Line} {p : Part} {ops : List Operand}

theorem queryCrewOrder_named {n : Nat} {m : Option MemberId} {place : Option Nat} (hlen : ops.length ≤ 3)
    (h0 : needWithin ops 0 1 255 = some n) (h1 : optIndex ops 1 128 1 = some m) (h2 : optWithin ops 2 1 32 = some place)
    (hone : m = none ∨ place = none) :
    (p.lookup n = none → queryCrewOrder l ops.length ops p = refuse .notFound)
      ∧ ∀ i c, p.lookup n = some (i, c) → queryCrewOrder l ops.length ops p = crewAnswer p c m place := by
  have hboth : (m.isSome && place.isSome) = false := by obtain rfl | rfl := hone <;> simp
  unfold queryCrewOrder
  rw [checked_anyLine_of_le (by omega) hlen, h0, h1, h2]
  simp only [hboth, Bool.false_eq_true, if_false]
  refine ⟨fun hnone => by rw [hnone], fun i c hc => ?_⟩
  rw [hc]
  cases m <;> cases place <;> rfl

theorem queryCrewOrder_refused (h : 3 < ops.length ∨ ¬ NumberIn (operandAt ops 0) 1 255
    ∨ ¬ AbsentOrIn (operandAt ops 1) 1 128 ∨ ¬ AbsentOrIn (operandAt ops 2) 1 32
    ∨ operandAt ops 1 ≠ .absent ∧ operandAt ops 2 ≠ .absent) : queryCrewOrder l ops.length ops p = badOperand := by
  unfold queryCrewOrder
  by_cases hlen : ops.length ≤ 3
  · rw [checked_anyLine_of_le (by omega) hlen]
    split
    · next n m place h0 h1 h2 =>
      refine if_pos ?_
      obtain h | h | h | h | ⟨h, h'⟩ := h
      · omega
      · exact absurd (needWithin_eq_none.2 h) (ne_none_of_eq_some h0)
      · exact absurd (optIndex_eq_none.2 h) (ne_none_of_eq_some h1)
      · exact absurd (optWithin_eq_none.2 h) (ne_none_of_eq_some h2)
      · have hm : m ≠ none := by
          rintro rfl
          exact h ((optIndex_eq_some (i := none) (by omega)).1 h1)
        have hk : place ≠ none := by
          rintro rfl
          exact h' ((optWithin_eq_some (x := none) (by omega)).1 h2).1
        simp [Option.isSome_iff_ne_none, hm, hk]
    · rfl
  · exact checked_anyLine_of_lt (by omega)

theorem queryMemberOrder_counts (hlen : ops.length ≤ 1) (h0 : optIndex ops 0 128 1 = some none) :
    queryMemberOrder l ops.length ops p = .taken p p.rosterCounts := by
  unfold queryMemberOrder
  rw [checked_anyLine_of_le (by omega) hlen, h0]

theorem queryMemberOrder_named {m : MemberId} (hlen : ops.length ≤ 1) (h0 : optIndex ops 0 128 1 = some (some m)) :
    queryMemberOrder l ops.length ops p
      = if (p.member? m).isNone then refuse .notFound else .taken p (p.memberResults m) := by
  unfold queryMemberOrder
  rw [checked_anyLine_of_le (by omega) hlen, h0]

theorem queryMemberOrder_refused (h : 1 < ops.length ∨ ¬ AbsentOrIn (operandAt ops 0) 1 128) :
    queryMemberOrder l ops.length ops p = badOperand := by
  unfold queryMemberOrder
  obtain h | h := h
  · exact checked_anyLine_of_lt h
  · rw [optIndex_eq_none.2 h]
    exact checked_anyLine_badOperand

end

@[simp] theorem Part.working_lookup (p : Part) (l : Line) (code : Byte) (ops : List Operand) (x : Int) :
    (p.working l code ops).lookup x = p.lookup x := by
  rw [p.working_frame l code ops]
  rfl

theorem Part.memberResults_working (p : Part) (l : Line) (code : Byte) (ops : List Operand) (m : MemberId) :
    (p.working l code ops).memberResults m = p.memberResults m := by
  rw [p.working_frame l code ops]
  rfl

/-- An operand that is no NUMBER in the range it should have. -/
theorem not_absentOrIn_of_number {o : Operand} {lo hi : Int}
    (h : ¬ NumberOrAbsent o ∨ ∃ x, o = .number x ∧ (x.toInt < lo ∨ hi < x.toInt)) : ¬ AbsentOrIn o lo hi := by
  obtain h | ⟨x, rfl, h⟩ := h
  · exact not_absentOrIn_of_kind h _ _
  · rw [absentOrIn_number]
    omega

theorem absent_iff {α β : Type} (x : Option α) (y : Option β) :
    (x.isNone && y.isNone) = true ↔ ¬ (x.isSome = true ∨ y.isSome = true) := by
  cases x <;> cases y <;> simp

/-- Settles O16. -/
theorem queryCrewAndMember : Obligations.QueryCrewAndMember := by
  unfold Obligations.QueryCrewAndMember
  intro l s hs bit written recordOf frozen letter summary detail counted
  have hdetail (c : Callout) (m : MemberId) : c.memberDetail m = detail c m := by
    rw [Callout.memberDetail, placeOf_eq]
    rfl
  have hsummary (c : Callout) : c.crewSummary = summary c := c.crewSummary_eq
  have need {ops : List Operand} {n : CalloutNo} (hn : n ≠ 0#8) (h : operandAt ops 0 = num n.toNat) :
      needWithin ops 0 1 255 = some n.toNat := by
    refine (needWithin_eq_some (by omega)).2 ⟨h, ?_⟩
    have : n.toNat ≠ 0 := fun e => hn (BitVec.eq_of_toNat_eq e)
    omega
  have noMember {ops : List Operand} (h : operandAt ops 1 = .absent) : optIndex ops 1 128 1 = some none :=
    optIndex_of_optional (v := none) h rfl
  have noPlace {ops : List Operand} (h : operandAt ops 2 = .absent) : optWithin ops 2 1 32 = some none :=
    optWithin_of_optional (v := none) h rfl
  refine ⟨fun n i c hn hc => ?_, fun n hn hnone => ?_,
    fun o m k ops h hbad => ?_, fun ops h => ?_, fun ops h => ?_, fun m => ?_, fun o h => ?_, fun ops h => ?_⟩
  · have hc (ops : List Operand) : (s.toPart.working l 10#8 ops).lookup n.toNat = some (i, c) := by
      rw [Part.working_lookup, hc]
    refine ⟨fun ops h => ?_, fun m ops h => ?_, fun k hk => ?_⟩
    · refine takes_of_rule_unchanged hs rfl (((queryCrewOrder_named h.length_le (need hn (h.at 0)) (noMember (h.at 1))
        (noPlace (h.at 2)) (.inl rfl)).2 i c (hc ops)).trans ?_)
      rw [crewAnswer, hsummary]
    · have hm : optIndex ops 1 128 1 = some (some m) := (optIndex_eq_some (i := some m) (by omega)).2 (h.at 1)
      have hv := (queryCrewOrder_named (l := l) h.length_le (need hn (h.at 0)) hm (noPlace (h.at 2)) (.inr rfl)).2 i c
        (hc ops)
      rw [crewAnswer] at hv
      split
      · next hon =>
        refine takes_of_rule_unchanged hs rfl (hv.trans ((if_neg fun h => (absent_iff _ _).1 h hon).trans (by rw [hdetail])))
      · next hoff =>
        exact refuses_of_rule hs rfl (hv.trans (if_pos ((absent_iff _ _).2 hoff)))
    · have hp : optWithin [num n.toNat, .absent, num (k + 1)] 2 1 32 = some (some (k + 1)) :=
        (optWithin_eq_some (x := some (k + 1)) (by omega)).2 ⟨rfl, by simp; omega⟩
      have hv := (queryCrewOrder_named (l := l) (by simp) (need hn rfl) (noMember rfl) hp (.inl rfl)).2 i c
        (hc [num n.toNat, .absent, num (k + 1)])
      rw [crewAnswer, Nat.add_sub_cancel] at hv
      split
      · next r hr => 
        rw [hr] at hv
        exact takes_of_rule_unchanged hs rfl (hv.trans (congrArg _ (hdetail c r.member)))
      · next hr =>
        rw [hr] at hv
        exact refuses_of_rule hs rfl hv
  · refine refuses_of_rule hs rfl ((queryCrewOrder_named (by simp) (need hn rfl) (noMember rfl) (noPlace rfl)
      (.inl rfl)).1 ?_)
    rw [Part.working_lookup, hnone]
  · have e0 : operandAt ops 0 = o := h.at 0
    have e1 : operandAt ops 1 = m := h.at 1
    have e2 : operandAt ops 2 = k := h.at 2
    refine refuses_of_rule hs rfl (queryCrewOrder_refused (.inr ?_))
    rw [e0, e1, e2]
    obtain h | h | h | h | h | h := hbad
    · refine .inl ?_
      rintro ⟨x, hx, hlo, hhi⟩
      have := h x hx
      omega
    · exact .inr (.inl (not_absentOrIn_of_number (.inl h)))
    · exact .inr (.inl (not_absentOrIn_of_number (.inr h)))
    · exact .inr (.inr (.inl (not_absentOrIn_of_number (.inl h))))
    · exact .inr (.inr (.inl (not_absentOrIn_of_number (.inr h))))
    · exact .inr (.inr (.inr h))
  · exact refuses_of_rule hs rfl (queryCrewOrder_refused (.inl h))
  · refine takes_of_rule_unchanged hs rfl ((queryMemberOrder_counts (by exact h.length_le) ?_).trans (congrArg _ ?_))
    · exact optIndex_of_optional (v := none) (h.at 0) rfl
    · rw [Part.rosterCounts_eq]
      simp only [Part.working_member?]
      rfl
  · have hm : optIndex [num (m.val + 1)] 0 128 1 = some (some m) := (optIndex_eq_some (i := some m) (by omega)).2 rfl
    have hv := queryMemberOrder_named (l := l) (p := s.toPart.working l 11#8 [num (m.val + 1)]) (by simp) hm
    rw [Part.working_member?] at hv
    split
    · next hnone =>
      rw [hnone] at hv
      exact refuses_of_rule hs rfl hv
    · next x hx =>
      rw [hx] at hv
      refine takes_of_rule_unchanged hs rfl (hv.trans (congrArg _ ?_))
      rw [Part.memberResults_working]
      simp only [Part.memberResults, hx, Part.recordsOf_eq]
      rfl
  · refine refuses_of_rule hs rfl (queryMemberOrder_refused (.inr ?_))
    exact not_absentOrIn_of_number h
  · exact refuses_of_rule hs rfl (queryMemberOrder_refused (.inl h))

end Sys2Proof.Machine


/-!
PROOF. OPENING frames (R176), the frame that completes an order (R177, R179), and unknown and barred orders (R181).
-/

namespace Sys2Proof.Machine

open Sys2Proof

/-! ## Bytes received -/

/-- The line with the bytes it keeps after a frame command. -/
def Part.hears (l : Line) (kind : Byte) (frame : List Byte) (p : Part) : Part :=
  { p with lines := p.lines.setCtl l { p.ctl l with received := unread kind ((p.ctl l).received ++ frame) } }

section
variable {α : Type} {p : Part} {l : Line} {kind : Byte} {frame : List Byte} {read : List Byte → Option α}
  {take : α → Part → Part}

theorem Part.receive_some {x : α} (h : read ((p.ctl l).received ++ frame) = some x) :
    p.receive l kind read take frame = take x (p.hears l kind frame) := by
  rw [Part.receive_eq]
  simp only [h]
  rfl

theorem Part.receive_none (h : read ((p.ctl l).received ++ frame) = none) :
    p.receive l kind read take frame = p.hears l kind frame := by
  rw [Part.receive_eq]
  simp only [h]
  rfl

theorem Part.hears_ctl : (p.hears l kind frame).ctl l
    = { p.ctl l with received := unread kind ((p.ctl l).received ++ frame) } :=
  Lines.ctl_setCtl _ _ _

theorem Part.hears_ctl_ne {k : Line} (h : k ≠ l) : (p.hears l kind frame).ctl k = p.ctl k :=
  Lines.ctl_setCtl_ne _ h _

end

/-! ## OPENING -/

/-- The frame under way is one of the reply's (R180). -/
theorem Part.frameUnderWay_mem {p : Part} {l : Line} {r : Reply} (h : (p.ctl l).reply = some r) :
    p.frameUnderWay l ∈ r.frames := by
  have hpos : 0 < r.frames.length := by simp [Reply.frames]
  unfold frameUnderWay
  simp only [h, Option.map_some, Option.getD_some]
  rw [List.getD_eq_getElem _ _ (Nat.mod_lt _ hpos)]
  exact List.getElem_mem _

/-- What a break does to its own line. -/
theorem Part.breakOff_self (p : Part) (l : Line) : (p.breakOff l).ctl l =
    if (p.ctl l).state = .replying then { p.ctl l with
      tail := some ((p.ctl l).tail.getD { frame := p.frameUnderWay l, left := Config.frameTime l p.lines.breaks })
      reply := none }
    else p.ctl l := by
  show (p.breakOff l).lines.ctl l = _
  rw [p.breakOff_lines l]
  unfold breakReply
  split
  · cases l <;> rfl
  · rfl

theorem Part.breakOff_restart (p : Part) (l : Line) : (p.breakOff l).restart =
    if l = .console ∧ (p.ctl l).state = .replying ∧ p.restart = .replying then .ending else p.restart := by
  have hr : (p.breakReply l).restart = p.restart := by rw [p.breakReply_frame l]
  unfold breakOff
  simp only
  split
  · rfl
  · exact hr

/-- Settles O6. -/
theorem openingTaken : Obligations.OpeningTaken := by
  unfold Obligations.OpeningTaken
  intro l frame code exchange s bytes hs h
  refine leads_of_event hs rfl ?_
  rw [Part.receive_some (p := s.toPart) h]
  have hheard : (s.toPart.hears l 1#8 frame).ctl l = { s.ctl l with received := unread 1#8 bytes } := Part.hears_ctl
  have hother {k : Line} (hk : k ≠ l) : (s.toPart.hears l 1#8 frame).ctl k = s.ctl k := Part.hears_ctl_ne hk
  have hbreak := (s.toPart.hears l 1#8 frame).breakOff_self l
  have hrest := (s.toPart.hears l 1#8 frame).breakOff_restart l
  have hframe := (s.toPart.hears l 1#8 frame).breakOff_frame l
  have hsup := (s.toPart.hears l 1#8 frame).breakOff_super l
  have hne {k : Line} (hk : k ≠ l) := ((s.toPart.hears l 1#8 frame).breakOff_ctl l k).2.2.2 hk
  rw [hheard] at hbreak hrest
  unfold Part.takeOpening
  generalize (s.toPart.hears l 1#8 frame).breakOff l = q at *
  obtain ⟨hsupP, hsupS⟩ := hsup
  refine ⟨?_, ?_, ?_, ?_, ?_, ?_, fun k hk => ?_, ?_, ?_, ?_⟩
  · rw [Part.ctl_onLine]; split <;> rfl
  · rw [Part.ctl_onLine, hbreak]; split_ifs <;> rfl
  · rw [Part.ctl_onLine]
    have hown : (s.toPart.hears l 1#8 frame).settings = s.settings := rfl
    simp only [hown, beq_iff_eq]
    split
    · exact ⟨rfl, rfl, rfl⟩
    · exact ⟨rfl, rfl⟩
  · have keeps (own : Bool) : (if own then (q.ctl l).openExchange exchange else (q.ctl l).discard).reply = (q.ctl l).reply
        ∧ (if own then (q.ctl l).openExchange exchange else (q.ctl l).discard).tail = (q.ctl l).tail := by
      cases own <;> exact ⟨rfl, rfl⟩
    rw [Part.ctl_onLine, (keeps _).1, (keeps _).2, hbreak]
    split
    · refine ⟨rfl, _, rfl, ?_⟩
      cases htl : (s.ctl l).tail with
      | some y => rfl
      | none =>
        cases hr : (s.ctl l).reply with
        | none => trivial
        | some r => exact Part.frameUnderWay_mem (by rw [hheard]; exact hr)
    · exact ⟨rfl, rfl⟩
  · rw [Part.ctl_onLine, hbreak]; split_ifs <;> rfl
  · rw [Part.ctl_onLine, hbreak]; split_ifs <;> rfl
  · rw [Part.ctl_onLine_ne _ hk, hne hk, hother hk]
  · rw [Part.onLine, Part.onLines_lines, Lines.setCtl_superP, hsupP]
    exact Lines.setCtl_superP _ _ _
  · rw [Part.onLine, Part.onLines_lines, Lines.setCtl_superS, hsupS]
    exact Lines.setCtl_superS _ _ _
  · rw [hframe, hrest]
    rfl

/-! ## The frame that completes an order -/

/-- The order of a code is the rule of the command that carries it. -/
theorem orderFor_eq {c : Instr} {l : Line} {code : Byte} {ops : List Operand} (hc : c.exchange? = some (l, code, ops))
    (hw : c.wellFormed = true) : orderFor l code ops.length ops = orderRule c := by
  cases c <;> cases hc
  case unknownOrder =>
    have hcode : code.toNat = 0 ∨ 32 < code.toNat := by simpa [Instr.wellFormed] using (Bool.and_eq_true_iff.1 hw).1
    unfold orderFor
    split <;> first | omega | rfl
  all_goals rfl

/-- Settles O8. -/
theorem frameCompletesOrder : Obligations.FrameCompletesOrder := by
  unfold Obligations.FrameCompletesOrder
  intro c l code ops frame s hs hw hc bytes heard
  have hrule := orderFor_eq hc hw
  refine ⟨fun hops hopened hread => ?_, fun x hcollect hcode hdeclared hlast hread => ?_⟩
  · have heff : effect (.order l frame) s.toPart = effect c (heard 2#8).toPart := by
      refine (Part.whenRunning_of_running hs _).trans ?_
      rw [Part.receive_some (p := s.toPart) hread, effect_order hc, Part.orderEvent, Part.whenRunning_of_running (by exact hs)]
      rw [← hrule]
      subst hops
      simp only [Part.takeOrder, Part.hears_ctl, hopened, true_or, if_true]
      rfl
    rw [exec_eq, exec_eq, State.taking, State.taking, heff]
  · have heff : effect (.operand l frame) s.toPart = effect c (heard 3#8).toPart := by
      refine (Part.whenRunning_of_running hs _).trans ?_
      rw [Part.receive_some (p := s.toPart) hread, effect_order hc, Part.orderEvent, Part.whenRunning_of_running (by exact hs)]
      rw [← hrule, ← hcode, ← hdeclared]
      simp only [Part.takeOperand, Part.hears_ctl, hcollect, hlast, hdeclared, Nat.le_refl, if_true]
      rfl
    rw [exec_eq, exec_eq, State.taking, State.taking, heff]

/-! ## Unknown and barred orders -/

theorem checked_barred {permitted : Bool} (h : permitted = false) (arity declared : Nat) (body : Verdict) :
    checked permitted arity declared body = refuse .notPermitted := by
  simp [checked, h]

/-- An order barred on its line is refused before its operands are read. -/
theorem orderRule_barred {c : Instr} (h : c.barred = true) (p : Part) : orderRule c p = refuse .notPermitted := by
  have console {l : Line} (h : (l != .console) = true) : consoleOnly l = false := by cases l <;> simp_all [consoleOnly]
  have control {l : Line} (h : (l == .console) = true) : controlOnly l = false := by cases l <;> simp_all [controlOnly]
  cases c
  all_goals first
    | exact absurd h Bool.false_ne_true
    | exact checked_barred (console h) _ _ _
    | exact checked_barred (control h) _ _ _

/-- Settles O11. -/
theorem unknownAndBarredOrders : Obligations.UnknownAndBarredOrders := by
  unfold Obligations.UnknownAndBarredOrders
  refine fun s hs => ⟨fun l code ops => refuses_of_rule hs rfl rfl, fun c l code ops hc hbar =>
    refuses_of_rule hs hc (orderRule_barred hbar _), fun l frame code count => ?_⟩
  intro bytes h hopened h1 h8
  refine leads_of_event hs rfl ?_
  rw [Part.receive_some (p := s.toPart) h]
  have hcount : ¬ (count = 0 ∨ 8 < count) := by omega
  simp only [Part.takeOrder, Part.hears_ctl, hopened, if_neg hcount]
  cases l <;> rfl

end Sys2Proof.Machine


/-!
PROOF. The airtime of a pass and the sites' outputs (R145, R151, R153).
-/

namespace Sys2Proof.Machine

open Sys2Proof

/-! ## Bits of a burst -/

theorem burstLength_eq (pages : List Page) : burstLength pages = 96 + (pages.map Page.bits).sum := by
  have key (n : Nat) : pages.foldl (fun n p => n + p.bits) n = n + (pages.map Page.bits).sum := by
    induction pages generalizing n with
    | nil => rfl
    | cons p rest ih => simp [ih, Nat.add_assoc]
  exact key 96

theorem bitsOf_length {w : Nat} (x : BitVec w) : (bitsOf x).length = w := by
  simp [bitsOf]

theorem blockOf_length {data : List Bool} (h : data.length = 32) : (blockOf data).length = 48 := by
  simp [blockOf, bitsOf_length, h]

theorem bitsOfBytes_length (bs : List Byte) : (bitsOfBytes bs).length = 8 * bs.length := by
  induction bs with
  | nil => rfl
  | cons b rest ih => simp [bitsOfBytes, bitsOf_length] at *; omega

theorem textBlockBits_length (n : Nat) (t : Text) : (textBlockBits n t).length = n * 48 := by
  induction n generalizing t with
  | zero => simp [textBlockBits]
  | succ n ih =>
    have h4 : ((t ++ List.replicate 4 0x20#8).take 4).length = 4 := by simp
    simp only [textBlockBits, List.length_append, ih]
    rw [blockOf_length (by rw [bitsOfBytes_length, h4])]
    omega

theorem Page.blocks_length (p : Page) : p.blocks.length = p.bits := by
  have h1 : p.addressBlock.length = 48 := blockOf_length (by simp [bitsOf_length])
  have h2 : p.headerBlock.length = 48 := blockOf_length (by simp [bitsOf_length])
  simp only [blocks, List.length_append, h1, h2, textBlockBits_length, bits, Config.blockBits]
  omega

theorem burstOf_length (pages : List Page) : (burstOf pages).length = burstLength pages := by
  have hsync : syncWord.length = 96 := by simp [syncWord, bitsOf_length]
  rw [burstLength_eq, burstOf, List.length_append, hsync, List.length_flatMap]
  simp only [Page.blocks_length]

/-! ## Outputs -/

theorem Part.keyOutput_iff {p : Part} {k : SiteId} : p.keyOutput k = true ↔ p.condition = .running
    ∧ ((∃ forced left, p.sites.sequencer = .leadIn k forced left)
      ∨ ∃ forced left, p.sites.sequencer = .burst k forced left) := by
  unfold keyOutput isRunning siteKeyed
  cases p.sites.sequencer <;> simp [Sequencer.keyed?]

/-- Settles O39. -/
theorem airtimeAndKeying : Obligations.AirtimeAndKeying := by
  unfold Obligations.AirtimeAndKeying
  refine ⟨fun pages leadIn => ⟨burstLength_eq pages, burstOf_length pages, ?_, ?_, rfl⟩, fun s j k =>
    ⟨fun hj hk => ?_, Part.keyOutput_iff, fun hk => ?_, fun forced left b rest hs hq hb => ?_⟩⟩
  · unfold burstTime Config.bitRate
    omega
  · unfold burstTime Config.bitRate
    omega
  · rw [Part.keyOutput_iff] at hj hk
    obtain ⟨-, hj⟩ := hj
    obtain ⟨-, hk⟩ := hk
    obtain ⟨a, b, hj⟩ | ⟨a, b, hj⟩ := hj <;> obtain ⟨c, d, hk⟩ | ⟨c, d, hk⟩ := hk <;> rw [hj] at hk <;> cases hk <;> rfl
  · unfold Part.pagingData
    split
    · next i forced left hq =>
      refine if_neg fun h => ?_
      obtain ⟨hrun, rfl⟩ := h
      rw [Part.keyOutput, hrun, Part.siteKeyed, hq] at hk
      simp [Sequencer.keyed?] at hk
    all_goals rfl
  · simp [Part.pagingData, hq, hs, Part.isRunning, Part.current?, hb]

end Sys2Proof.Machine


/-!
PROOF. SAVE and the end of its write (R192, R194).
-/

namespace Sys2Proof.Machine

open Sys2Proof

/-! ## The order -/

section
variable {ops : List Operand} {p : Part}

theorem saveOrder_named {k : Nat} (hlen : ops.length ≤ 1) (hk : needWithin ops 0 0 3 = some k) :
    saveOrder .console ops.length ops p =
      if p.store.error then refuse .wrongState
      else if p.store.busy.isSome then refuse .busy
      else .taken (p.onStore (Store.beginSave (p.snapshot (sectionOf k)))) [num k, num 1] := by
  unfold saveOrder
  rw [checked_of_le (by omega) hlen, hk]

theorem saveOrder_refused (h : 1 < ops.length ∨ ¬ NumberIn (operandAt ops 0) 0 3) :
    saveOrder .console ops.length ops p = badOperand := by
  unfold saveOrder
  obtain h | h := h
  · exact checked_of_lt h
  · rw [needWithin_eq_none.2 h]
    exact checked_badOperand

end

theorem Part.snapshot_working (p : Part) (l : Line) (code : Byte) (ops : List Operand) (k : Section) :
    (p.working l code ops).snapshot k = p.snapshot k := by
  rw [p.working_frame l code ops]
  rfl

theorem Part.snapshot_section (p : Part) (k : Section) : (p.snapshot k).section = k := by
  cases k <;> rfl

/-- The roster's members as the snapshot holds them: with the WITHHELD mark, and without the engagement (section 3.1). -/
theorem Part.snapshot_members (p : Part) (m : MemberId) :
    (p.roster.members.map (Option.map Member.toStored)).get m = (p.member? m).map fun y =>
      { callSign := y.callSign, address := y.address, quals := y.quals, groups := y.groups
        withheld := match y.availability with | .withheld => true | .available | .offDuty => false } := by
  rw [Table.get_map]
  refine congrArg (Option.map · (p.member? m)) (funext fun y => ?_)
  unfold Member.toStored
  cases y.availability <;> rfl

theorem save_takes {s : State} {ops : List Operand} {k : Nat} (hs : s.condition = .running) (hlen : ops.length ≤ 1)
    (hk : needWithin ops 0 0 3 = some k) (herror : s.store.error = false) (hbusy : s.store.busy = none) :
    Takes (.save .console ops) .console s [num k, num 1] 0#16
      (s.toPart.onStore (Store.beginSave (s.toPart.snapshot (sectionOf k)))) := by
  refine takes_of_rule_map (f := Part.onStore _) hs rfl ((saveOrder_named hlen hk).trans ?_) fun _ _ _ => rfl
  rw [Part.working_store, Part.snapshot_working, herror, hbusy]
  rfl

/-! ## Written and read back (R192) -/

section
variable {α : Type} (bytes : α → List Byte)

theorem readCopy_write (x : α) : readCopy bytes (some (.write (bytes x) x)) = some x := by
  simp [readCopy, StoredCopy.passes, StoredCopy.write]

theorem readCopy_eq (c : Option (StoredCopy α)) : readCopy bytes c = c.bind fun c =>
    if c.length == (bytes c.contents).length && c.check == checkOf (bitsOfBytes (bytes c.contents))
    then some c.contents else none := by
  cases c <;> rfl

end

/-- Settles O23. -/
theorem save : Obligations.Save := by
  unfold Obligations.Save
  refine ⟨fun s hs => ?_, fun copies => ⟨fun x => ⟨readCopy_write _ x, rfl⟩, fun x => readCopy_write _ x,
    fun x => readCopy_write _ x, fun x => readCopy_write _ x, rfl, rfl, rfl, rfl⟩⟩
  intro held
  refine ⟨fun k hk => ?_, fun ops h => refuses_of_rule hs rfl (saveOrder_refused h), fun failed => ?_⟩
  · have hwithin : needWithin [num k] 0 0 3 = some k := (needWithin_eq_some (by omega)).2 ⟨rfl, by omega⟩
    have hv := saveOrder_named (p := s.toPart.working .console 29#8 [num k]) (by simp) hwithin
    rw [Part.working_store] at hv
    split
    · next herror => exact refuses_of_rule hs rfl (hv.trans (if_pos herror))
    · next herror =>
      rw [if_neg herror] at hv
      split
      · next hbusy => exact refuses_of_rule hs rfl (hv.trans (if_pos (Option.isSome_iff_ne_none.2 hbusy)))
      · next hbusy =>
        have htakes := save_takes hs (by simp) hwithin (Bool.eq_false_iff.2 herror) (not_not.1 hbusy)
        refine ⟨s.toPart.snapshot (sectionOf k), ?_, ?_⟩
        · interval_cases k
          · rfl
          · exact ⟨_, rfl, rfl, s.toPart.snapshot_members⟩
          · rfl
          · exact ⟨_, rfl, rfl, fun ap => Table.get_map _ _ _, fun j => Table.get_map _ _ _⟩
        · have hsection := s.toPart.snapshot_section (sectionOf k)
          simp only [Part.onStore, Store.beginSave, hsection] at htakes
          exact htakes
  · refine leads_of_event hs rfl ?_
    unfold Part.writeEnds
    cases s.store.busy with
    | none => rfl
    | some x => cases failed <;> rfl

end Sys2Proof.Machine


/-!
PROOF. What a cold start leaves in every block (R192, R196), the invariants of a part just loaded, the cutoff, the stops and
the recovery (R171, R194).
-/

namespace Sys2Proof.Machine

open Sys2Proof

/-! ## A part whose blocks are loaded -/

section
variable (condition : Condition) (cause : StartCause) (pins : Pins) (breaks : Nat) (copies : StoredCopies)

theorem Part.loaded_slot (i : SlotId) : (Part.loaded condition cause pins breaks copies).slot i = .free none :=
  Table.get_fill _ i

theorem Part.loaded_callout? (i : SlotId) : (Part.loaded condition cause pins breaks copies).callout? i = none := by
  rw [Part.callout?, Part.loaded_slot]
  rfl

theorem Part.loaded_ctl (l : Line) : (Part.loaded condition cause pins breaks copies).ctl l = .cold := by
  cases l <;> rfl

theorem Part.loaded_site (k : SiteId) : (Part.loaded condition cause pins breaks copies).sites.records.get k
    = ((copies.readStation.getD StationSection.default).sites.get k).load :=
  Table.get_map _ _ _

theorem Part.loaded_member? (m : MemberId) : (Part.loaded condition cause pins breaks copies).member? m
    = ((copies.readRoster.getD RosterSection.default).members.get m).map StoredMember.load :=
  Table.get_map _ _ _

theorem Part.loaded_appliance (ap : Appliance) : (Part.loaded condition cause pins breaks copies).appliance ap
    = { seats := ((copies.readStation.getD StationSection.default).appliances.get ap.index).seats
        inService := ((copies.readStation.getD StationSection.default).appliances.get ap.index).inService
        committed := none } :=
  Table.get_map _ _ _

theorem Part.loaded_lamp (ap : Appliance) :
    (Part.loaded condition cause pins breaks copies).station.lamps.get ap.index = .dark :=
  Table.get_fill _ _

theorem Part.loaded_coldStarted (s : Part) (hpins : pins.channelClear = s.pins.channelClear) :
    ColdStarted cause pins.mainsPresent pins.batterySense s (.loaded condition cause pins breaks s.store.stored) where
  cause := ⟨rfl, rfl⟩
  pins := by
    obtain ⟨m, b, c⟩ := pins
    cases hpins
    rfl
  table := ⟨rfl, rfl, rfl, rfl⟩
  pages := ⟨rfl, rfl, rfl, rfl, rfl⟩
  credits k := by rw [Part.loaded_site]; exact ⟨rfl, rfl⟩
  members m y hy := by
    rw [Part.loaded_member?] at hy
    obtain ⟨x, -, rfl⟩ := Option.map_eq_some_iff.1 hy
    refine ⟨rfl, ?_⟩
    unfold StoredMember.load
    cases x.withheld <;> simp
  appliances ap := ⟨by rw [Part.loaded_appliance], Part.loaded_lamp _ _ _ _ _ ap⟩
  siren := rfl
  supply := ⟨rfl, rfl⟩
  lines l := by rw [Part.loaded_ctl]; exact ⟨rfl, rfl, rfl, rfl, rfl, rfl, rfl, rfl⟩
  down := ⟨rfl, rfl⟩
  store := ⟨rfl, rfl, rfl, rfl⟩
  unit := by
    split
    · next u h => simp [Part.loaded, h, Store.load, SectionState.ofCopy, Supply.load]
    · next h =>
      simp only [Part.loaded, h, Store.load, SectionState.ofCopy, Supply.load]
      exact ⟨rfl, rfl, trivial⟩
  roster := by
    split
    · next r h =>
      refine ⟨by simp [Part.loaded, h, Roster.load], by simp [Part.loaded, h, Store.load, SectionState.ofCopy],
        fun m => ?_⟩
      rw [Part.loaded_member?, h]
      rfl
    · next h =>
      refine ⟨fun m => ?_, fun g => ?_, by simp [Part.loaded, h, Store.load, SectionState.ofCopy]⟩
      · rw [Part.loaded_member?, h]
        exact congrArg (Option.map _) (Table.get_fill _ _)
      · simp only [Part.loaded, h]
        exact Table.get_fill _ _
  plans := by
    split
    · next r h => simp [Part.loaded, h, Resolver.load, Store.load, SectionState.ofCopy]
    · next h =>
      simp only [Part.loaded, h]
      refine ⟨fun n => Table.get_fill _ _, fun k => Table.get_fill _ _, fun k z => ?_, ?_⟩
      · have hmap : (PlansSection.default.maps.get k) = { default := none, zones := Table.fill 32 none } := Table.get_fill _ _
        show (PlansSection.default.maps.get k).effective z = none
        rw [hmap, ZoneMap.effective]
        simp
      · simp [Store.load, h, SectionState.ofCopy]
  station := by
    split
    · next r h =>
      refine ⟨fun ap => ?_, fun k => ?_, by simp [Part.loaded, h, StationOutput.load],
        by simp [Part.loaded, h, Store.load, SectionState.ofCopy]⟩
      · rw [Part.loaded_appliance, h]
        exact ⟨rfl, rfl⟩
      · rw [Part.loaded_site, h]
        rfl
    · next h =>
      have appliance (ap : Appliance) : StationSection.default.appliances.get ap.index = { seats := 4, inService := true } :=
        Table.get_fill _ _
      have site (k : SiteId) : StationSection.default.sites.get k =
          { enabled := false, stationPowered := false, leadIn := 150, clearWait := 20, ceiling := 36000, divisor := 10 } :=
        Table.get_fill _ _
      refine ⟨fun ap => ?_, fun k => ?_, fun k => ?_, by simp [Part.loaded, h, Store.load, SectionState.ofCopy]⟩
      · rw [Part.loaded_appliance, h, Option.getD_none, appliance]
        exact ⟨rfl, rfl⟩
      · rw [Part.loaded_site, h, Option.getD_none, site]
        rfl
      · simp only [Part.loaded, h]
        exact Table.get_fill _ _

/-! ## The invariants of a part just loaded -/

theorem Part.loaded_creditsWithin : (Part.loaded condition cause pins breaks copies).CreditsWithin := by
  intro k
  rw [Part.loaded_site]
  exact Nat.le_refl _

theorem Part.loaded_queueWithin : (Part.loaded condition cause pins breaks copies).QueueWithin :=
  ⟨Nat.zero_le _, Nat.zero_le _⟩

theorem LineController.cold_sound : LineController.cold.Sound := by
  simp [LineController.Sound, LineController.cold]

theorem Part.loaded_linesSound : (Part.loaded condition cause pins breaks copies).LinesSound :=
  ⟨fun l => by rw [Part.loaded_ctl]; exact LineController.cold_sound, rfl, rfl⟩

theorem Part.loaded_noticesWithin : (Part.loaded condition cause pins breaks copies).NoticesWithin :=
  fun l => by rw [Part.loaded_ctl]; decide

theorem Part.loaded_restartSound : (Part.loaded condition cause pins breaks copies).RestartSound :=
  ⟨nofun, nofun⟩

theorem Part.loaded_sirenSound : (Part.loaded condition cause pins breaks copies).SirenSound :=
  fun _ => rfl

theorem Part.loaded_storeSound : (Part.loaded condition cause pins breaks copies).StoreSound :=
  fun _ => rfl

theorem Part.loaded_freeOrderRight : (Part.loaded condition cause pins breaks copies).FreeOrderRight := by
  refine ⟨(by decide : ([0, 1, 2, 3, 4, 5, 6, 7] : List SlotId).Nodup), fun i => ⟨fun _ => ⟨none, Part.loaded_slot _ _ _ _ _ i⟩,
    fun _ => ?_⟩⟩
  have : ∀ i : SlotId, i ∈ ([0, 1, 2, 3, 4, 5, 6, 7] : List SlotId) := by decide
  exact this i

theorem Part.loaded_lampsRight : (Part.loaded condition cause pins breaks copies).LampsRight := by
  intro ap
  rw [Part.loaded_lamp, Part.loaded_appliance]

theorem Part.loaded_quiet : (Part.loaded condition cause pins breaks copies).Quiet := rfl

/-- What holds of every live callout holds where there is none. -/
theorem Part.loaded_vacuous {P : SlotId → Callout → Prop} (i : SlotId) (c : Callout)
    (h : (Part.loaded condition cause pins breaks copies).callout? i = some c) : P i c := by
  rw [Part.loaded_callout?] at h
  cases h

theorem Part.loaded_numbersDistinct : (Part.loaded condition cause pins breaks copies).NumbersDistinct :=
  ⟨Part.loaded_vacuous _ _ _ _ _, fun i _ c _ hc => Part.loaded_vacuous (P := fun _ _ => _) _ _ _ _ _ i c hc⟩

theorem Part.loaded_engagementRight : (Part.loaded condition cause pins breaks copies).EngagementRight := by
  refine ⟨fun m x n hx hn => ?_, fun i c r hc => Part.loaded_vacuous (P := fun _ _ => _) _ _ _ _ _ i c hc⟩
  rw [Part.loaded_member?] at hx
  obtain ⟨y, -, rfl⟩ := Option.map_eq_some_iff.1 hx
  cases hn

theorem Part.loaded_commitmentRight : (Part.loaded condition cause pins breaks copies).CommitmentRight := by
  refine ⟨fun ap n hn => ?_, fun i c hc => Part.loaded_vacuous (P := fun _ _ => _) _ _ _ _ _ i c hc⟩
  rw [Part.loaded_appliance] at hn
  cases hn

theorem readCopy_eq_some {α : Type} {bytes : α → List Byte} {o : Option (StoredCopy α)} {x : α}
    (h : readCopy bytes o = some x) : ∃ c, o = some c ∧ c.contents = x := by
  cases o with
  | none => cases h
  | some c =>
    simp only [readCopy] at h
    split at h
    · exact ⟨c, rfl, Option.some.inj h⟩
    · cases h

/-- The plans a cold start loads are those of the stored copy, or none. -/
theorem Part.loaded_plansSound {p : Part} (h : p.PlansSound) :
    (Part.loaded condition cause pins breaks p.store.stored).PlansSound := by
  rintro plans (rfl | hstored | ⟨x, hx, -⟩)
  · intro n pl hpl
    cases hread : p.store.stored.readPlans with
    | none =>
      simp only [Part.loaded, hread] at hpl
      have hnone : PlansSection.default.plans.get n = none := Table.get_fill _ _
      rw [show (Resolver.load (none.getD PlansSection.default) _).plans = PlansSection.default.plans from rfl, hnone] at hpl
      cases hpl
    | some r =>
      simp only [Part.loaded, hread] at hpl
      obtain ⟨c, hc, rfl⟩ := readCopy_eq_some hread
      exact h c.contents.plans (.inr (.inl ⟨c, hc, rfl⟩)) n pl hpl
  · exact h plans (.inr (.inl hstored))
  · cases hx

end

theorem Part.reset_plansSound : State.reset.PlansSound := by
  rintro plans (rfl | ⟨x, hx, -⟩ | ⟨x, hx, -⟩) n pl hpl
  · have hnone : PlansSection.default.plans.get n = none := Table.get_fill _ _
    rw [show State.reset.resolver.plans = PlansSection.default.plans from rfl, hnone] at hpl
    cases hpl
  · cases hx
  · cases hx

/-- Settles O32. -/
theorem invariantsAtReset : Obligations.InvariantsAtReset := by
  unfold Obligations.InvariantsAtReset
  exact ⟨Part.loaded_creditsWithin _ _ _ _ _, Part.loaded_queueWithin _ _ _ _ _, Part.loaded_linesSound _ _ _ _ _,
    Part.loaded_noticesWithin _ _ _ _ _, Part.loaded_restartSound _ _ _ _ _, Part.loaded_sirenSound _ _ _ _ _,
    Part.loaded_storeSound _ _ _ _ _, Part.loaded_freeOrderRight _ _ _ _ _, Part.loaded_lampsRight _ _ _ _ _,
    Part.loaded_numbersDistinct _ _ _ _ _, Part.loaded_vacuous _ _ _ _ _, Part.loaded_quiet _ _ _ _ _,
    Part.reset_plansSound, Part.loaded_vacuous _ _ _ _ _, Part.loaded_vacuous _ _ _ _ _,
    Part.loaded_engagementRight _ _ _ _ _, Part.loaded_commitmentRight _ _ _ _ _⟩

/-! ## Cold starts -/

theorem Part.coldStart_coldStarted (cause : StartCause) (x : Level) (p : Part) :
    ColdStarted cause p.pins.mainsPresent x p (p.coldStart cause x) :=
  Part.loaded_coldStarted _ cause { p.pins with batterySense := x } _ p rfl

theorem Part.coldStart_condition (cause : StartCause) (x : Level) (p : Part) : (p.coldStart cause x).condition
    = if p.pins.mainsPresent = false ∧ x.val < 1050 then .cutoff cause else .running := by
  have h : (!p.pins.mainsPresent && decide (x.val < 1050)) = true ↔ p.pins.mainsPresent = false ∧ x.val < 1050 := by simp
  exact if_congr h rfl rfl

theorem Part.coldStart_recovered {cause : StartCause} {x : Level} {p : Part}
    (h : p.pins.mainsPresent = true ∨ 1100 ≤ x.val) : (p.coldStart cause x).condition = .running := by
  rw [coldStart_condition, if_neg]
  rintro ⟨hm, hx⟩
  obtain h | h := h
  · rw [hm] at h; cases h
  · omega

theorem Part.coldStartFor_of_free {p : Part} {cause : ColdCause} (h : (¬ ∃ k, p.condition = .cutoff k) ∨ cause ≠ .cutoff)
    (x : Level) : p.coldStartFor cause x = p.coldStart (startCauseOf cause) x := by
  unfold coldStartFor
  split
  · next k hk => exact absurd (h.resolve_right (by simp)) (by simp [hk])
  · rfl

theorem Part.coldStartFor_of_cutoff {p : Part} {k : StartCause} (h : p.condition = .cutoff k) (x : Level) :
    p.coldStartFor .cutoff x = if p.pins.mainsPresent = true ∨ 1100 ≤ x.val then p.coldStart k x
      else (p.setSense x).setSample x := by
  have hrec : (p.pins.mainsPresent || decide (1100 ≤ x.val)) = true ↔ p.pins.mainsPresent = true ∨ 1100 ≤ x.val := by simp
  unfold coldStartFor
  rw [h]
  exact if_congr hrec rfl rfl

/-- Settles O21. -/
theorem coldStart : Obligations.ColdStart := by
  unfold Obligations.ColdStart
  intro s cause x held
  refine ⟨fun h => ?_, fun k hk => ?_, readCopy_eq _ _, readCopy_eq _ _, readCopy_eq _ _, readCopy_eq _ _⟩
  · rw [leads_iff]
    show (s.toPart.coldStartFor cause x).condition = _ ∧ ColdStarted _ _ _ _ (s.toPart.coldStartFor cause x)
    rw [Part.coldStartFor_of_free h]
    exact ⟨Part.coldStart_condition _ _ _, Part.coldStart_coldStarted _ _ _⟩
  · rw [leads_iff]
    have he : effect (.coldStart .cutoff x) s.toPart = _ := Part.coldStartFor_of_cutoff hk x
    rw [he]
    split
    · next h => exact ⟨Part.coldStart_recovered h, Part.coldStart_coldStarted _ _ _⟩
    · rfl

/-! ## Cutoff, stops and recovery -/

/-- A part that does not run drives no output. -/
theorem Part.outputs_of_stopped {p : Part} (h : p.condition ≠ .running) :
    (∀ k, p.keyOutput k = false ∧ p.pagingData k = []) ∧ p.sirenRelay = false
      ∧ (∀ ap, p.lampDrives ap = (false, false)) ∧ (∀ l, p.driverEnable l = false) ∧ (∀ l, p.transmit l = [])
      ∧ p.attentionOutput = false := by
  have hrun : p.isRunning = false := by simp [isRunning, h]
  refine ⟨fun k => ⟨by simp [keyOutput, hrun], ?_⟩, by simp [sirenRelay, hrun], fun ap => ?_,
    fun l => by simp [driverEnable, hrun], fun l => by simp [transmit, hrun], by simp [attentionOutput, hrun]⟩
  · unfold pagingData
    split <;> simp [hrun]
  · unfold lampDrives
    split <;> simp [hrun]

theorem Part.takeSample_cutOff {p : Part} {x : Level} (hp : p.condition = .running) (hst : p.supply.state ≠ .mains)
    (hx : x.val < 1050) : p.takeSample x
      = .loaded (.cutoff .cutoff) p.cause { p.pins with batterySense := x } p.lines.breaks p.store.stored := by
  have hcut : x.val < Config.cutoffLevel := hx
  unfold takeSample
  simp only [setSense, hp, judgeSample, setSample, onSupply]
  cases h : p.supply.state with
  | mains => exact absurd h hst
  | battery | reserve => simp only [if_pos hcut]; rfl

theorem Part.mainsFalls_cutOff {p : Part} (hp : p.condition = .running) (hst : p.supply.state = .mains)
    (hx : p.supply.lastSample.val < 1050) : p.mainsFalls
      = .loaded (.cutoff .cutoff) p.cause { p.pins with mainsPresent := false } p.lines.breaks p.store.stored := by
  have hcut : p.supply.lastSample.val < Config.cutoffLevel := hx
  unfold mainsFalls
  simp only [setMains, hp, hst, settleFall, if_pos hcut, if_true]
  rfl

theorem Part.holdReset_of_powered {p : Part} (hp : p.condition ≠ .off) :
    p.holdReset = .loaded .resetHeld p.cause p.pins p.lines.breaks p.store.stored := by
  unfold holdReset
  split
  · next h => exact absurd h hp
  all_goals rfl

theorem Part.takeSample_of_cutoff {p : Part} {k : StartCause} (hp : p.condition = .cutoff k) (x : Level) :
    p.takeSample x = if 1100 ≤ x.val then (p.setSense x).coldStart k x else (p.setSense x).setSample x := by
  unfold takeSample
  simp only [setSense, hp]
  rfl

theorem Part.mainsRises_of_cutoff {p : Part} {k : StartCause} (hp : p.condition = .cutoff k) :
    p.mainsRises = (p.setMains true).coldStart k p.pins.batterySense := by
  unfold mainsRises
  simp only [setMains, hp]

/-- Settles O20. -/
theorem cutoffAndRecovery : Obligations.CutoffAndRecovery := by
  unfold Obligations.CutoffAndRecovery
  intro s stopped forgets
  have hstopped {condition : Condition} {pins : Pins} (h : condition ≠ .running)
      (hpins : pins.channelClear = s.pins.channelClear) : stopped pins.mainsPresent pins.batterySense
        (.loaded condition s.cause pins s.lines.breaks s.store.stored) :=
    ⟨Part.loaded_coldStarted _ _ _ _ _ hpins, Part.loaded_slot _ _ _ _ _, Part.outputs_of_stopped h⟩
  have hforgets {c : Instr} {condition : Condition} {pins : Pins} (h : ∀ u : State, u.condition = s.condition →
      u.pins = s.pins → u.supply.state = s.supply.state → u.supply.lastSample = s.supply.lastSample →
      effect c u.toPart = .loaded condition u.cause pins u.lines.breaks u.store.stored) : forgets c := by
    intro u hcondition hcause hpins hstored hstate hsample hbreaks
    refine ⟨.loaded condition s.cause pins s.lines.breaks s.store.stored, ?_, ?_⟩
    · rw [leads_iff, h s rfl rfl rfl rfl]
    · rw [leads_iff, h u hcondition hpins hstate hsample, hcause, hbreaks, hstored]
  refine ⟨fun x hs hst hx => ?_, fun hs hst hx => ?_, fun hs => ?_, ?_, ?_, fun cause hc => ⟨fun x => ?_, ?_⟩⟩
  · have he (u : State) (hcondition : u.condition = s.condition) (hpins : u.pins = s.pins)
        (hstate : u.supply.state = s.supply.state) : effect (.batterySample x) u.toPart
          = .loaded (.cutoff .cutoff) u.cause { s.pins with batterySense := x } u.lines.breaks u.store.stored := by
      rw [← hpins]
      exact Part.takeSample_cutOff (hcondition.trans hs) (by rwa [hstate]) hx
    refine ⟨?_, hforgets fun u hcondition hpins hstate _ => he u hcondition hpins hstate⟩
    rw [leads_iff, he s rfl rfl rfl]
    exact ⟨rfl, hstopped (pins := { s.pins with batterySense := x }) (by simp) rfl⟩
  · have he (u : State) (hcondition : u.condition = s.condition) (hpins : u.pins = s.pins)
        (hstate : u.supply.state = s.supply.state) (hsample : u.supply.lastSample = s.supply.lastSample) :
        effect .mainsPresentFalls u.toPart
          = .loaded (.cutoff .cutoff) u.cause { s.pins with mainsPresent := false } u.lines.breaks u.store.stored := by
      rw [← hpins]
      exact Part.mainsFalls_cutOff (hcondition.trans hs) (by rwa [hstate]) (by rwa [hsample])
    refine ⟨?_, hforgets he⟩
    rw [leads_iff, he s rfl rfl rfl rfl]
    exact ⟨rfl, hstopped (pins := { s.pins with mainsPresent := false }) (by simp) rfl⟩
  · have he (u : State) (hcondition : u.condition = s.condition) (hpins : u.pins = s.pins) :
        effect .resetInputHeld u.toPart = .loaded .resetHeld u.cause s.pins u.lines.breaks u.store.stored := by
      rw [← hpins]
      exact Part.holdReset_of_powered (hcondition ▸ hs)
    refine ⟨?_, hforgets fun u hcondition hpins _ _ => he u hcondition hpins⟩
    rw [leads_iff, he s rfl rfl]
    exact ⟨rfl, hstopped (by simp) rfl⟩
  · rw [leads_iff]
    exact ⟨rfl, hstopped (by simp) rfl⟩
  · refine hforgets (condition := .off) (pins := s.pins) fun u _ hpins _ _ => ?_
    rw [← hpins]
    rfl
  · rw [leads_iff]
    have he : effect (.batterySample x) s.toPart = _ := Part.takeSample_of_cutoff hc x
    rw [he]
    split
    · next hx => rw [if_neg (by omega)]; rfl
    · next hx =>
      rw [if_pos (by omega)]
      exact ⟨Part.coldStart_recovered (.inr (by omega)),
        Part.loaded_coldStarted _ cause { s.pins with batterySense := x } _ s.toPart rfl⟩
  · rw [leads_iff]
    have he : effect .mainsPresentRises s.toPart = _ := Part.mainsRises_of_cutoff hc
    rw [he]
    exact ⟨Part.coldStart_recovered (.inl rfl),
      Part.loaded_coldStarted _ cause { s.pins with mainsPresent := true } _ s.toPart rfl⟩

end Sys2Proof.Machine


/-!
SUPPORT. The operations of the page queue and the sequencer keep the bounds of the credits and those of the queue each by
itself (R131, R133, R146).
-/

namespace Sys2Proof.Machine

open Sys2Proof

/-- Credits that are within their ceilings stay so, and so do the queue and the demand list within their places. -/
structure KeepsBounds (p q : Part) : Prop where
  credits : p.CreditsWithin → q.CreditsWithin
  queue   : p.QueueWithin → q.QueueWithin

namespace KeepsBounds

theorem refl (p : Part) : KeepsBounds p p := ⟨id, id⟩

theorem trans {p q r : Part} (h : KeepsBounds p q) (k : KeepsBounds q r) : KeepsBounds p r :=
  ⟨k.credits ∘ h.credits, k.queue ∘ h.queue⟩

theorem of_eq {p q : Part} (hs : q.sites.records = p.sites.records) (hp : q.pages = p.pages) : KeepsBounds p q :=
  ⟨fun h => by unfold Part.CreditsWithin at *; rwa [hs], fun h => by unfold Part.QueueWithin at *; rwa [hp]⟩

theorem onPages (p : Part) (f : PageQueue → PageQueue) (h : p.QueueWithin →
    (f p.pages).used ≤ Config.queueEntries ∧ (f p.pages).demands.length ≤ Config.demandPlaces) :
    KeepsBounds p (p.onPages f) :=
  ⟨id, h⟩

theorem onSites (p : Part) (f : SiteUnit → SiteUnit)
    (h : p.CreditsWithin → ∀ k, ((f p.sites).records.get k).credit ≤ ((f p.sites).records.get k).ceiling) :
    KeepsBounds p (p.onSites f) :=
  ⟨h, id⟩

theorem ite {p q r : Part} {b : Prop} [Decidable b] (hq : KeepsBounds p q) (hr : KeepsBounds p r) :
    KeepsBounds p (if b then q else r) := by
  split
  · exact hq
  · exact hr

end KeepsBounds

/-! ## Admission -/

theorem Part.report_keepsBounds (r : Report) (p : Part) : KeepsBounds p (p.report r) :=
  .onPages p _ id

theorem Part.setSequencer_keepsBounds (x : Sequencer) (p : Part) : KeepsBounds p (p.setSequencer x) :=
  .onSites p _ id

theorem Part.admission_keepsBounds (d : Demand) (p : Part) (room : p.pages.room d = true) :
    KeepsBounds p (p.admission d) := by
  have flip : KeepsBounds p (p.onSites fun u => { u with direction := p.sites.direction.flip }) := .onSites p _ id
  unfold Part.admission
  refine .ite (flip.trans (Part.report_keepsBounds _ _)) (.ite (flip.trans (Part.report_keepsBounds _ _))
    (flip.trans (.onPages _ _ fun h => ⟨?_, h.2⟩)))
  have hl := p.formPages_length d
  have room' : p.pages.used + d.size ≤ Config.queueEntries := of_decide_eq_true room
  simp only [PageQueue.used, Part.onSites_pages, List.map_append, List.sum_append, List.map_cons, List.map_nil,
    List.sum_cons, List.sum_nil, Batch.entries, Demand.size] at room' ⊢
  omega

theorem Part.admitFrom_credits (l : List Demand) (p : Part) (h : p.CreditsWithin) :
    (Part.admitFrom l p).CreditsWithin := by
  induction l generalizing p with
  | nil => exact h
  | cons d rest ih =>
    unfold Part.admitFrom
    split
    · next room => exact ih _ ((p.admission_keepsBounds d room).credits h)
    · exact h

theorem Part.admitFrom_queue (l : List Demand) (p : Part) (hl : l.length ≤ Config.demandPlaces) (h : p.QueueWithin) :
    (Part.admitFrom l p).QueueWithin := by
  induction l generalizing p with
  | nil => exact ⟨h.1, by simp [Part.admitFrom]⟩
  | cons d rest ih =>
    unfold Part.admitFrom
    split
    · next room => exact ih _ (Nat.le_of_succ_le hl) ((p.admission_keepsBounds d room).queue h)
    · exact ⟨h.1, hl⟩

theorem Part.tryAdmissions_keepsBounds (p : Part) : KeepsBounds p p.tryAdmissions :=
  ⟨p.admitFrom_credits _, fun h => p.admitFrom_queue _ h.2 h⟩

theorem Part.demand_keepsBounds (d : Demand) (p : Part) : KeepsBounds p (p.demand d) := by
  unfold Part.demand
  split
  · next h => exact p.admission_keepsBounds d (Bool.and_eq_true_iff.1 h).2
  · split
    · next h => exact .onPages p _ fun b => ⟨b.1, by simp only [List.length_append, List.length_cons, List.length_nil]; omega⟩
    · exact p.report_keepsBounds _

theorem Part.demandReleases_keepsBounds (o : Owner) (ms : List MemberId) (p : Part) :
    KeepsBounds p (p.demandReleases o ms) := by
  have one (l : List MemberId) (p : Part) : KeepsBounds p (if l = [] then p else p.demandMembers .release o l) :=
    .ite (.refl p) (p.demand_keepsBounds _)
  exact (one _ p).trans (one _ _)

/-! ## The current batch, settling and turns -/

/-- A queue whose batches hold no more entries than before. -/
theorem Part.shorten_keepsBounds (p : Part) (f : PageQueue → PageQueue) (hu : (f p.pages).used ≤ p.pages.used)
    (hd : (f p.pages).demands.length ≤ p.pages.demands.length) : KeepsBounds p (p.onPages f) :=
  .onPages p f fun h => ⟨hu.trans h.1, hd.trans h.2⟩

/-- A change of the current batch that does not lengthen it. -/
theorem Part.onCurrent_keepsBounds (f : Batch → Batch) (p : Part)
    (h : ∀ b, p.current? = some b → (f b).pages.length ≤ b.pages.length) : KeepsBounds p (p.onCurrent f) := by
  refine p.shorten_keepsBounds _ ?_ ?_ <;> cases hq : p.pages.queue with
  | nil => exact Nat.le_refl _
  | cons x rest =>
    have := h x (by rw [Part.current?, hq]; rfl)
    simp only [PageQueue.used, hq, List.map_cons, List.sum_cons, Batch.entries]
    omega

theorem Part.updateSite_keepsBounds (k : SiteId) (f : SiteRecord → SiteRecord) (p : Part)
    (h : ∀ r, r.credit ≤ r.ceiling → (f r).credit ≤ (f r).ceiling) : KeepsBounds p (p.updateSite k f) := by
  refine .onSites p _ fun hp j => ?_
  simp only [Table.update, Table.get_set]
  split
  · exact h _ (hp k)
  · exact hp j

theorem Part.debit_keepsBounds (k : SiteId) (cost : Nat) (p : Part) : KeepsBounds p (p.debit k cost) :=
  p.updateSite_keepsBounds k _ fun _ h => (Nat.sub_le _ _).trans h

theorem Part.keySite_keepsBounds (k : SiteId) (forced : Bool) (p : Part) : KeepsBounds p (p.keySite k forced) := by
  unfold Part.keySite
  split
  · exact .refl p
  · exact ((p.debit_keepsBounds k _).trans (Part.onCurrent_keepsBounds Batch.start _ fun _ _ => Nat.le_refl _)).trans
      (Part.setSequencer_keepsBounds _ _)

theorem Part.joinSite_keepsBounds (k : SiteId) (p : Part) : KeepsBounds p (p.joinSite k) := by
  unfold Part.joinSite
  split
  · exact .refl p
  · exact ((p.debit_keepsBounds k _).trans (Part.onCurrent_keepsBounds Batch.start _ fun _ _ => Nat.le_refl _)).trans
      (Part.setSequencer_keepsBounds _ _)

/-- The current batch replaced by one of the same pages. -/
theorem Part.replaceCurrent_keepsBounds {p : Part} {b b' : Batch} (h : p.current? = some b) (hp : b'.pages = b.pages) :
    KeepsBounds p (p.onCurrent fun _ => b') :=
  p.onCurrent_keepsBounds _ fun x hx => by
    rw [h] at hx
    cases hx
    rw [hp]

theorem Part.settle_keepsBounds (k : SiteId) (o : PassOutcome) (p : Part) : KeepsBounds p (p.settle k o) := by
  unfold Part.settle
  split
  · exact .refl p
  · next b h =>
    have h1 := (Part.replaceCurrent_keepsBounds (b' := b.setSite k (.settled o)) h rfl).trans
      (Part.report_keepsBounds (.pass b.owner o b.groups) _)
    exact .ite (h1.trans (Part.report_keepsBounds _ _)) h1

theorem Part.defer_keepsBounds (k : SiteId) (p : Part) : KeepsBounds p (p.onCurrent (Batch.defer k)) :=
  p.onCurrent_keepsBounds _ fun _ _ => Nat.le_refl _

theorem Part.turn_keepsBounds (p : Part) : KeepsBounds p p.turn := by
  unfold Part.turn
  split
  · exact .refl p
  · split
    · exact .refl p
    · split
      · exact p.settle_keepsBounds ..
      · exact p.settle_keepsBounds ..
      · exact p.defer_keepsBounds _
      · exact .ite (p.keySite_keepsBounds _ false) (p.setSequencer_keepsBounds _)

theorem Part.leaveQueue_keepsBounds (p : Part) : KeepsBounds p p.leaveQueue := by
  refine (p.shorten_keepsBounds _ ?_ (Nat.le_refl _)).trans (Part.tryAdmissions_keepsBounds _)
  unfold PageQueue.used
  cases p.pages.queue with
  | nil => exact Nat.le_refl _
  | cons x rest =>
    simp only [List.map_cons, List.sum_cons, List.tail_cons]
    omega

theorem Part.joinOrUnkey_keepsBounds (k : SiteId) (p : Part) : KeepsBounds p (p.joinOrUnkey k) := by
  have idle := p.setSequencer_keepsBounds .idle
  unfold Part.joinOrUnkey
  split
  · exact idle
  · split
    · exact idle
    · split
      · split
        · exact idle.trans (Part.settle_keepsBounds ..)
        · exact idle.trans (Part.settle_keepsBounds ..)
        · exact idle.trans (Part.defer_keepsBounds ..)
        · exact p.joinSite_keepsBounds k
      · exact idle

theorem Part.endPass_keepsBounds (k : SiteId) (forced : Bool) (p : Part) : KeepsBounds p (p.endPass k forced) := by
  unfold Part.endPass
  simp only
  split
  · exact .refl p
  · next b h =>
    refine .ite (((Part.replaceCurrent_keepsBounds h ?_).trans (Part.report_keepsBounds _ _)).trans
      (Part.report_keepsBounds _ _)) (p.settle_keepsBounds ..)
    rfl

/-! ## Withdrawal -/

theorem Part.withdrawDemands_keepsBounds (o : Owner) (ks : BatchKind → Bool) (p : Part) :
    KeepsBounds p (p.withdrawDemands o ks).2 := by
  unfold Part.withdrawDemands
  simp only
  refine p.shorten_keepsBounds _ ?_ ?_
  · exact Nat.le_refl _
  · exact List.length_filter_le _ _

theorem Part.withdrawBehind_keepsBounds (o : Owner) (ks : BatchKind → Bool) (p : Part) :
    KeepsBounds p (p.withdrawBehind o ks).2 := by
  unfold Part.withdrawBehind
  split
  · exact .refl p
  · next x rest hq =>
    simp only
    refine p.shorten_keepsBounds _ ?_ ?_
    case refine_2 => exact Nat.le_refl _
    have := sum_filter_le Batch.entries (fun y => !named o ks y.owner y.kind) rest
    simp only [PageQueue.used, hq, List.map_cons, List.sum_cons]
    omega

theorem Part.withdrawCurrent_keepsBounds (o : Owner) (ks : BatchKind → Bool) (p : Part) :
    KeepsBounds p (p.withdrawCurrent o ks).2 := by
  unfold Part.withdrawCurrent
  split
  · exact .refl p
  · next x rest hq =>
    split
    · split
      · exact p.onCurrent_keepsBounds _ fun _ _ => Nat.le_refl _
      · simp only
        refine (p.setSequencer_keepsBounds .idle).trans (Part.shorten_keepsBounds _ _ ?_ ?_)
        case refine_2 => exact Nat.le_refl _
        simp only [Part.setSequencer, Part.onSites_pages, PageQueue.used, hq, List.map_cons, List.sum_cons]
        omega
    · exact .refl p

theorem Part.withdraw_keepsBounds (o : Owner) (ks : BatchKind → Bool) (p : Part) : KeepsBounds p (p.withdraw o ks).2 :=
  (((p.withdrawDemands_keepsBounds o ks).trans (Part.withdrawBehind_keepsBounds o ks _)).trans
    (Part.withdrawCurrent_keepsBounds o ks _)).trans (Part.tryAdmissions_keepsBounds _)

end Sys2Proof.Machine


/-!
SUPPORT. What the rules of orders and events can do to the part, written once: a rule is a run of moves, and each move is
one write of a block within the bounds that every invariant needs. Laws about all rules are then proved move by move.
-/

namespace Sys2Proof.Machine

open Sys2Proof

/-! ## How far a callout may move -/

/-- A callout less the fields that rules and the clock write: what its ALERT filled in. -/
def Callout.fixed (c : Callout) : Callout :=
  { c with state := .inOpen, prior := none, appliances := [], primary := 0#16, paged := 0#16, secondary := 0#16,
           repaged := [], alertStatus := .none, alertGroups := 0#16, standDownGroups := none, heldBack := [],
           responses := [], sequence := 0, assessment := { candidates := [], entries := [], outcome := .short },
           level := 0, exhausted := false, elapsed := 0, elapsedMs := 0, accumulation := .stopped, responseWindow := .stopped,
           flags := noFlags }

/-- Every flag of `f` is set in `g` too. -/
structure CalloutFlags.Le (f g : CalloutFlags) : Prop where
  substituted      : f.substituted = true → g.substituted = true
  applianceOmitted : f.applianceOmitted = true → g.applianceOmitted = true
  groupsOmitted    : f.groupsOmitted = true → g.groupsOmitted = true
  txDegraded       : f.txDegraded = true → g.txDegraded = true
  aidRequested     : f.aidRequested = true → g.aidRequested = true
  responseLost     : f.responseLost = true → g.responseLost = true

theorem CalloutFlags.Le.refl (f : CalloutFlags) : f.Le f := ⟨id, id, id, id, id, id⟩

theorem CalloutFlags.Le.trans {f g h : CalloutFlags} (a : f.Le g) (b : g.Le h) : f.Le h :=
  ⟨b.1 ∘ a.1, b.2 ∘ a.2, b.3 ∘ a.3, b.4 ∘ a.4, b.5 ∘ a.5, b.6 ∘ a.6⟩

/-- The history of a callout goes on: what is fixed stays, and level, exhaustion, flags and elapsed time do not go back. -/
structure Callout.Grows (c d : Callout) : Prop where
  fixed     : d.fixed = c.fixed
  level     : c.level ≤ d.level
  exhausted : c.exhausted = true → d.exhausted = true
  flags     : c.flags.Le d.flags
  elapsed   : c.elapsed ≤ 65535 → c.elapsed ≤ d.elapsed ∧ d.elapsed ≤ 65535

theorem Callout.Grows.refl (c : Callout) : c.Grows c := ⟨rfl, Nat.le_refl _, id, .refl _, fun h => ⟨Nat.le_refl _, h⟩⟩

theorem Callout.Grows.trans {c d e : Callout} (a : c.Grows d) (b : d.Grows e) : c.Grows e :=
  ⟨b.fixed.trans a.fixed, a.level.trans b.level, b.exhausted ∘ a.exhausted, a.flags.trans b.flags,
    fun h => ⟨(a.elapsed h).1.trans (b.elapsed (a.elapsed h).2).1, (b.elapsed (a.elapsed h).2).2⟩⟩

/-- One record a member, 32 at most, and one or more distinct appliances (R73, R12). -/
def Callout.Sound (c : Callout) : Prop :=
  (c.responses.map Response.member).Nodup ∧ c.responses.length ≤ Config.responsePlaces
    ∧ c.appliances ≠ [] ∧ (c.appliances.map ApplianceEntry.letter).Nodup

/-- Three appliances at most, each with a requirement of one member or more (R12, R4). -/
def Callout.Within (c : Callout) : Prop :=
  c.appliances.length ≤ 3 ∧ ∀ e ∈ c.appliances, e.need.sum ≠ 0

/-- Prior state, held-back list and stand-down groups go with the state (section 1.2). -/
def Callout.StateRight (c : Callout) : Prop :=
  (c.state = .held ↔ c.prior ≠ none)
    ∧ (∀ st ∈ c.prior, st = .inOpen ∨ st = .alerting ∨ st = .counting ∨ st = .crewed)
    ∧ (c.heldBack ≠ [] → c.state = .held) ∧ c.heldBack.length ≤ 8
    ∧ (c.state = .closing ↔ c.standDownGroups ≠ none)

/-- What the laws about one rule may take for granted or leave out. -/
structure Grants where
  /-- The DEFINED plans are sound. -/
  plans : Prop
  /-- The rule may move a member into WITHHELD or out of it. -/
  marks : Prop
  /-- The rule may edit configuration and work on the store. -/
  edits : Prop
  /-- The rule may clear flags of this line. -/
  clears : Line → Prop
  /-- The rule may set the mask of this line. -/
  remasks : Line → Prop
  /-- The rule may make a callout. -/
  makes : Prop
  /-- The slot whose callout is for a while not in order with its state. -/
  loose : Option SlotId

/-- A write of the callout of slot `i` that every invariant of callouts allows. -/
structure Callout.Moves (g : Grants) (i : SlotId) (c d : Callout) : Prop where
  grows  : c.Grows d
  sound  : c.Sound → d.Sound
  within : g.plans → c.Within → d.Within
  right  : g.loose ≠ some i → c.StateRight → d.StateRight

/-- An appliance entry less what a departure writes. -/
def ApplianceEntry.kind (e : ApplianceEntry) : Appliance × RoleCounts :=
  (e.letter, e.need)

theorem Callout.letters_eq (c : Callout) :
    c.appliances.map ApplianceEntry.letter = (c.appliances.map ApplianceEntry.kind).map Prod.fst := by
  rw [List.map_map]
  rfl

theorem Callout.within_iff (c : Callout) : c.Within ↔ (c.appliances.map ApplianceEntry.kind).length ≤ 3
    ∧ ∀ x ∈ c.appliances.map ApplianceEntry.kind, x.2.sum ≠ 0 := by
  simp [Callout.Within, ApplianceEntry.kind]

/-- Members on record and appliances with their requirements settle whether a callout is sound. -/
theorem Callout.sound_congr {c d : Callout} (hr : d.responses.map Response.member = c.responses.map Response.member)
    (ha : d.appliances.map ApplianceEntry.kind = c.appliances.map ApplianceEntry.kind) (h : c.Sound) : d.Sound := by
  have hlen : d.responses.length = c.responses.length := by simpa using congrArg List.length hr
  have hne : d.appliances = [] ↔ c.appliances = [] := by
    simpa using congrArg (· = []) ha
  obtain ⟨h1, h2, h3, h4⟩ := h
  exact ⟨hr ▸ h1, hlen ▸ h2, fun e => h3 (hne.1 e), by rwa [d.letters_eq, ha, ← c.letters_eq]⟩

/-- A write that leaves members on record, appliances, and what goes with the state. -/
theorem Callout.Moves.of_same {g : Grants} {i : SlotId} {c d : Callout} (hf : d.fixed = c.fixed := by rfl)
    (hl : c.level ≤ d.level := by exact Nat.le_refl _) (he : c.exhausted = true → d.exhausted = true := by exact id)
    (hg : c.flags.Le d.flags := by exact CalloutFlags.Le.refl _)
    (ht : d.elapsed = c.elapsed := by rfl)
    (hr : d.responses.map Response.member = c.responses.map Response.member := by rfl)
    (ha : d.appliances.map ApplianceEntry.kind = c.appliances.map ApplianceEntry.kind := by rfl)
    (hs : d.state = c.state := by rfl) (hp : d.prior = c.prior := by rfl) (hh : d.heldBack = c.heldBack := by rfl)
    (hd : d.standDownGroups = c.standDownGroups := by rfl) : c.Moves g i d where
  grows := ⟨hf, hl, he, hg, fun h => by rw [ht]; exact ⟨Nat.le_refl _, h⟩⟩
  sound := Callout.sound_congr hr ha
  within := fun _ => by rw [Callout.within_iff, Callout.within_iff, ha]; exact id
  right := fun _ => by unfold Callout.StateRight; rw [hs, hp, hh, hd]; exact id

/-- A write of the state and what goes with it alone. -/
theorem Callout.Moves.of_state {g : Grants} {i : SlotId} {c d : Callout}
    (h : g.loose ≠ some i → c.StateRight → d.StateRight) (hf : d.fixed = c.fixed := by rfl)
    (hl : c.level ≤ d.level := by exact Nat.le_refl _) (he : c.exhausted = true → d.exhausted = true := by exact id)
    (hg : c.flags.Le d.flags := by exact CalloutFlags.Le.refl _)
    (ht : d.elapsed = c.elapsed := by rfl)
    (hr : d.responses.map Response.member = c.responses.map Response.member := by rfl)
    (ha : d.appliances.map ApplianceEntry.kind = c.appliances.map ApplianceEntry.kind := by rfl) : c.Moves g i d where
  grows := ⟨hf, hl, he, hg, fun h => by rw [ht]; exact ⟨Nat.le_refl _, h⟩⟩
  sound := Callout.sound_congr hr ha
  within := fun _ => by rw [Callout.within_iff, Callout.within_iff, ha]; exact id
  right := h

/-- A state other than HELD and CLOSING. -/
def CalloutState.plain : CalloutState → Bool
  | .held | .closing => false
  | .inOpen | .alerting | .counting | .crewed | .mobile => true

/-- A callout goes from one state with nothing that goes with it to another. -/
theorem Callout.StateRight.enter {c : Callout} (h : c.StateRight) {st : CalloutState} (hc : c.state.plain = true)
    (hst : st.plain = true) : ({ c with state := st } : Callout).StateRight := by
  obtain ⟨h1, h2, h3, h4, h5⟩ := h
  have hheld {x : CalloutState} (hx : x.plain = true) : x ≠ .held ∧ x ≠ .closing := by
    cases x <;> simp_all [CalloutState.plain]
  have hn := hheld hc
  have hm := hheld hst
  exact ⟨iff_of_false hm.1 fun e => hn.1 (h1.2 e), h2, fun e => absurd (h3 e) hn.1, h4,
    iff_of_false hm.2 fun e => hn.2 (h5.2 e)⟩

/-! ## Moves of the part -/

/-- What a rule may do to the roster: neither configuration nor, without the grant, WITHHELD marks change. -/
structure Roster.Moves (g : Grants) (r t : Roster) : Prop where
  groups  : t.groups = r.groups
  members : ∀ m, (t.members.get m).map (fun x => (x.callSign, x.address, x.quals, x.groups))
    = (r.members.get m).map fun x => (x.callSign, x.address, x.quals, x.groups)
  marks   : ¬ g.marks → ∀ m, (t.members.get m).map (fun x => decide (x.availability = .withheld))
    = (r.members.get m).map fun x => decide (x.availability = .withheld)

/-- `q` is `p` with callout `c` made in slot `i`, the head of the free order, and its appliances committed to it. -/
structure Creates (plans : Prop) (i : SlotId) (c : Callout) (p q : Part) : Prop where
  head    : p.table.freeOrder.head? = some i
  after   : q = { p with
    lines := p.lines.raise .callout, resolver := q.resolver
    table := { slots := (p.table.slots.map (Slot.forget c.number)).set i (.live c), freeOrder := p.table.freeOrder.tail,
               lastNumber := c.number, lastToken := c.token } }
  core    : q.resolver.core = p.resolver.core
  commits : ∀ ap : Appliance, (q.appliance ap).committed =
    if ap ∈ c.appliances.map ApplianceEntry.letter then some c.number else (p.appliance ap).committed
  taken   : ∀ ap ∈ c.appliances.map ApplianceEntry.letter, (p.appliance ap).committed = none
  fresh   : c.number ≠ 0#8 ∧ c.token ≠ 0#12 ∧ ∀ j d, p.callout? j = some d →
    d.number ≠ c.number ∧ d.token ≠ c.token ∧ d.reference ≠ c.reference
  new     : c.state = .inOpen ∧ c.responses = []
  sound   : c.Sound
  within  : plans → c.Within
  right   : c.StateRight

/-- `q` is `p` after an edit of configuration, or a write of the store: nothing that an event works with has changed. -/
structure Edits (p q : Part) : Prop where
  condition : q.condition = p.condition
  lines     : q.lines = p.lines
  restart   : q.restart = p.restart
  table     : q.table = p.table
  pages     : q.pages = p.pages
  sequencer : q.sites.sequencer = p.sites.sequencer
  credits   : p.CreditsWithin → q.CreditsWithin
  station   : q.station.run = p.station.run ∧ q.station.lamps = p.station.lamps
  supply    : q.supply.state = p.supply.state
  committed : ∀ ap, (q.appliance ap).committed = (p.appliance ap).committed
  engaged   : ∀ m n a, (∃ x, q.member? m = some x ∧ x.engaged = some n ∧ x.availability = a)
    ↔ ∃ x, p.member? m = some x ∧ x.engaged = some n ∧ x.availability = a
  plans     : p.PlansSound → q.PlansSound
  store     : p.StoreSound → q.StoreSound

/-- One write within a rule. A change of a callout's state is one with the notice it raises (R6). -/
inductive Move (g : Grants) (p : Part) : Part → Prop
  | pages {q : Part} (h : OnlyPages p q) (k : KeepsBounds p q) : Move g p q
  | raise (n : Notice) : Move g p (p.raise n)
  | modify (i : SlotId) (f : Callout → Callout)
      (h : ∀ c, p.callout? i = some c → c.Moves g i (f c) ∧ (f c).state = c.state) : Move g p (p.modify i f)
  | enter (i : SlotId) (f : Callout → Callout) (h : ∀ c, p.callout? i = some c → c.Moves g i (f c)) :
      Move g p ((p.modify i f).raise .callout)
  | roster (r : Roster) (h : p.roster.Moves g r) : Move g p { p with roster := r }
  | resolver (r : Resolver) (h : r.core = p.resolver.core) : Move g p { p with resolver := r }
  | free (i : SlotId) (x : Option Summary) (c : Callout) (h : p.callout? i = some c) :
      Move g p ((p.onTable fun t =>
        { t with slots := t.slots.set i (.free x), freeOrder := t.freeOrder ++ [i] }).raise .callout)
  | run (r : Option SirenRun) (h : p.SirenSound → p.supply.state = .reserve → r = none) : Move g p (p.setRun r)
  | lamps : Move g p p.refreshLamps
  | create {q : Part} (granted : g.makes) (i : SlotId) (c : Callout) (h : Creates g.plans i c p q) : Move g p q
  | edit {q : Part} (granted : g.edits) (h : Edits p q) : Move g p q
  | supply (st : SupplyState) (r : Option SirenRun) (h : p.SirenSound → st = .reserve → r = none) :
      Move g p ((p.setSupply st).setRun r)
  | each (f : Callout → Callout) (h : ∀ i c, c.Moves g i (f c) ∧ (f c).state = c.state) : Move g p (p.onCallouts f)

/-- A run of moves. -/
inductive Moves (g : Grants) (p : Part) : Part → Prop
  | refl : Moves g p p
  | tail {q r : Part} (h : Moves g p q) (m : Move g q r) : Moves g p r

namespace Moves

variable {g : Grants} {p q r : Part}

theorem one (m : Move g p q) : Moves g p q := .tail .refl m

theorem trans (h : Moves g p q) (k : Moves g q r) : Moves g p r := by
  induction k with
  | refl => exact h
  | tail _ m ih => exact ih.tail m

/-- A relation of parts that holds of every move, and carries on, holds of a run of moves. -/
theorem lift {R : Part → Part → Prop} (hr : ∀ p, R p p) (ht : ∀ {p q r}, R p q → R q r → R p r)
    (hm : ∀ {p q}, Move g p q → R p q) (h : Moves g p q) : R p q := by
  induction h with
  | refl => exact hr _
  | tail _ m ih => exact ht ih (hm m)

theorem ite {b : Prop} [Decidable b] (hq : Moves g p q) (hr : Moves g p r) : Moves g p (if b then q else r) := by
  split
  · exact hq
  · exact hr

theorem pages (h : OnlyPages p q) (k : KeepsBounds p q) : Moves g p q := one (.pages h k)

theorem demand (d : Demand) (p : Part) : Moves g p (p.demand d) := pages (p.demand_onlyPages d) (p.demand_keepsBounds d)

theorem demandReleases (o : Owner) (ms : List MemberId) (p : Part) : Moves g p (p.demandReleases o ms) :=
  pages (p.demandReleases_onlyPages o ms) (p.demandReleases_keepsBounds o ms)

theorem raise (p : Part) (n : Notice) : Moves g p (p.raise n) := one (.raise n)

theorem raiseIf (p : Part) (b : Bool) (n : Notice) : Moves g p (p.raiseIf b n) := by
  unfold Part.raiseIf
  split
  · exact raise p n
  · exact refl

theorem modify {i : SlotId} {f : Callout → Callout}
    (h : ∀ c, p.callout? i = some c → c.Moves g i (f c) ∧ (f c).state = c.state) : Moves g p (p.modify i f) :=
  one (.modify i f h)

theorem enter {i : SlotId} {f : Callout → Callout} (h : ∀ c, p.callout? i = some c → c.Moves g i (f c)) :
    Moves g p ((p.modify i f).raise .callout) :=
  one (.enter i f h)

theorem run {x : Option SirenRun} (h : p.SirenSound → p.supply.state = .reserve → x = none) : Moves g p (p.setRun x) :=
  one (.run x h)

end Moves

/-- Two writes of one callout are one. -/
theorem Part.modify_modify (p : Part) (i : SlotId) (f h : Callout → Callout) :
    (p.modify i f).modify i h = p.modify i (h ∘ f) := by
  unfold Part.modify
  cases hs : p.slot i with
  | free x => simp [hs]
  | live c =>
    have hq : (p.setSlot i (.live (f c))).slot i = .live (f c) := by rw [Part.slot_setSlot, if_pos rfl]
    simp only [hq]
    simp [Part.setSlot, Part.onTable, Table.set]

theorem Part.modify_raise (p : Part) (n : Notice) (i : SlotId) (f : Callout → Callout) :
    (p.raise n).modify i f = (p.modify i f).raise n := by
  unfold Part.modify
  rw [Part.slot_raise]
  cases p.slot i <;> rfl

/-! ## The roster and the resolver -/

section
variable (g : Grants)

theorem Part.modifyMember_moves (m : MemberId) (f : Member → Member) (p : Part)
    (hc : ∀ x, p.member? m = some x → (f x).callSign = x.callSign ∧ (f x).address = x.address ∧ (f x).quals = x.quals
      ∧ (f x).groups = x.groups)
    (hm : ¬ g.marks → ∀ x, p.member? m = some x → ((f x).availability = .withheld ↔ x.availability = .withheld)) :
    Moves g p (p.modifyMember m f) := by
  unfold Part.modifyMember
  cases hx : p.member? m with
  | none => exact .refl
  | some x =>
    refine .one (.roster _ ⟨rfl, fun j => ?_, fun hg j => ?_⟩) <;> simp only [Table.get_set] <;> split
    · next e =>
      subst e
      obtain ⟨h1, h2, h3, h4⟩ := hc x hx
      rw [show p.roster.members.get m = some x from hx]
      simp [h1, h2, h3, h4]
    · rfl
    · next e =>
      subst e
      rw [show p.roster.members.get m = some x from hx]
      simp [hm hg x hx]
    · rfl

theorem Part.engage_moves (m : MemberId) (n : CalloutNo) (p : Part) : Moves g p (p.engage m n) :=
  p.modifyMember_moves g m _ (fun _ _ => ⟨rfl, rfl, rfl, rfl⟩) fun _ _ _ => Iff.rfl

theorem Member.leave_frame (n : CalloutNo) (x : Member) : x.leave n = { x with engaged := (x.leave n).engaged } := by
  unfold Member.leave
  split <;> rfl

theorem Part.disengage_moves (m : MemberId) (n : CalloutNo) (p : Part) : Moves g p (p.disengage m n) :=
  p.modifyMember_moves g m _ (fun x _ => by rw [x.leave_frame n]; exact ⟨rfl, rfl, rfl, rfl⟩) fun _ x _ => by
    rw [x.leave_frame n]

theorem Part.disengageList_moves (n : CalloutNo) (l : List MemberId) (p : Part) :
    Moves g p (l.foldl (fun p m => p.disengage m n) p) := by
  induction l generalizing p with
  | nil => exact .refl
  | cons m rest ih => exact (p.disengage_moves g m n).trans (ih _)

theorem Part.disengageAll_moves (n : CalloutNo) (p : Part) : Moves g p (p.disengageAll n) := by
  refine .one (.roster _ ⟨rfl, fun j => ?_, fun _ j => ?_⟩) <;>
    simp only [Table.get_map, Option.map_map] <;> congr 1 <;> funext x <;>
    simp only [Function.comp_apply] <;> rw [x.leave_frame n]

theorem Part.setOnDuty_moves (m : MemberId) (p : Part) : Moves g p (p.setOnDuty m) := by
  refine p.modifyMember_moves g m _ (fun x _ => ?_) fun _ x _ => ?_ <;> split
  · exact ⟨rfl, rfl, rfl, rfl⟩
  · exact ⟨rfl, rfl, rfl, rfl⟩
  · next h => simp [h]
  · exact Iff.rfl

theorem Part.onAppliances_moves {f : Table 4 ApplianceRecord → Table 4 ApplianceRecord} (p : Part)
    (h : ∀ k, { (f p.resolver.appliances).get k with committed := none }
      = { p.resolver.appliances.get k with committed := (none : Option CalloutNo) }) :
    Moves g p (p.onResolver fun r => { r with appliances := f r.appliances }) := by
  refine .one (.resolver _ ?_)
  simp only [Resolver.core, Resolver.mk.injEq, true_and]
  refine Table.ext_get fun k => ?_
  simpa only [Table.get_map] using h k

theorem Part.setCommitted_moves (ap : Appliance) (n : Option CalloutNo) (p : Part) : Moves g p (p.setCommitted ap n) := by
  refine p.onAppliances_moves g (f := fun t => t.update ap.index _) fun k => ?_
  simp only [Table.update, Table.get_set]
  split
  · next e => rw [e]
  · rfl

theorem Part.setCommittedList_moves {α : Type} (h : α → Appliance) (n : Option CalloutNo) (l : List α) (p : Part) :
    Moves g p (l.foldl (fun p y => p.setCommitted (h y) n) p) := by
  induction l generalizing p with
  | nil => exact .refl
  | cons y rest ih => exact (p.setCommitted_moves g (h y) n).trans (ih _)

theorem Part.uncommitAll_moves (n : CalloutNo) (p : Part) : Moves g p (p.uncommitAll n) := by
  refine p.onAppliances_moves g fun k => ?_
  simp only [Table.get_map]
  split <;> rfl

/-! ## Releases, assessments, entries -/

theorem Callout.mapRecords_moves (who : MemberId → Bool) {f : Response → Response} (hf : ∀ r, (f r).member = r.member)
    {i : SlotId} (c : Callout) :
    c.Moves g i (c.mapRecords who f) ∧ (c.mapRecords who f).state = c.state := by
  refine ⟨.of_same (hr := ?_), rfl⟩
  simp only [Callout.mapRecords, List.map_map]
  refine List.map_congr_left fun r _ => ?_
  simp only [Function.comp_apply]
  split
  · exact hf r
  · rfl

theorem Response.release_member (t : Nat) (r : Response) : (r.release t).member = r.member := by
  unfold Response.release
  split <;> rfl

theorem Part.releaseMembers_moves (i : SlotId) (ms : List MemberId) (p : Part) : Moves g p (p.releaseMembers i ms) := by
  unfold Part.releaseMembers
  split
  · exact .refl
  · refine (Moves.trans (.modify ?_) (Part.disengageList_moves g _ _ _)).trans (.raiseIf _ _ _)
    exact fun d _ => d.mapRecords_moves g _ (Response.release_member _)

theorem Part.recompute_moves (i : SlotId) (p : Part) : Moves g p (p.recompute i) := by
  unfold Part.recompute
  split
  · exact .refl
  · refine Moves.trans (.modify ?_) (.raiseIf _ _ _)
    exact fun _ _ => ⟨.of_same, rfl⟩

theorem Part.degrade_moves (i : SlotId) (p : Part) : Moves g p (p.degrade i) := by
  refine Moves.trans (.modify ?_) (.raise _ _)
  exact fun _ _ => ⟨.of_same (hg := ⟨id, id, id, fun _ => rfl, id, id⟩), rfl⟩

/-- The callout of slot `i`, if it is live, is in a state that nothing goes with. -/
def Part.PlainAt (i : SlotId) (p : Part) : Prop :=
  ∀ c, p.callout? i = some c → c.state.plain = true

theorem Part.enter_moves {i : SlotId} {st : CalloutState} {p : Part} (h : p.PlainAt i) (hst : st.plain = true) :
    Moves g p (p.enter i st) :=
  .enter fun c hc => .of_state fun _ hr => hr.enter (h c hc) hst

theorem Part.window_moves (i : SlotId) (f : Callout → Timer) (p : Part) :
    Moves g p (p.modify i fun c => { c with responseWindow := f c }) :=
  .modify fun _ _ => ⟨.of_same, rfl⟩

theorem Part.enterCrewed_moves {i : SlotId} {p : Part} (h : p.PlainAt i) : Moves g p (p.enterCrewed i) := by
  have h0 := (p.enter_moves g h (st := .crewed) rfl).trans (Part.window_moves g i (fun _ => .stopped) _)
  unfold Part.enterCrewed
  simp only
  split
  · exact h0
  · exact .ite h0 (((h0.trans (Part.releaseMembers_moves g i _ _)).trans
      (.demandReleases _ _ _)).trans (Part.recompute_moves g i _))

theorem Part.enterCounting_moves {i : SlotId} {p : Part} (h : p.PlainAt i) : Moves g p (p.enterCounting i) :=
  (p.enter_moves g h (st := .counting) rfl).trans (Part.window_moves g i (fun c => .start c.window) _)

theorem Part.plainAt_of {i : SlotId} {p : Part} {c : Callout} (hc : p.callout? i = some c) (h : c.state.plain = true) :
    p.PlainAt i := fun d hd => by
  rw [hc] at hd
  cases hd
  exact h

theorem Part.takeOutcome_moves (i : SlotId) (p : Part) : Moves g p (p.takeOutcome i) := by
  unfold Part.takeOutcome
  split
  · exact .refl
  · next c hc =>
    split
    · next hs => exact .ite (p.enterCrewed_moves g (Part.plainAt_of hc (by rw [hs]; rfl))) .refl
    · next hs => exact .ite (p.enterCrewed_moves g (Part.plainAt_of hc (by rw [hs]; rfl))) .refl
    · next hs => exact .ite .refl (p.enterCounting_moves g (Part.plainAt_of hc (by rw [hs]; rfl)))
    all_goals exact .refl

theorem Part.reassess_moves (i : SlotId) (p : Part) : Moves g p (p.reassess i) := by
  unfold Part.reassess
  split
  · exact .refl
  · exact .ite .refl ((p.recompute_moves g i).trans (Part.takeOutcome_moves g i _))

/-! ## The siren -/

theorem Part.sirenRequest_moves (pat : PatternId) (n : Nat) (p : Part) : Moves g p (p.sirenRequest pat n) := by
  unfold Part.sirenRequest
  split
  · exact .refl
  · next h => split <;> exact .run fun _ e => absurd e h

theorem Part.sirenOwnCycles_moves (pat : PatternId) (p : Part) : Moves g p (p.sirenOwnCycles pat) :=
  p.sirenRequest_moves g pat _

/-! ## Leaving OPEN, withdrawal, becoming FREE -/

theorem Part.PlainAt.modify {i : SlotId} {p : Part} {f : Callout → Callout} (h : p.PlainAt i)
    (hf : ∀ c, (f c).state = c.state) : (p.modify i f).PlainAt i := by
  intro d hd
  rw [Part.callout?_modify_self, Option.map_eq_some_iff] at hd
  obtain ⟨c, hc, rfl⟩ := hd
  rw [hf]
  exact h c hc

theorem Part.PlainAt.pages {i : SlotId} {p q : Part} (h : p.PlainAt i) (hq : OnlyPages p q) : q.PlainAt i := by
  intro d hd
  rw [hq.callout?] at hd
  exact h d hd

/-- The groups judged *no* are left out as a callout leaves OPEN (R14). -/
def Callout.leaving (kept : GroupSet) (c : Callout) : Callout :=
  { c with primary := kept, paged := c.paged &&& kept, accumulation := .stopped,
           flags := { c.flags with groupsOmitted := c.flags.groupsOmitted || kept != c.primary } }

theorem Callout.leaving_moves (kept : GroupSet) (i : SlotId) (c : Callout) : c.Moves g i (c.leaving kept) :=
  .of_same (hg := ⟨id, id, fun h => by simp [Callout.leaving, h], id, id, id⟩)

/-- Without groups a callout leaves OPEN for COUNTING, and with groups for ALERTING. -/
theorem Part.leaveFor_moves {i : SlotId} {p : Part} (h : p.PlainAt i) (o : Owner) (kept : GroupSet) :
    Moves g p (if kept = 0#16 then (p.modify i fun c => { c with alertStatus := .ended }).enterCounting i
      else ((p.modify i fun c => { c with alertGroups := kept, alertStatus := .outstanding }).demandGroups
        .alert o kept).enter i .alerting) := by
  refine .ite ?_ ?_
  · refine Moves.trans (.modify ?_) (Part.enterCounting_moves g (h.modify fun _ => rfl))
    exact fun _ _ => ⟨.of_same, rfl⟩
  · refine (Moves.trans (.modify ?_) (.demand _ _)).trans
      (Part.enter_moves g ((h.modify ?_).pages (Part.demandGroups_onlyPages _ _ _ _)) rfl)
    · exact fun _ _ => ⟨.of_same, rfl⟩
    · exact fun _ => rfl

theorem Part.leaveOpen_moves {i : SlotId} {p : Part} (h : p.PlainAt i) : Moves g p (p.leaveOpen i) := by
  unfold Part.leaveOpen
  split
  · exact .refl
  · next c _ =>
    have hleave : Moves g p (p.modify i (Callout.leaving (p.judgedYes c.primary))) :=
      .modify fun d _ => ⟨d.leaving_moves g _ i, rfl⟩
    have hleft : (p.modify i (Callout.leaving (p.judgedYes c.primary))).PlainAt i := h.modify fun _ => rfl
    exact ((hleave.trans (Part.leaveFor_moves g hleft c.owner (p.judgedYes c.primary))).trans
      (.ite (Part.sirenOwnCycles_moves g _ _) .refl)).trans (Part.takeOutcome_moves g i _)

theorem Part.withdrawFor_moves (i : SlotId) (ks : BatchKind → Bool) (p : Part) : Moves g p (p.withdrawFor i ks).2 := by
  unfold Part.withdrawFor
  split
  · exact .refl
  · next c _ =>
    have h : Moves g p (p.withdraw c.owner ks).2 :=
      .pages (p.withdraw_onlyPages c.owner ks) (p.withdraw_keepsBounds c.owner ks)
    exact .ite (h.trans (Part.degrade_moves g i _)) h

theorem Part.becomeFree_moves (i : SlotId) (endCode : Nat) (p : Part) : Moves g p (p.becomeFree i endCode) := by
  have h0 := p.withdrawFor_moves g i everyKind
  unfold Part.becomeFree
  simp only
  generalize (p.withdrawFor i everyKind).2 = q at h0
  split
  · exact h0
  · next c hc =>
    exact ((h0.trans (q.disengageAll_moves g c.number)).trans (Part.uncommitAll_moves g c.number _)).trans
      (.one (.free i _ c hc))

/-! ## Reports, work and the end of an event -/

theorem Part.alertEnded_moves (i : SlotId) (p : Part) : Moves g p (p.alertEnded i) := by
  have h0 : Moves g p (p.modify i fun c => { c with alertStatus := .ended }) := .modify fun _ _ => ⟨.of_same, rfl⟩
  unfold Part.alertEnded
  simp only
  generalize p.modify i _ = q at h0
  split
  · exact h0
  · next c hc =>
    split
    · next hs =>
      exact (h0.trans (q.enterCounting_moves g (Part.plainAt_of hc (by rw [hs]; rfl)))).trans
        (Part.takeOutcome_moves g i _)
    · exact h0

theorem Part.batchEnded_moves (i : SlotId) (k : BatchKind) (p : Part) : Moves g p (p.batchEnded i k) := by
  unfold Part.batchEnded
  split
  · exact .refl
  · split
    · exact p.alertEnded_moves g i
    · exact .ite (p.becomeFree_moves g i 3) .refl
    all_goals exact .refl

theorem Part.takeReport_moves (r : Report) (p : Part) : Moves g p (p.takeReport r) := by
  unfold Part.takeReport
  split
  · split
    · exact .refl
    · exact .ite (.modify fun _ _ => ⟨.of_same, rfl⟩) .refl
  · split
    · exact .refl
    · next i _ =>
      have h0 (failed : Bool) : Moves g p (if failed = true then p.degrade i else p) :=
        .ite (p.degrade_moves g i) .refl
      simp only
      split
      · exact (h0 _).trans (Part.batchEnded_moves g _ _ _)
      · exact (h0 _).trans (Part.batchEnded_moves g _ _ _)
      · exact h0 _

theorem Part.workStep_moves {p q : Part} (h : p.workStep = some q) : Moves g p q := by
  unfold Part.workStep at h
  split at h
  · cases h
    refine Moves.trans (.pages (.onPages p _ ?_) (.onPages p _ ?_)) (Part.takeReport_moves g _ _)
    · exact fun b => b.2
    · exact id
  · split at h
    · split at h
      · cases h
      · split at h
        · cases h; exact .pages p.leaveQueue_onlyPages p.leaveQueue_keepsBounds
        · split at h
          · cases h
          · cases h; exact .pages p.turn_onlyPages p.turn_keepsBounds
    · cases h

theorem Part.workFor_moves (n : Nat) (p : Part) : Moves g p (Part.workFor n p) := by
  induction n generalizing p with
  | zero => exact .refl
  | succ n ih =>
    unfold Part.workFor
    split
    · exact .refl
    · next h => exact (Part.workStep_moves g h).trans (ih _)

theorem Part.work_moves (p : Part) : Moves g p p.work := p.workFor_moves g _

theorem Part.finish_moves (p : Part) : Moves g p p.finish := (p.work_moves g).trans (.one .lamps)

end

end Sys2Proof.Machine


/-!
SUPPORT. What a run of moves keeps: the frame of the lines, the bounds, the configuration, and the table of callouts.
-/

namespace Sys2Proof.Machine

open Sys2Proof

variable {g : Grants}

/-! ## Lines, bounds and the store -/

/-- Some notices are raised on all three lines. -/
def Raises (p q : Part) : Prop :=
  ∃ b : Set16, b &&& ~~~allNotices = 0#16 ∧ q.lines = p.lines.all fun c => { c with flags := c.flags ||| b }

theorem Raises.of_eq {p q : Part} (h : q.lines = p.lines) : Raises p q :=
  ⟨0#16, by decide, by rw [h]; simp [Lines.all]⟩

theorem Raises.trans {p q r : Part} (h : Raises p q) (k : Raises q r) : Raises p r := by
  obtain ⟨b, hb, e⟩ := h
  obtain ⟨b', hb', e'⟩ := k
  refine ⟨b ||| b', ?_, ?_⟩
  · have e (x y z : Set16) : (x ||| y) &&& z = (x &&& z) ||| (y &&& z) := by
      ext k; simp [Bool.and_or_distrib_right]
    rw [e, hb, hb']
    rfl
  · rw [e', e]
    simp [Lines.all, BitVec.or_assoc]

theorem Raises.raise (p : Part) (n : Notice) : Raises p (p.raise n) :=
  ⟨n.bit, n.bit_within, rfl⟩

theorem Raises.ctl {p q : Part} (h : Raises p q) : ∃ b : Set16, b &&& ~~~allNotices = 0#16
    ∧ ∀ l, q.ctl l = { p.ctl l with flags := (p.ctl l).flags ||| b } := by
  obtain ⟨b, hb, e⟩ := h
  exact ⟨b, hb, fun l => by rw [Part.ctl, e, Lines.ctl_all]; rfl⟩

/-- What every move keeps of the part as a whole. -/
structure MoveFrame (g : Grants) (p q : Part) : Prop where
  condition : q.condition = p.condition
  restart   : q.restart = p.restart
  lines     : Raises p q
  credits   : p.CreditsWithin → q.CreditsWithin
  queue     : p.QueueWithin → q.QueueWithin
  siren     : p.SirenSound → q.SirenSound
  store     : p.StoreSound → q.StoreSound
  plans     : p.PlansSound → q.PlansSound

namespace MoveFrame

variable {p q r : Part}

theorem refl (p : Part) : MoveFrame g p p := ⟨rfl, rfl, .of_eq rfl, id, id, id, id, id⟩

theorem trans (h : MoveFrame g p q) (k : MoveFrame g q r) : MoveFrame g p r :=
  ⟨k.condition.trans h.condition, k.restart.trans h.restart, h.lines.trans k.lines, k.credits ∘ h.credits,
    k.queue ∘ h.queue, k.siren ∘ h.siren, k.store ∘ h.store, k.plans ∘ h.plans⟩

/-- Only blocks that no such law speaks of have changed, and notices have been raised. -/
theorem of_same (hc : q.condition = p.condition) (hr : q.restart = p.restart) (hl : Raises p q)
    (hs : q.sites = p.sites) (hp : q.pages = p.pages) (hsupply : q.supply = p.supply) (hrun : q.station.run = p.station.run)
    (hstore : q.store = p.store) (hplans : q.resolver.plans = p.resolver.plans) : MoveFrame g p q where
  condition := hc
  restart := hr
  lines := hl
  credits := by unfold Part.CreditsWithin; rw [hs]; exact id
  queue := by unfold Part.QueueWithin; rw [hp]; exact id
  siren := by unfold Part.SirenSound; rw [hsupply, hrun]; exact id
  store := by unfold Part.StoreSound; rw [hstore]; exact id
  plans := by unfold Part.PlansSound; rw [hstore, hplans]; exact id

theorem of_core {x y : Resolver} (h : x.core = y.core) : x.plans = y.plans :=
  (congrArg Resolver.plans h : x.core.plans = y.core.plans)

end MoveFrame

theorem Part.modify_frame (p : Part) (i : SlotId) (f : Callout → Callout) : MoveFrame g p (p.modify i f) := by
  rw [p.modify_eq i f]
  exact .of_same rfl rfl (.of_eq rfl) rfl rfl rfl rfl rfl rfl

theorem Part.raise_frame (p : Part) (n : Notice) : MoveFrame g p (p.raise n) :=
  .of_same rfl rfl (.raise p n) rfl rfl rfl rfl rfl rfl

theorem Move.frame {p q : Part} (m : Move g p q) : MoveFrame g p q := by
  cases m with
  | pages h k =>
    exact
      { condition := h.condition, restart := h.restart, lines := .of_eq h.lines, credits := k.credits, queue := k.queue
        siren := by unfold Part.SirenSound; rw [h.supply, h.station]; exact id
        store := by unfold Part.StoreSound; rw [h.store]; exact id
        plans := by unfold Part.PlansSound; rw [h.store, h.resolver]; exact id }
  | raise n => exact p.raise_frame n
  | modify i f h => exact p.modify_frame i f
  | enter i f h => exact (p.modify_frame i f).trans (Part.raise_frame _ _)
  | roster r h => exact .of_same rfl rfl (.of_eq rfl) rfl rfl rfl rfl rfl rfl
  | resolver r h => exact .of_same rfl rfl (.of_eq rfl) rfl rfl rfl rfl rfl (MoveFrame.of_core h)
  | free i x c h => exact .of_same rfl rfl (.raise _ .callout) rfl rfl rfl rfl rfl rfl
  | run r h =>
    exact
      { condition := rfl, restart := rfl, lines := .of_eq rfl, credits := id, queue := id, siren := h
        store := id, plans := id }
  | lamps => exact .of_same rfl rfl (.of_eq rfl) rfl rfl rfl rfl rfl rfl
  | create _ i c h =>
    have e := h.after
    have hplans : q.resolver.plans = p.resolver.plans := MoveFrame.of_core h.core
    exact .of_same (by rw [e]) (by rw [e]) ⟨Notice.callout.bit, Notice.bit_within _, by rw [e]; rfl⟩ (by rw [e])
      (by rw [e]) (by rw [e]) (by rw [e]) (by rw [e]) hplans
  | edit _ h =>
    exact
      { condition := h.condition, restart := h.restart, lines := .of_eq h.lines, credits := h.credits
        queue := by unfold Part.QueueWithin; rw [h.pages]; exact id
        siren := by unfold Part.SirenSound; rw [h.supply, h.station.1]; exact id
        store := h.store, plans := h.plans }
  | supply st r h =>
    exact
      { condition := rfl, restart := rfl, lines := .of_eq rfl, credits := id, queue := id, siren := h
        store := id, plans := id }
  | each f h => exact .of_same rfl rfl (.of_eq rfl) rfl rfl rfl rfl rfl rfl

theorem Moves.frame {p q : Part} (h : Moves g p q) : MoveFrame g p q :=
  h.lift .refl .trans Move.frame

/-! ## Configuration -/

theorem SameConfiguration.refl (p : Part) : SameConfiguration p p :=
  ⟨⟨rfl, rfl⟩, ⟨rfl, rfl, rfl⟩, fun _ => ⟨rfl, rfl⟩, fun _ => rfl, rfl, fun _ => rfl, rfl, rfl⟩

theorem SameConfiguration.trans {p q r : Part} (h : SameConfiguration p q) (k : SameConfiguration q r) :
    SameConfiguration p r where
  settings := ⟨k.settings.1.trans h.settings.1, k.settings.2.trans h.settings.2⟩
  plans := ⟨k.plans.1.trans h.plans.1, k.plans.2.1.trans h.plans.2.1, k.plans.2.2.trans h.plans.2.2⟩
  appliances := fun ap => ⟨(k.appliances ap).1.trans (h.appliances ap).1, (k.appliances ap).2.trans (h.appliances ap).2⟩
  members := fun m => (k.members m).trans (h.members m)
  groups := k.groups.trans h.groups
  sites := fun s => (k.sites s).trans (h.sites s)
  patterns := k.patterns.trans h.patterns
  store := k.store.trans h.store

theorem SameConfiguration.of_same {p q : Part} (hu : q.settings = p.settings)
    (hl : q.supply.reserveLevel = p.supply.reserveLevel) (hr : q.resolver.core = p.resolver.core)
    (hroster : q.roster = p.roster) (hs : ∀ k, (q.sites.records.get k).toStored = (p.sites.records.get k).toStored)
    (hp : q.station.patterns = p.station.patterns) (hstore : q.store = p.store) : SameConfiguration p q where
  settings := ⟨hu, hl⟩
  plans := by
    have h : (q.resolver.core.plans, q.resolver.core.classes, q.resolver.core.maps)
        = (p.resolver.core.plans, p.resolver.core.classes, p.resolver.core.maps) := by rw [hr]
    simpa [Resolver.core] using h
  appliances := fun ap => by
    have h := congrArg (fun r : Resolver => r.appliances.get ap.index) hr
    simp only [Resolver.core, Table.get_map] at h
    simp only [ApplianceRecord.mk.injEq] at h
    exact ⟨h.1, h.2.1⟩
  members := fun m => by unfold Part.member?; rw [hroster]
  groups := by rw [hroster]
  sites := hs
  patterns := hp
  store := hstore

theorem Part.modify_configuration (p : Part) (i : SlotId) (f : Callout → Callout) :
    SameConfiguration p (p.modify i f) := by
  rw [p.modify_eq i f]
  exact .of_same rfl rfl rfl rfl (fun _ => rfl) rfl rfl

theorem Move.configuration {p q : Part} (hg : ¬ g.edits) (m : Move g p q) : SameConfiguration p q := by
  cases m with
  | pages h k => exact .of_same h.settings (by rw [h.supply]) (by rw [h.resolver]) h.roster h.sites (by rw [h.station]) h.store
  | modify i f h => exact p.modify_configuration i f
  | enter i f h =>
    exact (p.modify_configuration i f).trans (.of_same rfl rfl rfl rfl (fun _ => rfl) rfl rfl)
  | roster r h =>
    exact { SameConfiguration.refl p with members := h.members, groups := h.groups }
  | resolver r h => exact .of_same rfl rfl h rfl (fun _ => rfl) rfl rfl
  | create _ i c h =>
    have e := h.after
    exact .of_same (by rw [e]) (by rw [e]) h.core (by rw [e]) (by rw [e]; exact fun _ => rfl) (by rw [e]) (by rw [e])
  | edit granted _ => exact absurd granted hg
  | raise | free | run | lamps | supply | each =>
    exact .of_same rfl rfl rfl rfl (fun _ => rfl) rfl rfl

theorem Moves.configuration {p q : Part} (hg : ¬ g.edits) (h : Moves g p q) : SameConfiguration p q :=
  h.lift .refl .trans (Move.configuration hg)

/-- The WITHHELD marks of the two parts are the same. -/
def SameMarks (p q : Part) : Prop :=
  ∀ m, (q.member? m).map (fun x => decide (x.availability = .withheld))
    = (p.member? m).map fun x => decide (x.availability = .withheld)

theorem SameMarks.of_roster {p q : Part} (h : q.roster = p.roster) : SameMarks p q := fun m => by
  unfold Part.member?
  rw [h]

theorem Move.marks {p q : Part} (he : ¬ g.edits) (hm : ¬ g.marks) (m : Move g p q) : SameMarks p q := by
  cases m with
  | pages h k => exact .of_roster h.roster
  | modify i f h => exact .of_roster (by rw [p.modify_eq i f])
  | enter i f h => exact .of_roster (by rw [p.modify_eq i f]; rfl)
  | roster r h => exact h.marks hm
  | create _ i c h => exact .of_roster (by rw [h.after])
  | edit granted _ => exact absurd granted he
  | raise | resolver | free | run | lamps | supply | each => exact .of_roster rfl

theorem Moves.marks {p q : Part} (he : ¬ g.edits) (hm : ¬ g.marks) (h : Moves g p q) : SameMarks p q :=
  h.lift (fun _ _ => rfl) (fun a b m => (b m).trans (a m)) (Move.marks he hm)

/-! ## The callouts -/

/-- A callout just made. -/
structure Callout.New (g : Grants) (c : Callout) : Prop where
  sound  : c.Sound
  within : g.plans → c.Within
  right  : c.StateRight

theorem Callout.Moves.refl (g : Grants) (i : SlotId) (c : Callout) : c.Moves g i c := .of_same

theorem Part.callout?_onCallouts (f : Callout → Callout) (p : Part) (i : SlotId) :
    (p.onCallouts f).callout? i = (p.callout? i).map f := by
  simp only [Part.callout?, Part.slot, Part.onCallouts, Part.onTable_table, Table.get_map]
  cases p.table.slots.get i <;> rfl

theorem Part.callout?_congr {p q : Part} (h : q.table = p.table) (i : SlotId) : q.callout? i = p.callout? i := by
  unfold Part.callout? Part.slot
  rw [h]

theorem Slot.callout?_forget (n : CalloutNo) (x : Slot) : (x.forget n).callout? = x.callout? := by
  unfold Slot.forget
  split
  · split <;> rfl
  · rfl

/-- The table of a part in which a callout has just been made. -/
theorem Creates.callout? {plans : Prop} {i : SlotId} {c : Callout} {p q : Part} (h : Creates plans i c p q) (j : SlotId) :
    q.callout? j = if i = j then some c else p.callout? j := by
  rw [h.after]
  simp only [Part.callout?, Part.slot, Table.get_set]
  split
  · rfl
  · rw [Table.get_map, Slot.callout?_forget]

/-- Where the callout of a slot comes from. -/
theorem Move.callout? {p q : Part} (m : Move g p q) {j : SlotId} {d : Callout} (hd : q.callout? j = some d) :
    (∃ c, p.callout? j = some c ∧ c.Moves g j d) ∨ g.makes ∧ Creates g.plans j d p q := by
  have same (ht : q.table = p.table) : (∃ c, p.callout? j = some c ∧ c.Moves g j d) ∨ g.makes ∧ Creates g.plans j d p q := by
    rw [Part.callout?_congr ht] at hd
    exact .inl ⟨d, hd, .refl g j d⟩
  have changed {i : SlotId} {f : Callout → Callout} (h : ∀ c, p.callout? i = some c → c.Moves g i (f c))
      (hd : (p.modify i f).callout? j = some d) : ∃ c, p.callout? j = some c ∧ c.Moves g j d := by
    by_cases hij : i = j
    · subst hij
      rw [Part.callout?_modify_self, Option.map_eq_some_iff] at hd
      obtain ⟨c, hc, rfl⟩ := hd
      exact ⟨c, hc, h c hc⟩
    · rw [Part.callout?_modify_ne _ hij] at hd
      exact ⟨d, hd, .refl g j d⟩
  cases m with
  | pages h k => exact same h.table
  | modify i f h => exact .inl (changed (fun c hc => (h c hc).1) hd)
  | enter i f h => exact .inl (changed h hd)
  | free i x c h =>
    by_cases hij : i = j
    · subst hij
      simp [Part.callout?, Part.slot, Part.onTable, Slot.callout?] at hd
    · refine .inl ⟨d, ?_, .refl g j d⟩
      simpa [Part.callout?, Part.slot, Part.onTable, Table.get_set, hij] using hd
  | create granted i c h =>
    rw [h.callout?] at hd
    split at hd
    · next e =>
      subst e
      cases hd
      exact .inr ⟨granted, h⟩
    · exact .inl ⟨d, hd, .refl g j d⟩
  | edit _ h => exact same h.table
  | each f h =>
    rw [Part.callout?_onCallouts, Option.map_eq_some_iff] at hd
    obtain ⟨c, hc, rfl⟩ := hd
    exact .inl ⟨c, hc, (h j c).1⟩
  | raise | roster | resolver | run | lamps | supply => exact same rfl

/-- What holds of every callout, of each move and of a callout just made, holds after a run of moves. -/
theorem Moves.each {I : SlotId → Callout → Prop} (hI : ∀ i c d, c.Moves g i d → I i c → I i d)
    (hnew : ∀ i c, c.New g → I i c) {p q : Part} (h : Moves g p q) (hp : ∀ i c, p.callout? i = some c → I i c) :
    ∀ i c, q.callout? i = some c → I i c := by
  induction h with
  | refl => exact hp
  | tail _ m ih =>
    intro i d hd
    rcases m.callout? hd with ⟨c, hc, hcd⟩ | ⟨-, hn⟩
    · exact hI i c d hcd (ih i c hc)
    · exact hnew i d ⟨hn.sound, hn.within, hn.right⟩

theorem Moves.calloutsSound {p q : Part} (h : Moves g p q) (hp : p.CalloutsSound) : q.CalloutsSound :=
  h.each (I := fun _ c => c.Sound) (fun _ _ _ m => m.sound) (fun _ _ n => n.sound) hp

theorem Moves.appliancesWithin (hg : g.plans) {p q : Part} (h : Moves g p q) (hp : p.AppliancesWithin) :
    q.AppliancesWithin :=
  h.each (I := fun _ c => c.Within) (fun _ _ _ m => m.within hg) (fun _ _ n => n.within hg) hp

/-- In every slot but the loose one what goes with a state stays in order. -/
theorem Moves.statesRight_ne {p q : Part} (h : Moves g p q) (hp : p.StatesRight) {i : SlotId} (hi : g.loose ≠ some i)
    {c : Callout} (hc : q.callout? i = some c) : c.StateRight :=
  h.each (I := fun i c => g.loose ≠ some i → c.StateRight) (fun _ _ _ m k hi => m.right hi (k hi))
    (fun _ _ n _ => n.right) (fun i c hc _ => hp i c hc) i c hc hi

theorem Moves.statesRight (hg : g.loose = none) {p q : Part} (h : Moves g p q) (hp : p.StatesRight) : q.StatesRight :=
  fun _ _ hc => h.statesRight_ne hp (by rw [hg]; nofun) hc

/-! ## The free order -/

theorem Part.isFree_iff (p : Part) (i : SlotId) : (∃ x, p.slot i = .free x) ↔ p.callout? i = none := by
  unfold Part.callout?
  cases p.slot i with
  | free x => exact iff_of_true ⟨x, rfl⟩ rfl
  | live c => exact iff_of_false nofun nofun

theorem Part.freeOrderRight_iff (p : Part) : p.FreeOrderRight ↔
    p.table.freeOrder.Nodup ∧ ∀ i, i ∈ p.table.freeOrder ↔ p.callout? i = none := by
  simp only [Part.FreeOrderRight, Part.isFree_iff]

theorem Part.freeOrderRight_congr {p q : Part} (ho : q.table.freeOrder = p.table.freeOrder)
    (hs : ∀ i, q.callout? i = none ↔ p.callout? i = none) (h : p.FreeOrderRight) : q.FreeOrderRight := by
  rw [Part.freeOrderRight_iff] at *
  rw [ho]
  exact ⟨h.1, fun i => (h.2 i).trans (hs i).symm⟩

theorem Part.callout?_modify_none (p : Part) (i j : SlotId) (f : Callout → Callout) :
    (p.modify i f).callout? j = none ↔ p.callout? j = none := by
  by_cases h : i = j
  · subst h
    rw [Part.callout?_modify_self, Option.map_eq_none_iff]
  · rw [Part.callout?_modify_ne _ h]

theorem Move.freeOrderRight {p q : Part} (m : Move g p q) (h : p.FreeOrderRight) : q.FreeOrderRight := by
  have same (ht : q.table = p.table) : q.FreeOrderRight :=
    Part.freeOrderRight_congr (by rw [ht]) (fun i => by rw [Part.callout?_congr ht]) h
  have changed (i : SlotId) (f : Callout → Callout) : (p.modify i f).FreeOrderRight :=
    Part.freeOrderRight_congr (by rw [p.modify_eq i f]) (fun j => p.callout?_modify_none i j f) h
  cases m with
  | pages h k => exact same h.table
  | modify i f _ => exact changed i f
  | enter i f _ => exact changed i f
  | free i x c hc =>
    rw [Part.freeOrderRight_iff] at *
    have hi : i ∉ p.table.freeOrder := fun hi => by rw [(h.2 i).1 hi] at hc; cases hc
    refine ⟨?_, fun j => ?_⟩
    · simp only [Part.raise_table, Part.onTable_table, List.nodup_append]
      exact ⟨h.1, by simp, fun a ha b hb e => hi (List.mem_singleton.1 hb ▸ e ▸ ha)⟩
    · simp only [Part.raise_table, Part.onTable_table, List.mem_append, List.mem_singleton, h.2 j, Part.callout?, Part.slot,
        Table.get_set]
      split
      · next e => exact iff_of_true (.inr e.symm) rfl
      · next e => simp [Ne.symm e]
  | create _ i c hc =>
    rw [Part.freeOrderRight_iff] at *
    obtain ⟨rest, hrest⟩ : ∃ rest, p.table.freeOrder = i :: rest := by
      have := hc.head
      cases ho : p.table.freeOrder with
      | nil => rw [ho] at this; cases this
      | cons x rest => rw [ho] at this; cases this; exact ⟨rest, rfl⟩
    have hq : q.table.freeOrder = rest := by rw [hc.after]; simp [hrest]
    rw [hrest] at h
    obtain ⟨hnodup, hfree⟩ := h
    rw [hq]
    refine ⟨hnodup.of_cons, fun j => ?_⟩
    rw [hc.callout?]
    split
    · next e =>
      subst e
      exact iff_of_false (List.nodup_cons.1 hnodup).1 nofun
    · next e => rw [← hfree j, List.mem_cons, or_iff_right (Ne.symm e)]
  | edit _ he => exact same he.table
  | each f _ => exact Part.freeOrderRight_congr (p := p) rfl (fun i => by rw [Part.callout?_onCallouts, Option.map_eq_none_iff]) h
  | raise | roster | resolver | run | lamps | supply => exact same rfl

theorem Moves.freeOrderRight {p q : Part} (h : Moves g p q) (hp : p.FreeOrderRight) : q.FreeOrderRight :=
  h.lift (R := fun p q => p.FreeOrderRight → q.FreeOrderRight) (fun _ => id) (fun a b => b ∘ a) Move.freeOrderRight hp

/-! ## Numbers, tokens, references -/

/-- What makes a callout known. -/
def Callout.identity (c : Callout) : CalloutNo × Token × Text :=
  (c.number, c.token, c.reference)

theorem Callout.Grows.identity {c d : Callout} (h : c.Grows d) : d.identity = c.identity :=
  (congrArg Callout.identity h.fixed : d.fixed.identity = c.fixed.identity)

theorem Move.numbersDistinct {p q : Part} (m : Move g p q) (h : p.NumbersDistinct) : q.NumbersDistinct := by
  have made {j : SlotId} {d : Callout} (hd : Creates g.plans j d p q) {k : SlotId} {e : Callout}
      (he : q.callout? k = some e) (hjk : j ≠ k) :
      e.number ≠ d.number ∧ e.token ≠ d.token ∧ e.reference ≠ d.reference := by
    rw [hd.callout?, if_neg hjk] at he
    exact hd.fresh.2.2 k e he
  refine ⟨fun j d hd => ?_, fun j k d e hd he hjk => ?_⟩
  · rcases m.callout? hd with ⟨c, hc, hcd⟩ | ⟨-, hn⟩
    · have := hcd.grows.identity
      simp only [Callout.identity, Prod.mk.injEq] at this
      rw [this.1, this.2.1]
      exact h.1 j c hc
    · exact ⟨hn.fresh.1, hn.fresh.2.1⟩
  · rcases m.callout? hd with ⟨c, hc, hcd⟩ | ⟨-, hn⟩
    · rcases m.callout? he with ⟨x, hx, hxe⟩ | ⟨-, hn⟩
      · have h1 := hcd.grows.identity
        have h2 := hxe.grows.identity
        simp only [Callout.identity, Prod.mk.injEq] at h1 h2
        rw [h1.1, h1.2.1, h1.2.2, h2.1, h2.2.1, h2.2.2]
        exact h.2 j k c x hc hx hjk
      · exact made hn hd (Ne.symm hjk)
    · obtain ⟨h1, h2, h3⟩ := made hn he hjk
      exact ⟨h1.symm, h2.symm, h3.symm⟩

theorem Moves.numbersDistinct {p q : Part} (h : Moves g p q) (hp : p.NumbersDistinct) : q.NumbersDistinct :=
  h.lift (R := fun p q => p.NumbersDistinct → q.NumbersDistinct) (fun _ => id) (fun a b => b ∘ a) Move.numbersDistinct hp

/-! ## The history of a callout (R4 to R6, R115) -/

/-- Without a callout made, every live callout is one that was live, and has gone on. -/
theorem Moves.grows (hg : ¬ g.makes) {p q : Part} (h : Moves g p q) : ∀ i d, q.callout? i = some d →
    ∃ c, p.callout? i = some c ∧ c.Grows d := by
  induction h with
  | refl => exact fun i d hd => ⟨d, hd, .refl d⟩
  | tail _ m ih =>
    intro i e he
    rcases m.callout? he with ⟨d, hd, hde⟩ | ⟨hm, -⟩
    · obtain ⟨c, hc, hcd⟩ := ih i d hd
      exact ⟨c, hc, hcd.trans hde.grows⟩
    · exact absurd hm hg

/-- CALLOUT stands on all three lines. -/
def CalloutRaised (p : Part) : Prop :=
  ∀ l, (p.ctl l).flags.getLsbD 0 = true

theorem CalloutRaised.of_raises {p q : Part} (h : CalloutRaised p) (k : Raises p q) : CalloutRaised q := by
  obtain ⟨b, -, hb⟩ := k.ctl
  intro l
  rw [hb l]
  simp [h l]

theorem Part.calloutRaised_raise (p : Part) : CalloutRaised (p.raise .callout) := by
  intro l
  rw [Part.ctl_raise]
  simp [LineController.raise, Notice.bit, Notice.code]

/-- The states of all slots are what they were, or CALLOUT stands on all three lines. -/
def Announces (p q : Part) : Prop :=
  Raises p q ∧ ((∀ i, q.stateAt i = p.stateAt i) ∨ CalloutRaised q)

theorem Announces.refl (p : Part) : Announces p p := ⟨.of_eq rfl, .inl fun _ => rfl⟩

theorem Announces.trans {p q r : Part} (h : Announces p q) (k : Announces q r) : Announces p r := by
  refine ⟨h.1.trans k.1, ?_⟩
  rcases k.2 with hs | hr
  · exact h.2.imp (fun hp i => (hs i).trans (hp i)) fun hq => hq.of_raises k.1
  · exact .inr hr

theorem Move.announces {p q : Part} (m : Move g p q) : Announces p q := by
  refine ⟨m.frame.lines, ?_⟩
  have same (ht : q.table = p.table) : ∀ i, q.stateAt i = p.stateAt i := fun i => by
    unfold Part.stateAt
    rw [Part.callout?_congr ht]
  cases m with
  | pages h k => exact .inl (same h.table)
  | modify i f h =>
    refine .inl fun j => ?_
    unfold Part.stateAt
    by_cases hij : i = j
    · subst hij
      rw [Part.callout?_modify_self, Option.map_map]
      cases hc : p.callout? i with
      | none => rfl
      | some c => exact congrArg some (h c hc).2
    · rw [Part.callout?_modify_ne _ hij]
  | enter i f h => exact .inr (Part.calloutRaised_raise _)
  | free i x c h => exact .inr (Part.calloutRaised_raise _)
  | create _ i c h =>
    refine .inr fun l => ?_
    have e : q.lines = p.lines.raise .callout := by rw [h.after]
    have := p.calloutRaised_raise l
    rw [Part.ctl, e]
    exact this
  | edit _ h => exact .inl (same h.table)
  | each f h =>
    refine .inl fun i => ?_
    rw [Part.stateAt, Part.callout?_onCallouts, Option.map_map, Part.stateAt]
    congr 1
    funext c
    exact (h i c).2
  | raise | roster | resolver | run | lamps | supply => exact .inl (same rfl)

theorem Moves.announces {p q : Part} (h : Moves g p q) : Announces p q :=
  h.lift .refl .trans Move.announces

/-! ## More grants -/

theorem Callout.Moves.makes {i : SlotId} {c d : Callout} (h : c.Moves g i d) : c.Moves { g with makes := True } i d :=
  ⟨h.grows, h.sound, h.within, h.right⟩

theorem Move.makes {p q : Part} (m : Move g p q) : Move { g with makes := True } p q := by
  cases m with
  | pages h k => exact .pages h k
  | raise n => exact .raise n
  | modify i f h => exact .modify i f fun c hc => ⟨(h c hc).1.makes, (h c hc).2⟩
  | enter i f h => exact .enter i f fun c hc => (h c hc).makes
  | roster r h => exact .roster r ⟨h.groups, h.members, h.marks⟩
  | resolver r h => exact .resolver r h
  | free i x c h => exact .free i x c h
  | run r h => exact .run r h
  | lamps => exact .lamps
  | create _ i c h => exact .create trivial i c h
  | edit he h => exact .edit he h
  | supply st r h => exact .supply st r h
  | each f h => exact .each f fun i c => ⟨(h i c).1.makes, (h i c).2⟩

theorem Moves.makes {p q : Part} (h : Moves g p q) : Moves { g with makes := True } p q := by
  induction h with
  | refl => exact .refl
  | tail _ m ih => exact ih.tail m.makes

end Sys2Proof.Machine


/-!
SUPPORT. Numbers, tokens and appliances that an ALERT takes: the number and the token are fresh (R2, R3), and a commitment
attempt takes distinct appliances that are free (R45, R46).
-/

namespace Sys2Proof.Machine

open Sys2Proof

/-! ## Fresh numbers and tokens -/

section
variable {w : Nat} (used : BitVec w → Bool) (next : BitVec w → BitVec w)

/-- What is found is a value stepped to, and it is not in use unless every value stepped to is. -/
theorem firstUnused_spec (k : Nat) (x : BitVec w) :
    (∃ j ≤ k, firstUnused used next k x = next^[j] x)
      ∧ (used (firstUnused used next k x) = true → ∀ j < k, used (next^[j] x) = true) := by
  induction k generalizing x with
  | zero => exact ⟨⟨0, Nat.le_refl _, rfl⟩, fun _ j hj => absurd hj (Nat.not_lt_zero j)⟩
  | succ k ih =>
    unfold firstUnused
    by_cases h : used x = true
    · rw [if_pos h]
      obtain ⟨⟨j, hj, e⟩, hall⟩ := ih (next x)
      refine ⟨⟨j + 1, by omega, e⟩, fun hu j hj => ?_⟩
      cases j with
      | zero => exact h
      | succ j => exact hall hu j (by omega)
    · rw [if_neg h]
      exact ⟨⟨0, by omega, rfl⟩, fun hu => absurd hu h⟩

/-- Fewer values in use than distinct values stepped to: what is found is not in use. -/
theorem firstUnused_unused {k : Nat} {x : BitVec w} {l : List (BitVec w)} (hl : ∀ y, used y = true → y ∈ l)
    (hlen : l.length < k) (hinj : ∀ i < k, ∀ j < k, next^[i] x = next^[j] x → i = j) :
    used (firstUnused used next k x) = false := by
  by_contra h
  have hall := (firstUnused_spec used next k x).2 (by simpa using h)
  have hnodup : ((List.range k).map fun j => next^[j] x).Nodup :=
    List.Nodup.map_on (fun i hi j hj => hinj i (by simpa using hi) j (by simpa using hj)) List.nodup_range
  have hsub : ((List.range k).map fun j => next^[j] x) ⊆ l := by
    intro y hy
    obtain ⟨j, hj, rfl⟩ := List.mem_map.1 hy
    exact hl _ (hall j (by simpa using hj))
  have := (hnodup.subperm hsub).length_le
  simp only [List.length_map, List.length_range] at this
  omega

end

theorem nextNumber_toNat (n : CalloutNo) : (nextNumber n).toNat = n.toNat % 255 + 1 := by
  unfold nextNumber
  split
  · next e => rw [e]; rfl
  · next e => bv_omega

theorem nextNumber_ne_zero (n : CalloutNo) : nextNumber n ≠ 0#8 := by
  unfold nextNumber
  split <;> bv_omega

theorem nextNumber_iterate (j : Nat) {n : CalloutNo} (h : n ≠ 0#8) :
    (nextNumber^[j] n).toNat = (n.toNat - 1 + j) % 255 + 1 := by
  induction j with
  | zero => simp only [Function.iterate_zero, id_eq]; bv_omega
  | succ j ih =>
    rw [Function.iterate_succ_apply', nextNumber_toNat, ih]
    omega

theorem nextToken_iterate (j : Nat) (t : Token) : (nextToken^[j] t).toNat = (t.toNat + j * 1237) % 4096 := by
  induction j with
  | zero => simp only [Function.iterate_zero, id_eq]; omega
  | succ j ih =>
    rw [Function.iterate_succ_apply', nextToken, BitVec.toNat_add, ih]
    simp only [Config.tokenStep, BitVec.toNat_ofNat]
    omega

theorem Part.live_length (p : Part) : p.live.length ≤ 8 :=
  List.length_filterMap_le _ slotIds

theorem Part.any_live {p : Part} {q : Callout → Bool} :
    (p.live.any fun ic => q ic.2) = true ↔ ∃ i c, p.callout? i = some c ∧ q c = true := by
  simp only [List.any_eq_true, Prod.exists, mem_live]

theorem Part.newNumber_fresh (p : Part) :
    p.newNumber ≠ 0#8 ∧ ∀ i c, p.callout? i = some c → c.number ≠ p.newNumber := by
  have hunused : (p.live.any fun ic => ic.2.number == p.newNumber) = false := by
    refine firstUnused_unused (fun n => p.live.any fun ic => ic.2.number == n) nextNumber (k := 16)
      (x := nextNumber p.table.lastNumber) (l := p.live.map fun ic => ic.2.number) (fun y hy => ?_) ?_ ?_
    · obtain ⟨ic, hic, e⟩ := List.any_eq_true.1 hy
      exact List.mem_map.2 ⟨ic, hic, by simpa using e⟩
    · have := p.live_length
      simp only [List.length_map]
      omega
    · intro i hi j hj e
      have hne := nextNumber_ne_zero p.table.lastNumber
      have := congrArg BitVec.toNat e
      rw [nextNumber_iterate i hne, nextNumber_iterate j hne] at this
      omega
  refine ⟨?_, fun i c hc e => ?_⟩
  · obtain ⟨j, -, e⟩ := (firstUnused_spec (fun n => p.live.any fun ic => ic.2.number == n) nextNumber 16
      (nextNumber p.table.lastNumber)).1
    have hj := nextNumber_iterate j (nextNumber_ne_zero p.table.lastNumber)
    rw [show p.newNumber = nextNumber^[j] (nextNumber p.table.lastNumber) from e]
    intro hz
    rw [hz] at hj
    simp at hj
  · refine absurd (Part.any_live (q := fun c => c.number == p.newNumber).2 ⟨i, c, hc, by simp [e]⟩) ?_
    rw [hunused]
    exact Bool.false_ne_true

theorem Part.newToken_fresh (p : Part) :
    p.newToken ≠ 0#12 ∧ ∀ i c, p.callout? i = some c → c.token ≠ p.newToken := by
  have hunused : (p.newToken == 0#12 || p.live.any fun ic => ic.2.token == p.newToken) = false := by
    refine firstUnused_unused (fun t => t == 0#12 || p.live.any fun ic => ic.2.token == t) nextToken (k := 16)
      (x := nextToken p.table.lastToken) (l := 0#12 :: p.live.map fun ic => ic.2.token) (fun y hy => ?_) ?_ ?_
    · rcases Bool.or_eq_true_iff.1 hy with h | h
      · exact List.mem_cons.2 (.inl (by simpa using h))
      · obtain ⟨ic, hic, e⟩ := List.any_eq_true.1 h
        exact List.mem_cons_of_mem _ (List.mem_map.2 ⟨ic, hic, by simpa using e⟩)
    · have := p.live_length
      simp only [List.length_cons, List.length_map]
      omega
    · intro i hi j hj e
      have := congrArg BitVec.toNat e
      rw [nextToken_iterate, nextToken_iterate] at this
      omega
  rw [Bool.or_eq_false_iff] at hunused
  refine ⟨by simpa using hunused.1, fun i c hc e => ?_⟩
  refine absurd (Part.any_live (q := fun c => c.token == p.newToken).2 ⟨i, c, hc, by simp [e]⟩) ?_
  rw [hunused.2]
  exact Bool.false_ne_true

/-! ## Commitment attempts (R45, R46) -/

/-- What the settling of one entry takes, if anything: an appliance not held, not taken and usable for it. -/
theorem Part.settleEntry_committed (p : Part) (held : Appliance → Bool) (t : Attempt) (e : PlanEntry) :
    (p.settleEntry held t e).committed = t.committed
      ∨ ∃ ap, held ap = false ∧ t.has ap = false ∧ p.usable e.need ap = true
        ∧ (p.settleEntry held t e).committed = t.committed ++ [(ap, e.need)] := by
  have took {ap : Appliance} (hheld : ¬ held ap = true) (hok : (p.usable e.need ap && !t.has ap) = true) :
      held ap = false ∧ t.has ap = false ∧ p.usable e.need ap = true := by
    simp only [Bool.and_eq_true, Bool.not_eq_true'] at hok
    exact ⟨by simpa using hheld, hok.2, hok.1⟩
  unfold Part.settleEntry
  simp only
  split
  · exact .inl rfl
  · next hmain =>
    split
    · next hok =>
      obtain ⟨h1, h2, h3⟩ := took hmain hok
      exact .inr ⟨e.main, h1, h2, h3, rfl⟩
    · split
      · exact .inl rfl
      · next x _ =>
        split
        · exact .inl rfl
        · next hother =>
          split
          · next hok =>
            obtain ⟨h1, h2, h3⟩ := took hother hok
            exact .inr ⟨x, h1, h2, h3, rfl⟩
          · exact .inl rfl

/-- What an attempt over these entries takes: distinct appliances, none of them held, each usable for its entry's
requirement, and at most one an entry. -/
structure Part.Takes (p : Part) (held : Appliance → Bool) (es : List PlanEntry) (l : List (Appliance × RoleCounts)) :
    Prop where
  distinct : (l.map Prod.fst).Nodup
  each     : ∀ x ∈ l, held x.1 = false ∧ p.usable x.2 x.1 = true ∧ ∃ e ∈ es, x.2 = e.need
  few      : l.length ≤ es.length

theorem Attempt.has_eq_false {t : Attempt} {ap : Appliance} : t.has ap = false ↔ ap ∉ t.committed.map Prod.fst := by
  rw [Attempt.has, Bool.eq_false_iff, ne_eq, List.any_eq_true, List.mem_map]
  simp only [beq_iff_eq]

theorem Part.attempt_takes (p : Part) (held : Appliance → Bool) (pl : Plan) :
    p.Takes held pl.entries (p.attempt held pl).committed := by
  have fold (es : List PlanEntry) : ∀ done t, p.Takes held done t.committed →
      p.Takes held (done ++ es) (es.foldl (p.settleEntry held) t).committed := by
    induction es with
    | nil => intro done t h; simpa using h
    | cons e es ih =>
      intro done t h
      rw [List.foldl_cons, List.append_cons]
      refine ih (done ++ [e]) _ ?_
      have wider {x : Appliance × RoleCounts} (hx : ∃ a ∈ done, x.2 = a.need) : ∃ a ∈ done ++ [e], x.2 = a.need :=
        hx.imp fun a ha => ⟨List.mem_append_left _ ha.1, ha.2⟩
      have hfew := h.few
      rcases p.settleEntry_committed held t e with hs | ⟨ap, hheld, hhas, huse, hs⟩
      · rw [hs]
        exact ⟨h.distinct, fun x hx => ⟨(h.each x hx).1, (h.each x hx).2.1, wider (h.each x hx).2.2⟩,
          by simp only [List.length_append]; omega⟩
      · rw [hs]
        refine ⟨?_, fun x hx => ?_, by simp only [List.length_append, List.length_cons, List.length_nil]; omega⟩
        · rw [List.map_append, List.nodup_append]
          refine ⟨h.distinct, by simp, fun x hx y hy hxy => Attempt.has_eq_false.1 hhas ?_⟩
          rw [List.map_cons, List.map_nil, List.mem_singleton] at hy
          have e : x = ap := hxy.trans hy
          rwa [← e]
        · rcases List.mem_append.1 hx with hx | hx
          · exact ⟨(h.each x hx).1, (h.each x hx).2.1, wider (h.each x hx).2.2⟩
          · obtain rfl := List.mem_singleton.1 hx
            exact ⟨hheld, huse, e, by simp, rfl⟩
  exact fold pl.entries [] { committed := [], substituted := false, omitted := false } ⟨by simp, by simp, by simp⟩

theorem Part.usable_iff {p : Part} {need : RoleCounts} {ap : Appliance} : p.usable need ap = true ↔
    (p.appliance ap).inService = true ∧ (p.appliance ap).committed = none ∧ need.sum ≤ (p.appliance ap).seats := by
  simp [Part.usable, and_assoc]

theorem Callout.hasAppliance_eq_false {c : Callout} {ap : Appliance} :
    c.hasAppliance ap = false ↔ ap ∉ c.appliances.map ApplianceEntry.letter := by
  simp [Callout.hasAppliance]

end Sys2Proof.Machine


/-!
SUPPORT. The rules of the orders on callouts as runs of moves; an ALERT that makes a callout begins with its creation.
-/

namespace Sys2Proof.Machine

open Sys2Proof

variable (g : Grants)

/-! ## Creation (R1 to R4, R47) -/

theorem Part.commitAll_frame (n : CalloutNo) (l : List (Appliance × RoleCounts)) (p : Part) :
    p.commitAll n l = { p with resolver := (p.commitAll n l).resolver } := by
  unfold Part.commitAll
  induction l generalizing p with
  | nil => rfl
  | cons x rest ih => rw [List.foldl_cons, ih]; rfl

theorem Part.commitAll_core (n : CalloutNo) (l : List (Appliance × RoleCounts)) (p : Part) :
    (p.commitAll n l).resolver.core = p.resolver.core := by
  unfold Part.commitAll
  induction l generalizing p with
  | nil => rfl
  | cons x rest ih =>
    rw [List.foldl_cons, ih]
    simp only [Resolver.core, Part.setCommitted, Part.onResolver_resolver, Resolver.mk.injEq, true_and]
    refine Table.ext_get fun k => ?_
    simp only [Table.get_map, Table.update, Table.get_set]
    split
    · next e => rw [e]
    · rfl

theorem Appliance.index_inj {x y : Appliance} : x.index = y.index ↔ x = y := by
  cases x <;> cases y <;> decide

theorem Part.committed_setCommitted (x y : Appliance) (n : Option CalloutNo) (p : Part) :
    ((p.setCommitted x n).appliance y).committed = if x = y then n else (p.appliance y).committed := by
  simp only [Part.appliance, Part.setCommitted, Part.onResolver_resolver, Table.update, Table.get_set,
    Appliance.index_inj]
  split <;> rfl

theorem Part.committed_commitAll (n : CalloutNo) (l : List (Appliance × RoleCounts)) (p : Part) (ap : Appliance) :
    ((p.commitAll n l).appliance ap).committed
      = if ap ∈ l.map Prod.fst then some n else (p.appliance ap).committed := by
  unfold Part.commitAll
  induction l generalizing p with
  | nil => rfl
  | cons x rest ih =>
    rw [List.foldl_cons, ih, Part.committed_setCommitted]
    simp only [List.map_cons, List.mem_cons]
    by_cases h : ap ∈ rest.map Prod.fst
    · simp only [h, or_true, if_true]
    · simp only [h, or_false, if_false, @eq_comm _ x.1]

/-- The record an ALERT fills in, its appliances those of an attempt. -/
theorem Part.newCallout_letters (p : Part) (l : Line) (x : AlertArgs) (n : PlanId) (pl : Plan) (t : Attempt) :
    (p.newCallout l x n pl t).appliances.map ApplianceEntry.letter = t.committed.map Prod.fst := by
  simp [Part.newCallout, Function.comp_def]

theorem Part.createCallout_creates {plans : Prop} {p : Part} {i : SlotId} {rest : List SlotId} {l : Line} {x : AlertArgs}
    {n : PlanId} {pl : Plan} (hfree : p.table.freeOrder = i :: rest) (hplan : plans → pl.Sound)
    (hnew : ∀ j d, p.callout? j = some d → d.reference ≠ x.reference)
    (hsome : (p.attempt (fun _ => false) pl).committed ≠ []) :
    ∃ a, Creates plans i { p.newCallout l x n pl (p.attempt (fun _ => false) pl) with assessment := a } p
      (p.createCallout i (p.newCallout l x n pl (p.attempt (fun _ => false) pl))) := by
  have htakes := p.attempt_takes (fun _ => false) pl
  generalize p.attempt (fun _ => false) pl = t at htakes hsome
  have hletters := p.newCallout_letters l x n pl t
  generalize hc : p.newCallout l x n pl t = c at hletters
  have happliances : c.appliances = t.committed.map fun y => ⟨y.1, y.2, false, []⟩ := hc ▸ rfl
  generalize hq : p.onTable (fun t =>
    { slots := (t.slots.map (Slot.forget c.number)).set i (.live c), freeOrder := t.freeOrder.tail,
      lastNumber := c.number, lastToken := c.token }) = q
  have hlist : (c.appliances.map fun e => (e.letter, e.need)).map Prod.fst = t.committed.map Prod.fst := by
    rw [← hletters, List.map_map]
    rfl
  generalize hr : q.commitAll c.number (c.appliances.map fun e => (e.letter, e.need)) = r
  have hframe : r = { q with resolver := r.resolver } := hr ▸ q.commitAll_frame _ _
  have hslot : r.slot i = .live c := by
    rw [hframe, ← hq]
    simp [Part.slot]
  have hcreate : p.createCallout i c = (r.setSlot i (.live { c with assessment := q.assessment c })).raise .callout := by
    simp only [Part.createCallout, hq, hr]
    unfold Part.modify
    rw [hslot]
  have hcommit (ap : Appliance) : ((p.createCallout i c).appliance ap).committed
      = if ap ∈ c.appliances.map ApplianceEntry.letter then some c.number else (p.appliance ap).committed := by
    rw [hcreate, hletters, ← hlist]
    exact (hr ▸ q.committed_commitAll _ _ ap).trans (by rw [← hq]; rfl)
  have hresponses : c.responses = [] := hc ▸ rfl
  have hfresh : c.number ≠ 0#8 ∧ c.token ≠ 0#12 ∧ ∀ j d, p.callout? j = some d →
      d.number ≠ c.number ∧ d.token ≠ c.token ∧ d.reference ≠ c.reference := by
    have hid : c.number = p.newNumber ∧ c.token = p.newToken ∧ c.reference = x.reference := by
      rw [← hc]
      simp only [Part.newCallout, and_self]
    obtain ⟨hn, ht, hr⟩ := hid
    rw [hn, ht, hr]
    exact ⟨p.newNumber_fresh.1, p.newToken_fresh.1, fun j d hd =>
      ⟨p.newNumber_fresh.2 j d hd, p.newToken_fresh.2 j d hd, hnew j d hd⟩⟩
  refine ⟨q.assessment c, ?_⟩
  refine
    { head := by rw [hfree]; rfl
      after := ?_
      core := by rw [hcreate]; exact (hr ▸ q.commitAll_core _ _).trans (by rw [← hq]; rfl)
      commits := hcommit
      taken := fun ap hap => ?_
      fresh := hfresh
      new := hc ▸ ⟨rfl, rfl⟩
      sound := Callout.sound_congr (c := c) rfl rfl ⟨hresponses ▸ List.nodup_nil, ?_, ?_, ?_⟩
      within := fun hp => ⟨?_, fun e he => ?_⟩
      right := by rw [← hc]; simp [Callout.StateRight, Part.newCallout] }
  · rw [hcreate, hframe, ← hq]
    simp [Part.setSlot, Part.raise, Part.onTable, Part.onLines, Table.set]
  · rw [hletters] at hap
    obtain ⟨y, hy, rfl⟩ := List.mem_map.1 hap
    exact (Part.usable_iff.1 (htakes.each y hy).2.1).2.1
  · rw [hresponses]
    exact Nat.zero_le _
  · simpa [happliances] using hsome
  · rw [hletters]
    exact htakes.distinct
  · have := htakes.few
    have := (hplan hp).2.1
    simp only [happliances, List.length_map]
    omega
  · rw [happliances] at he
    obtain ⟨y, hy, rfl⟩ := List.mem_map.1 he
    obtain ⟨-, -, a, ha, e⟩ := htakes.each y hy
    exact (e ▸ ((hplan hp).2.2.2.1 a ha).2.1 : y.2.sum ≠ 0)

end Sys2Proof.Machine


/-!
SUPPORT. The rules of the orders on callouts and of the responses as runs of moves.
-/

namespace Sys2Proof.Machine

open Sys2Proof

variable (g : Grants)

/-! ## Looking up callouts -/

theorem Part.findLive_eq_some {p : Part} {q : Callout → Bool} {i : SlotId} (h : p.findLive q = some i) :
    ∃ c, p.callout? i = some c ∧ q c = true := by
  have := List.find?_some h
  unfold Part.callout?
  cases hs : p.slot i with
  | free x => rw [hs] at this; cases this
  | live c => rw [hs] at this; exact ⟨c, rfl, this⟩

theorem Part.findLive_eq_none {p : Part} {q : Callout → Bool} :
    p.findLive q = none ↔ ∀ i c, p.callout? i = some c → q c = false := by
  have hmem (i : SlotId) : i ∈ slotIds := by revert i; decide
  unfold Part.findLive
  rw [List.find?_eq_none]
  constructor
  · intro h i c hc
    have := h i (hmem i)
    rw [(p.callout?_eq i c).1 hc] at this
    simpa using this
  · intro h i _
    cases hs : p.slot i with
    | free x => simp
    | live c => simpa using h i c ((p.callout?_eq i c).2 hs)

theorem Part.lookup_eq_some {p : Part} {x : Int} {i : SlotId} {c : Callout} (h : p.lookup x = some (i, c)) :
    p.callout? i = some c := by
  unfold Part.lookup at h
  obtain ⟨j, -, h⟩ := Option.bind_eq_some_iff.1 h
  obtain ⟨d, hd, e⟩ := Option.map_eq_some_iff.1 h
  cases e
  exact hd

/-! ## The state of a slot through a rule -/

theorem Part.plainAt_of_stateAt {p : Part} {i : SlotId} {st : CalloutState} (h : p.stateAt i = some st)
    (hst : st.plain = true) : p.PlainAt i := fun c hc => by
  rw [Part.stateAt, hc] at h
  exact (Option.some.inj h : c.state = st) ▸ hst

theorem Part.stateAt_of_callout {p : Part} {i : SlotId} {c : Callout} (h : p.callout? i = some c) :
    p.stateAt i = some c.state := by
  rw [Part.stateAt, h]
  rfl

theorem Part.stateAt_modify {i : SlotId} {f : Callout → Callout} (p : Part) (hf : ∀ c, (f c).state = c.state) :
    (p.modify i f).stateAt i = p.stateAt i := by
  simp only [Part.stateAt, Part.callout?_modify_self, Option.map_map]
  congr 1
  funext c
  exact hf c

theorem OnlyPages.stateAt {p q : Part} (h : OnlyPages p q) (i : SlotId) : q.stateAt i = p.stateAt i := by
  rw [Part.stateAt, h.callout?, Part.stateAt]

theorem Part.stateAt_takeOutcome_of_open {p : Part} {i : SlotId} (h : p.stateAt i = some .inOpen) :
    p.takeOutcome i = p := by
  obtain ⟨c, hs, e⟩ := Part.stateAt_some h
  unfold Part.takeOutcome
  rw [(p.callout?_eq i c).2 hs]
  simp only [e]

/-- A callout in OPEN stays there through a reassessment. -/
theorem Part.stateAt_reassess_of_open {p : Part} {i : SlotId} (h : p.stateAt i = some .inOpen) :
    (p.reassess i).stateAt i = some .inOpen := by
  have hr : (p.recompute i).stateAt i = some .inOpen := (p.stateAt_recompute i).trans h
  unfold Part.reassess
  split
  · exact h
  · split
    · exact h
    · rw [Part.stateAt_takeOutcome_of_open hr]
      exact hr

/-! ## Appliances appended (R12, R46, R47) -/

theorem Callout.moves_withFlags {f : CalloutFlags → CalloutFlags} (hf : ∀ x : CalloutFlags, x.Le (f x)) {i : SlotId}
    (c : Callout) : c.Moves g i (c.withFlags f) ∧ (c.withFlags f).state = c.state :=
  ⟨.of_same (hg := hf _), rfl⟩

/-- One more appliance on the list. -/
def Callout.append (ap : Appliance) (need : RoleCounts) (c : Callout) : Callout :=
  { c with appliances := c.appliances ++ [{ letter := ap, need := need, departed := false, crew := [] }] }

theorem Callout.append_moves {ap : Appliance} {need : RoleCounts} {i : SlotId} {c : Callout}
    (hnew : c.hasAppliance ap = false) (hroom : c.appliances.length < 3) (hneed : g.plans → need.sum ≠ 0) :
    c.Moves g i (c.append ap need) where
  grows := ⟨rfl, Nat.le_refl _, id, .refl _, fun h => ⟨Nat.le_refl _, h⟩⟩
  sound := fun ⟨h1, h2, _, h4⟩ => by
    refine ⟨h1, h2, by simp [Callout.append], ?_⟩
    rw [Callout.append, List.map_append, List.nodup_append]
    refine ⟨h4, by simp, fun x hx y hy e => ?_⟩
    rw [List.map_cons, List.map_nil, List.mem_singleton] at hy
    exact Callout.hasAppliance_eq_false.1 hnew ((e.trans hy : x = ap) ▸ hx)
  within := fun hp ⟨_, h⟩ => by
    refine ⟨by simp only [Callout.append, List.length_append, List.length_cons, List.length_nil]; omega, fun e he => ?_⟩
    rcases List.mem_append.1 he with he | he
    · exact h e he
    · obtain rfl := List.mem_singleton.1 he
      exact hneed hp
  right := fun _ => id

theorem Part.appendAppliances_moves (i : SlotId) (l : List (Appliance × RoleCounts)) (p : Part)
    (hl : g.plans → ∀ x ∈ l, x.2.sum ≠ 0) : Moves g p (p.appendAppliances i l) := by
  induction l generalizing p with
  | nil => exact .refl
  | cons x rest ih =>
    obtain ⟨ap, need⟩ := x
    have ih (q : Part) := ih q fun hp y hy => hl hp y (List.mem_cons_of_mem _ hy)
    unfold Part.appendAppliances
    split
    · exact .refl
    · next c hc =>
      split
      · exact ih p
      · next hnew =>
        split
        · next hroom =>
          refine Moves.trans (.modify fun d hd => ?_) (ih _)
          rw [hc] at hd
          cases hd
          exact ⟨c.append_moves g (by simpa using hnew) hroom fun hp => hl hp (ap, need) (by simp), rfl⟩
        · refine (p.setCommittedList_moves g Prod.fst none ((ap, need) :: rest)).trans
            (.modify fun d _ => d.moves_withFlags g ?_)
          exact fun _ => ⟨id, fun _ => rfl, id, id, id, id⟩

theorem Part.stateAt_setCommittedList {α : Type} (h : α → Appliance) (n : Option CalloutNo) (i : SlotId) (l : List α)
    (p : Part) : (l.foldl (fun p y => p.setCommitted (h y) n) p).stateAt i = p.stateAt i := by
  induction l generalizing p with
  | nil => rfl
  | cons y rest ih => exact ih _

theorem Part.stateAt_appendAppliances (i : SlotId) (l : List (Appliance × RoleCounts)) (p : Part) :
    (p.appendAppliances i l).stateAt i = p.stateAt i := by
  induction l generalizing p with
  | nil => rfl
  | cons x rest ih =>
    unfold Part.appendAppliances
    split
    · rfl
    · split
      · exact ih p
      · split
        · refine (ih _).trans (p.stateAt_modify ?_)
          exact fun _ => rfl
        · refine (Part.stateAt_modify _ ?_).trans (p.stateAt_setCommittedList Prod.fst none i _)
          exact fun _ => rfl

theorem Part.addPlanAppliances_moves (i : SlotId) (c : Callout) {pl : Plan} (p : Part) (hpl : g.plans → pl.Sound) :
    Moves g p (p.addPlanAppliances i c pl) := by
  have htakes := p.attempt_takes (fun ap => c.hasAppliance ap) pl
  refine ((p.setCommittedList_moves g Prod.fst (some c.number) _).trans (Part.appendAppliances_moves g i _ _ ?_)).trans
    (.modify fun d _ => d.moves_withFlags g ?_)
  · intro hp x hx
    obtain ⟨-, -, e, he, hxe⟩ := htakes.each x hx
    exact hxe ▸ ((hpl hp).2.2.2.1 e he).2.1
  · exact fun f => ⟨fun h => by simp [h], fun h => by simp [h], id, id, id, id⟩

theorem Part.stateAt_addPlanAppliances (i : SlotId) (c : Callout) (pl : Plan) (p : Part) :
    (p.addPlanAppliances i c pl).stateAt i = p.stateAt i := by
  refine (Part.stateAt_modify _ ?_).trans
    ((Part.stateAt_appendAppliances i _ _).trans (p.stateAt_setCommittedList Prod.fst _ i _))
  exact fun _ => rfl

/-! ## ALERT merged, and ADD (R10 to R12, R17) -/

theorem Part.reassessIfGrown_moves (i : SlotId) (c : Callout) (p : Part) : Moves g p (p.reassessIfGrown i c) := by
  unfold Part.reassessIfGrown
  split
  · exact .refl
  · exact .ite .refl (p.reassess_moves g i)

/-- What an ADD or a merged ALERT joins to the callout of an OPEN slot, before its timer restarts. -/
def Part.joinPlan (i : SlotId) (c : Callout) (pl : Option Plan) (given : GroupSet) (p : Part) : Part :=
  match pl with
  | some pl => ((p.addPlanAppliances i c pl).modify i (Callout.addPrimary (pl.primary ||| given))).modify i
      (Callout.addSecondary pl.secondary)
  | none => p.modify i (Callout.addPrimary given)

theorem Part.addInOpen_eq (i : SlotId) (c : Callout) (pl : Option Plan) (given : GroupSet) (p : Part) :
    p.addInOpen i c pl given = ((p.joinPlan i c pl given).restartAccumulation i).reassessIfGrown i c := by
  cases pl <;> rfl

theorem Part.addPrimary_moves (i : SlotId) (gs : GroupSet) (p : Part) :
    Moves g p (p.modify i (Callout.addPrimary gs)) :=
  .modify fun _ _ => ⟨.of_same, rfl⟩

theorem Part.joinPlan_moves (i : SlotId) (c : Callout) (pl : Option Plan) (given : GroupSet) (p : Part)
    (hpl : g.plans → ∀ x ∈ pl, x.Sound) : Moves g p (p.joinPlan i c pl given) := by
  cases pl with
  | none => exact p.addPrimary_moves g i given
  | some pl =>
    refine ((p.addPlanAppliances_moves g i c fun hp => hpl hp pl rfl).trans
      (Part.addPrimary_moves g i _ _)).trans (.modify ?_)
    exact fun _ _ => ⟨.of_same, rfl⟩

theorem Part.addInOpen_moves (i : SlotId) (c : Callout) (pl : Option Plan) (given : GroupSet) (p : Part)
    (hpl : g.plans → ∀ x ∈ pl, x.Sound) : Moves g p (p.addInOpen i c pl given) := by
  rw [Part.addInOpen_eq]
  refine ((p.joinPlan_moves g i c pl given hpl).trans (.modify ?_)).trans (Part.reassessIfGrown_moves g i c _)
  exact fun _ _ => ⟨.of_same, rfl⟩

theorem Part.stateAt_joinPlan (i : SlotId) (c : Callout) (pl : Option Plan) (given : GroupSet) (p : Part) :
    (p.joinPlan i c pl given).stateAt i = p.stateAt i := by
  cases pl with
  | none => exact p.stateAt_modify fun _ => rfl
  | some pl =>
    refine (Part.stateAt_modify _ ?_).trans
      ((Part.stateAt_modify _ ?_).trans (p.stateAt_addPlanAppliances i c pl))
    · exact fun _ => rfl
    · exact fun _ => rfl

theorem Part.stateAt_addInOpen {p : Part} {i : SlotId} (h : p.stateAt i = some .inOpen) (c : Callout) (pl : Option Plan)
    (given : GroupSet) : (p.addInOpen i c pl given).stateAt i = some .inOpen := by
  have hq : ((p.joinPlan i c pl given).restartAccumulation i).stateAt i = some .inOpen := by
    refine (Part.stateAt_modify _ ?_).trans ((p.stateAt_joinPlan i c pl given).trans h)
    exact fun _ => rfl
  rw [Part.addInOpen_eq]
  generalize (p.joinPlan i c pl given).restartAccumulation i = q at hq
  unfold Part.reassessIfGrown
  split
  · exact hq
  · split
    · exact hq
    · exact Part.stateAt_reassess_of_open hq

/-- The groups a supplement keeps join the primary groups. -/
def Callout.supplemented (kept asked secondary : GroupSet) (c : Callout) : Callout :=
  { (c.addPrimary kept).addSecondary secondary with
    flags := { c.flags with groupsOmitted := c.flags.groupsOmitted || kept != asked } }

/-- The appliances of the plan an ADD names, if it names one. -/
def Part.addPlan (i : SlotId) (c : Callout) (pl : Option Plan) (p : Part) : Part :=
  match pl with
  | some pl => p.addPlanAppliances i c pl
  | none => p

theorem Part.supplement_eq (i : SlotId) (c : Callout) (pl : Option Plan) (given : GroupSet) (p : Part) :
    p.supplement i c pl given =
      let q := p.addPlan i c pl
      let asked := ((pl.map Plan.primary).getD 0#16 ||| given) &&& ~~~c.primary
      let kept := q.judgedYes asked
      let r := q.modify i (Callout.supplemented kept asked ((pl.map Plan.secondary).getD 0#16))
      (if kept = 0#16 then r else r.demandGroups .supplement c.owner kept).reassessIfGrown i c :=
  rfl

theorem Part.supplement_moves (i : SlotId) (c : Callout) (pl : Option Plan) (given : GroupSet) (p : Part)
    (hpl : g.plans → ∀ x ∈ pl, x.Sound) : Moves g p (p.supplement i c pl given) := by
  have hadd : Moves g p (p.addPlan i c pl) := by
    cases pl with
    | none => exact .refl
    | some pl => exact p.addPlanAppliances_moves g i c fun hp => hpl hp pl rfl
  rw [Part.supplement_eq]
  generalize p.addPlan i c pl = q at hadd
  generalize ((pl.map Plan.primary).getD 0#16 ||| given) &&& ~~~c.primary = asked
  have hjoin : Moves g q (q.modify i (Callout.supplemented (q.judgedYes asked) asked
      ((pl.map Plan.secondary).getD 0#16))) :=
    .modify fun d _ => ⟨.of_same (hg := ⟨id, id, fun h => by simp [Callout.supplemented, h], id, id, id⟩), rfl⟩
  exact ((hadd.trans hjoin).trans (.ite .refl (.demand _ _))).trans
    (Part.reassessIfGrown_moves g i c _)

/-! ## HOLD and RESUME (R21, R23) -/

/-- A callout that is HELD with the state it left, its running timer frozen. -/
def Callout.holding (c : Callout) : Callout :=
  { c with state := .held, prior := some c.state
           accumulation := if c.state = .inOpen then c.accumulation.freeze else c.accumulation
           responseWindow := if c.state = .counting then c.responseWindow.freeze else c.responseWindow }

theorem Callout.holding_right {c : Callout}
    (hc : c.state = .inOpen ∨ c.state = .alerting ∨ c.state = .counting ∨ c.state = .crewed) (h : c.StateRight) :
    c.holding.StateRight := by
  obtain ⟨-, -, -, h4, h5⟩ := h
  refine ⟨iff_of_true rfl nofun, fun st hst => ?_, fun _ => rfl, h4, iff_of_false nofun fun e => ?_⟩
  · obtain rfl : c.state = st := Option.some.inj hst
    exact hc
  · have := h5.2 e
    rw [this] at hc
    simp at hc

theorem Part.stateAt_withdrawFor (i j : SlotId) (ks : BatchKind → Bool) (p : Part) :
    (p.withdrawFor i ks).2.stateAt j = p.stateAt j := by
  unfold Part.withdrawFor
  split
  · rfl
  · next c _ =>
    have hw : (p.withdraw c.owner ks).2.stateAt j = p.stateAt j := (p.withdraw_onlyPages c.owner ks).stateAt j
    simp only
    split
    · refine Eq.trans ?_ hw
      by_cases hij : i = j
      · subst hij
        exact Part.stateAt_modify _ fun _ => rfl
      · simp only [Part.stateAt, Part.degrade, Part.callout?_raise, Part.callout?_modify_ne _ hij]
    · exact hw

theorem Part.hold_eq (i : SlotId) (c : Callout) (p : Part) : p.hold i c =
    let q := ((p.modify i Callout.holding).raise .callout).withdrawFor i BatchKind.callOut
    let made := (q.1.map Returned.entry).filter fun e => !e.owesNothing
    let kept := made.take Config.heldBackPlaces
    let alertGone := c.alertStatus = .outstanding && q.1.any (fun b => b.entry.kind == .alert)
      && !kept.any fun e => e.kind == .alert
    let r := q.2.modify i fun c =>
      { c with heldBack := kept, alertStatus := if alertGone then .ended else c.alertStatus }
    if Config.heldBackPlaces < made.length then r.degrade i else r := by
  unfold Part.hold Part.enter
  rw [Part.modify_modify]
  rfl

theorem Part.hold_moves {i : SlotId} {c : Callout} {p : Part} (hc : p.callout? i = some c)
    (hs : c.state = .inOpen ∨ c.state = .alerting ∨ c.state = .counting ∨ c.state = .crewed) :
    Moves g p (p.hold i c) := by
  have hhold : Moves g p ((p.modify i Callout.holding).raise .callout) := .enter fun d hd => by
    rw [hc] at hd
    cases hd
    exact .of_state fun _ h => Callout.holding_right hs h
  have hheld : ((p.modify i Callout.holding).raise .callout).stateAt i = some .held := by
    simp [Part.stateAt, hc, Callout.holding]
  rw [Part.hold_eq]
  generalize (p.modify i Callout.holding).raise .callout = q at hhold hheld
  have hwithdraw := hhold.trans (q.withdrawFor_moves g i BatchKind.callOut)
  have hheld := (q.stateAt_withdrawFor i i BatchKind.callOut).trans hheld
  generalize q.withdrawFor i BatchKind.callOut = b at hwithdraw hheld
  obtain ⟨back, r⟩ := b
  have hkeep : Moves g r (r.modify i fun d => { d with
      heldBack := ((back.map Returned.entry).filter fun e => !e.owesNothing).take Config.heldBackPlaces
      alertStatus := if (c.alertStatus = .outstanding && back.any (fun b => b.entry.kind == .alert)
        && !(((back.map Returned.entry).filter fun e => !e.owesNothing).take Config.heldBackPlaces).any
          fun e => e.kind == .alert) then .ended else d.alertStatus }) := by
    refine .modify fun d hd => ⟨.of_state fun _ h => ?_, rfl⟩
    have hst : d.state = .held := Option.some.inj ((Part.stateAt_of_callout hd).symm.trans hheld)
    obtain ⟨h1, h2, -, -, h5⟩ := h
    exact ⟨h1, h2, fun _ => hst, List.length_take_le _ _, h5⟩
  exact .ite ((hwithdraw.trans hkeep).trans (Part.degrade_moves g i _)) (hwithdraw.trans hkeep)

/-- A HELD callout back in the state `st`. -/
def Callout.resuming (st : CalloutState) (c : Callout) : Callout :=
  { c with state := st, prior := none, heldBack := [], accumulation := c.accumulation.thaw
           responseWindow := c.responseWindow.thaw
           alertStatus := if c.heldBack.any (fun e => e.kind == .alert) then .outstanding else c.alertStatus }

theorem Part.resume_eq (i : SlotId) (c : Callout) (prior : CalloutState) (p : Part) : p.resume i c prior =
    (c.heldBack.foldl (fun p e => p.demand (e.demand c.owner))
      ((p.modify i (Callout.resuming prior)).raise .callout)).reconcile i prior := by
  simp only [Part.resume, Part.enter, Part.modify_raise, Part.modify_modify]
  rfl

theorem Part.demandList_onlyPages {α : Type} (f : α → Demand) (l : List α) (p : Part) :
    OnlyPages p (l.foldl (fun p e => p.demand (f e)) p) := by
  induction l generalizing p with
  | nil => exact .refl p
  | cons e rest ih => exact (p.demand_onlyPages _).trans (ih _)

theorem Part.demandList_keepsBounds {α : Type} (f : α → Demand) (l : List α) (p : Part) :
    KeepsBounds p (l.foldl (fun p e => p.demand (f e)) p) := by
  induction l generalizing p with
  | nil => exact .refl p
  | cons e rest ih => exact (p.demand_keepsBounds _).trans (ih _)

theorem Part.reconcile_moves {i : SlotId} {p : Part} (prior : CalloutState) (h : prior.plain = true → p.PlainAt i) :
    Moves g p (p.reconcile i prior) := by
  unfold Part.reconcile
  split
  · exact .refl
  · split
    · exact .ite ((p.enterCounting_moves g (h rfl)).trans (Part.takeOutcome_moves g i _)) (p.takeOutcome_moves g i)
    · exact p.takeOutcome_moves g i
    · exact .ite (p.enterCrewed_moves g (h rfl)) (p.enterCounting_moves g (h rfl))
    all_goals exact .refl

theorem Callout.resuming_right {c : Callout} {st : CalloutState} (hp : c.prior = some st) (h : c.StateRight) :
    (c.resuming st).StateRight := by
  obtain ⟨h1, h2, -, -, h5⟩ := h
  have hheld : c.state = .held := h1.2 (by rw [hp]; nofun)
  have hsd : c.standDownGroups = none := by
    by_contra e
    have := h5.2 e
    rw [hheld] at this
    cases this
  have hst : st ≠ .held ∧ st ≠ .closing := by
    have := h2 st hp
    constructor <;> rintro rfl <;> simp at this
  exact ⟨iff_of_false hst.1 fun e => e rfl, nofun, fun e => absurd rfl e, Nat.zero_le _,
    iff_of_false hst.2 fun e => e hsd⟩

theorem Part.resume_moves {i : SlotId} {c : Callout} {prior : CalloutState} {p : Part} (hc : p.callout? i = some c)
    (hp : c.prior = some prior) : Moves g p (p.resume i c prior) := by
  have henter : Moves g p ((p.modify i (Callout.resuming prior)).raise .callout) := .enter fun d hd => by
    rw [hc] at hd
    cases hd
    exact .of_state fun _ => Callout.resuming_right hp
  have hst : ((p.modify i (Callout.resuming prior)).raise .callout).stateAt i = some prior := by
    simp [Part.stateAt, hc, Callout.resuming]
  rw [Part.resume_eq]
  have hpages := Part.demandList_onlyPages (fun e : HeldEntry => e.demand c.owner) c.heldBack
    ((p.modify i (Callout.resuming prior)).raise .callout)
  refine (henter.trans (.pages hpages (Part.demandList_keepsBounds _ _ _))).trans (Part.reconcile_moves g prior fun h => ?_)
  exact Part.plainAt_of_stateAt ((hpages.stateAt i).trans hst) h

/-! ## DEPART (R25, R26) -/

theorem Callout.freeze_moves (ap : Appliance) (i : SlotId) (c : Callout) :
    c.Moves g i (c.freeze ap) ∧ (c.freeze ap).state = c.state := by
  refine ⟨.of_same (ha := ?_), rfl⟩
  simp only [Callout.freeze, List.map_map]
  refine List.map_congr_left fun e _ => ?_
  simp only [Function.comp_apply]
  split <;> rfl

theorem Part.alertStatusEnded_moves (i : SlotId) (p : Part) :
    Moves g p (p.modify i fun c => { c with alertStatus := .ended }) :=
  .modify fun _ _ => ⟨.of_same, rfl⟩

theorem Part.enterMobile_moves {i : SlotId} {p : Part} (h : p.PlainAt i) : Moves g p (p.enterMobile i) := by
  have h0 := ((p.enter_moves g h (st := .mobile) rfl).trans (Part.window_moves g i (fun _ => .stopped) _)).trans
    ((Part.withdrawFor_moves g i BatchKind.callOut _).trans (Part.alertStatusEnded_moves g i _))
  unfold Part.enterMobile
  simp only
  split
  · exact h0
  · exact .ite h0 (((h0.trans (Part.releaseMembers_moves g i _ _)).trans
      (.demandReleases _ _ _)).trans (Part.recompute_moves g i _))

theorem Part.depart_moves {i : SlotId} {ap : Appliance} {p : Part} (h : p.PlainAt i) : Moves g p (p.depart i ap) := by
  have h0 : Moves g p ((p.modify i (Callout.freeze ap)).recompute i) := by
    refine Moves.trans (.modify ?_) (Part.recompute_moves g i _)
    exact fun d _ => d.freeze_moves g ap i
  unfold Part.depart
  simp only
  split
  · exact h0
  · next c hc =>
    refine .ite (h0.trans (Part.enterMobile_moves g (Part.plainAt_of hc ?_))) (h0.trans (Part.takeOutcome_moves g i _))
    have hs : ((p.modify i (Callout.freeze ap)).recompute i).stateAt i = p.stateAt i := by
      refine (Part.stateAt_recompute i _).trans (p.stateAt_modify ?_)
      exact fun _ => rfl
    rw [Part.stateAt_of_callout hc] at hs
    obtain ⟨d, hd, e⟩ := Part.stateAt_some hs.symm
    exact e ▸ h d ((p.callout?_eq i d).2 hd)

/-! ## STAND-DOWN (R29 to R32) -/

theorem Part.standDownSilent_moves (i : SlotId) (who : List MemberId) (endCode : Nat) (p : Part) :
    Moves g p (p.standDownSilent i who endCode) :=
  ((p.withdrawFor_moves g i everyKind).trans (Part.releaseMembers_moves g i who _)).trans
    (Part.becomeFree_moves g i endCode _)

end Sys2Proof.Machine


/-!
SUPPORT. The rules of STAND-DOWN, of responses, of availability, of the ladder, of passes and of the restarts as runs of
moves.
-/

namespace Sys2Proof.Machine

open Sys2Proof

variable (g : Grants)

/-! ## STAND-DOWN of a callout that has paged (R30) -/

/-- What a STAND-DOWN clears: the held-back list, the prior state and both timers. -/
def Callout.cleared (c : Callout) : Callout :=
  { c with heldBack := [], prior := none, accumulation := .stopped, responseWindow := .stopped }

/-- A callout in CLOSING with its stand-down groups. -/
def Callout.closing (groups : GroupSet) (c : Callout) : Callout :=
  { c with standDownGroups := some groups, state := .closing }

/-- A callout that a STAND-DOWN has cleared, released and disbanded. -/
def Part.disband (i : SlotId) (c : Callout) (p : Part) : Part :=
  ((((p.withdrawFor i everyKind).2.modify i Callout.cleared).releaseMembers i c.activeMembers).disengageAll
    c.number).uncommitAll c.number

theorem Part.standDownPaged_eq (i : SlotId) (c : Callout) (p : Part) : p.standDownPaged i c =
    let groups := c.pagedPrimary ||| (p.disband i c).groupsOnAir c.owner
    if groups = 0#16 then (p.disband i c).becomeFree i 4
    else (((p.disband i c).modify i fun c => { c with standDownGroups := some groups }).demandGroups
      .standDown c.owner groups).enter i .closing :=
  rfl

variable {g}

theorem Part.disband_moves {i : SlotId} (hl : g.loose = some i) (c : Callout) (p : Part) : Moves g p (p.disband i c) := by
  refine ((((p.withdrawFor_moves g i everyKind).trans (.modify ?_)).trans (Part.releaseMembers_moves g i _ _)).trans
    (Part.disengageAll_moves g _ _)).trans (Part.uncommitAll_moves g _ _)
  exact fun d _ => ⟨.of_state (fun h => absurd hl h), rfl⟩

theorem Part.standDownPaged_moves {i : SlotId} (hl : g.loose = some i) (c : Callout) (p : Part) :
    Moves g p (p.standDownPaged i c) := by
  have h := p.disband_moves hl c
  rw [Part.standDownPaged_eq]
  refine .ite (h.trans (Part.becomeFree_moves g i 4 _)) ?_
  refine (h.trans (.modify ?_)).trans ((Moves.demand _ _).trans (.enter ?_))
  · exact fun d _ => ⟨.of_state (fun h => absurd hl h), rfl⟩
  · exact fun d _ => .of_state fun h => absurd hl h

variable (g)

theorem Part.callout?_becomeFree (i : SlotId) (endCode : Nat) (p : Part) : (p.becomeFree i endCode).callout? i = none := by
  unfold Part.becomeFree
  simp only
  split
  · next h => exact h
  · rw [Part.callout?_raise]
    simp [Part.callout?, Part.slot, Part.onTable, Slot.callout?]

theorem Part.callout?_releaseMembers (i : SlotId) (ms : List MemberId) (p : Part) : (p.releaseMembers i ms).callout? i
    = (p.callout? i).map fun c => c.mapRecords ms.contains (Response.release c.elapsed) := by
  unfold Part.releaseMembers
  cases hc : p.callout? i with
  | none => exact hc
  | some c =>
    simp only [Part.callout?_raiseIf, Part.callout?_foldl_disengage, Part.callout?_modify_self, hc, Option.map_some]

theorem Part.callout?_disband {i : SlotId} {c d : Callout} {p : Part} (h : (p.disband i c).callout? i = some d) :
    d.prior = none ∧ d.heldBack = [] := by
  have h : (((p.withdrawFor i everyKind).2.modify i Callout.cleared).releaseMembers i c.activeMembers).callout? i
      = some d := h
  rw [Part.callout?_releaseMembers, Part.callout?_modify_self, Option.map_map, Option.map_eq_some_iff] at h
  obtain ⟨x, -, rfl⟩ := h
  exact ⟨rfl, rfl⟩

theorem Part.standDownPaged_right {i : SlotId} {c d : Callout} {p : Part}
    (h : (p.standDownPaged i c).callout? i = some d) : d.StateRight := by
  rw [Part.standDownPaged_eq] at h
  simp only at h
  split at h
  · rw [Part.callout?_becomeFree] at h
    cases h
  · rw [Part.enter, Part.callout?_raise, Part.callout?_modify_self,
      (Part.demandGroups_onlyPages _ _ _ _).callout?, Part.callout?_modify_self, Option.map_map,
      Option.map_eq_some_iff] at h
    obtain ⟨x, hx, rfl⟩ := h
    obtain ⟨hp, hh⟩ := Part.callout?_disband hx
    simp [Callout.StateRight, hp, hh]

/-! ## Response lists (R73, R92) -/

theorem evictOne_sublist (l : List Response) : (evictOne l).Sublist l := by
  induction l with
  | nil => exact .refl _
  | cons r rest ih =>
    unfold evictOne
    split
    · exact ih.cons_cons r
    · exact (List.Sublist.refl rest).cons r

theorem evictOne_length {l : List Response} (h : l.any (fun r => !r.active) = true) : (evictOne l).length + 1 = l.length := by
  induction l with
  | nil => cases h
  | cons r rest ih =>
    unfold evictOne
    split
    · next ha =>
      rw [List.length_cons, ih (by simpa [ha] using h), List.length_cons]
    · rfl

theorem Callout.record?_eq_none {m : MemberId} {c : Callout} :
    c.record? m = none ↔ m ∉ c.responses.map Response.member := by
  simp [Callout.record?]

theorem Callout.addRecord_moves {i : SlotId} {c : Callout} {r : Response} (hnew : c.record? r.member = none)
    (hroom : c.hasRoom = true) : c.Moves g i (c.addRecord r) where
  grows := ⟨rfl, Nat.le_refl _, id, .refl _, fun h => ⟨Nat.le_refl _, h⟩⟩
  sound := fun ⟨h1, h2, h3, h4⟩ => by
    have hsub : (if c.responses.length < Config.responsePlaces then c.responses else evictOne c.responses).Sublist
        c.responses := by
      split
      · exact .refl _
      · exact evictOne_sublist _
    refine ⟨?_, ?_, h3, h4⟩
    · rw [Callout.addRecord, List.map_append, List.nodup_append]
      refine ⟨h1.sublist (hsub.map _), by simp, fun x hx y hy e => Callout.record?_eq_none.1 hnew ?_⟩
      rw [List.map_cons, List.map_nil, List.mem_singleton] at hy
      exact (e.trans hy) ▸ (hsub.map _).subset hx
    · simp only [Callout.addRecord, List.length_append, List.length_cons, List.length_nil]
      split
      · omega
      · next hfull =>
        have hany : (c.responses.any fun r => !r.active) = true := by
          simpa [Callout.hasRoom, hfull] using hroom
        have := evictOne_length hany
        omega
  within := fun _ => id
  right := fun _ => id

theorem Callout.replaceRecord_moves {i : SlotId} (r : Response) (c : Callout) : c.Moves g i (c.replaceRecord r) := by
  refine .of_same (hr := ?_)
  simp only [Callout.replaceRecord, List.map_map]
  refine List.map_congr_left fun x _ => ?_
  simp only [Function.comp_apply]
  split
  · next h => exact h.symm
  · rfl

/-- One more fresh sequence number given. -/
def Callout.numbered (b : Bool) (c : Callout) : Callout :=
  if b then { c with sequence := c.nextSequence } else c

theorem Callout.Moves.trans {i : SlotId} {c d e : Callout} (h : c.Moves g i d) (k : d.Moves g i e) : c.Moves g i e where
  grows := h.grows.trans k.grows
  sound := k.sound ∘ h.sound
  within := fun hp => k.within hp ∘ h.within hp
  right := fun hl => k.right hl ∘ h.right hl

theorem Callout.numbered_moves {i : SlotId} (b : Bool) (c : Callout) : c.Moves g i (c.numbered b) := by
  unfold Callout.numbered
  split
  · exact .of_same
  · exact .of_same

theorem Callout.numbered_frame (b : Bool) (c : Callout) :
    c.numbered b = { c with sequence := (c.numbered b).sequence } := by
  unfold Callout.numbered
  split <;> rfl

theorem Callout.putResponse_eq (m : MemberId) (f : ResponseForm) (source : Source) (c : Callout) :
    c.putResponse m f source = match c.record? m with
      | some r => (c.numbered (needsSequence f (some r))).replaceRecord (c.responseRecord m f source (some r))
      | none => (c.numbered (needsSequence f none)).addRecord (c.responseRecord m f source none) := by
  unfold Callout.putResponse
  cases c.record? m <;> rfl

theorem Callout.putResponse_moves {i : SlotId} {m : MemberId} {f : ResponseForm} {source : Source} {c : Callout}
    (hroom : c.record? m = none → c.hasRoom = true) :
    c.Moves g i (c.putResponse m f source) ∧ (c.putResponse m f source).state = c.state := by
  rw [Callout.putResponse_eq]
  split
  · next r _ =>
    refine ⟨(c.numbered_moves g _).trans g (Callout.replaceRecord_moves g _ _), ?_⟩
    rw [c.numbered_frame]
    rfl
  · next h =>
    refine ⟨(c.numbered_moves g _).trans g (Callout.addRecord_moves g ?_ ?_), ?_⟩
    · rw [c.numbered_frame]
      exact h
    · rw [c.numbered_frame]
      exact hroom h
    · rw [c.numbered_frame]
      rfl

/-! ## Responses (R83 to R92) -/

theorem Part.callout?_modifyMember (m : MemberId) (f : Member → Member) (p : Part) (i : SlotId) :
    (p.modifyMember m f).callout? i = p.callout? i := by
  unfold Part.modifyMember
  split <;> rfl

theorem Part.withdrawMember_moves (i : SlotId) (c : Callout) (m : MemberId) (source : Source) (p : Part) :
    Moves g p (p.withdrawMember i c m source) := by
  refine Moves.trans (.modify ?_) (Part.disengage_moves g _ _ _)
  exact fun d _ => d.mapRecords_moves g _ (f := Response.withdraw source c.elapsed) fun _ => rfl

theorem Part.notRequired_moves (c : Callout) (m : MemberId) (p : Part) : Moves g p (p.notRequired c m) :=
  .demand _ _

theorem Part.loseResponse_moves (i : SlotId) (p : Part) : Moves g p (p.loseResponse i) := by
  refine Moves.trans (.modify fun d _ => d.moves_withFlags g ?_) (.raise _ _)
  exact fun _ => ⟨id, id, id, id, id, fun _ => rfl⟩

theorem Part.attendMobile_moves {i : SlotId} {c : Callout} (m : MemberId) (source : Source) {p : Part}
    (hc : p.callout? i = some c) : Moves g p (p.attendMobile i c m source).1 := by
  have hc' : (p.setOnDuty m).callout? i = some c := by
    rw [Part.setOnDuty, Part.callout?_modifyMember]
    exact hc
  have hduty := p.setOnDuty_moves g m
  unfold Part.attendMobile
  split
  · next hr =>
    split
    · next hroom =>
      refine ((hduty.trans (.modify fun d hd => ?_)).trans (.raise _ _)).trans (Part.notRequired_moves g c m _)
      rw [hc'] at hd
      cases hd
      exact ⟨Callout.addRecord_moves g hr hroom, rfl⟩
    · exact (p.loseResponse_moves g i).trans (Part.notRequired_moves g c m _)
  · next r _ =>
    simp only
    split
    · exact hduty.trans (Part.notRequired_moves g c m _)
    · have h : Moves g p ((((p.setOnDuty m).modify i (Callout.replaceRecord
          (c.releasedRecord m source (some r)))).raise .response)) := by
        refine (hduty.trans (.modify ?_)).trans (.raise _ _)
        exact fun d _ => ⟨d.replaceRecord_moves g _, rfl⟩
      exact (Moves.ite ((h.trans (Part.disengage_moves g _ _ _)).trans (Part.reassess_moves g i _)) h).trans
        (Part.notRequired_moves g c m _)

/-- The callout a member leaves by answering another (R88). -/
def Part.leave (left : Option (SlotId × Callout)) (m : MemberId) (source : Source) (p : Part) : Part :=
  match left with
  | some (j, x) => p.withdrawMember j x m source
  | none => p

/-- The callout left is reassessed (R57). -/
def Part.reassessLeft (left : Option (SlotId × Callout)) (p : Part) : Part :=
  match left with
  | some (j, _) => p.reassess j
  | none => p

/-- The callout a response takes its member from. -/
def Part.leftBy (i : SlotId) (m : MemberId) (f : ResponseForm) (p : Part) : Option (SlotId × Callout) :=
  if f.engages then p.engagedElsewhere i m else none

theorem Part.takeResponse_eq (i : SlotId) (c : Callout) (m : MemberId) (f : ResponseForm) (source : Source) (p : Part) :
    p.takeResponse i c m f source =
      let left := p.leftBy i m f
      let q := ((if f.engages then p.setOnDuty m else p).leave left m source).modify i (Callout.putResponse m f source)
      (((if f.engages then q.engage m c.number else q.disengage m c.number).reassessLeft left).reassess i).raise
        .response := by
  unfold Part.takeResponse Part.leftBy Part.leave Part.reassessLeft
  cases (if f.engages = true then p.engagedElsewhere i m else none) <;> rfl

theorem Part.engagedElsewhere_ne {p : Part} {i j : SlotId} {m : MemberId} {x : Callout}
    (h : p.engagedElsewhere i m = some (j, x)) : j ≠ i ∧ p.callout? j = some x := by
  unfold Part.engagedElsewhere at h
  obtain ⟨n, -, h⟩ := Option.bind_eq_some_iff.1 h
  obtain ⟨k, -, h⟩ := Option.bind_eq_some_iff.1 h
  split at h
  · cases h
  · next hk =>
    obtain ⟨y, hy, e⟩ := Option.map_eq_some_iff.1 h
    cases e
    exact ⟨hk, hy⟩

theorem Part.leftBy_ne {p : Part} {i j : SlotId} {m : MemberId} {f : ResponseForm} {x : Callout}
    (h : p.leftBy i m f = some (j, x)) : j ≠ i ∧ p.callout? j = some x := by
  unfold Part.leftBy at h
  split at h
  · exact Part.engagedElsewhere_ne h
  · cases h

theorem Part.leave_moves (left : Option (SlotId × Callout)) (m : MemberId) (source : Source) (p : Part) :
    Moves g p (p.leave left m source) := by
  cases left with
  | none => exact .refl
  | some jx => exact p.withdrawMember_moves g _ _ m source

theorem Part.reassessLeft_moves (left : Option (SlotId × Callout)) (p : Part) : Moves g p (p.reassessLeft left) := by
  cases left with
  | none => exact .refl
  | some jx => exact p.reassess_moves g _

theorem Part.callout?_leave {left : Option (SlotId × Callout)} {i : SlotId} (h : ∀ j x, left = some (j, x) → j ≠ i)
    (m : MemberId) (source : Source) (p : Part) : (p.leave left m source).callout? i = p.callout? i := by
  cases left with
  | none => rfl
  | some jx =>
    obtain ⟨j, x⟩ := jx
    rw [Part.leave, Part.withdrawMember, Part.disengage, Part.callout?_modifyMember,
      Part.callout?_modify_ne _ (h j x rfl)]

theorem Part.takeResponse_moves {i : SlotId} {c : Callout} {m : MemberId} (f : ResponseForm) (source : Source) {p : Part}
    (hc : p.callout? i = some c) (hroom : c.record? m = none → c.hasRoom = true) :
    Moves g p (p.takeResponse i c m f source) := by
  have hleft : ∀ j x, p.leftBy i m f = some (j, x) → j ≠ i := fun j x h => (Part.leftBy_ne h).1
  have hduty : Moves g p (if f.engages then p.setOnDuty m else p) := .ite (p.setOnDuty_moves g m) .refl
  have hc' : (if f.engages then p.setOnDuty m else p).callout? i = some c := by
    split
    · rw [Part.setOnDuty, Part.callout?_modifyMember]
      exact hc
    · exact hc
  rw [Part.takeResponse_eq]
  refine (((((hduty.trans (Part.leave_moves g _ m source _)).trans (.modify fun d hd => ?_)).trans
    (.ite (Part.engage_moves g m _ _) (Part.disengage_moves g m _ _))).trans (Part.reassessLeft_moves g _ _)).trans
    (Part.reassess_moves g i _)).trans (.raise _ _)
  rw [Part.callout?_leave hleft, hc'] at hd
  cases hd
  exact Callout.putResponse_moves g hroom

theorem Part.applyResponse_moves {i : SlotId} {c : Callout} (m : MemberId) (f : ResponseForm) (source : Source) {p : Part}
    (hc : p.callout? i = some c) : Moves g p (p.applyResponse i c m f source).1 := by
  unfold Part.applyResponse
  simp only
  split
  · exact p.notRequired_moves g c m
  · split
    · exact .refl
    · split
      · exact p.attendMobile_moves g m source hc
      · split
        · exact .refl
        · split
          · exact .refl
          · split
            · exact p.loseResponse_moves g i
            · next h => exact p.takeResponse_moves g f source hc fun hr => by simpa [hr] using h

/-! ## Availability (R54, R55, R60) -/

theorem Part.setAvailability_moves {m : MemberId} {v : Availability} {p : Part}
    (h : g.marks ∨ v ≠ .withheld ∧ ∀ x, p.member? m = some x → x.availability ≠ .withheld) :
    Moves g p (p.setAvailability m v) := by
  refine p.modifyMember_moves g m _ (fun _ _ => ⟨rfl, rfl, rfl, rfl⟩) fun hg x hx => ?_
  obtain ⟨hv, hold⟩ := h.resolve_left hg
  exact iff_of_false hv (hold x hx)

theorem Part.member?_modifyMember (m k : MemberId) (f : Member → Member) (p : Part) :
    (p.modifyMember m f).member? k = if k = m then (p.member? m).map f else p.member? k := by
  unfold Part.modifyMember
  cases hx : p.member? m with
  | none =>
    simp only [Option.map_none]
    split
    · next e => exact e ▸ hx
    · rfl
  | some x => simp only [Part.member?, Part.setMember, Part.onRoster, Table.get_set, Option.map_some, @eq_comm _ m k]

theorem Part.roster_modify (i : SlotId) (f : Callout → Callout) (p : Part) : (p.modify i f).roster = p.roster := by
  unfold Part.modify
  split <;> rfl

theorem Part.availability_withdrawMember (i : SlotId) (c : Callout) (m k : MemberId) (source : Source) (p : Part) :
    ((p.withdrawMember i c m source).member? k).map Member.availability = (p.member? k).map Member.availability := by
  rw [Part.withdrawMember, Part.disengage, Part.member?_modifyMember]
  simp only [Part.member?, Part.roster_modify]
  split
  · next e =>
    rw [e, Option.map_map]
    congr 1
    funext x
    rw [Function.comp_apply, x.leave_frame]
  · rfl

theorem Part.changeAvailability_moves {m : MemberId} {v : Availability} (source : Source) {p : Part}
    (h : g.marks ∨ v ≠ .withheld ∧ ∀ x, p.member? m = some x → x.availability ≠ .withheld) :
    Moves g p (p.changeAvailability m v source) := by
  unfold Part.changeAvailability
  split
  · exact .refl
  · split
    · exact .refl
    · simp only
      split
      · exact Part.setAvailability_moves g h
      · next i c _ =>
        refine (((p.withdrawMember_moves g i c m source).trans (Part.setAvailability_moves g ?_)).trans
          (Part.reassess_moves g i _)).trans (.raise _ _)
        refine h.imp id fun ⟨hv, hold⟩ => ⟨hv, fun x hx => ?_⟩
        have := p.availability_withdrawMember i c m m source
        rw [hx] at this
        obtain ⟨y, hy, e⟩ := Option.map_eq_some_iff.1 this.symm
        exact e ▸ hold y hy

theorem Part.dutyReport_moves (m : MemberId) (off : Bool) (k : SiteId) (p : Part) : Moves g p (p.dutyReport m off k) := by
  unfold Part.dutyReport
  split
  · exact .refl
  · next x hx =>
    have hmember {y : Member} (hy : p.member? m = some y) : y = x := Option.some.inj (hy.symm.trans hx)
    split
    · exact .refl
    · next ha =>
      refine .ite .refl (p.changeAvailability_moves g _ (.inr ⟨nofun, fun y hy => ?_⟩))
      rw [hmember hy, ha]
      nofun
    · next ha =>
      refine p.changeAvailability_moves g _ (.inr ⟨nofun, fun y hy => ?_⟩)
      rw [hmember hy, ha]
      nofun
    · exact .refl
    · exact .refl

/-! ## Return frames (R76 to R78) -/

theorem Part.frameResponse_moves (k : SiteId) (m : MemberId) (fr : ReturnFrame) (p : Part) :
    Moves g p (p.frameResponse k m fr) := by
  unfold Part.frameResponse
  split
  · exact .refl
  · split
    · exact .refl
    · next c hc => exact .ite .refl (p.applyResponse_moves g m _ _ hc)

theorem Part.matchFrame_moves (k : SiteId) (fr : ReturnFrame) (p : Part) : Moves g p (p.matchFrame k fr) := by
  unfold Part.matchFrame
  split
  · exact .refl
  · split
    · exact .refl
    · next m _ =>
      exact .ite (.ite (p.dutyReport_moves g m true k) (.ite (p.dutyReport_moves g m false k) .refl))
        (.ite (p.frameResponse_moves g k m fr) .refl)

theorem Part.receiveFrame_moves (k : SiteId) (bits : BitVec 58) (spoiled : Bool) (p : Part) :
    Moves g p (p.receiveFrame k bits spoiled) :=
  .ite .refl ((p.matchFrame_moves g k _).trans (Part.finish_moves g _))

/-! ## The ladder (R116 to R121) and the accumulation timer (R14) -/

/-- A callout whose level a rise has reached. -/
def Callout.raisedTo (n : Fin 4) (repaged : List MemberId) (c : Callout) : Callout :=
  { c with level := n, repaged := repaged }

theorem Part.restartWindow_moves (i : SlotId) (p : Part) : Moves g p (p.restartWindow i) :=
  p.window_moves g i fun c => .start c.window

theorem Part.levelOne_moves {i : SlotId} {c : Callout} {p : Part} (hc : p.callout? i = some c) (hl : c.level = 0) :
    Moves g p (p.levelOne i c) := by
  have h : Moves g p (p.modify i (Callout.raisedTo 1 (p.repageSelection c))) := .modify fun d hd => by
    rw [hc] at hd
    cases hd
    exact ⟨.of_same (hl := by rw [hl]; exact Fin.zero_le _), rfl⟩
  exact (h.trans (.ite .refl (.demand _ _))).trans
    (.ite .refl (Part.sirenOwnCycles_moves g _ _))

/-- The second rise: groups join. -/
def Callout.raisedToTwo (joined asked : GroupSet) (c : Callout) : Callout :=
  { c.addPrimary joined with
    level := 2, secondary := c.secondary &&& ~~~joined
    flags := { c.flags with groupsOmitted := c.flags.groupsOmitted || joined != asked } }

theorem Part.levelTwo_moves {i : SlotId} {c : Callout} {p : Part} (hc : p.callout? i = some c) (hl : c.level = 1) :
    Moves g p (p.levelTwo i c) := by
  have h : Moves g p (p.modify i (Callout.raisedToTwo (p.judgedYes (c.secondary &&& ~~~c.primary))
      (c.secondary &&& ~~~c.primary))) := .modify fun d hd => by
    rw [hc] at hd
    cases hd
    exact ⟨.of_same (hl := hl ▸ (by decide : (1 : Fin 4) ≤ 2))
      (hg := ⟨id, id, fun h => by simp [Callout.raisedToTwo, h], id, id, id⟩), rfl⟩
  exact h.trans (.ite .refl (.demand _ _))

theorem Part.levelThree_moves {i : SlotId} {c : Callout} {p : Part} (hc : p.callout? i = some c) (hl : c.level = 2) :
    Moves g p (p.levelThree i) := by
  refine Moves.trans (Moves.trans (.modify fun d hd => ?_) (.raise _ _)) (.ite (Part.sirenOwnCycles_moves g _ _) .refl)
  rw [hc] at hd
  cases hd
  exact ⟨.of_same (hl := hl ▸ (by decide : (2 : Fin 4) ≤ 3)) (hg := ⟨id, id, id, id, fun _ => rfl, id⟩), rfl⟩

theorem Part.exhaust_moves (i : SlotId) (p : Part) : Moves g p (p.exhaust i) := by
  refine Moves.trans (.modify ?_) (.raise _ _)
  exact fun _ _ => ⟨.of_same (he := fun _ => rfl), rfl⟩

theorem Part.escalate_moves {i : SlotId} {c : Callout} {p : Part} (hc : p.callout? i = some c) :
    Moves g p (p.escalate i c) := by
  unfold Part.escalate
  split
  · next h => exact (p.levelOne_moves g hc h).trans (Part.restartWindow_moves g i _)
  · next h => exact (p.levelTwo_moves g hc h).trans (Part.restartWindow_moves g i _)
  · next h => exact (p.levelThree_moves g hc h).trans (Part.restartWindow_moves g i _)
  · exact p.exhaust_moves g i

theorem Part.windowExpires_moves (i : SlotId) (p : Part) : Moves g p (p.windowExpires i) := by
  unfold Part.windowExpires
  split
  · exact .refl
  · next c hc => exact .ite ((p.escalate_moves g hc).trans (Part.finish_moves g _)) .refl

theorem Part.accumulationExpires_moves (i : SlotId) (p : Part) : Moves g p (p.accumulationExpires i) := by
  unfold Part.accumulationExpires
  split
  · exact .refl
  · next c hc =>
    split
    · next h =>
      have hplain : p.PlainAt i := Part.plainAt_of hc (by rw [h.1]; rfl)
      exact (p.leaveOpen_moves g hplain).trans (Part.finish_moves g _)
    · exact .refl

end Sys2Proof.Machine


/-!
SUPPORT. The edits of configuration and the writes of the store, each as one edit that nothing an event works with sees.
-/

namespace Sys2Proof.Machine

open Sys2Proof

variable {p q : Part}

theorem Edits.refl (p : Part) : Edits p p :=
  ⟨rfl, rfl, rfl, rfl, rfl, rfl, id, ⟨rfl, rfl⟩, rfl, fun _ => rfl, fun _ _ _ => Iff.rfl, id, id⟩

/-! ## The resolver -/

theorem Edits.of_resolver {r : Resolver} (hc : ∀ k, (r.appliances.get k).committed = (p.resolver.appliances.get k).committed)
    (hp : p.PlansSound → ∀ n pl, r.plans.get n = some pl → pl.Sound) : Edits p { p with resolver := r } :=
  { Edits.refl p with
    committed := fun ap => hc ap.index
    plans := fun h plans hplans => by
      rcases hplans with e | hx
      · exact e ▸ hp h
      · exact h plans (.inr hx) }

theorem Part.PlansSound.working {p : Part} (h : p.PlansSound) {n : PlanId} {pl : Plan} (e : p.plan? n = some pl) :
    pl.Sound :=
  h p.resolver.plans (.inl rfl) n pl e

theorem Part.setPlan_edits {n : PlanId} {x : Option Plan} (h : p.PlansSound → ∀ pl ∈ x, pl.Sound) :
    Edits p (p.setPlan n x) := by
  refine .of_resolver (fun _ => rfl) fun hp k pl hk => ?_
  simp only [Table.get_set] at hk
  split at hk
  · exact h hp pl hk
  · exact hp.working hk

theorem Part.setClass_edits (k : ClassId) (e : ClassEntry) : Edits p (p.setClass k e) :=
  .of_resolver (fun _ => rfl) fun hp _ _ hk => hp.working hk

theorem Part.setAppliance_edits (ap : Appliance) {y : ApplianceRecord} (h : y.committed = (p.appliance ap).committed) :
    Edits p (p.onResolver fun r => { r with appliances := r.appliances.set ap.index y }) := by
  refine .of_resolver (fun k => ?_) fun hp _ _ hk => hp.working hk
  simp only [Table.get_set]
  split
  · next e => exact e ▸ h
  · rfl

/-! ## The roster -/

theorem Edits.of_roster {r : Roster} (h : ∀ m n a, (∃ x, r.members.get m = some x ∧ x.engaged = some n ∧ x.availability = a)
    ↔ ∃ x, p.member? m = some x ∧ x.engaged = some n ∧ x.availability = a) : Edits p { p with roster := r } :=
  { Edits.refl p with engaged := h }

theorem Part.setMember_edits (m : MemberId) {x : Option Member} (h : ∀ n a,
    (∃ y, x = some y ∧ y.engaged = some n ∧ y.availability = a)
      ↔ ∃ y, p.member? m = some y ∧ y.engaged = some n ∧ y.availability = a) : Edits p (p.setMember m x) := by
  refine .of_roster fun k n a => ?_
  simp only [Table.get_set]
  split
  · next e => exact e ▸ h n a
  · exact Iff.rfl

/-- A member engaged on nothing, put in the place of one that is engaged on nothing. -/
theorem Part.setMember_edits_of_idle (m : MemberId) {x : Option Member} (hx : ∀ y ∈ x, y.engaged = none)
    (hold : ∀ y, p.member? m = some y → y.engaged = none) : Edits p (p.setMember m x) := by
  refine Part.setMember_edits m fun n a => iff_of_false ?_ ?_
  · rintro ⟨y, hy, he, -⟩
    rw [hx y hy] at he
    cases he
  · rintro ⟨y, hy, he, -⟩
    rw [hold y hy] at he
    cases he

theorem Part.changeMember_edits (e : MemberEdit) {x : Member} (hx : p.member? e.member = some x) :
    Edits p (p.setMember e.member (some (e.change x))) := by
  refine Part.setMember_edits e.member fun n a => ?_
  rw [hx]
  constructor
  · rintro ⟨y, hy, h⟩
    cases hy
    exact ⟨x, rfl, h⟩
  · rintro ⟨y, hy, h⟩
    cases hy
    exact ⟨e.change x, rfl, h⟩

/-! ## Sites, settings and patterns -/

theorem SiteRecord.setCeiling_within (c : Nat) (r : SiteRecord) :
    (r.setCeiling c).credit ≤ (r.setCeiling c).ceiling := by
  unfold SiteRecord.setCeiling
  split
  · exact Nat.le_refl _
  · split <;> exact Nat.le_of_not_le ‹_›

theorem SiteRecord.setDivisor_within (d : Nat) {r : SiteRecord} (h : r.credit ≤ r.ceiling) :
    (r.setDivisor d).credit ≤ (r.setDivisor d).ceiling := by
  unfold SiteRecord.setDivisor
  split <;> exact h

theorem SiteEdit.apply_within (e : SiteEdit) {r : SiteRecord} (h : r.credit ≤ r.ceiling) :
    (e.apply r).credit ≤ (e.apply r).ceiling := by
  unfold SiteEdit.apply
  cases e.ceiling <;> cases e.divisor
  · exact h
  · exact SiteRecord.setDivisor_within _ h
  · exact SiteRecord.setCeiling_within _ _
  · exact SiteRecord.setDivisor_within _ (SiteRecord.setCeiling_within _ _)

theorem Part.updateSite_edits (k : SiteId) (e : SiteEdit) : Edits p (p.updateSite k e.apply) :=
  { Edits.refl p with credits := (p.updateSite_keepsBounds k _ fun _ h => e.apply_within h).credits }

theorem Part.editGeneral_edits (e : GeneralEdit) : Edits p (p.editGeneral e) :=
  { Edits.refl p with }

theorem Part.setPattern_edits (k : PatternId) (x : Pattern) : Edits p (p.setPattern k x) :=
  { Edits.refl p with }

/-! ## The store -/

theorem StoredCopies.plans_invalidate (c : StoredCopies) (k : Section) {x : StoredCopy PlansSection}
    (h : (c.invalidate k).plans = some x) : c.plans = some x := by
  cases k with
  | plans => cases h
  | unit | roster | station => exact h

theorem Part.beginSave_edits (k : Section) (he : p.store.error = false) :
    Edits p (p.onStore (Store.beginSave (p.snapshot k))) :=
  { Edits.refl p with
    plans := fun h plans hplans => by
      rcases hplans with e | ⟨x, hx, e⟩ | ⟨x, hx, e⟩
      · exact h plans (.inl e)
      · exact h plans (.inr (.inl ⟨x, p.store.stored.plans_invalidate _ hx, e⟩))
      · refine h plans (.inl (e.trans ?_))
        cases k with
        | plans => cases hx; rfl
        | unit | roster | station => cases hx
    store := fun _ h => by
      have h : p.store.error = true := h
      rw [he] at h
      cases h }

theorem Part.poll_edits : Edits p (p.onStore Store.poll) := by
  have h : p.store.poll = { p.store with toggle := p.store.poll.toggle } := by
    unfold Store.poll
    split <;> rfl
  refine { Edits.refl p with plans := ?_, store := ?_ }
  · unfold Part.PlansSound
    rw [Part.onStore_store, h]
    exact id
  · unfold Part.StoreSound
    rw [Part.onStore_store, h]
    exact id

theorem Part.clearStoreError_edits : Edits p (p.onStore fun st => { st with error := false }) :=
  { Edits.refl p with store := fun _ => nofun }

theorem StoredCopies.plans_put (c : StoredCopies) (x : Snapshot) {y : StoredCopy PlansSection}
    (h : (c.put x).plans = some y) : c.plans = some y ∨ x = .plans y.contents := by
  cases x with
  | plans x => cases h; exact .inr rfl
  | unit x => exact .inl h
  | roster x => exact .inl h
  | station x => exact .inl h

/-- The end of a write, with or without failure. -/
theorem Part.endSave_edits (failed : Bool) {x : Snapshot} (hx : p.store.busy = some x) :
    Edits p (p.onStore (if failed then Store.failSave x else Store.endSave x)) := by
  cases failed with
  | true =>
    exact { Edits.refl p with
      plans := fun h plans hplans => by
        rcases hplans with e | hy | ⟨y, hy, -⟩
        · exact h plans (.inl e)
        · exact h plans (.inr (.inl hy))
        · cases hy
      store := fun _ _ => rfl }
  | false =>
    exact { Edits.refl p with
      plans := fun h plans hplans => by
        rcases hplans with e | ⟨y, hy, e⟩ | ⟨y, hy, -⟩
        · exact h plans (.inl e)
        · rcases p.store.stored.plans_put x hy with hy | rfl
          · exact h plans (.inr (.inl ⟨y, hy, e⟩))
          · exact h plans (.inr (.inr ⟨y.contents, hx, e⟩))
        · cases hy
      store := fun _ _ => rfl }

/-! ## The parts of EDIT-PLAN keep plans as section 2.2 has them -/

theorem cleanCut_length (n : Nat) (t : Text) : (cleanCut n t).length ≤ n := by
  simp [cleanCut, clean]

theorem getD_within {lo hi x : Nat} {y : Option Nat} (hy : ∀ z ∈ y, lo ≤ z ∧ z ≤ hi) (hx : lo ≤ x ∧ x ≤ hi) :
    lo ≤ y.getD x ∧ y.getD x ≤ hi := by
  cases y with
  | none => exact hx
  | some z => exact hy z rfl

/-- A plan whose entries are those of a sound plan. -/
theorem Plan.Sound.of_entries {pl x : Plan} (h : pl.Sound) (he : x.entries = pl.entries)
    (hw : 60 ≤ x.window ∧ x.window ≤ 900) (ht : 1 ≤ x.turnout ∧ x.turnout ≤ 30) (hl : x.template.length ≤ 24) :
    x.Sound := by
  obtain ⟨h1, h2, h3, h4, -⟩ := h
  exact ⟨he ▸ h1, he ▸ h2, he ▸ h3, he ▸ h4, hw.1, hw.2, ht.1, ht.2, hl⟩

/-- What an entry is to be on its own (section 2.2). -/
def PlanEntry.Right (e : PlanEntry) : Prop :=
  e.alternate ≠ some e.main ∧ e.need.sum ≠ 0 ∧ e.need.oic ≤ 1 ∧ e.need.drv ≤ 1 ∧ e.need.ba ≤ 4 ∧ e.need.gen ≤ 4

theorem Plan.sound_define {e : PlanEntry} (h : e.Right) : (Plan.define e).Sound := by
  refine ⟨nofun, by simp [Plan.define], by simp [Plan.define], fun x hx => ?_, by simp [Plan.define]⟩
  rw [Plan.define, List.mem_singleton] at hx
  exact hx ▸ h

theorem Plan.Sound.putEntry {pl : Plan} (h : pl.Sound) {k : Nat} {e : PlanEntry} (he : e.Right)
    (hk : k < 3) (hlen : k ≤ pl.entries.length) (hmain : mainElsewhere k e.main pl.entries = false) :
    (pl.putEntry k e).Sound := by
  obtain ⟨-, h2, h3, h4, h5⟩ := h
  have hperm : (pl.putEntry k e).entries.Perm (e :: (pl.entries.take k ++ pl.entries.drop (k + 1))) :=
    List.perm_middle
  have hsub : (pl.entries.take k ++ pl.entries.drop (k + 1)).Sublist pl.entries := by
    rw [← List.eraseIdx_eq_take_drop_succ]
    exact List.eraseIdx_sublist _ _
  refine ⟨?_, ?_, ?_, fun x hx => ?_, h5⟩
  · simp [Plan.putEntry]
  · simp only [Plan.putEntry, List.length_append, List.length_take, List.length_cons, List.length_drop]
    omega
  · rw [(hperm.map PlanEntry.main).nodup_iff, List.map_cons, List.nodup_cons]
    refine ⟨fun hm => ?_, h3.sublist (hsub.map _)⟩
    obtain ⟨x, hx, e'⟩ := List.mem_map.1 hm
    have : mainElsewhere k e.main pl.entries = true := List.any_eq_true.2 ⟨x, hx, by simp [e']⟩
    rw [hmain] at this
    cases this
  · rcases List.mem_cons.1 (hperm.mem_iff.1 hx) with rfl | hx
    · exact he
    · exact h4 x (hsub.subset hx)

theorem Plan.Sound.eraseEntry {pl : Plan} (h : pl.Sound) {k : Nat} (hk : k < pl.entries.length)
    (hone : pl.entries.length ≠ 1) : ({ pl with entries := pl.entries.eraseIdx k } : Plan).Sound := by
  obtain ⟨h1, h2, h3, h4, h5⟩ := h
  have hsub := List.eraseIdx_sublist pl.entries k
  refine ⟨fun e => ?_, hsub.length_le.trans h2, h3.sublist (hsub.map _), fun x hx => h4 x (hsub.subset hx), h5⟩
  have hlen := List.length_eraseIdx_of_lt hk
  rw [show pl.entries.eraseIdx k = [] from e] at hlen
  simp only [List.length_nil] at hlen
  omega

end Sys2Proof.Machine

/-! Appliances appended to a callout, and those of a plan committed to it (R12, R46, R47). -/

namespace Sys2Proof.Machine
open Sys2Proof

variable {p : Part} {i : SlotId} {c : Callout} {l : List (Appliance × RoleCounts)}

/-! ### Appliances appended (R12) -/

/-- A new entry of an appliance list. -/
def newEntry (x : Appliance × RoleCounts) : ApplianceEntry :=
  { letter := x.1, need := x.2, departed := false, crew := [] }

/-- The callout with the appliances of an attempt appended while there is room. -/
def Callout.appended (l : List (Appliance × RoleCounts)) (c : Callout) : Callout :=
  { c with
    appliances := c.appliances ++ (l.take (3 - c.appliances.length)).map newEntry
    flags := { c.flags with
      applianceOmitted := c.flags.applianceOmitted || decide (3 - c.appliances.length < l.length) } }

theorem Callout.appended_nil (c : Callout) : c.appended [] = c := by
  unfold Callout.appended
  simp

theorem Callout.appended_cons {x : Appliance × RoleCounts} (h : c.appliances.length < 3) :
    c.appended (x :: l) = (c.append x.1 x.2).appended l := by
  have hroom : 3 - c.appliances.length = 3 - (c.appliances.length + 1) + 1 := by omega
  unfold Callout.appended Callout.append
  simp only [List.length_append, List.length_cons, List.length_nil, Nat.zero_add, hroom, List.take_succ_cons, List.map_cons,
    List.append_assoc, List.cons_append, List.nil_append, newEntry, Nat.add_lt_add_iff_right]

theorem Callout.appended_full {x : Appliance × RoleCounts} (h : ¬ c.appliances.length < 3) :
    c.appended (x :: l) = c.withFlags fun f => { f with applianceOmitted := true } := by
  have hroom : 3 - c.appliances.length = 0 := by omega
  unfold Callout.appended Callout.withFlags
  simp [hroom]

theorem Part.committed_setCommittedList (n : Option CalloutNo) (l : List (Appliance × RoleCounts)) (p : Part) (ap : Appliance) :
    ((l.foldl (fun p y => p.setCommitted y.1 n) p).appliance ap).committed
      = if ap ∈ l.map Prod.fst then n else (p.appliance ap).committed := by
  induction l generalizing p with
  | nil => rfl
  | cons x rest ih =>
    rw [List.foldl_cons, ih, Part.committed_setCommitted]
    simp only [List.map_cons, List.mem_cons]
    by_cases h : ap ∈ rest.map Prod.fst
    · simp only [h, or_true, if_true]
    · simp only [h, or_false, if_false, @eq_comm _ x.1]

theorem Part.setCommittedList_frame (n : Option CalloutNo) (l : List (Appliance × RoleCounts)) (p : Part) :
    l.foldl (fun p y => p.setCommitted y.1 n) p
      = { p with resolver := (l.foldl (fun p y => p.setCommitted y.1 n) p).resolver } := by
  induction l generalizing p with
  | nil => rfl
  | cons x rest ih => rw [List.foldl_cons, ih]; rfl

theorem Part.appliance_modify (i : SlotId) (f : Callout → Callout) (p : Part) (ap : Appliance) :
    (p.modify i f).appliance ap = p.appliance ap := by
  rw [Part.modify_eq]
  rfl

/-- Appending: the callout, the appliances handed back, and nothing else. -/
theorem Part.appendAppliances_spec (hc : p.callout? i = some c) (hn : (l.map Prod.fst).Nodup)
    (hnew : ∀ x ∈ l, c.hasAppliance x.1 = false) :
    (p.appendAppliances i l).callout? i = some (c.appended l)
    ∧ (∀ ap, ((p.appendAppliances i l).appliance ap).committed
        = if ap ∈ (l.drop (3 - c.appliances.length)).map Prod.fst then none else (p.appliance ap).committed)
    ∧ (∀ j, i ≠ j → (p.appendAppliances i l).callout? j = p.callout? j)
    ∧ ∃ table resolver, p.appendAppliances i l = { p with table := table, resolver := resolver } := by
  induction l generalizing p c with
  | nil =>
    rw [Callout.appended_nil]
    exact ⟨hc, fun ap => by simp [Part.appendAppliances], fun _ _ => rfl, _, _, rfl⟩
  | cons x rest ih =>
    obtain ⟨ap, need⟩ := x
    have hhas : c.hasAppliance ap = false := hnew (ap, need) List.mem_cons_self
    unfold Part.appendAppliances
    simp only [hc, hhas]
    rw [if_neg Bool.false_ne_true]
    split
    next hroom =>
      have hroom : c.appliances.length < 3 := hroom
      have hmodified : (p.modify i (Callout.append ap need)).callout? i = some (c.append ap need) := by
        rw [Part.callout?_modify_self, hc]
        rfl
      obtain ⟨hcallout, hcommitted, hothers, table, resolver, hframe⟩ := ih hmodified (List.nodup_cons.mp hn).2 fun y hy => by
        have hne : y.1 ≠ ap := fun h => (List.nodup_cons.mp hn).1 (List.mem_map.mpr ⟨y, hy, h⟩)
        have hy' := hnew y (List.mem_cons_of_mem _ hy)
        unfold Callout.hasAppliance at hy' ⊢
        rw [Callout.append, List.any_append, hy', Bool.false_or]
        simpa using Ne.symm hne
      rw [Callout.appended_cons hroom]
      refine ⟨hcallout, fun z => (hcommitted z).trans ?_,
        fun j hj => (hothers j hj).trans (Part.callout?_modify_ne _ hj _), table, resolver, ?_⟩
      · have hlen : 3 - c.appliances.length = 3 - (c.append ap need).appliances.length + 1 := by
          simp only [Callout.append, List.length_append, List.length_cons, List.length_nil]
          omega
        rw [hlen, List.drop_succ_cons, Part.appliance_modify]
      · exact hframe.trans (by rw [Part.modify_eq])
    next hfull =>
      have hfull : ¬ c.appliances.length < 3 := hfull
      rw [Callout.appended_full hfull]
      refine ⟨?_, fun z => ?_, fun j hj => ?_, ?_⟩
      · rw [Part.callout?_modify_self, Part.setCommittedList_frame]
        exact congrArg _ hc
      · have hlen : 3 - c.appliances.length = 0 := Nat.sub_eq_zero_of_le (Nat.not_lt.mp hfull)
        rw [hlen, List.drop_zero, Part.appliance_modify, Part.committed_setCommittedList]
      · rw [Part.callout?_modify_ne _ hj, Part.setCommittedList_frame]
        rfl
      · rw [Part.modify_eq, Part.setCommittedList_frame]
        exact ⟨_, _, rfl⟩

/-! ### The appliances of a plan (R46, R47) -/

/-- What an attempt for callout `c` takes under the plan an order names, if it names one. -/
def Part.attempted (p : Part) (c : Callout) : Option Plan → Attempt
  | some pl => p.attempt (fun ap => c.hasAppliance ap) pl
  | none => { committed := [], substituted := false, omitted := false }

/-- The appliances that find a place on the list. -/
def Part.appendedBy (p : Part) (c : Callout) (pl : Option Plan) : List (Appliance × RoleCounts) :=
  (p.attempted c pl).committed.take (3 - c.appliances.length)

/-- The callout with the appliances of the plan an order names. -/
def Part.withPlan (p : Part) (pl : Option Plan) (c : Callout) : Callout :=
  { c with
    appliances := c.appliances ++ (p.appendedBy c pl).map newEntry
    flags := { c.flags with
      substituted := c.flags.substituted || (p.attempted c pl).substituted
      applianceOmitted := (c.flags.applianceOmitted
        || decide (3 - c.appliances.length < (p.attempted c pl).committed.length)) || (p.attempted c pl).omitted } }

theorem Part.withPlan_none (p : Part) (c : Callout) : p.withPlan none c = c := by
  unfold Part.withPlan Part.appendedBy Part.attempted
  simp

theorem Part.attempted_takes (p : Part) (c : Callout) (pl : Option Plan) :
    ((p.attempted c pl).committed.map Prod.fst).Nodup
    ∧ ∀ x ∈ (p.attempted c pl).committed, c.hasAppliance x.1 = false ∧ (p.appliance x.1).committed = none := by
  cases pl with
  | none => exact ⟨List.nodup_nil, fun x hx => absurd hx List.not_mem_nil⟩
  | some pl =>
    have htakes := p.attempt_takes (fun ap => c.hasAppliance ap) pl
    refine ⟨htakes.distinct, fun x hx => ?_⟩
    obtain ⟨hheld, husable, -⟩ := htakes.each x hx
    exact ⟨hheld, (Part.usable_iff.mp husable).2.1⟩

/-- Of those committed, the ones handed back again are as they were. -/
theorem committed_of_taken {ap : Appliance} {old : Option CalloutNo} (hn : (l.map Prod.fst).Nodup)
    (hold : ap ∈ l.map Prod.fst → old = none) (k : Nat) (n : CalloutNo) :
    (if ap ∈ (l.drop k).map Prod.fst then none else if ap ∈ l.map Prod.fst then some n else old)
      = if (l.take k).any (fun x => x.1 == ap) then some n else old := by
  have htaken : (l.take k).any (fun x => x.1 == ap) = true ↔ ap ∈ (l.take k).map Prod.fst := by
    rw [List.any_eq_true, List.mem_map]
    simp only [beq_iff_eq]
  have hsplit : l.map Prod.fst = (l.take k).map Prod.fst ++ (l.drop k).map Prod.fst := by
    rw [← List.map_append, List.take_append_drop]
  simp only [htaken]
  by_cases hdrop : ap ∈ (l.drop k).map Prod.fst
  · have hnot : ap ∉ (l.take k).map Prod.fst := fun h =>
      (List.nodup_append.mp (hsplit ▸ hn)).2.2 _ h _ hdrop rfl
    rw [if_pos hdrop, if_neg hnot, hold (by rw [hsplit]; exact List.mem_append_right _ hdrop)]
  · rw [if_neg hdrop]
    refine if_congr ?_ rfl rfl
    rw [hsplit, List.mem_append]
    exact or_iff_left hdrop

/-- The plan's appliances: the callout with them, each committed, and nothing else. -/
theorem Part.addPlan_spec (hc : p.callout? i = some c) (pl : Option Plan) :
    (p.addPlan i c pl).callout? i = some (p.withPlan pl c)
    ∧ (∀ ap, ((p.addPlan i c pl).appliance ap).committed
        = if (p.appendedBy c pl).any (fun x => x.1 == ap) then some c.number else (p.appliance ap).committed)
    ∧ (∀ j, i ≠ j → (p.addPlan i c pl).callout? j = p.callout? j)
    ∧ ∃ table resolver, p.addPlan i c pl = { p with table := table, resolver := resolver } := by
  cases pl with
  | none =>
    have hnone : p.appendedBy c none = [] := List.take_nil
    refine ⟨?_, fun ap => by rw [hnone]; rfl, fun _ _ => rfl, _, _, rfl⟩
    rw [Part.withPlan_none]
    exact hc
  | some pl =>
    obtain ⟨hdistinct, hfree⟩ := p.attempted_takes c (some pl)
    have hcommit : (p.commitAll c.number (p.attempted c (some pl)).committed).callout? i = some c := by
      rw [Part.commitAll_frame]
      exact hc
    obtain ⟨hcallout, hcommitted, hothers, table, resolver, hframe⟩ :=
      Part.appendAppliances_spec hcommit hdistinct fun x hx => (hfree x hx).1
    refine ⟨?_, fun ap => ?_, fun j hj => ?_, ?_⟩
    · show (Part.modify i _ _).callout? i = _
      rw [Part.callout?_modify_self]
      exact (congrArg _ hcallout).trans rfl
    · show ((Part.modify i _ _).appliance ap).committed = _
      rw [Part.appliance_modify]
      refine (hcommitted ap).trans ?_
      rw [Part.committed_commitAll]
      refine committed_of_taken hdistinct (fun h => ?_) _ _
      obtain ⟨x, hx, rfl⟩ := List.mem_map.mp h
      exact (hfree x hx).2
    · show (Part.modify i _ _).callout? j = _
      rw [Part.callout?_modify_ne _ hj]
      refine (hothers j hj).trans ?_
      rw [Part.commitAll_frame]
      rfl
    · have hadded : ∃ table resolver, (p.commitAll c.number (p.attempted c (some pl)).committed).appendAppliances i
          (p.attempted c (some pl)).committed = { p with table := table, resolver := resolver } :=
        ⟨table, resolver, hframe.trans (by rw [Part.commitAll_frame])⟩
      obtain ⟨table, resolver, hadded⟩ := hadded
      show ∃ table resolver, Part.modify i _ ((p.commitAll c.number (p.attempted c (some pl)).committed).appendAppliances i
          (p.attempted c (some pl)).committed) = _
      rw [hadded, Part.modify_eq]
      exact ⟨_, _, rfl⟩

end Sys2Proof.Machine


/-!
SUPPORT. The ties between the callout table and those it holds: members engaged and appliances committed. Both are one
relation, of holders that name a callout and of callouts that claim them, and a rule that rewires one slot keeps it.
-/

namespace Sys2Proof.Machine

open Sys2Proof

/-! ## Holders and claims -/

/-- A holder names a callout just when the live callout of that number claims it. -/
def Tied {K : Type} (hold : K → Option CalloutNo) (claim : SlotId → Option (CalloutNo × List K)) : Prop :=
  ∀ k n, hold k = some n ↔ ∃ i ks, claim i = some (n, ks) ∧ k ∈ ks

/-- One slot is rewired: what its callout, of number `n`, claims and who names `n` have changed together, and no other slot
carries `n`. -/
theorem Tied.rewire {K : Type} {hold hold' : K → Option CalloutNo} {claim claim' : SlotId → Option (CalloutNo × List K)}
    (h : Tied hold claim) {i : SlotId} {n : CalloutNo} (hapart : ∀ j ≠ i, ∀ x, claim j = some x → x.1 ≠ n)
    (hothers : ∀ j ≠ i, claim' j = claim j) (hn : ∀ x, claim i = some x → x.1 = n) (hn' : ∀ x, claim' i = some x → x.1 = n)
    (hoff : ∀ k m, m ≠ n → (hold' k = some m ↔ hold k = some m))
    (hon : ∀ k, hold' k = some n ↔ ∃ x, claim' i = some x ∧ k ∈ x.2) : Tied hold' claim' := by
  intro k m
  by_cases hm : m = n
  · subst hm
    rw [hon]
    constructor
    · rintro ⟨⟨m', ks⟩, hx, hk⟩
      obtain rfl : m' = m := hn' _ hx
      exact ⟨i, ks, hx, hk⟩
    · rintro ⟨j, ks, hj, hk⟩
      by_cases hji : j = i
      · exact ⟨_, hji ▸ hj, hk⟩
      · rw [hothers j hji] at hj
        exact absurd rfl (hapart j hji _ hj)
  · rw [hoff k m hm, h k m]
    refine exists_congr fun j => exists_congr fun ks => and_congr_left fun _ => ?_
    by_cases hji : j = i
    · subst hji
      exact iff_of_false (fun e => hm (hn _ e)) fun e => hm (hn' _ e)
    · rw [hothers j hji]

/-! ## The part's holders and claims -/

/-- The number of the callout a member is engaged on. -/
def Part.engagedOn (p : Part) (m : MemberId) : Option CalloutNo :=
  (p.member? m).bind Member.engaged

/-- The number of the callout an appliance is committed to. -/
def Part.committedTo (p : Part) (ap : Appliance) : Option CalloutNo :=
  (p.appliance ap).committed

/-- A callout and the members it claims. -/
def Callout.attendance (c : Callout) : CalloutNo × List MemberId :=
  (c.number, c.activeMembers)

/-- A callout and the appliances it claims: those of its list, or none in CLOSING. -/
def Callout.crews (c : Callout) : CalloutNo × List Appliance :=
  (c.number, if c.state = .closing then [] else c.appliances.map ApplianceEntry.letter)

def Part.attendance (p : Part) (i : SlotId) : Option (CalloutNo × List MemberId) :=
  (p.callout? i).map Callout.attendance

def Part.crews (p : Part) (i : SlotId) : Option (CalloutNo × List Appliance) :=
  (p.callout? i).map Callout.crews

/-- An engaged member is AVAILABLE. -/
def Part.EngagedOnDuty (p : Part) : Prop :=
  ∀ m x, p.member? m = some x → x.engaged ≠ none → x.availability = .available

/-- A CLOSING callout claims no member. -/
def Part.ClosingIdle (p : Part) : Prop :=
  ∀ i c, p.callout? i = some c → c.state = .closing → c.activeMembers = []

/-- No two slots hold callouts of one number. -/
def Part.Apart (p : Part) : Prop :=
  ∀ i j n, (p.callout? i).map Callout.number = some n → (p.callout? j).map Callout.number = some n → i = j

theorem Part.NumbersDistinct.apart {p : Part} (h : p.NumbersDistinct) : p.Apart := by
  intro i j n hi hj
  obtain ⟨c, hc, rfl⟩ := Option.map_eq_some_iff.1 hi
  obtain ⟨d, hd, e⟩ := Option.map_eq_some_iff.1 hj
  by_contra hij
  exact (h.2 i j c d hc hd hij).1 e.symm

theorem Response.active_iff (r : Response) : r.active = true ↔ r.kind = .attending ∨ r.kind = .arrived := by
  unfold Response.active
  cases r.kind <;> simp [ResponseKind.active]

theorem Callout.mem_activeMembers {c : Callout} {m : MemberId} :
    m ∈ c.activeMembers ↔ ∃ r ∈ c.responses, r.member = m ∧ (r.kind = .attending ∨ r.kind = .arrived) := by
  simp only [Callout.activeMembers, List.mem_map, List.mem_filter, Response.active_iff, and_assoc]
  exact exists_congr fun r => and_congr_right fun _ => and_comm

theorem Part.engagedOn_eq_some {p : Part} {m : MemberId} {n : CalloutNo} :
    p.engagedOn m = some n ↔ ∃ x, p.member? m = some x ∧ x.engaged = some n :=
  Option.bind_eq_some_iff

theorem Part.attendance_eq_some {p : Part} {i : SlotId} {x : CalloutNo × List MemberId} :
    p.attendance i = some x ↔ ∃ c, p.callout? i = some c ∧ c.attendance = x :=
  Option.map_eq_some_iff

theorem Part.crews_eq_some {p : Part} {i : SlotId} {x : CalloutNo × List Appliance} :
    p.crews i = some x ↔ ∃ c, p.callout? i = some c ∧ c.crews = x :=
  Option.map_eq_some_iff

theorem Part.tied_attendance_iff {p : Part} : Tied p.engagedOn p.attendance ↔
    ∀ m n, p.engagedOn m = some n ↔ ∃ i c, p.callout? i = some c ∧ c.number = n ∧ m ∈ c.activeMembers := by
  refine forall_congr' fun m => forall_congr' fun n => iff_congr Iff.rfl (exists_congr fun i => ?_)
  simp only [Part.attendance_eq_some, Callout.attendance, Prod.mk.injEq]
  constructor
  · rintro ⟨_, ⟨c, hc, hn, rfl⟩, hm⟩
    exact ⟨c, hc, hn, hm⟩
  · rintro ⟨c, hc, hn, hm⟩
    exact ⟨_, ⟨c, hc, hn, rfl⟩, hm⟩

theorem Callout.mem_crews {c : Callout} {ap : Appliance} :
    ap ∈ c.crews.2 ↔ c.state ≠ .closing ∧ ∃ e ∈ c.appliances, e.letter = ap := by
  unfold Callout.crews
  by_cases h : c.state = .closing <;> simp [h]

theorem Part.engagementRight_iff {p : Part} :
    p.EngagementRight ↔ Tied p.engagedOn p.attendance ∧ p.EngagedOnDuty ∧ p.ClosingIdle := by
  rw [Part.tied_attendance_iff]
  constructor
  · rintro ⟨hmember, hrecord⟩
    refine ⟨fun m n => ⟨fun h => ?_, ?_⟩, fun m x hx he => ?_, fun i c hc hclosing => ?_⟩
    · obtain ⟨x, hx, he⟩ := Part.engagedOn_eq_some.1 h
      obtain ⟨-, i, c, r, hc, hn, hr, hm, hk⟩ := hmember m x n hx he
      exact ⟨i, c, hc, hn, Callout.mem_activeMembers.2 ⟨r, hr, hm, hk⟩⟩
    · rintro ⟨i, c, hc, rfl, hm⟩
      obtain ⟨r, hr, rfl, hk⟩ := Callout.mem_activeMembers.1 hm
      exact Part.engagedOn_eq_some.2 (hrecord i c r hc hr hk).2
    · obtain ⟨n, hn⟩ := Option.ne_none_iff_exists'.1 he
      exact (hmember m x n hx hn).1
    · refine List.eq_nil_iff_forall_not_mem.2 fun m hm => ?_
      obtain ⟨r, hr, -, hk⟩ := Callout.mem_activeMembers.1 hm
      exact (hrecord i c r hc hr hk).1 hclosing
  · rintro ⟨htied, hduty, hidle⟩
    refine ⟨fun m x n hx hn => ⟨hduty m x hx (by rw [hn]; nofun), ?_⟩, fun i c r hc hr hk => ?_⟩
    · obtain ⟨i, c, hc, hcn, hm⟩ := (htied m n).1 (Part.engagedOn_eq_some.2 ⟨x, hx, hn⟩)
      obtain ⟨r, hr, hrm, hk⟩ := Callout.mem_activeMembers.1 hm
      exact ⟨i, c, r, hc, hcn, hr, hrm, hk⟩
    · have hm : r.member ∈ c.activeMembers := Callout.mem_activeMembers.2 ⟨r, hr, rfl, hk⟩
      refine ⟨fun hclosing => ?_, Part.engagedOn_eq_some.1 ((htied r.member c.number).2 ⟨i, c, hc, rfl, hm⟩)⟩
      rw [hidle i c hc hclosing] at hm
      cases hm

theorem Part.commitmentRight_iff {p : Part} : p.CommitmentRight ↔ Tied p.committedTo p.crews := by
  have claimed (ap : Appliance) (n : CalloutNo) : (∃ i ks, p.crews i = some (n, ks) ∧ ap ∈ ks)
      ↔ ∃ i c, p.callout? i = some c ∧ c.number = n ∧ c.state ≠ .closing ∧ ∃ e ∈ c.appliances, e.letter = ap := by
    refine exists_congr fun i => ?_
    simp only [Part.crews_eq_some]
    constructor
    · rintro ⟨ks, ⟨c, hc, e⟩, hap⟩
      exact ⟨c, hc, congrArg Prod.fst e, Callout.mem_crews.1 (by rw [e]; exact hap)⟩
    · rintro ⟨c, hc, rfl, hap⟩
      exact ⟨_, ⟨c, hc, rfl⟩, Callout.mem_crews.2 hap⟩
  constructor
  · rintro ⟨hcommitted, hlisted⟩ ap n
    rw [claimed]
    refine ⟨hcommitted ap n, ?_⟩
    rintro ⟨i, c, hc, rfl, hs, e, he, rfl⟩
    exact hlisted i c hc hs e he
  · intro h
    exact ⟨fun ap n hn => (claimed ap n).1 ((h ap n).1 hn), fun i c hc hs e he =>
      (h e.letter c.number).2 ((claimed _ _).2 ⟨i, c, hc, rfl, hs, e, he, rfl⟩)⟩

/-! ## What keeps the ties -/

/-- A rule that keeps callouts apart by number keeps engagement and commitment in step with the table. -/
structure Binds (p q : Part) : Prop where
  apart      : p.Apart → q.Apart
  engagement : p.Apart → p.EngagementRight → q.EngagementRight
  commitment : p.Apart → p.CommitmentRight → q.CommitmentRight

/-- What the ties depend on in a callout. -/
def Callout.ties (c : Callout) : CalloutNo × Bool × List MemberId × List Appliance :=
  (c.number, c.state = .closing, c.activeMembers, c.appliances.map ApplianceEntry.letter)

theorem Callout.ties_eq {c d : Callout} : d.ties = c.ties ↔ d.number = c.number
    ∧ (d.state = .closing ↔ c.state = .closing) ∧ d.activeMembers = c.activeMembers
    ∧ d.appliances.map ApplianceEntry.letter = c.appliances.map ApplianceEntry.letter := by
  simp [Callout.ties]

theorem Callout.attendance_of_ties {c d : Callout} (h : d.ties = c.ties) : d.attendance = c.attendance := by
  obtain ⟨hn, -, hm, -⟩ := Callout.ties_eq.1 h
  rw [Callout.attendance, hn, hm, Callout.attendance]

theorem Callout.crews_of_ties {c d : Callout} (h : d.ties = c.ties) : d.crews = c.crews := by
  obtain ⟨hn, hs, -, hl⟩ := Callout.ties_eq.1 h
  simp only [Callout.crews, hn, hs, hl]

section
variable {p q r : Part} {i : SlotId} {c d : Callout} {n : CalloutNo}

/-- Slot by slot the same of what matters to a claim. -/
theorem Part.map_callout?_congr {α β : Type} {f : Callout → α} {g : Callout → β} (hfg : ∀ c d, f d = f c → g d = g c)
    (h : (q.callout? i).map f = (p.callout? i).map f) : (q.callout? i).map g = (p.callout? i).map g := by
  cases hq : q.callout? i with
  | none =>
    rw [hq] at h
    rw [Option.map_eq_none_iff.1 h.symm]
  | some d =>
    rw [hq] at h
    obtain ⟨c, hc, e⟩ := Option.map_eq_some_iff.1 h.symm
    rw [hc]
    exact congrArg some (hfg c d e.symm)

theorem Part.Apart.congr (h : p.Apart) (hq : ∀ i, (q.callout? i).map Callout.number = (p.callout? i).map Callout.number) :
    q.Apart := fun i j n hi hj => h i j n ((hq i).symm.trans hi) ((hq j).symm.trans hj)

theorem Part.ClosingIdle.congr (h : p.ClosingIdle) (hq : ∀ i, (q.callout? i).map Callout.ties = (p.callout? i).map Callout.ties) :
    q.ClosingIdle := by
  intro i d hd hs
  have hi := hq i
  rw [hd] at hi
  obtain ⟨c, hc, e⟩ := Option.map_eq_some_iff.1 hi.symm
  obtain ⟨-, hstate, hmembers, -⟩ := Callout.ties_eq.1 e.symm
  rw [hmembers]
  exact h i c hc (hstate.1 hs)

namespace Binds

theorem refl (p : Part) : Binds p p := ⟨id, fun _ => id, fun _ => id⟩

theorem trans (h : Binds p q) (k : Binds q r) : Binds p r :=
  ⟨k.apart ∘ h.apart, fun ha he => k.engagement (h.apart ha) (h.engagement ha he),
    fun ha hc => k.commitment (h.apart ha) (h.commitment ha hc)⟩

theorem ite {b : Prop} [Decidable b] (hq : Binds p q) (hr : Binds p r) : Binds p (if b then q else r) := by
  split
  · exact hq
  · exact hr

/-- The callouts claim what they claimed, and their holders move among themselves. -/
theorem of_ties (ht : ∀ i, (q.callout? i).map Callout.ties = (p.callout? i).map Callout.ties)
    (hm : p.EngagementRight → (∀ m, q.engagedOn m = p.engagedOn m) ∧ q.EngagedOnDuty)
    (hc : ∀ ap, q.committedTo ap = p.committedTo ap) : Binds p q where
  apart := fun h => h.congr fun i => Part.map_callout?_congr (fun _ _ e => (Callout.ties_eq.1 e).1) (ht i)
  engagement := fun _ h => by
    obtain ⟨hengaged, hduty⟩ := hm h
    obtain ⟨htied, -, hidle⟩ := Part.engagementRight_iff.1 h
    refine Part.engagementRight_iff.2 ⟨?_, hduty, hidle.congr ht⟩
    rwa [show q.engagedOn = p.engagedOn from funext hengaged,
      show q.attendance = p.attendance from
        funext fun i => Part.map_callout?_congr (fun _ _ => Callout.attendance_of_ties) (ht i)]
  commitment := fun _ h => by
    rw [Part.commitmentRight_iff] at *
    rwa [show q.committedTo = p.committedTo from funext hc,
      show q.crews = p.crews from funext fun i => Part.map_callout?_congr (fun _ _ => Callout.crews_of_ties) (ht i)]

/-- Neither roster nor appliances have changed, and the callouts claim what they claimed. -/
theorem of_slots (ht : ∀ i, (q.callout? i).map Callout.ties = (p.callout? i).map Callout.ties)
    (hm : q.roster = p.roster) (hc : ∀ ap, q.committedTo ap = p.committedTo ap) : Binds p q := by
  have hmember (m : MemberId) : q.member? m = p.member? m := by rw [Part.member?, hm, Part.member?]
  refine of_ties ht (fun h => ⟨fun m => by rw [Part.engagedOn, hmember, Part.engagedOn], fun m x hx => ?_⟩) hc
  exact (Part.engagementRight_iff.1 h).2.1 m x ((hmember m).symm.trans hx)

theorem of_same (ht : q.table = p.table) (hm : q.roster = p.roster) (hr : q.resolver = p.resolver) : Binds p q :=
  of_slots (fun i => by rw [Part.callout?_congr ht]) hm fun ap => by
    rw [Part.committedTo, Part.appliance, hr, Part.committedTo, Part.appliance]

theorem pages (h : OnlyPages p q) : Binds p q := of_same h.table h.roster h.resolver

theorem raise (p : Part) (n : Notice) : Binds p (p.raise n) := of_same rfl rfl rfl

theorem raiseIf (p : Part) (b : Bool) (n : Notice) : Binds p (p.raiseIf b n) := by
  unfold Part.raiseIf
  exact ite (raise p n) (refl p)

theorem demand (d : Demand) (p : Part) : Binds p (p.demand d) := pages (p.demand_onlyPages d)

theorem demandReleases (o : Owner) (ms : List MemberId) (p : Part) : Binds p (p.demandReleases o ms) :=
  pages (p.demandReleases_onlyPages o ms)

theorem run (x : Option SirenRun) (p : Part) : Binds p (p.setRun x) := of_same rfl rfl rfl

theorem lamps (p : Part) : Binds p p.refreshLamps := of_same rfl rfl rfl

/-- A write of a callout that leaves what it claims. -/
theorem modify {f : Callout → Callout} (h : ∀ c, p.callout? i = some c → (f c).ties = c.ties) : Binds p (p.modify i f) := by
  refine of_slots (fun j => ?_) (by rw [Part.modify_eq]) fun ap => by rw [Part.committedTo, Part.appliance_modify, Part.committedTo]
  by_cases hij : i = j
  · subst hij
    rw [Part.callout?_modify_self]
    cases hc : p.callout? i with
    | none => rfl
    | some c => exact congrArg some (h c hc)
  · rw [Part.callout?_modify_ne _ hij]

/-- Such a write, and what follows it. -/
theorem modified {f : Callout → Callout} (k : Binds (p.modify i f) r) (h : ∀ c, (f c).ties = c.ties := by exact fun _ => rfl) :
    Binds p r :=
  (modify fun c _ => h c).trans k

/-- The same with the notice of a change of state. -/
theorem enter {f : Callout → Callout} (h : ∀ c, p.callout? i = some c → (f c).ties = c.ties) :
    Binds p ((p.modify i f).raise .callout) :=
  (modify h).trans (raise _ _)

/-- An edit of configuration, or a write of the store. -/
theorem edits (h : Edits p q) : Binds p q := by
  refine of_ties (fun i => by rw [Part.callout?_congr h.table]) (fun hp => ⟨fun m => ?_, fun m x hx hn => ?_⟩) h.committed
  · refine Option.ext fun n => ?_
    rw [Part.engagedOn_eq_some, Part.engagedOn_eq_some]
    constructor <;> rintro ⟨x, hx, hn⟩
    · obtain ⟨y, hy, hyn, -⟩ := (h.engaged m n x.availability).1 ⟨x, hx, hn, rfl⟩
      exact ⟨y, hy, hyn⟩
    · obtain ⟨y, hy, hyn, -⟩ := (h.engaged m n x.availability).2 ⟨x, hx, hn, rfl⟩
      exact ⟨y, hy, hyn⟩
  · obtain ⟨n, hn⟩ := Option.ne_none_iff_exists'.1 hn
    obtain ⟨y, hy, hyn, ha⟩ := (h.engaged m n x.availability).1 ⟨x, hx, hn, rfl⟩
    exact ha ▸ (Part.engagementRight_iff.1 hp).2.1 m y hy (by rw [hyn]; nofun)

end Binds

/-! ## One slot rewired -/

/-- The two parts differ at most in slot `i`, whose callout, where there is one, has number `n`. -/
structure SameBut (i : SlotId) (n : CalloutNo) (p q : Part) : Prop where
  before : ∀ c, p.callout? i = some c → c.number = n
  after  : ∀ c, q.callout? i = some c → c.number = n
  others : ∀ j ≠ i, q.callout? j = p.callout? j
  alone  : ∀ j ≠ i, ∀ c, p.callout? j = some c → c.number ≠ n

/-- Where slot `i` is live before, distinct numbers set it apart. -/
theorem SameBut.of_live (ha : p.Apart) (hc : p.callout? i = some c) (hq : ∀ d, q.callout? i = some d → d.number = c.number)
    (ho : ∀ j ≠ i, q.callout? j = p.callout? j) : SameBut i c.number p q where
  before := fun d hd => by rw [hc] at hd; cases hd; rfl
  after := hq
  others := ho
  alone := fun j hj d hd e => hj (ha j i c.number (by rw [hd]; exact congrArg some e) (by rw [hc]; rfl))

theorem SameBut.apart (h : SameBut i n p q) (ha : p.Apart) : q.Apart := by
  have away {j : SlotId} (hj : j ≠ i) : (q.callout? j).map Callout.number ≠ some n := fun e => by
    obtain ⟨d, hd, hdn⟩ := Option.map_eq_some_iff.1 e
    exact h.alone j hj d (h.others j hj ▸ hd) hdn
  have here {m : CalloutNo} (e : (q.callout? i).map Callout.number = some m) : m = n := by
    obtain ⟨d, hd, hdm⟩ := Option.map_eq_some_iff.1 e
    exact hdm.symm.trans (h.after d hd)
  intro j k m hj hk
  by_cases hji : j = i
  · subst hji
    by_contra hne
    exact away (Ne.symm hne) (here hj ▸ hk)
  · by_cases hki : k = i
    · subst hki
      exact absurd (here hk ▸ hj) (away hji)
    · rw [h.others j hji] at hj
      rw [h.others k hki] at hk
      exact ha j k m hj hk

theorem SameBut.engagement (h : SameBut i n p q) (hp : p.EngagementRight)
    (hoff : ∀ m k, k ≠ n → (q.engagedOn m = some k ↔ p.engagedOn m = some k))
    (hon : ∀ m, q.engagedOn m = some n ↔ ∃ c, q.callout? i = some c ∧ m ∈ c.activeMembers) (hduty : q.EngagedOnDuty)
    (hidle : ∀ c, q.callout? i = some c → c.state = .closing → c.activeMembers = []) : q.EngagementRight := by
  obtain ⟨htied, -, hclosing⟩ := Part.engagementRight_iff.1 hp
  refine Part.engagementRight_iff.2 ⟨htied.rewire (i := i) (n := n) ?_ ?_ ?_ ?_ hoff fun m => (hon m).trans ?_, hduty, ?_⟩
  · rintro j hj _ hx
    obtain ⟨c, hc, rfl⟩ := Part.attendance_eq_some.1 hx
    exact h.alone j hj c hc
  · exact fun j hj => by rw [Part.attendance, h.others j hj, Part.attendance]
  · rintro _ hx
    obtain ⟨c, hc, rfl⟩ := Part.attendance_eq_some.1 hx
    exact h.before c hc
  · rintro _ hx
    obtain ⟨c, hc, rfl⟩ := Part.attendance_eq_some.1 hx
    exact h.after c hc
  · constructor
    · rintro ⟨c, hc, hm⟩
      exact ⟨_, Part.attendance_eq_some.2 ⟨c, hc, rfl⟩, hm⟩
    · rintro ⟨_, hx, hm⟩
      obtain ⟨c, hc, rfl⟩ := Part.attendance_eq_some.1 hx
      exact ⟨c, hc, hm⟩
  · intro j c hc hs
    by_cases hj : j = i
    · subst hj
      exact hidle c hc hs
    · exact hclosing j c (h.others j hj ▸ hc) hs

theorem SameBut.commitment (h : SameBut i n p q) (hp : p.CommitmentRight)
    (hoff : ∀ ap k, k ≠ n → (q.committedTo ap = some k ↔ p.committedTo ap = some k))
    (hon : ∀ ap, q.committedTo ap = some n ↔ ∃ c, q.callout? i = some c ∧ ap ∈ c.crews.2) : q.CommitmentRight := by
  rw [Part.commitmentRight_iff] at *
  refine hp.rewire (i := i) (n := n) ?_ ?_ ?_ ?_ hoff fun ap => (hon ap).trans ?_
  · rintro j hj _ hx
    obtain ⟨c, hc, rfl⟩ := Part.crews_eq_some.1 hx
    exact h.alone j hj c hc
  · exact fun j hj => by rw [Part.crews, h.others j hj, Part.crews]
  · rintro _ hx
    obtain ⟨c, hc, rfl⟩ := Part.crews_eq_some.1 hx
    exact h.before c hc
  · rintro _ hx
    obtain ⟨c, hc, rfl⟩ := Part.crews_eq_some.1 hx
    exact h.after c hc
  · constructor
    · rintro ⟨c, hc, hap⟩
      exact ⟨_, Part.crews_eq_some.2 ⟨c, hc, rfl⟩, hap⟩
    · rintro ⟨_, hx, hap⟩
      obtain ⟨c, hc, rfl⟩ := Part.crews_eq_some.1 hx
      exact ⟨c, hc, hap⟩

end

end Sys2Proof.Machine


/-!
SUPPORT. The writes that rewire a slot, each with all it changes: members who leave, a member who answers, appliances
committed, a callout made, and a callout that lets all go.
-/

namespace Sys2Proof.Machine

open Sys2Proof

variable {p q r : Part} {i : SlotId} {c d : Callout} {n k : CalloutNo} {m : MemberId}

/-! ## Members who leave a callout -/

theorem Member.engaged_leave (n : CalloutNo) (x : Member) :
    (x.leave n).engaged = if x.engaged = some n then none else x.engaged := by
  unfold Member.leave
  split <;> rfl

theorem Member.leave_leave (n : CalloutNo) (x : Member) : (x.leave n).leave n = x.leave n := by
  unfold Member.leave
  by_cases h : x.engaged = some n <;> simp [h]

/-- Of the members, those of `who` are no longer engaged on callout `n`. -/
def Leaves (n : CalloutNo) (who : MemberId → Bool) (p q : Part) : Prop :=
  ∀ m, q.member? m = (p.member? m).map (if who m then Member.leave n else id)

namespace Leaves

variable {who : MemberId → Bool}

theorem of_roster (h : q.roster = p.roster) (n : CalloutNo) : Leaves n (fun _ => false) p q := fun m => by
  rw [Part.member?, h]
  exact (congrFun Option.map_id _).symm

theorem engagedOn (h : Leaves n who p q) (m : MemberId) (k : CalloutNo) :
    q.engagedOn m = some k ↔ p.engagedOn m = some k ∧ ¬ (k = n ∧ who m = true) := by
  rw [Part.engagedOn, h m, Part.engagedOn]
  cases p.member? m with
  | none => simp
  | some x =>
    cases hw : who m with
    | false => simp
    | true =>
      simp only [if_true, Option.map_some, Option.bind_some, x.engaged_leave, and_true]
      split
      · next e => simp [e, eq_comm]
      · next e => exact ⟨fun h => ⟨h, fun hk => e (hk ▸ h)⟩, And.left⟩

theorem onDuty (h : Leaves n who p q) (hp : p.EngagedOnDuty) : q.EngagedOnDuty := by
  intro m y hy hn
  rw [h m] at hy
  obtain ⟨x, hx, e⟩ := Option.map_eq_some_iff.1 hy
  split at e
  · subst e
    rw [x.leave_frame]
    refine hp m x hx fun e => hn ?_
    rw [x.engaged_leave, e]
    exact if_neg nofun
  · subst e
    exact hp m x hx hn

theorem congr_left (h : Leaves n who q r) (e : q.roster = p.roster) : Leaves n who p r := fun m => by
  rw [h m, Part.member?, e, Part.member?]

theorem congr_right (h : Leaves n who p q) (e : r.roster = q.roster) : Leaves n who p r := fun m => by
  rw [Part.member?, e]
  exact h m

end Leaves

theorem Part.disengage_leaves (m : MemberId) (n : CalloutNo) (p : Part) : Leaves n (fun x => x == m) p (p.disengage m n) := by
  intro j
  rw [Part.disengage, Part.member?_modifyMember]
  by_cases h : j = m
  · simp [h]
  · simp [h]

theorem Part.disengageList_leaves (n : CalloutNo) (ms : List MemberId) (p : Part) :
    Leaves n ms.contains p (ms.foldl (fun p m => p.disengage m n) p) := by
  induction ms generalizing p with
  | nil => exact .of_roster rfl n
  | cons x rest ih =>
    intro j
    rw [List.foldl_cons, ih (p.disengage x n) j, p.disengage_leaves x n j, Option.map_map]
    congr 1
    funext y
    rw [List.contains_cons, Function.comp_apply]
    by_cases hx : j = x
    · subst hx
      by_cases hr : j ∈ rest <;> simp [hr, Member.leave_leave]
    · simp [hx]

theorem Part.disengageAll_leaves (n : CalloutNo) (p : Part) : Leaves n (fun _ => true) p (p.disengageAll n) :=
  fun _ => Table.get_map _ _ _

/-! ## Records and the members they claim -/

theorem Callout.mem_activeMembers_iff {c : Callout} {m : MemberId} :
    m ∈ c.activeMembers ↔ ∃ r ∈ c.responses, r.active = true ∧ r.member = m := by
  simp only [Callout.activeMembers, List.mem_map, List.mem_filter, and_assoc]

theorem Callout.mem_activeMembers_mapRecords {who : MemberId → Bool} {f : Response → Response}
    (hf : ∀ r, (f r).member = r.member ∧ (f r).active = false) (c : Callout) (m : MemberId) :
    m ∈ (c.mapRecords who f).activeMembers ↔ m ∈ c.activeMembers ∧ ¬ who m = true := by
  simp only [Callout.mem_activeMembers_iff, Callout.mapRecords, List.mem_map]
  constructor
  · rintro ⟨_, ⟨r, hr, rfl⟩, ha, rfl⟩
    split at ha
    · rw [(hf r).2] at ha
      cases ha
    · next hw =>
      rw [if_neg hw]
      exact ⟨⟨r, hr, ha, rfl⟩, hw⟩
  · rintro ⟨⟨r, hr, ha, rfl⟩, hw⟩
    exact ⟨r, ⟨r, hr, if_neg hw⟩, ha, rfl⟩

theorem Response.release_active (t : Nat) (r : Response) : (r.release t).active = false := by
  unfold Response.release
  split
  · next h => rw [Response.active, h]; rfl
  · rfl

theorem evictOne_active (l : List Response) : (evictOne l).filter Response.active = l.filter Response.active := by
  induction l with
  | nil => rfl
  | cons r rest ih =>
    unfold evictOne
    split
    · next h => rw [List.filter_cons_of_pos h, List.filter_cons_of_pos h, ih]
    · next h => rw [List.filter_cons_of_neg h]

/-- A record that joins the list claims its member when it is active; one that makes way claimed none. -/
theorem Callout.activeMembers_addRecord (x : Response) (c : Callout) :
    (c.addRecord x).activeMembers = c.activeMembers ++ if x.active then [x.member] else [] := by
  have h : (if c.responses.length < Config.responsePlaces then c.responses else evictOne c.responses).filter Response.active
      = c.responses.filter Response.active := by
    split
    · rfl
    · exact evictOne_active _
  simp only [Callout.activeMembers, Callout.addRecord, List.filter_append, h, List.map_append]
  congr 1
  cases hx : x.active <;> simp [hx]

theorem Callout.mem_activeMembers_replaceRecord {x : Response} (h : c.record? x.member ≠ none) :
    m ∈ (c.replaceRecord x).activeMembers ↔ if m = x.member then x.active = true else m ∈ c.activeMembers := by
  have hold : x.member ∈ c.responses.map Response.member := by
    by_contra hno
    exact h (Callout.record?_eq_none.2 hno)
  simp only [Callout.mem_activeMembers_iff, Callout.replaceRecord, List.mem_map]
  split
  · next e =>
    subst e
    constructor
    · rintro ⟨_, ⟨y, -, rfl⟩, ha, hm⟩
      split at ha
      · exact ha
      · next hy => exact absurd (by rwa [if_neg hy] at hm) hy
    · intro ha
      obtain ⟨y, hy, e⟩ := List.mem_map.1 hold
      exact ⟨x, ⟨y, hy, if_pos e⟩, ha, rfl⟩
  · next hne =>
    constructor
    · rintro ⟨_, ⟨y, hy, rfl⟩, ha, hm⟩
      split at hm
      · exact absurd hm.symm hne
      · next hy' =>
        rw [if_neg hy'] at ha
        exact ⟨y, hy, ha, hm⟩
    · rintro ⟨y, hy, ha, rfl⟩
      exact ⟨y, ⟨y, hy, if_neg hne⟩, ha, rfl⟩

theorem Callout.responseRecord_active (c : Callout) (m : MemberId) (f : ResponseForm) (source : Source)
    (old : Option Response) : (c.responseRecord m f source old).active = f.engages := by
  cases f <;> rfl

/-- After a response its member is claimed just when the response engages, and every other member as before. -/
theorem Callout.mem_activeMembers_putResponse (m : MemberId) (f : ResponseForm) (source : Source) (c : Callout)
    (x : MemberId) : x ∈ (c.putResponse m f source).activeMembers ↔ if x = m then f.engages = true else x ∈ c.activeMembers := by
  rw [Callout.putResponse_eq]
  split
  · next r hr =>
    have hrecord : (c.numbered (needsSequence f (some r))).record? m ≠ none := by
      rw [c.numbered_frame]
      exact fun h => Option.some_ne_none r (hr.symm.trans h)
    rw [Callout.mem_activeMembers_replaceRecord hrecord, Callout.responseRecord_active, c.numbered_frame]
    exact Iff.rfl
  · next hnone =>
    have hnew : m ∉ c.activeMembers := fun h => by
      obtain ⟨r, hr, -, rfl⟩ := Callout.mem_activeMembers_iff.1 h
      exact Callout.record?_eq_none.1 hnone (List.mem_map_of_mem hr)
    have hsame : (c.numbered (needsSequence f none)).activeMembers = c.activeMembers := by rw [c.numbered_frame]; rfl
    rw [Callout.activeMembers_addRecord, Callout.responseRecord_active, hsame, List.mem_append]
    by_cases e : x = m
    · subst e
      rw [or_iff_right hnew, if_pos rfl]
      cases f.engages <;> simp [Callout.responseRecord]
    · rw [if_neg e]
      refine or_iff_left fun h => e ?_
      cases hf : f.engages with
      | false => rw [hf] at h; cases h
      | true => rw [hf] at h; exact List.mem_singleton.1 h

theorem Callout.putResponse_fields (m : MemberId) (f : ResponseForm) (source : Source) (c : Callout) :
    c.putResponse m f source = { c with
      responses := (c.putResponse m f source).responses, sequence := (c.putResponse m f source).sequence } := by
  rw [Callout.putResponse_eq]
  split <;> rw [c.numbered_frame] <;> rfl

/-! ## The members of a slot rewired -/

/-- A slot's callout claims other members than before, and who is engaged on it has changed with it. -/
theorem Binds.of_members (hc : p.callout? i = some c) (hd : q.callout? i = some d) (ho : ∀ j ≠ i, q.callout? j = p.callout? j)
    (hcrews : d.crews = c.crews) (hcommitted : ∀ ap, q.committedTo ap = p.committedTo ap)
    (he : p.Apart → p.EngagementRight → (∀ m k, k ≠ c.number → (q.engagedOn m = some k ↔ p.engagedOn m = some k))
      ∧ (∀ m, q.engagedOn m = some c.number ↔ m ∈ d.activeMembers) ∧ q.EngagedOnDuty
      ∧ (d.state = .closing → d.activeMembers = [])) : Binds p q := by
  have hbut (ha : p.Apart) : SameBut i c.number p q := .of_live ha hc (fun x hx => by
    rw [hd] at hx
    cases hx
    exact congrArg Prod.fst hcrews) ho
  refine ⟨fun ha => (hbut ha).apart ha, fun ha hp => ?_, fun ha hp => ?_⟩
  · obtain ⟨hoff, hon, hduty, hidle⟩ := he ha hp
    refine (hbut ha).engagement hp hoff (fun m => (hon m).trans ⟨fun h => ⟨d, hd, h⟩, ?_⟩) hduty fun x hx => ?_
    · rintro ⟨x, hx, h⟩
      rw [hd] at hx
      cases hx
      exact h
    · rw [hd] at hx
      cases hx
      exact hidle
  · rw [Part.commitmentRight_iff] at *
    rw [show q.committedTo = p.committedTo from funext hcommitted]
    rw [show q.crews = p.crews from funext fun j => ?_]
    · exact hp
    · by_cases hj : j = i
      · rw [Part.crews, Part.crews, hj, hd, hc]
        exact congrArg some hcrews
      · rw [Part.crews, ho j hj, Part.crews]

theorem Part.EngagementRight.engagedOn_iff (h : p.EngagementRight) (ha : p.Apart) (hc : p.callout? i = some c) (m : MemberId) :
    p.engagedOn m = some c.number ↔ m ∈ c.activeMembers := by
  rw [Part.tied_attendance_iff.1 (Part.engagementRight_iff.1 h).1 m c.number]
  constructor
  · rintro ⟨j, x, hx, hn, hm⟩
    obtain rfl := ha i j c.number (by rw [hc]; rfl) (by rw [hx]; exact congrArg some hn)
    rw [hc] at hx
    cases hx
    exact hm
  · exact fun hm => ⟨i, c, hc, rfl, hm⟩

end Sys2Proof.Machine


/-!
SUPPORT. The rules that rewire one slot keep the ties: releases, withdrawals, responses, availability, appliances, a callout
made, and a callout that lets all go.
-/

namespace Sys2Proof.Machine

open Sys2Proof

variable {p q r : Part} {i : SlotId} {c d : Callout} {n k : CalloutNo} {m : MemberId}

/-! ## Releases and withdrawals (R54, R91) -/

/-- Members leave callout `c`: it claims them no more, and they are engaged on it no more. -/
theorem Binds.leave {who : MemberId → Bool} (hc : p.callout? i = some c) (hd : q.callout? i = some d)
    (ho : ∀ j ≠ i, q.callout? j = p.callout? j) (hcrews : d.crews = c.crews) (hstate : d.state = c.state)
    (hcommitted : ∀ ap, q.committedTo ap = p.committedTo ap) (hq : Leaves c.number who p q)
    (hm : ∀ m ∈ c.activeMembers, m ∈ d.activeMembers ↔ ¬ who m = true) (hsub : ∀ m ∈ d.activeMembers, m ∈ c.activeMembers) :
    Binds p q := by
  refine .of_members hc hd ho hcrews hcommitted fun ha hp => ?_
  obtain ⟨-, hduty, hidle⟩ := Part.engagementRight_iff.1 hp
  refine ⟨fun m k hk => (hq.engagedOn m k).trans (and_iff_left fun h => hk h.1), fun m => ?_, hq.onDuty hduty, fun hs => ?_⟩
  · rw [hq.engagedOn m, hp.engagedOn_iff ha hc]
    constructor
    · exact fun ⟨h, hw⟩ => (hm m h).2 fun e => hw ⟨rfl, e⟩
    · exact fun h => ⟨hsub m h, fun hw => (hm m (hsub m h)).1 h hw.2⟩
  · refine List.eq_nil_iff_forall_not_mem.2 fun m hmem => ?_
    have := hsub m hmem
    rw [hidle i c hc (hstate ▸ hs)] at this
    cases this

theorem Part.committedTo_congr (h : q.resolver = p.resolver) (ap : Appliance) : q.committedTo ap = p.committedTo ap := by
  rw [Part.committedTo, Part.appliance, h, Part.committedTo, Part.appliance]

theorem Part.modifyMember_frame (m : MemberId) (f : Member → Member) (p : Part) :
    p.modifyMember m f = { p with roster := (p.modifyMember m f).roster } := by
  unfold Part.modifyMember
  split <;> rfl

theorem Part.disengageList_frame (n : CalloutNo) (ms : List MemberId) (p : Part) :
    ms.foldl (fun p m => p.disengage m n) p = { p with roster := (ms.foldl (fun p m => p.disengage m n) p).roster } := by
  induction ms generalizing p with
  | nil => rfl
  | cons m rest ih =>
    rw [List.foldl_cons, ih, Part.disengage, Part.modifyMember_frame]

/-- The records of some members are made inactive and these members disengaged. -/
theorem Binds.retire {who : MemberId → Bool} {f : Response → Response} {roster : Roster} (hc : p.callout? i = some c)
    (hf : ∀ r, (f r).member = r.member ∧ (f r).active = false)
    (hq : Leaves c.number who p { p.modify i (Callout.mapRecords who f) with roster := roster }) :
    Binds p { p.modify i (Callout.mapRecords who f) with roster := roster } := by
  have hd : ({ p.modify i (Callout.mapRecords who f) with roster := roster } : Part).callout? i
      = some (c.mapRecords who f) :=
    (Part.callout?_modify_self p i _).trans (by rw [hc]; rfl)
  refine .leave hc hd (fun j hj => Part.callout?_modify_ne p (Ne.symm hj) _) rfl rfl
    (Part.committedTo_congr (by rw [Part.modify_eq])) hq (fun m hm => ?_) fun m hm => ?_
  · rw [Callout.mem_activeMembers_mapRecords hf, and_iff_right hm]
  · exact ((Callout.mem_activeMembers_mapRecords hf c m).1 hm).1

theorem Part.releaseMembers_binds (i : SlotId) (ms : List MemberId) (p : Part) : Binds p (p.releaseMembers i ms) := by
  unfold Part.releaseMembers
  split
  · exact .refl p
  · next c hc =>
    refine .trans ?_ (.raiseIf _ _ _)
    have hleaves := Part.disengageList_leaves c.number ms (p.modify i (Callout.mapRecords ms.contains (Response.release c.elapsed)))
    have hleaves := hleaves.congr_left (p := p) (Part.roster_modify i _ p)
    rw [Part.disengageList_frame] at hleaves ⊢
    exact .retire hc (fun r => ⟨r.release_member _, r.release_active _⟩) hleaves

theorem Part.withdrawMember_binds (hc : p.callout? i = some c) (m : MemberId) (source : Source) :
    Binds p (p.withdrawMember i c m source) := by
  have hleaves := (Part.disengage_leaves m c.number (p.modify i (Callout.mapRecords (fun x => x == m)
    (Response.withdraw source c.elapsed)))).congr_left (p := p) (Part.roster_modify i _ p)
  unfold Part.withdrawMember
  rw [Part.disengage, Part.modifyMember_frame] at hleaves ⊢
  exact .retire hc (fun r => ⟨rfl, rfl⟩) hleaves

/-! ## Availability (R54, R61) -/

/-- One member is written, and stays engaged on what it was; where that is a callout, it stays AVAILABLE. -/
theorem Part.modifyMember_binds {f : Member → Member} (hf : ∀ x, (f x).engaged = x.engaged)
    (ha : p.EngagementRight → ∀ x, p.member? m = some x → x.engaged ≠ none → (f x).availability = .available) :
    Binds p (p.modifyMember m f) := by
  have hmember (j : MemberId) := p.member?_modifyMember m j f
  refine .of_ties (fun i => by rw [Part.callout?_modifyMember]) (fun hp => ⟨fun j => ?_, fun j y hy hn => ?_⟩)
    (Part.committedTo_congr (by rw [Part.modifyMember_frame]))
  · rw [Part.engagedOn, hmember, Part.engagedOn]
    split
    · next e =>
      subst e
      cases p.member? j with
      | none => rfl
      | some x => exact hf x
    · rfl
  · rw [hmember] at hy
    split at hy
    · obtain ⟨x, hx, rfl⟩ := Option.map_eq_some_iff.1 hy
      exact ha hp x hx (hf x ▸ hn)
    · exact (Part.engagementRight_iff.1 hp).2.1 j y hy hn

theorem Part.setOnDuty_binds (m : MemberId) (p : Part) : Binds p (p.setOnDuty m) := by
  refine p.modifyMember_binds (fun x => ?_) fun hp x hx hn => ?_ <;> split
  · rfl
  · rfl
  · rfl
  · exact (Part.engagementRight_iff.1 hp).2.1 m x hx hn

/-! ## Responses (R83 to R90) -/

/-- The part after a response has been put on record and its member engaged or disengaged. -/
def Part.answered (i : SlotId) (n : CalloutNo) (m : MemberId) (f : ResponseForm) (source : Source) (p : Part) : Part :=
  let q := p.modify i (Callout.putResponse m f source)
  if f.engages then q.engage m n else q.disengage m n

theorem Part.engagedOn_engage (n : CalloutNo) {x : Member} (hx : p.member? m = some x) (j : MemberId) :
    (p.engage m n).engagedOn j = if j = m then some n else p.engagedOn j := by
  rw [Part.engagedOn, Part.engage, Part.member?_modifyMember]
  split
  · rw [hx]
    rfl
  · rfl

/-- A response is put on record; one that engages its member finds it AVAILABLE and on no other callout. -/
theorem Part.answered_binds (hc : p.callout? i = some c) (hs : c.state ≠ .closing) (f : ResponseForm) (source : Source)
    (hx : p.Apart → p.EngagementRight → f.engages = true →
      ∃ x, p.member? m = some x ∧ x.availability = .available ∧ ∀ n ∈ x.engaged, n = c.number) :
    Binds p (p.answered i c.number m f source) := by
  have hmember (j : MemberId) : (p.modify i (Callout.putResponse m f source)).member? j = p.member? j := by
    rw [Part.member?, Part.roster_modify, Part.member?]
  have hframe : ∃ roster, p.answered i c.number m f source = { p.modify i (Callout.putResponse m f source) with roster := roster } := by
    unfold Part.answered
    simp only
    split
    · exact ⟨_, Part.modifyMember_frame m _ _⟩
    · exact ⟨_, Part.modifyMember_frame m _ _⟩
  have hcallout (j : SlotId) : (p.answered i c.number m f source).callout? j
      = (p.modify i (Callout.putResponse m f source)).callout? j := by
    obtain ⟨roster, e⟩ := hframe
    rw [e]
    rfl
  have hmem := c.mem_activeMembers_putResponse m f source
  have hput := c.putResponse_fields m f source
  have hcrews : (c.putResponse m f source).crews = c.crews := by rw [hput]; rfl
  have hstate : (c.putResponse m f source).state = c.state := by rw [hput]
  refine .of_members hc ((hcallout i).trans (by rw [Part.callout?_modify_self, hc]; rfl))
    (fun j hj => (hcallout j).trans (Part.callout?_modify_ne p (Ne.symm hj) _)) hcrews
    (fun ap => ?_) fun ha hp => ?_
  · obtain ⟨roster, e⟩ := hframe
    rw [e]
    exact Part.committedTo_congr (by rw [Part.modify_eq]) ap
  · have hduty := (Part.engagementRight_iff.1 hp).2.1
    rw [hstate]
    cases hf : f.engages with
    | true =>
      obtain ⟨x, hx, hav, hfree⟩ := hx ha hp hf
      have hq : p.answered i c.number m f source = (p.modify i (Callout.putResponse m f source)).engage m c.number := by
        simp only [Part.answered, hf, if_true]
      have hengaged (j : MemberId) : (p.answered i c.number m f source).engagedOn j
          = if j = m then some c.number else p.engagedOn j := by
        rw [hq, Part.engagedOn_engage _ ((hmember m).trans hx), Part.engagedOn, hmember, Part.engagedOn]
      refine ⟨fun j k hk => ?_, fun j => ?_, fun j y hy hn => ?_, fun e => absurd e hs⟩
      · rw [hengaged]
        split
        · next e =>
          subst e
          refine iff_of_false (fun h => hk (Option.some.inj h).symm) fun h => hk ?_
          rw [Part.engagedOn, hx] at h
          exact hfree k h
        · rfl
      · rw [hengaged, hmem, hf]
        split
        · simp
        · exact hp.engagedOn_iff ha hc j
      · rw [hq, Part.engage, Part.member?_modifyMember, hmember, hmember, hx] at hy
        split at hy
        · cases hy
          exact hav
        · exact hduty j y hy hn
    | false =>
      have hleaves : Leaves c.number (fun x => x == m) p (p.answered i c.number m f source) := by
        have hq : p.answered i c.number m f source = (p.modify i (Callout.putResponse m f source)).disengage m c.number := by
          simp only [Part.answered, hf]
          rfl
        rw [hq]
        exact (Part.disengage_leaves m c.number _).congr_left (Part.roster_modify i _ p)
      refine ⟨fun j k hk => (hleaves.engagedOn j k).trans (and_iff_left fun h => hk h.1), fun j => ?_, hleaves.onDuty hduty,
        fun e => absurd e hs⟩
      rw [hleaves.engagedOn, hmem, hf, hp.engagedOn_iff ha hc]
      by_cases e : j = m <;> simp [e]

end Sys2Proof.Machine


/-!
SUPPORT. The rules of releases, reassessment, leaving OPEN, becoming FREE, reports and the work within an event keep the ties.
-/

namespace Sys2Proof.Machine

open Sys2Proof

variable {p q r : Part} {i : SlotId} {c d : Callout} {n k : CalloutNo} {m : MemberId}

/-! ## Reassessment and the state it brings -/

theorem Part.recompute_binds (i : SlotId) (p : Part) : Binds p (p.recompute i) := by
  unfold Part.recompute
  split
  · exact .refl p
  · exact .modified (.raiseIf _ _ _)

theorem Part.degrade_binds (i : SlotId) (p : Part) : Binds p (p.degrade i) :=
  .modified (.raise _ _)

/-- A callout goes from one plain state to another. -/
theorem Part.enter_binds {st : CalloutState} (h : p.PlainAt i) (hst : st.plain = true) : Binds p (p.enter i st) := by
  have away {x : CalloutState} (hx : x.plain = true) : x ≠ .closing := by rintro rfl; cases hx
  refine .enter fun c hc => Callout.ties_eq.2 ⟨rfl, ?_, rfl, rfl⟩
  exact iff_of_false (away hst) (away (h c hc))

theorem Part.enterCrewed_binds (h : p.PlainAt i) : Binds p (p.enterCrewed i) := by
  have h0 : Binds p ((p.enter i .crewed).modify i Callout.stopWindow) :=
    (Part.enter_binds h rfl).trans (.modify fun _ _ => rfl)
  unfold Part.enterCrewed
  simp only
  split
  · exact h0
  · exact .ite h0 (((h0.trans (Part.releaseMembers_binds i _ _)).trans (.demandReleases _ _ _)).trans
      (Part.recompute_binds i _))

theorem Part.enterCounting_binds (h : p.PlainAt i) : Binds p (p.enterCounting i) :=
  (Part.enter_binds h rfl).trans (.modify fun _ _ => rfl)

theorem Part.takeOutcome_binds (i : SlotId) (p : Part) : Binds p (p.takeOutcome i) := by
  unfold Part.takeOutcome
  split
  · exact .refl p
  · next c hc =>
    split
    · next hs => exact .ite (Part.enterCrewed_binds (Part.plainAt_of hc (by rw [hs]; rfl))) (.refl p)
    · next hs => exact .ite (Part.enterCrewed_binds (Part.plainAt_of hc (by rw [hs]; rfl))) (.refl p)
    · next hs => exact .ite (.refl p) (Part.enterCounting_binds (Part.plainAt_of hc (by rw [hs]; rfl)))
    all_goals exact .refl p

theorem Part.reassess_binds (i : SlotId) (p : Part) : Binds p (p.reassess i) := by
  unfold Part.reassess
  split
  · exact .refl p
  · exact .ite (.refl p) ((p.recompute_binds i).trans (Part.takeOutcome_binds i _))

/-! ## Leaving OPEN, and the siren -/

theorem Part.sirenRequest_binds (pat : PatternId) (n : Nat) (p : Part) : Binds p (p.sirenRequest pat n) := by
  unfold Part.sirenRequest
  split
  · exact .refl p
  · split <;> exact .run _ _

theorem Part.leaveFor_binds (h : p.PlainAt i) (o : Owner) (kept : GroupSet) :
    Binds p (if kept = 0#16 then (p.modify i fun c => { c with alertStatus := .ended }).enterCounting i
      else ((p.modify i fun c => { c with alertGroups := kept, alertStatus := .outstanding }).demandGroups
        .alert o kept).enter i .alerting) := by
  refine .ite ?_ ?_
  · refine .modified (Part.enterCounting_binds (h.modify ?_))
    exact fun _ => rfl
  · refine .modified (.trans (.demand _ _) (Part.enter_binds ((h.modify ?_).pages (Part.demandGroups_onlyPages _ _ _ _)) rfl))
    exact fun _ => rfl

theorem Part.leaveOpen_binds (h : p.PlainAt i) : Binds p (p.leaveOpen i) := by
  unfold Part.leaveOpen
  split
  · exact .refl p
  · next c _ =>
    have hleft : (p.modify i (Callout.leaving (p.judgedYes c.primary))).PlainAt i := h.modify fun _ => rfl
    have hleave : Binds p (p.modify i (Callout.leaving (p.judgedYes c.primary))) := .modify fun _ _ => rfl
    exact ((hleave.trans (Part.leaveFor_binds hleft c.owner (p.judgedYes c.primary))).trans
      (.ite (Part.sirenRequest_binds _ _ _) (.refl _))).trans (Part.takeOutcome_binds i _)

/-! ## A callout that lets all go (R30, R32) -/

/-- Every member leaves callout `n`, and every appliance. -/
structure LetsGo (n : CalloutNo) (p q : Part) : Prop where
  members : Leaves n (fun _ => true) p q
  commits : ∀ ap, q.committedTo ap = if p.committedTo ap = some n then none else p.committedTo ap

theorem LetsGo.all (n : CalloutNo) (p : Part) : LetsGo n p ((p.disengageAll n).uncommitAll n) where
  members := p.disengageAll_leaves n
  commits := fun ap => by
    simp only [Part.committedTo, Part.appliance, Part.uncommitAll, Part.disengageAll, Part.onResolver_resolver, Table.get_map]
    split <;> simp_all

/-- Letting go once more changes nothing. -/
theorem LetsGo.trans (h : LetsGo n p q) (k : LetsGo n q r) : LetsGo n p r where
  members := fun m => by
    rw [k.members, h.members, Option.map_map]
    congr 1
    funext x
    exact x.leave_leave n
  commits := fun ap => by
    rw [k.commits, h.commits]
    by_cases e : p.committedTo ap = some n <;> simp [e]

theorem LetsGo.congr_left (h : LetsGo n q r) (hm : q.roster = p.roster) (hr : q.resolver = p.resolver) : LetsGo n p r :=
  ⟨h.members.congr_left hm, fun ap => by rw [h.commits, Part.committedTo_congr hr]⟩

theorem LetsGo.congr_right (h : LetsGo n p q) (hm : r.roster = q.roster) (hr : r.resolver = q.resolver) : LetsGo n p r :=
  ⟨h.members.congr_right hm, fun ap => by rw [Part.committedTo_congr hr, h.commits]⟩

/-- A live callout lets all go, and its slot is FREE, or CLOSING without a member on record. -/
theorem LetsGo.binds (h : LetsGo c.number p q) (hc : p.callout? i = some c) (ho : ∀ j ≠ i, q.callout? j = p.callout? j)
    (hq : ∀ d, q.callout? i = some d → d.number = c.number ∧ d.state = .closing ∧ d.activeMembers = []) : Binds p q := by
  have hbut (ha : p.Apart) : SameBut i c.number p q := .of_live ha hc (fun d hd => (hq d hd).1) ho
  refine ⟨fun ha => (hbut ha).apart ha, fun ha hp => ?_, fun ha hp => ?_⟩
  · refine (hbut ha).engagement hp (fun m k hk => (h.members.engagedOn m k).trans (and_iff_left fun e => hk e.1))
      (fun m => (h.members.engagedOn m _).trans (iff_of_false (fun e => e.2 ⟨rfl, rfl⟩) ?_))
      (h.members.onDuty (Part.engagementRight_iff.1 hp).2.1) fun d hd _ => (hq d hd).2.2
    rintro ⟨d, hd, hm⟩
    rw [(hq d hd).2.2] at hm
    cases hm
  · refine (hbut ha).commitment hp (fun ap k hk => ?_) fun ap => ?_
    · rw [h.commits]
      split
      · next e => exact iff_of_false nofun fun e' => hk (Option.some.inj (e'.symm.trans e))
      · rfl
    · rw [h.commits]
      refine iff_of_false ?_ ?_
      · split
        · nofun
        · next e => exact e
      · rintro ⟨d, hd, hap⟩
        exact (Callout.mem_crews.1 hap).1 (hq d hd).2.1

theorem Part.withdrawFor_binds (i : SlotId) (ks : BatchKind → Bool) (p : Part) : Binds p (p.withdrawFor i ks).2 := by
  unfold Part.withdrawFor
  split
  · exact .refl p
  · next c _ =>
    have h : Binds p (p.withdraw c.owner ks).2 := .pages (p.withdraw_onlyPages c.owner ks)
    exact .ite (h.trans (Part.degrade_binds i _)) h

/-- A withdrawal leaves roster and resolver, every other slot, and of its own callout all but the flags. -/
theorem Part.withdrawFor_frame (i : SlotId) (ks : BatchKind → Bool) (p : Part) :
    (p.withdrawFor i ks).2.roster = p.roster ∧ (p.withdrawFor i ks).2.resolver = p.resolver
    ∧ (∀ j ≠ i, (p.withdrawFor i ks).2.callout? j = p.callout? j)
    ∧ ((p.withdrawFor i ks).2.callout? i).map Callout.number = (p.callout? i).map Callout.number := by
  unfold Part.withdrawFor
  split
  · exact ⟨rfl, rfl, fun _ _ => rfl, rfl⟩
  · next c _ =>
    have h := p.withdraw_onlyPages c.owner ks
    simp only
    split
    · refine ⟨(Part.roster_modify i _ _).trans h.roster, ?_, fun j hj => ?_, ?_⟩
      · rw [Part.degrade, Part.modify_eq]
        exact h.resolver
      · rw [Part.degrade, Part.callout?_raise, Part.callout?_modify_ne _ (Ne.symm hj), h.callout?]
      · rw [Part.degrade, Part.callout?_raise, Part.callout?_modify_self, h.callout?, Option.map_map]
        rfl
    · exact ⟨h.roster, h.resolver, fun j _ => h.callout? j, by rw [h.callout?]⟩

/-- A callout that becomes FREE lets all go, and nothing else of the table changes. -/
theorem Part.becomeFree_letsGo (hc : p.callout? i = some c) (endCode : Nat) :
    LetsGo c.number p (p.becomeFree i endCode) ∧ ∀ j ≠ i, (p.becomeFree i endCode).callout? j = p.callout? j := by
  obtain ⟨hm, hr, ho, hn⟩ := p.withdrawFor_frame i everyKind
  unfold Part.becomeFree
  simp only
  generalize (p.withdrawFor i everyKind).2 = q at hm hr ho hn
  rw [hc, Option.map_some, Option.map_eq_some_iff] at hn
  obtain ⟨d, hd, hn⟩ := hn
  rw [hd]
  refine ⟨hn ▸ ((LetsGo.all d.number q).congr_left hm hr).congr_right rfl rfl, fun j hj => ?_⟩
  rw [← ho j hj]
  simp [Part.callout?, Part.slot, Part.onTable, Table.get_set, Ne.symm hj, Part.uncommitAll, Part.disengageAll]

theorem Part.becomeFree_binds (i : SlotId) (endCode : Nat) (p : Part) : Binds p (p.becomeFree i endCode) := by
  cases hc : p.callout? i with
  | some c =>
    obtain ⟨hgo, ho⟩ := Part.becomeFree_letsGo hc endCode
    refine hgo.binds hc ho fun d hd => ?_
    rw [Part.callout?_becomeFree] at hd
    cases hd
  | none =>
    have h0 := p.withdrawFor_binds i everyKind
    obtain ⟨-, -, -, hn⟩ := p.withdrawFor_frame i everyKind
    unfold Part.becomeFree
    simp only
    rw [hc, Option.map_none, Option.map_eq_none_iff] at hn
    rw [hn]
    exact h0

/-! ## Reports, work and the end of an event -/

theorem Part.alertEnded_binds (i : SlotId) (p : Part) : Binds p (p.alertEnded i) := by
  have h0 : Binds p (p.modify i fun c => { c with alertStatus := .ended }) := .modify fun _ _ => rfl
  unfold Part.alertEnded
  simp only
  generalize p.modify i _ = q at h0
  split
  · exact h0
  · next c hc =>
    split
    · next hs =>
      exact (h0.trans (Part.enterCounting_binds (Part.plainAt_of hc (by rw [hs]; rfl)))).trans
        (Part.takeOutcome_binds i _)
    · exact h0

theorem Part.batchEnded_binds (i : SlotId) (k : BatchKind) (p : Part) : Binds p (p.batchEnded i k) := by
  unfold Part.batchEnded
  split
  · exact .refl p
  · split
    · exact p.alertEnded_binds i
    · exact .ite (p.becomeFree_binds i 3) (.refl p)
    all_goals exact .refl p

theorem Part.takeReport_binds (r : Report) (p : Part) : Binds p (p.takeReport r) := by
  unfold Part.takeReport
  split
  · split
    · exact .refl p
    · exact .ite (.modify fun _ _ => rfl) (.refl p)
  · split
    · exact .refl p
    · next i _ =>
      have h0 (failed : Bool) : Binds p (if failed = true then p.degrade i else p) := .ite (p.degrade_binds i) (.refl p)
      simp only
      split
      · exact (h0 _).trans (Part.batchEnded_binds _ _ _)
      · exact (h0 _).trans (Part.batchEnded_binds _ _ _)
      · exact h0 _

theorem Part.workStep_binds (h : p.workStep = some q) : Binds p q := by
  unfold Part.workStep at h
  split at h
  · cases h
    refine .trans ?_ (Part.takeReport_binds _ _)
    exact .of_same rfl rfl rfl
  · split at h
    · split at h
      · cases h
      · split at h
        · cases h; exact .pages p.leaveQueue_onlyPages
        · split at h
          · cases h
          · cases h; exact .pages p.turn_onlyPages
    · cases h

theorem Part.workFor_binds (n : Nat) (p : Part) : Binds p (Part.workFor n p) := by
  induction n generalizing p with
  | zero => exact .refl p
  | succ n ih =>
    unfold Part.workFor
    split
    · exact .refl p
    · next h => exact (Part.workStep_binds h).trans (ih _)

theorem Part.finish_binds (p : Part) : Binds p p.finish := (p.workFor_binds _).trans (.lamps _)

end Sys2Proof.Machine


/-!
SUPPORT. Responses, changes of availability, return frames and the ladder keep the ties.
-/

namespace Sys2Proof.Machine

open Sys2Proof

variable {p q r : Part} {i : SlotId} {c d : Callout} {n k : CalloutNo} {m : MemberId}

/-! ## A response taken (R83) -/

theorem Part.leave_binds {left : Option (SlotId × Callout)} (h : ∀ j x, left = some (j, x) → p.callout? j = some x)
    (m : MemberId) (source : Source) : Binds p (p.leave left m source) := by
  cases left with
  | none => exact .refl p
  | some jx => exact Part.withdrawMember_binds (h jx.1 jx.2 rfl) m source

theorem Part.reassessLeft_binds (left : Option (SlotId × Callout)) (p : Part) : Binds p (p.reassessLeft left) := by
  cases left with
  | none => exact .refl p
  | some jx => exact p.reassess_binds _

/-- What a member who leaves a callout for another is after it: disengaged where the callout left is the one engaged on. -/
theorem Part.member?_leave (left : Option (SlotId × Callout)) (m : MemberId) (source : Source) (p : Part) :
    (p.leave left m source).member? m
      = (p.member? m).map (match left with | some jx => Member.leave jx.2.number | none => id) := by
  cases left with
  | none => exact (congrFun Option.map_id _).symm
  | some jx =>
    rw [Part.leave, Part.withdrawMember, (Part.disengage_leaves m jx.2.number _).congr_left (Part.roster_modify jx.1 _ p)]
    simp

theorem Part.findCallout_eq_none (h : p.findCallout n = none) (hc : p.callout? i = some c) : c.number ≠ n := by
  have := Part.findLive_eq_none.1 h i c hc
  simpa using this

theorem Part.findCallout_spec {j : SlotId} (h : p.findCallout n = some j) : ∃ c, p.callout? j = some c ∧ c.number = n := by
  obtain ⟨c, hc, e⟩ := Part.findLive_eq_some h
  exact ⟨c, hc, by simpa using e⟩

theorem Member.setOnDuty_engaged (x : Member) :
    (if x.availability = .offDuty then { x with availability := .available } else x).engaged = x.engaged := by
  split <;> rfl

theorem Part.number_leave (left : Option (SlotId × Callout)) (m : MemberId) (source : Source) (p : Part) (j : SlotId) :
    ((p.leave left m source).callout? j).map Callout.number = (p.callout? j).map Callout.number := by
  cases left with
  | none => rfl
  | some jx =>
    obtain ⟨j', x⟩ := jx
    rw [Part.leave, Part.withdrawMember, Part.disengage, Part.callout?_modifyMember]
    by_cases h : j' = j
    · subst h
      rw [Part.callout?_modify_self, Option.map_map]
      rfl
    · rw [Part.callout?_modify_ne _ h]

/-- A member who answers a callout has by then left every other. -/
theorem Part.leave_free {x : Member} {source : Source} (hx : p.member? m = some x)
    (hc : p.callout? i = some c) (hq : (((p.setOnDuty m).leave (p.engagedElsewhere i m) m source)).EngagementRight)
    {y : Member} (hy : ((p.setOnDuty m).leave (p.engagedElsewhere i m) m source).member? m = some y) :
    ∀ n ∈ y.engaged, n = c.number := by
  intro n hn
  by_contra hne
  have hlive := (Part.tied_attendance_iff.1 (Part.engagementRight_iff.1 hq).1 m n).1 (Part.engagedOn_eq_some.2 ⟨y, hy, hn⟩)
  obtain ⟨j, d, hd, hdn, -⟩ := hlive
  have hnumber : (p.callout? j).map Callout.number = some n := by
    have := Part.number_leave (p.engagedElsewhere i m) m source (p.setOnDuty m) j
    rw [hd, Part.setOnDuty, Part.callout?_modifyMember] at this
    exact this.symm.trans (congrArg some hdn)
  obtain ⟨e, he, hen⟩ := Option.map_eq_some_iff.1 hnumber
  rw [Part.member?_leave, Part.setOnDuty, Part.member?_modifyMember, if_pos rfl, hx] at hy
  cases hf : p.findCallout n with
  | none => exact Part.findCallout_eq_none hf he hen
  | some j' =>
    obtain ⟨z, hz, hzn⟩ := Part.findCallout_spec hf
    have hji : j' ≠ i := by
      rintro rfl
      rw [hc] at hz
      cases hz
      exact hne hzn.symm
    have hold : x.engaged = some n → p.engagedElsewhere i m = some (j', z) := fun h => by
      simp only [Part.engagedElsewhere, hx, Option.bind_some, h, hf, if_neg hji, hz, Option.map_some]
    cases hleft : p.engagedElsewhere i m with
    | none =>
      rw [hleft] at hy
      cases hy
      have hxn : x.engaged = some n := (Member.setOnDuty_engaged x).symm.trans hn
      rw [hold hxn] at hleft
      cases hleft
    | some jx =>
      rw [hleft] at hy
      cases hy
      have hyn : (Member.leave jx.2.number (if x.availability = .offDuty then { x with availability := .available } else x)).engaged
          = some n := hn
      rw [Member.engaged_leave, Member.setOnDuty_engaged] at hyn
      split at hyn
      · cases hyn
      · next hno =>
        rw [hold hyn] at hleft
        cases hleft
        exact hno (hzn ▸ hyn)

theorem Part.takeResponse_binds {x : Member} {f : ResponseForm} (source : Source) (hc : p.callout? i = some c)
    (hs : c.state ≠ .closing) (hx : p.member? m = some x) (hw : f.engages = true → x.availability ≠ .withheld) :
    Binds p (p.takeResponse i c m f source) := by
  have hafter : Binds ((if f.engages then p.setOnDuty m else p).leave (p.leftBy i m f) m source)
      (((if f.engages then p.setOnDuty m else p).leave (p.leftBy i m f) m source).answered i c.number m f source) := by
    have hcallout : ((if f.engages then p.setOnDuty m else p).leave (p.leftBy i m f) m source).callout? i = some c := by
      rw [Part.callout?_leave fun j x h => (Part.leftBy_ne h).1]
      split
      · rw [Part.setOnDuty, Part.callout?_modifyMember, hc]
      · exact hc
    refine Part.answered_binds hcallout hs f source fun _ hq hf => ?_
    simp only [Part.leftBy, hf, if_true] at hq ⊢
    have hy : ∃ y, ((p.setOnDuty m).leave (p.engagedElsewhere i m) m source).member? m = some y
        ∧ y.availability = .available := by
      rw [Part.member?_leave, Part.setOnDuty, Part.member?_modifyMember, if_pos rfl, hx]
      refine ⟨_, rfl, ?_⟩
      have hduty : (if x.availability = .offDuty then { x with availability := .available } else x).availability
          = .available := by
        have := hw hf
        split
        · rfl
        · cases ha : x.availability <;> simp_all
      cases p.engagedElsewhere i m with
      | none => exact hduty
      | some jx => exact (congrArg Member.availability (Member.leave_frame _ _)).trans hduty
    obtain ⟨y, hy, ha⟩ := hy
    exact ⟨y, hy, ha, Part.leave_free hx hc hq hy⟩
  have hleave : Binds (if f.engages then p.setOnDuty m else p)
      ((if f.engages then p.setOnDuty m else p).leave (p.leftBy i m f) m source) := by
    refine Part.leave_binds (fun j y h => ?_) m source
    have hj := (Part.leftBy_ne h).2
    split
    · rw [Part.setOnDuty, Part.callout?_modifyMember, hj]
    · exact hj
  have hduty : Binds p (if f.engages then p.setOnDuty m else p) := .ite (p.setOnDuty_binds m) (.refl p)
  rw [Part.takeResponse_eq]
  exact ((((hduty.trans hleave).trans hafter).trans (Part.reassessLeft_binds _ _)).trans (Part.reassess_binds i _)).trans
    (.raise _ _)

/-! ## An ATTEND to a MOBILE callout (R90) -/

theorem Callout.record?_eq_some (h : c.record? m = some x) : x ∈ c.responses ∧ x.member = m := by
  obtain ⟨hx, hm⟩ : x ∈ c.responses ∧ _ := ⟨List.mem_of_find?_eq_some h, List.find?_some h⟩
  exact ⟨hx, by simpa using hm⟩

/-- With one record a member, a member is claimed just when the record held is active. -/
theorem Callout.mem_activeMembers_of_record {x : Response} (hn : (c.responses.map Response.member).Nodup)
    (h : c.record? m = some x) : m ∈ c.activeMembers ↔ x.active = true := by
  obtain ⟨hx, rfl⟩ := Callout.record?_eq_some h
  rw [Callout.mem_activeMembers_iff]
  constructor
  · rintro ⟨y, hy, ha, hm⟩
    rwa [List.inj_on_of_nodup_map hn hy hx hm] at ha
  · exact fun ha => ⟨x, hx, ha, rfl⟩

theorem Part.attendMobile_binds (hc : p.callout? i = some c) (hn : (c.responses.map Response.member).Nodup) (m : MemberId)
    (source : Source) : Binds p (p.attendMobile i c m source).1 := by
  have hduty := p.setOnDuty_binds m
  have hc' : (p.setOnDuty m).callout? i = some c := by rw [Part.setOnDuty, Part.callout?_modifyMember, hc]
  generalize hp' : p.setOnDuty m = p' at hduty hc'
  have hpage (q : Part) : Binds q (q.notRequired c m) := .demand _ _
  unfold Part.attendMobile
  split
  · simp only [hp']
    split
    · have hadd : Binds p' (p'.modify i (Callout.addRecord (c.releasedRecord m source none))) := .modify fun d _ =>
        Callout.ties_eq.2 ⟨rfl, Iff.rfl, (d.activeMembers_addRecord _).trans (List.append_nil _), rfl⟩
      exact ((hduty.trans hadd).trans (.raise _ _)).trans (hpage _)
    · have hlose : Binds p (p.loseResponse i) := .modified (.raise _ _)
      exact hlose.trans (hpage _)
  · next x hx =>
    simp only [hp']
    split
    · exact hduty.trans (hpage _)
    · have hrecord : c.record? (c.releasedRecord m source (some x)).member ≠ none := fun h =>
        Option.some_ne_none x (hx.symm.trans h)
      have hmem (j : MemberId) : j ∈ (c.replaceRecord (c.releasedRecord m source (some x))).activeMembers
          ↔ if j = m then False else j ∈ c.activeMembers :=
        (Callout.mem_activeMembers_replaceRecord hrecord).trans (by split <;> simp_all [Callout.releasedRecord, Response.active, ResponseKind.active])
      generalize hrec : c.releasedRecord m source (some x) = rec at hmem
      have hq : (((p'.modify i (Callout.replaceRecord rec)).raise .response)).callout? i = some (c.replaceRecord rec) := by
        rw [Part.callout?_raise, Part.callout?_modify_self, hc']
        rfl
      have hothers (j : SlotId) (hj : j ≠ i) : (((p'.modify i (Callout.replaceRecord rec)).raise .response)).callout? j
          = p'.callout? j := Part.callout?_modify_ne p' (Ne.symm hj) _
      have hroster : ((p'.modify i (Callout.replaceRecord rec)).raise .response).roster = p'.roster := Part.roster_modify i _ p'
      have hresolver : ((p'.modify i (Callout.replaceRecord rec)).raise .response).resolver = p'.resolver := by
        rw [Part.modify_eq]
        rfl
      generalize (p'.modify i (Callout.replaceRecord rec)).raise .response = q at hq hothers hroster hresolver
      have hsub (j : MemberId) (hj : j ∈ (c.replaceRecord rec).activeMembers) : j ∈ c.activeMembers := by
        have := (hmem j).1 hj
        split at this
        · cases this
        · exact this
      refine (hduty.trans ?_).trans (hpage _)
      split
      · refine .trans (q := q.disengage m c.number) ?_ (Part.reassess_binds i _)
        have hslot (j : SlotId) : (q.disengage m c.number).callout? j = q.callout? j := Part.callout?_modifyMember _ _ _ _
        refine .leave hc' ((hslot i).trans hq) (fun j hj => (hslot j).trans (hothers j hj)) rfl rfl
          (Part.committedTo_congr (by rw [Part.disengage, Part.modifyMember_frame]; exact hresolver))
          ((Part.disengage_leaves m c.number q).congr_left hroster) (fun j hj => ?_) hsub
        rw [hmem]
        by_cases e : j = m <;> simp [e, hj]
      · next ha =>
        refine .leave hc' hq hothers rfl rfl (Part.committedTo_congr hresolver) (Leaves.of_roster hroster c.number)
          (fun j hj => ?_) hsub
        have hjm : j ≠ m := by
          rintro rfl
          exact ha ((Callout.mem_activeMembers_of_record hn hx).1 hj)
        rw [hmem, if_neg hjm]
        simp [hj]

/-! ## Any response -/

theorem ResponseForm.engages_of {f : ResponseForm} (h : f.engages = true) : f.attends = true ∨ f = .bookOn := by
  cases f with
  | attend e => exact .inl rfl
  | unavailable => cases h
  | bookOn => exact .inr rfl

theorem Part.applyResponse_binds {x : Member} {f : ResponseForm} (source : Source) (hc : p.callout? i = some c)
    (hsound : c.Sound) (hs : c.state ≠ .closing) (hx : p.member? m = some x)
    (hw : f = .bookOn → x.availability ≠ .withheld) : Binds p (p.applyResponse i c m f source).1 := by
  unfold Part.applyResponse
  simp only
  split
  · exact .demand _ _
  · next hwithheld =>
    split
    · exact .refl p
    · split
      · exact Part.attendMobile_binds hc hsound.1 m source
      · split
        · exact .refl p
        · split
          · exact .refl p
          · split
            · exact .modified (.raise _ _)
            · refine Part.takeResponse_binds source hc hs hx fun hf => ?_
              rcases ResponseForm.engages_of hf with h | h
              · intro e
                simp [h, hx, e] at hwithheld
              · exact hw h

/-! ## Availability and return frames (R54, R55, R60, R76 to R78) -/

theorem Part.setAvailability_binds {v : Availability}
    (h : p.EngagementRight → ∀ x, p.member? m = some x → x.engaged ≠ none → v = .available) :
    Binds p (p.setAvailability m v) :=
  Part.modifyMember_binds (fun _ => rfl) h

theorem Part.changeAvailability_binds (m : MemberId) (v : Availability) (source : Source) (p : Part) :
    Binds p (p.changeAvailability m v source) := by
  unfold Part.changeAvailability
  split
  · exact .refl p
  · next x hx =>
    split
    · exact .refl p
    · next hv =>
      simp only
      split
      · next hnone =>
        refine Part.setAvailability_binds fun hp y hy hn => ?_
        rw [hx] at hy
        cases hy
        obtain ⟨htied, hduty, -⟩ := Part.engagementRight_iff.1 hp
        by_contra hva
        obtain ⟨n, hn'⟩ := Option.ne_none_iff_exists'.1 hn
        obtain ⟨j, d, hd, hdn, -⟩ := (Part.tied_attendance_iff.1 htied m n).1 (Part.engagedOn_eq_some.2 ⟨x, hx, hn'⟩)
        have ha := hduty m x hx hn
        cases hf : p.findCallout n with
        | none => exact Part.findCallout_eq_none hf hd hdn
        | some j' =>
          obtain ⟨z, hz, -⟩ := Part.findCallout_spec hf
          simp [ha, hva, hn', hf, hz] at hnone
      · next j d hsome =>
        obtain ⟨k, hk, h⟩ := Option.bind_eq_some_iff.1 hsome
        obtain ⟨n, hn, hk⟩ := Option.bind_eq_some_iff.1 hk
        obtain ⟨e, he, h⟩ := Option.map_eq_some_iff.1 h
        cases h
        obtain ⟨e', he', hnumber⟩ := Part.findCallout_spec hk
        rw [he] at he'
        cases he'
        refine (((Part.withdrawMember_binds he m source).trans (Part.setAvailability_binds fun _ y hy hne => ?_)).trans
          (Part.reassess_binds _ _)).trans (.raise _ _)
        have hengaged : x.engaged = some n := by
          split at hn
          · exact hn
          · cases hn
        have hleave := Part.member?_leave (some (j, d)) m source p
        rw [Part.leave, hy, hx] at hleave
        have hy' : y = x.leave d.number := Option.some.inj hleave
        rw [hy', Member.engaged_leave, hnumber, hengaged] at hne
        exact absurd (if_pos rfl) hne

theorem Part.dutyReport_binds (m : MemberId) (off : Bool) (k : SiteId) (p : Part) : Binds p (p.dutyReport m off k) := by
  unfold Part.dutyReport
  split
  · exact .refl p
  · split
    · exact .refl p
    · exact .ite (.refl p) (p.changeAvailability_binds _ _ _)
    · exact p.changeAvailability_binds _ _ _
    · exact .refl p
    · exact .refl p

theorem Part.frameResponse_binds (hsound : p.CalloutsSound) (k : SiteId) {x : Member} (hx : p.member? m = some x)
    (fr : ReturnFrame) : Binds p (p.frameResponse k m fr) := by
  unfold Part.frameResponse
  split
  · exact .refl p
  · split
    · exact .refl p
    · next c hc =>
      split
      · exact .refl p
      · next hs =>
        refine Part.applyResponse_binds _ hc (hsound _ c hc) hs hx fun h => ?_
        split at h <;> cases h

theorem Part.matchFrame_binds (hsound : p.CalloutsSound) (k : SiteId) (fr : ReturnFrame) : Binds p (p.matchFrame k fr) := by
  unfold Part.matchFrame
  split
  · exact .refl p
  · split
    · exact .refl p
    · next m hm =>
      obtain ⟨⟨m', x⟩, hfind, rfl⟩ := Option.map_eq_some_iff.1 hm
      have hx : p.member? m' = some x := mem_inUse.1 (List.mem_of_find?_eq_some hfind)
      exact .ite (.ite (p.dutyReport_binds _ true k) (.ite (p.dutyReport_binds _ false k) (.refl p)))
        (.ite (Part.frameResponse_binds hsound k hx fr) (.refl p))

theorem Part.receiveFrame_binds (hsound : p.CalloutsSound) (k : SiteId) (bits : BitVec 58) (spoiled : Bool) :
    Binds p (p.receiveFrame k bits spoiled) :=
  .ite (.refl p) ((Part.matchFrame_binds hsound k _).trans (Part.finish_binds _))

/-! ## The ladder (R116 to R121) and the accumulation timer (R14) -/

theorem Part.escalate_binds (i : SlotId) (c : Callout) (p : Part) : Binds p (p.escalate i c) := by
  have hone : Binds p (p.levelOne i c) := by
    have h : Binds p (p.modify i (Callout.raisedTo 1 (p.repageSelection c))) := .modify fun _ _ => rfl
    exact (h.trans (.ite (.refl _) (.demand _ _))).trans (.ite (.refl _) (Part.sirenRequest_binds _ _ _))
  have htwo : Binds p (p.levelTwo i c) := by
    have h : Binds p (p.modify i (Callout.raisedToTwo (p.judgedYes (c.secondary &&& ~~~c.primary))
        (c.secondary &&& ~~~c.primary))) := .modify fun _ _ => rfl
    exact h.trans (.ite (.refl _) (.demand _ _))
  have hthree : Binds p (p.levelThree i) :=
    .modified (.trans (.raise _ _) (.ite (Part.sirenRequest_binds _ _ _) (.refl _)))
  have hrestart (q : Part) : Binds q (q.restartWindow i) := .modify fun _ _ => rfl
  unfold Part.escalate
  split
  · exact hone.trans (hrestart _)
  · exact htwo.trans (hrestart _)
  · exact hthree.trans (hrestart _)
  · exact .modified (.raise _ _)

theorem Part.windowExpires_binds (i : SlotId) (p : Part) : Binds p (p.windowExpires i) := by
  unfold Part.windowExpires
  split
  · exact .refl p
  · exact .ite ((p.escalate_binds i _).trans (Part.finish_binds _)) (.refl p)

theorem Part.accumulationExpires_binds (i : SlotId) (p : Part) : Binds p (p.accumulationExpires i) := by
  unfold Part.accumulationExpires
  split
  · exact .refl p
  · next c hc =>
    split
    · next h =>
      exact (Part.leaveOpen_binds (Part.plainAt_of hc (by rw [h.1]; rfl))).trans (Part.finish_binds _)
    · exact .refl p

end Sys2Proof.Machine


/-!
SUPPORT. Appliances committed, a callout made, and the orders on callouts keep the ties.
-/

namespace Sys2Proof.Machine

open Sys2Proof

variable {p q r : Part} {i : SlotId} {c d : Callout} {n k : CalloutNo} {m : MemberId}

/-! ## Appliances committed (R12, R46, R47) -/

theorem newEntry_letters (l : List (Appliance × RoleCounts)) :
    (l.map newEntry).map ApplianceEntry.letter = l.map Prod.fst := by
  rw [List.map_map]
  rfl

theorem Part.addPlan_binds (hc : p.callout? i = some c) (hs : c.state ≠ .closing) (pl : Option Plan) :
    Binds p (p.addPlan i c pl) := by
  obtain ⟨hd, hcommits, hothers, table, resolver, hframe⟩ := Part.addPlan_spec hc pl
  have hroster : (p.addPlan i c pl).roster = p.roster := by rw [hframe]
  have hbut (ha : p.Apart) : SameBut i c.number p (p.addPlan i c pl) :=
    .of_live ha hc (fun x hx => by rw [hd] at hx; cases hx; rfl) fun j hj => hothers j (Ne.symm hj)
  have hmember (m : MemberId) : (p.addPlan i c pl).member? m = p.member? m := by rw [Part.member?, hroster, Part.member?]
  have hengaged (m : MemberId) : (p.addPlan i c pl).engagedOn m = p.engagedOn m := by
    rw [Part.engagedOn, hmember, Part.engagedOn]
  refine ⟨fun ha => (hbut ha).apart ha, fun ha hp => ?_, fun ha hp => ?_⟩
  · obtain ⟨-, hduty, hidle⟩ := Part.engagementRight_iff.1 hp
    refine (hbut ha).engagement hp (fun m k _ => by rw [hengaged]) (fun m => ?_)
      (fun m x hx => hduty m x (hmember m ▸ hx)) fun x hx hx' => ?_
    · rw [hengaged, hp.engagedOn_iff ha hc, hd]
      exact ⟨fun h => ⟨_, rfl, h⟩, fun ⟨x, hx, h⟩ => by cases hx; exact h⟩
    · rw [hd] at hx
      cases hx
      exact absurd hx' hs
  · have hon := Part.commitmentRight_iff.1 hp
    have hold (ap : Appliance) : p.committedTo ap = some c.number ↔ ∃ e ∈ c.appliances, e.letter = ap := by
      refine ⟨fun h => ?_, fun ⟨e, he, hl⟩ => hl ▸ hp.2 i c hc hs e he⟩
      obtain ⟨j, x, hx, hn, -, he⟩ := hp.1 ap c.number h
      obtain rfl := ha i j c.number (by rw [hc]; rfl) (by rw [hx]; exact congrArg some hn)
      rw [hc] at hx
      cases hx
      exact he
    have htaken (ap : Appliance) (h : (p.appendedBy c pl).any (fun x => x.1 == ap) = true) : p.committedTo ap = none := by
      obtain ⟨x, hx, e⟩ := List.any_eq_true.1 h
      obtain rfl : x.1 = ap := by simpa using e
      exact ((p.attempted_takes c pl).2 x (List.mem_of_mem_take hx)).2
    have hto (ap : Appliance) : (p.addPlan i c pl).committedTo ap
        = if (p.appendedBy c pl).any (fun x => x.1 == ap) then some c.number else p.committedTo ap := hcommits ap
    refine (hbut ha).commitment hp (fun ap k hk => ?_) fun ap => ?_
    · rw [hto]
      split
      · next h =>
        rw [htaken ap h]
        exact iff_of_false (fun e => hk (Option.some.inj e).symm) nofun
      · rfl
    · rw [hto, hd]
      have hlisted : (∃ x, some (p.withPlan pl c) = some x ∧ ap ∈ x.crews.2)
          ↔ (∃ e ∈ c.appliances, e.letter = ap) ∨ ∃ y ∈ p.appendedBy c pl, y.1 = ap := by
        simp only [Option.some.injEq, exists_eq_left', Callout.mem_crews, Part.withPlan, List.mem_append, or_and_right,
          exists_or, List.mem_map, exists_exists_and_eq_and]
        exact and_iff_right hs
      rw [hlisted, ← hold]
      split
      · next h =>
        obtain ⟨y, hy, e⟩ := List.any_eq_true.1 h
        exact iff_of_true rfl (.inr ⟨y, hy, by simpa using e⟩)
      · next h =>
        refine ⟨.inl, fun e => e.resolve_right fun ⟨y, hy, e⟩ => h (List.any_eq_true.2 ⟨y, hy, by simpa using e⟩)⟩

theorem Part.reassessIfGrown_binds (i : SlotId) (c : Callout) (p : Part) : Binds p (p.reassessIfGrown i c) := by
  unfold Part.reassessIfGrown
  split
  · exact .refl p
  · exact .ite (.refl p) (p.reassess_binds i)

theorem Part.addInOpen_binds (hc : p.callout? i = some c) (hs : c.state ≠ .closing) (pl : Option Plan) (given : GroupSet) :
    Binds p (p.addInOpen i c pl given) := by
  have hjoin : Binds p (p.joinPlan i c pl given) := by
    cases pl with
    | none => exact .modify fun _ _ => rfl
    | some pl =>
      have hgroups (f g : Callout → Callout) (hf : ∀ c, (f c).ties = c.ties) (hg : ∀ c, (g c).ties = c.ties) (q : Part) :
          Binds q ((q.modify i f).modify i g) := .modified (.modify fun c _ => hg c) hf
      exact (Part.addPlan_binds hc hs (some pl)).trans
        (hgroups (Callout.addPrimary (pl.primary ||| given)) (Callout.addSecondary pl.secondary) (fun _ => rfl) (fun _ => rfl) _)
  rw [Part.addInOpen_eq]
  exact hjoin.trans (.modified (Part.reassessIfGrown_binds i c _))

theorem Part.supplement_binds (hc : p.callout? i = some c) (hs : c.state ≠ .closing) (pl : Option Plan) (given : GroupSet) :
    Binds p (p.supplement i c pl given) := by
  have hadd := Part.addPlan_binds hc hs pl
  rw [Part.supplement_eq]
  generalize p.addPlan i c pl = q at hadd
  generalize ((pl.map Plan.primary).getD 0#16 ||| given) &&& ~~~c.primary = asked
  have hjoin : Binds q (q.modify i (Callout.supplemented (q.judgedYes asked) asked
      ((pl.map Plan.secondary).getD 0#16))) := .modify fun _ _ => rfl
  exact ((hadd.trans hjoin).trans (.ite (.refl _) (.demand _ _))).trans (Part.reassessIfGrown_binds i c _)

/-! ## A callout made (R1 to R4) -/

theorem Creates.binds {plans : Prop} (h : Creates plans i c p q) (ho : p.FreeOrderRight) : Binds p q := by
  have hfree : p.callout? i = none := ((p.freeOrderRight_iff.1 ho).2 i).1 (List.mem_of_mem_head? h.head)
  have hslot : q.callout? i = some c := by rw [h.callout?, if_pos rfl]
  have hothers (j : SlotId) (hj : j ≠ i) : q.callout? j = p.callout? j := by rw [h.callout?, if_neg (Ne.symm hj)]
  have hbut : SameBut i c.number p q :=
    ⟨fun d hd => by (rw [hfree] at hd; cases hd), fun d hd => by (rw [hslot] at hd; cases hd; rfl), hothers,
      fun j _ d hd => (h.fresh.2.2 j d hd).1⟩
  have hmember (m : MemberId) : q.member? m = p.member? m := by rw [Part.member?, h.after, Part.member?]
  have hengaged (m : MemberId) : q.engagedOn m = p.engagedOn m := by rw [Part.engagedOn, hmember, Part.engagedOn]
  have hnone : c.activeMembers = [] := by rw [Callout.activeMembers, h.new.2]; rfl
  refine ⟨fun ha => hbut.apart ha, fun _ hp => ?_, fun _ hp => ?_⟩
  · obtain ⟨htied, hduty, -⟩ := Part.engagementRight_iff.1 hp
    refine hbut.engagement hp (fun m k _ => by rw [hengaged]) (fun m => iff_of_false (fun e => ?_) ?_)
      (fun m x hx => hduty m x (hmember m ▸ hx)) fun d hd _ => by (rw [hslot] at hd; cases hd; exact hnone)
    · rw [hengaged] at e
      obtain ⟨j, d, hd, hn, -⟩ := (Part.tied_attendance_iff.1 htied m _).1 e
      exact (h.fresh.2.2 j d hd).1 hn
    · rintro ⟨d, hd, hm⟩
      rw [hslot] at hd
      cases hd
      rw [hnone] at hm
      cases hm
  · have hto (ap : Appliance) : q.committedTo ap
        = if ap ∈ c.appliances.map ApplianceEntry.letter then some c.number else p.committedTo ap := h.commits ap
    refine hbut.commitment hp (fun ap k hk => ?_) fun ap => ?_
    · rw [hto]
      split
      · next hl => exact iff_of_false (fun e => hk (Option.some.inj e).symm) (by rw [Part.committedTo, h.taken ap hl]; nofun)
      · rfl
    · have hcrews : c.crews.2 = c.appliances.map ApplianceEntry.letter := by rw [Callout.crews, h.new.1]; rfl
      rw [hto, hslot]
      simp only [Option.some.injEq, exists_eq_left', hcrews]
      split
      · next hl => exact iff_of_true rfl hl
      · next hl =>
        refine iff_of_false (fun e => ?_) hl
        obtain ⟨j, d, hd, hn, -⟩ := hp.1 ap c.number e
        exact (h.fresh.2.2 j d hd).1 hn

/-! ## HOLD, RESUME and DEPART -/

theorem Part.hold_binds (hc : p.callout? i = some c) (hs : c.state ≠ .closing) : Binds p (p.hold i c) := by
  have hhold : Binds p ((p.modify i Callout.holding).raise .callout) := .enter fun d hd => by
    rw [hc] at hd
    cases hd
    exact Callout.ties_eq.2 ⟨rfl, iff_of_false nofun hs, rfl, rfl⟩
  rw [Part.hold_eq]
  refine (hhold.trans (Part.withdrawFor_binds i BatchKind.callOut _)).trans ?_
  generalize Part.withdrawFor i BatchKind.callOut _ = b
  exact .ite (.modified (Part.degrade_binds i _)) (.modify fun _ _ => rfl)

theorem Part.reconcile_binds (prior : CalloutState) (h : prior.plain = true → p.PlainAt i) :
    Binds p (p.reconcile i prior) := by
  unfold Part.reconcile
  split
  · exact .refl p
  · split
    · exact .ite ((Part.enterCounting_binds (h rfl)).trans (Part.takeOutcome_binds i _)) (p.takeOutcome_binds i)
    · exact p.takeOutcome_binds i
    · exact .ite (Part.enterCrewed_binds (h rfl)) (Part.enterCounting_binds (h rfl))
    all_goals exact .refl p

theorem Part.resume_binds {prior : CalloutState} (hc : p.callout? i = some c) (hr : c.StateRight) (hp : c.prior = some prior) :
    Binds p (p.resume i c prior) := by
  have hst : ((p.modify i (Callout.resuming prior)).raise .callout).stateAt i = some prior := by
    simp [Part.stateAt, hc, Callout.resuming]
  have henter : Binds p ((p.modify i (Callout.resuming prior)).raise .callout) := .enter fun d hd => by
    rw [hc] at hd
    cases hd
    have hheld : c.state = .held := hr.1.2 (by rw [hp]; nofun)
    refine Callout.ties_eq.2 ⟨rfl, iff_of_false ?_ (by rw [hheld]; nofun), rfl, rfl⟩
    rintro rfl
    have := hr.2.1 _ hp
    simp at this
  rw [Part.resume_eq]
  have hpages := Part.demandList_onlyPages (fun e : HeldEntry => e.demand c.owner) c.heldBack
    ((p.modify i (Callout.resuming prior)).raise .callout)
  refine (henter.trans (.pages hpages)).trans (Part.reconcile_binds prior fun h => ?_)
  exact Part.plainAt_of_stateAt ((hpages.stateAt i).trans hst) h

theorem Part.enterMobile_binds (h : p.PlainAt i) : Binds p (p.enterMobile i) := by
  have h0 : Binds p ((((p.enter i .mobile).modify i Callout.stopWindow).withdrawFor i BatchKind.callOut).2.modify i
      fun c => { c with alertStatus := .ended }) := by
    have hstop : Binds p ((p.enter i .mobile).modify i Callout.stopWindow) :=
      (Part.enter_binds h rfl).trans (.modify fun _ _ => rfl)
    exact (hstop.trans (Part.withdrawFor_binds i BatchKind.callOut _)).trans (.modify fun _ _ => rfl)
  unfold Part.enterMobile
  simp only
  split
  · exact h0
  · exact .ite h0 (((h0.trans (Part.releaseMembers_binds i _ _)).trans (.demandReleases _ _ _)).trans
      (Part.recompute_binds i _))

theorem Callout.ties_freeze (ap : Appliance) (c : Callout) : (c.freeze ap).ties = c.ties := by
  refine Callout.ties_eq.2 ⟨rfl, Iff.rfl, rfl, ?_⟩
  simp only [Callout.freeze, List.map_map]
  refine List.map_congr_left fun e _ => ?_
  simp only [Function.comp_apply]
  split <;> rfl

theorem Part.depart_binds {ap : Appliance} (h : p.PlainAt i) : Binds p (p.depart i ap) := by
  have h0 : Binds p ((p.modify i (Callout.freeze ap)).recompute i) :=
    .modified (Part.recompute_binds i _) (Callout.ties_freeze ap)
  have hplain : ((p.modify i (Callout.freeze ap)).recompute i).PlainAt i := fun d hd => by
    have hs : ((p.modify i (Callout.freeze ap)).recompute i).stateAt i = p.stateAt i := by
      refine (Part.stateAt_recompute i _).trans (p.stateAt_modify ?_)
      exact fun _ => rfl
    rw [Part.stateAt_of_callout hd] at hs
    obtain ⟨e, he, heq⟩ := Part.stateAt_some hs.symm
    exact heq ▸ h e ((p.callout?_eq i e).2 he)
  unfold Part.depart
  simp only
  split
  · exact h0
  · exact .ite (h0.trans (Part.enterMobile_binds hplain)) (h0.trans (Part.takeOutcome_binds i _))

/-! ## STAND-DOWN (R29, R30) -/

theorem Part.standDownSilent_binds (i : SlotId) (who : List MemberId) (endCode : Nat) (p : Part) :
    Binds p (p.standDownSilent i who endCode) :=
  ((p.withdrawFor_binds i everyKind).trans (Part.releaseMembers_binds i who _)).trans (Part.becomeFree_binds i endCode _)

/-- A STAND-DOWN that pages first clears and releases the callout, so that none is active on it when it lets all go. -/
theorem Part.standDownPaged_binds (hc : p.callout? i = some c) : Binds p (p.standDownPaged i c) := by
  have hwithdraw := p.withdrawFor_binds i everyKind
  have hframe := p.withdrawFor_frame i everyKind
  have hactive : ∀ d, (p.withdrawFor i everyKind).2.callout? i = some d → d.activeMembers = c.activeMembers := by
    intro d hd
    unfold Part.withdrawFor at hd
    rw [hc] at hd
    simp only at hd
    split at hd
    · rw [Part.degrade, Part.callout?_raise, Part.callout?_modify_self, (p.withdraw_onlyPages c.owner _).callout?, hc] at hd
      cases hd
      rfl
    · rw [(p.withdraw_onlyPages c.owner _).callout?, hc] at hd
      cases hd
      rfl
  obtain ⟨-, -, -, hnumber⟩ := hframe
  rw [Part.standDownPaged_eq]
  unfold Part.disband
  generalize (p.withdrawFor i everyKind).2 = w at hwithdraw hactive hnumber
  rw [hc, Option.map_some, Option.map_eq_some_iff] at hnumber
  obtain ⟨d, hd, hn⟩ := hnumber
  have hclear : Binds p ((w.modify i Callout.cleared).releaseMembers i c.activeMembers) :=
    hwithdraw.trans (.modified (Part.releaseMembers_binds i _ _))
  have hx : ∃ x, ((w.modify i Callout.cleared).releaseMembers i c.activeMembers).callout? i = some x
      ∧ x.number = c.number ∧ x.activeMembers = [] := by
    rw [Part.callout?_releaseMembers, Part.callout?_modify_self, hd]
    refine ⟨_, rfl, hn, List.eq_nil_iff_forall_not_mem.2 fun m hm => ?_⟩
    rw [Callout.mem_activeMembers_mapRecords fun r => ⟨r.release_member _, r.release_active _⟩] at hm
    obtain ⟨hm, hno⟩ := hm
    rw [← hactive d hd, List.contains_iff_mem] at hno
    exact hno hm
  generalize (w.modify i Callout.cleared).releaseMembers i c.activeMembers = v at hclear hx
  obtain ⟨x, hx, hxn, hidle⟩ := hx
  refine hclear.trans ?_
  have hgo : LetsGo x.number v ((v.disengageAll c.number).uncommitAll c.number) := hxn ▸ LetsGo.all _ v
  have hcallout (j : SlotId) : ((v.disengageAll c.number).uncommitAll c.number).callout? j = v.callout? j := rfl
  generalize (v.disengageAll c.number).uncommitAll c.number = u at hgo hcallout
  simp only
  split
  · have hu : u.callout? i = some x := (hcallout i).trans hx
    obtain ⟨hfree, ho⟩ := Part.becomeFree_letsGo hu 4
    refine (hgo.trans hfree).binds hx (fun j hj => (ho j hj).trans (hcallout j)) fun y hy => ?_
    rw [Part.callout?_becomeFree] at hy
    cases hy
  · generalize c.pagedPrimary ||| u.groupsOnAir c.owner = groups
    have hpages := Part.demandGroups_onlyPages .standDown c.owner groups
      (u.modify i fun c => { c with standDownGroups := some groups })
    generalize hs : (u.modify i fun c => { c with standDownGroups := some groups }).demandGroups .standDown c.owner groups = s
    rw [hs] at hpages
    have hroster : s.roster = u.roster := hpages.roster.trans (Part.roster_modify i _ u)
    have hresolver : s.resolver = u.resolver := hpages.resolver.trans (by rw [Part.modify_eq])
    have hothers (j : SlotId) (hj : j ≠ i) : s.callout? j = v.callout? j :=
      (hpages.callout? j).trans ((Part.callout?_modify_ne u (Ne.symm hj) _).trans (hcallout j))
    have hslot : s.callout? i = some { x with standDownGroups := some groups } := by
      rw [hpages.callout?, Part.callout?_modify_self, hcallout, hx]
      rfl
    have henter : (s.enter i .closing).callout? i = some { x with standDownGroups := some groups, state := .closing } := by
      rw [Part.enter, Part.callout?_raise, Part.callout?_modify_self, hslot]
      rfl
    refine (hgo.congr_right (r := s.enter i .closing) ?_ ?_).binds hx (fun j hj => ?_) fun y hy => ?_
    · exact (Part.roster_modify i _ s).trans hroster
    · rw [Part.enter, Part.modify_eq]
      exact hresolver
    · rw [Part.enter, Part.callout?_raise, Part.callout?_modify_ne _ (Ne.symm hj), hothers j hj]
    · rw [henter] at hy
      cases hy
      exact ⟨rfl, rfl, hidle⟩

/-! ## What the rules may take for granted of the table -/

/-- The callout table is in order: its free order, its numbers, its callouts and what goes with their states. -/
structure Part.TableRight (p : Part) : Prop where
  free    : p.FreeOrderRight
  numbers : p.NumbersDistinct
  sound   : p.CalloutsSound
  states  : p.StatesRight

theorem Part.TableRight.congr (h : p.TableRight) (e : q.table = p.table) : q.TableRight := by
  obtain ⟨hfree, hnumbers, hsound, hstates⟩ := h
  have hcallout := Part.callout?_congr e
  exact ⟨Part.freeOrderRight_congr (by rw [e]) (fun i => by rw [hcallout]) hfree,
    by simpa only [Part.NumbersDistinct, hcallout] using hnumbers,
    by simpa only [Part.CalloutsSound, hcallout] using hsound, by simpa only [Part.StatesRight, hcallout] using hstates⟩

/-- A rule keeps the ties where the table is in order. -/
def KeepsTies (p q : Part) : Prop :=
  p.TableRight → Binds p q

theorem KeepsTies.of_binds (h : Binds p q) : KeepsTies p q := fun _ => h

theorem Part.changeMember_binds (e : MemberEdit) {x : Member} (hx : p.member? e.member = some x) :
    Binds p (p.changeMember e x) := by
  have h := Binds.edits (Part.changeMember_edits e hx)
  unfold Part.changeMember
  refine .ite h ?_
  split
  · exact h.trans (Part.reassess_binds _ _)
  · exact h

end Sys2Proof.Machine


/-!
SUPPORT. What every order comes to: a refusal without results (but for DUPLICATE), or a run of moves that leaves the lamps
right and no work over, or a write of its line's flags and mask, or a RESTART put on its way.
-/

namespace Sys2Proof.Machine

open Sys2Proof

/-! ## No work left over, and the lamps -/

theorem Part.quiet_iff (p : Part) : p.Quiet ↔ p.pages.reports = [] ∧ (p.sites.sequencer = .idle →
    ∀ b rest, p.pages.queue = b :: rest → b.over = false ∧ b.withdrawing = true) := by
  unfold Part.Quiet Part.workStep
  cases p.pages.reports with
  | cons r rest => simp
  | nil =>
    by_cases hs : p.sites.sequencer = .idle
    · cases p.pages.queue with
      | nil => simp [hs]
      | cons b rest => cases ho : b.over <;> cases hw : b.withdrawing <;> simp [hs, ho, hw]
    · simp [hs]

/-- What the lamp of an appliance shows of a callout. -/
def Callout.shown (c : Callout) : CalloutNo × List ApplianceEntry × Assessment :=
  (c.number, c.appliances, c.assessment)

theorem Part.findCallout_congr {p q : Part} (h : ∀ i, (q.callout? i).map Callout.number = (p.callout? i).map Callout.number)
    (n : CalloutNo) : q.findCallout n = p.findCallout n := by
  have hslot (r : Part) (i : SlotId) : (match r.slot i with | .live c => c.number == n | .free _ => false)
      = ((r.callout? i).map Callout.number == some n) := by
    unfold Part.callout?
    cases r.slot i <;> rfl
  unfold Part.findCallout Part.findLive
  congr 1
  funext i
  exact (hslot q i).trans ((congrArg (· == some n) (h i)).trans (hslot p i).symm)

theorem Part.lampFor_congr {p q : Part} (hc : ∀ ap, (q.appliance ap).committed = (p.appliance ap).committed)
    (ht : ∀ i, (q.callout? i).map Callout.shown = (p.callout? i).map Callout.shown) (ap : Appliance) :
    q.lampFor ap = p.lampFor ap := by
  have hnumber (i : SlotId) : (q.callout? i).map Callout.number = (p.callout? i).map Callout.number := by
    have := congrArg (Option.map Prod.fst) (ht i)
    rw [Option.map_map, Option.map_map] at this
    exact this
  have hfind (n : CalloutNo) : q.findCallout n = p.findCallout n := Part.findCallout_congr hnumber n
  unfold Part.lampFor
  rw [hc ap]
  cases (p.appliance ap).committed with
  | none => rfl
  | some n =>
    simp only [hfind]
    cases p.findCallout n with
    | none => rfl
    | some i =>
      have := ht i
      simp only [Option.bind_some]
      cases hp : p.callout? i with
      | none =>
        rw [hp] at this
        rw [Option.map_eq_none_iff.1 this]
      | some c =>
        rw [hp] at this
        obtain ⟨d, hd, e⟩ := Option.map_eq_some_iff.1 this
        simp only [Callout.shown, Prod.mk.injEq] at e
        rw [hd]
        simp only [e.2.1, e.2.2]

theorem Part.lampsRight_congr {p q : Part} (hl : q.station.lamps = p.station.lamps)
    (hc : ∀ ap, (q.appliance ap).committed = (p.appliance ap).committed)
    (ht : ∀ i, (q.callout? i).map Callout.shown = (p.callout? i).map Callout.shown) (h : p.LampsRight) : q.LampsRight := by
  rw [Part.lampsRight_iff] at *
  intro ap
  rw [hl, h ap, Part.lampFor_congr hc ht]

/-- Lamps that were right stay so, and where no work was left over none is. -/
structure Settles (p q : Part) : Prop where
  lamps : p.LampsRight → q.LampsRight
  quiet : p.Quiet → q.Quiet

namespace Settles

theorem refl (p : Part) : Settles p p := ⟨id, id⟩

theorem finish (p q : Part) : Settles p q.finish := ⟨fun _ => Part.refreshLamps_lampsRight _, fun _ => q.finish_done⟩

theorem ite {p q r : Part} {b : Prop} [Decidable b] (hq : Settles p q) (hr : Settles p r) :
    Settles p (if b then q else r) := by
  split
  · exact hq
  · exact hr

/-- Nothing that lamps and work depend on has changed. -/
theorem of_same {p q : Part} (ht : q.table = p.table) (hc : ∀ ap, (q.appliance ap).committed = (p.appliance ap).committed)
    (hl : q.station.lamps = p.station.lamps) (hp : q.pages = p.pages)
    (hs : q.sites.sequencer = p.sites.sequencer) : Settles p q :=
  ⟨Part.lampsRight_congr hl hc fun i => by unfold Part.callout? Part.slot; rw [ht],
    fun h => by rw [Part.quiet_iff] at *; rwa [hp, hs]⟩

end Settles

theorem Edits.settles {p q : Part} (h : Edits p q) : Settles p q :=
  .of_same h.table h.committed h.station.2 h.pages h.sequencer

/-! ## Verdicts -/

/-- What an order taken leaves, from line `l` and under these grants. -/
inductive Ruled (g : Grants) (l : Line) (p : Part) : Part → Prop
  | moves {q : Part} (loose : Option SlotId) (h : Moves { g with makes := False, loose := loose } p q)
      (hr : p.StatesRight → q.StatesRight) (hs : Settles p q) (hk : KeepsTies p q) : Ruled g l p q
  | created {i : SlotId} {c : Callout} {r q : Part} (hc : Creates g.plans i c p r)
      (h : Moves { g with makes := False, loose := none } r q) (hs : Settles p q) (hk : KeepsTies p q) : Ruled g l p q
  | notices (f : LineController → LineController)
      (hf : ∀ c, f c = { c with flags := (f c).flags, mask := (f c).mask })
      (hw : ∀ c, (c.flags &&& ~~~allNotices = 0#16 → (f c).flags &&& ~~~allNotices = 0#16)
        ∧ (c.mask &&& ~~~allNotices = 0#16 → (f c).mask &&& ~~~allNotices = 0#16))
      (hk : (¬ g.clears l → ∀ c, c.flags &&& ~~~(f c).flags = 0#16) ∧ (¬ g.remasks l → ∀ c, (f c).mask = c.mask)) :
      Ruled g l p (p.onLine l f)
  | restart (hl : l = .console) : Ruled g l p { p with restart := p.restart.order }

/-- A verdict whose refusals carry no results unless `dup` allows it, and whose part when taken satisfies `R`. -/
def Verdict.Obeys (dup : Prop) (R : Part → Prop) : Verdict → Prop
  | .refused why results => results = [] ∨ dup ∧ why = .duplicate
  | .taken q _ => R q

section
variable {dup : Prop} {R : Part → Prop}

theorem refuse_obeys (why : Reason) : (refuse why).Obeys dup R := .inl rfl

theorem badOperand_obeys : badOperand.Obeys dup R := .inl rfl

theorem checked_obeys (b : Bool) (n declared : Nat) {v : Verdict} (h : v.Obeys dup R) :
    (checked b n declared v).Obeys dup R := by
  unfold checked
  split
  · exact refuse_obeys _
  · split
    · exact badOperand_obeys
    · exact h

theorem Verdict.obeys_ite {b : Prop} [Decidable b] {v w : Verdict} (hv : b → v.Obeys dup R) (hw : ¬ b → w.Obeys dup R) :
    (if b then v else w).Obeys dup R := by
  split
  · next h => exact hv h
  · next h => exact hw h

theorem onCallout_obeys {ops : List Operand} {p : Part} {body : SlotId → Callout → Verdict}
    (h : ∀ i c, p.callout? i = some c → (body i c).Obeys dup R) : (onCallout ops p body).Obeys dup R := by
  unfold onCallout
  split
  · exact badOperand_obeys
  · split
    · exact refuse_obeys _
    · next hl => exact h _ _ (Part.lookup_eq_some hl)

end

section
variable {g : Grants} {l : Line} {p q : Part} {dup : Prop}

/-- A rule that makes no callout and keeps every state in order on its way. -/
def Grants.plain (g : Grants) : Grants :=
  { g with makes := False, loose := none }

theorem Ruled.of_moves (h : Moves g.plain p q) (hs : Settles p q) (hk : KeepsTies p q) : Ruled g l p q :=
  .moves none h (h.statesRight rfl) hs hk

theorem Ruled.unchanged : Ruled g l p p := .of_moves .refl (.refl p) (.of_binds (.refl p))

theorem Ruled.finish (h : Moves g.plain p q) (hk : KeepsTies p q) : Ruled g l p q.finish :=
  .of_moves (h.trans (q.finish_moves _)) (.finish p q) fun hp => (hk hp).trans q.finish_binds

theorem Ruled.edits (hg : g.edits) (h : Edits p q) : Ruled g l p q :=
  .of_moves (.one (.edit hg h)) h.settles (.of_binds (.edits h))

theorem takenFor_obeys (n : CalloutNo) (h : Moves g.plain p q) (hk : KeepsTies p q) :
    (q.takenFor n).Obeys dup (Ruled g l p) :=
  Ruled.finish h hk

/-! ## Orders that only answer, and those of the siren, the notices and the store -/

theorem unchanged_obeys (results : List Operand) : (Verdict.taken p results).Obeys dup (Ruled g l p) :=
  Ruled.unchanged

theorem queryCalloutOrder_obeys (declared : Nat) (ops : List Operand) :
    (queryCalloutOrder l declared ops p).Obeys dup (Ruled g l p) := by
  refine checked_obeys _ _ _ ?_
  split
  · exact badOperand_obeys
  · exact unchanged_obeys _
  · refine Verdict.obeys_ite (fun _ => badOperand_obeys) fun _ => ?_
    split
    · exact refuse_obeys _
    · exact unchanged_obeys _

theorem queryCrewOrder_obeys (declared : Nat) (ops : List Operand) :
    (queryCrewOrder l declared ops p).Obeys dup (Ruled g l p) := by
  refine checked_obeys _ _ _ ?_
  split
  · refine Verdict.obeys_ite (fun _ => badOperand_obeys) fun _ => ?_
    split
    · exact refuse_obeys _
    · split
      · exact unchanged_obeys _
      · exact Verdict.obeys_ite (fun _ => refuse_obeys _) fun _ => unchanged_obeys _
      · split
        · exact refuse_obeys _
        · exact unchanged_obeys _
  · exact badOperand_obeys

theorem queryMemberOrder_obeys (declared : Nat) (ops : List Operand) :
    (queryMemberOrder l declared ops p).Obeys dup (Ruled g l p) := by
  refine checked_obeys _ _ _ ?_
  split
  · exact badOperand_obeys
  · exact unchanged_obeys _
  · exact Verdict.obeys_ite (fun _ => refuse_obeys _) fun _ => unchanged_obeys _

theorem queryUnitOrder_obeys (declared : Nat) (ops : List Operand) :
    (queryUnitOrder l declared ops p).Obeys dup (Ruled g l p) :=
  checked_obeys _ _ _ (unchanged_obeys _)

theorem readNoticesOrder_obeys (declared : Nat) (ops : List Operand) :
    (readNoticesOrder l declared ops p).Obeys dup (Ruled g l p) :=
  checked_obeys _ _ _ (unchanged_obeys _)

theorem setRun_settles (r : Option SirenRun) : Settles p (p.setRun r) :=
  .of_same rfl (fun _ => rfl) rfl rfl rfl

theorem sirenRequest_settles (pat : PatternId) (n : Nat) : Settles p (p.sirenRequest pat n) := by
  unfold Part.sirenRequest
  split
  · exact .refl p
  · split <;> exact setRun_settles _

theorem sirenOrder_obeys (declared : Nat) (ops : List Operand) :
    (sirenOrder l declared ops p).Obeys dup (Ruled g l p) := by
  have hrequest (pat : PatternId) (n : Nat) : Ruled g l p (p.sirenRequest pat n) :=
    .of_moves (p.sirenRequest_moves _ pat n) (sirenRequest_settles pat n) (.of_binds (p.sirenRequest_binds pat n))
  refine checked_obeys _ _ _ ?_
  split
  · split
    · exact hrequest _ _
    · exact Verdict.obeys_ite (fun _ => badOperand_obeys) fun _ => hrequest _ _
  · exact badOperand_obeys

theorem sirenStopOrder_obeys (declared : Nat) (ops : List Operand) :
    (sirenStopOrder l declared ops p).Obeys dup (Ruled g l p) :=
  checked_obeys _ _ _ (Ruled.of_moves (.run fun _ _ => rfl) (setRun_settles none) (.of_binds (.run none p)))

theorem noticeSet_within {ops : List Operand} {b : Set16} (h : noticeSet ops = some b) :
    b &&& ~~~allNotices = 0#16 := by
  unfold noticeSet at h
  split at h
  · split at h
    · next hb => cases h; exact hb
    · cases h
  · cases h

theorem ackNoticeOrder_obeys (hg : g.clears l) (declared : Nat) (ops : List Operand) :
    (ackNoticeOrder l declared ops p).Obeys dup (Ruled g l p) := by
  refine checked_obeys _ _ _ ?_
  split
  · exact badOperand_obeys
  · next b _ =>
    refine Ruled.notices _ (fun c => rfl) (fun c => ⟨fun h => ?_, id⟩) ⟨fun h => absurd hg h, fun _ _ => rfl⟩
    rw [show (c.flags &&& ~~~b) &&& ~~~allNotices = (c.flags &&& ~~~allNotices) &&& ~~~b by
      rw [BitVec.and_assoc, BitVec.and_comm (~~~b), ← BitVec.and_assoc], h, BitVec.zero_and]

theorem setMaskOrder_obeys (hg : g.remasks l) (declared : Nat) (ops : List Operand) :
    (setMaskOrder l declared ops p).Obeys dup (Ruled g l p) := by
  refine checked_obeys _ _ _ ?_
  split
  · exact badOperand_obeys
  · next b hb =>
    refine Ruled.notices _ (fun c => rfl) (fun c => ⟨id, fun _ => noticeSet_within hb⟩) ⟨fun _ c => ?_, fun h => absurd hg h⟩
    exact BitVec.and_not_self _

theorem saveOrder_obeys (hg : g.edits) (declared : Nat) (ops : List Operand) :
    (saveOrder l declared ops p).Obeys dup (Ruled g l p) := by
  refine checked_obeys _ _ _ ?_
  split
  · exact badOperand_obeys
  · next k _ =>
    refine Verdict.obeys_ite (fun _ => refuse_obeys _) fun he => Verdict.obeys_ite (fun _ => refuse_obeys _) fun _ => ?_
    exact Ruled.edits hg (Part.beginSave_edits _ (by simpa using he))

theorem queryStoreOrder_obeys (hg : g.edits) (declared : Nat) (ops : List Operand) :
    (queryStoreOrder l declared ops p).Obeys dup (Ruled g l p) :=
  checked_obeys _ _ _ (Ruled.edits hg Part.poll_edits)

theorem clearStoreErrorOrder_obeys (hg : g.edits) (declared : Nat) (ops : List Operand) :
    (clearStoreErrorOrder l declared ops p).Obeys dup (Ruled g l p) :=
  checked_obeys _ _ _ (Ruled.edits hg Part.clearStoreError_edits)

theorem restartOrder_obeys (declared : Nat) (ops : List Operand) :
    (restartOrder l declared ops p).Obeys dup (Ruled g l p) := by
  cases l with
  | console => exact checked_obeys _ _ _ (Ruled.restart rfl)
  | p | s => exact refuse_obeys .notPermitted

/-! ## Edits -/

theorem editClassOrder_obeys (hg : g.edits) (declared : Nat) (ops : List Operand) :
    (editClassOrder l declared ops p).Obeys dup (Ruled g l p) := by
  refine checked_obeys _ _ _ ?_
  split
  · split
    · exact badOperand_obeys
    · exact unchanged_obeys _
    · exact Ruled.edits hg (Part.setClass_edits _ _)
  · exact badOperand_obeys

theorem editZoneOrder_obeys (hg : g.edits) (declared : Nat) (ops : List Operand) :
    (editZoneOrder l declared ops p).Obeys dup (Ruled g l p) := by
  refine checked_obeys _ _ _ ?_
  split
  · simp only
    split
    · exact unchanged_obeys _
    · exact Ruled.edits hg (.of_resolver (fun _ => rfl) fun hp _ _ hk => hp.working hk)
  · exact badOperand_obeys

theorem editApplianceOrder_obeys (hg : g.edits) (declared : Nat) (ops : List Operand) :
    (editApplianceOrder l declared ops p).Obeys dup (Ruled g l p) := by
  refine checked_obeys _ _ _ ?_
  split
  · refine Verdict.obeys_ite (fun _ => badOperand_obeys) fun _ => Verdict.obeys_ite (fun _ => refuse_obeys _) fun _ => ?_
    exact Ruled.edits hg (Part.setAppliance_edits _ rfl)
  · exact badOperand_obeys

theorem editSiteOrder_obeys (hg : g.edits) (declared : Nat) (ops : List Operand) :
    (editSiteOrder l declared ops p).Obeys dup (Ruled g l p) := by
  refine checked_obeys _ _ _ ?_
  split
  · refine Verdict.obeys_ite (fun _ => unchanged_obeys _) fun _ => Verdict.obeys_ite (fun _ => refuse_obeys _) fun _ => ?_
    exact Ruled.edits hg (Part.updateSite_edits _ _)
  · exact badOperand_obeys

theorem unitGeneral_obeys (hg : g.edits) (ops : List Operand) : (unitGeneral ops p).Obeys dup (Ruled g l p) := by
  refine Verdict.obeys_ite (fun _ => badOperand_obeys) fun _ => ?_
  split
  · exact badOperand_obeys
  · exact Ruled.edits hg (Part.editGeneral_edits _)

theorem unitPattern_obeys (hg : g.edits) (ops : List Operand) : (unitPattern ops p).Obeys dup (Ruled g l p) := by
  refine Verdict.obeys_ite (fun _ => badOperand_obeys) fun _ => ?_
  split
  · split
    · exact badOperand_obeys
    · exact Ruled.edits hg (Part.setPattern_edits _ _)
  · exact badOperand_obeys

theorem editGroupOrder_obeys (hg : g.edits) (declared : Nat) (ops : List Operand) :
    (editGroupOrder l declared ops p).Obeys dup (Ruled g l p) := by
  refine checked_obeys _ _ _ ?_
  split
  · refine Verdict.obeys_ite (fun _ => unchanged_obeys _) fun _ => Verdict.obeys_ite (fun _ => badOperand_obeys) fun _ =>
      Verdict.obeys_ite (fun _ => refuse_obeys _) fun _ => Verdict.obeys_ite (fun _ => refuse_obeys _) fun _ => ?_
    exact Ruled.edits hg (.of_roster fun _ _ _ => Iff.rfl)
  · exact badOperand_obeys

theorem changeMember_moves (hg : g.edits) (e : MemberEdit) {x : Member} (hx : p.member? e.member = some x) :
    Moves g p (p.changeMember e x) := by
  have h : Moves g p (p.setMember e.member (some (e.change x))) := .one (.edit hg (Part.changeMember_edits e hx))
  unfold Part.changeMember
  refine .ite h ?_
  split
  · exact h.trans (Part.reassess_moves g _ _)
  · exact h

theorem editMemberOrder_obeys (hg : g.edits) (declared : Nat) (ops : List Operand) :
    (editMemberOrder l declared ops p).Obeys dup (Ruled g l p) := by
  refine checked_obeys _ _ _ ?_
  split
  · exact badOperand_obeys
  · next e _ =>
    split
    · next hx =>
      split
      · exact refuse_obeys _
      · next a _ =>
        have hcreate : Edits p (p.setMember e.member (some (e.create a))) :=
          Part.setMember_edits_of_idle _ (fun y hy => by cases hy; rfl) fun y hy => by rw [hx] at hy; cases hy
        exact Verdict.obeys_ite (fun _ => refuse_obeys _) fun _ =>
          Ruled.finish (.one (.edit hg hcreate)) (.of_binds (.edits hcreate))
    · next x hx =>
      refine Verdict.obeys_ite (fun _ => Verdict.obeys_ite (fun _ => refuse_obeys _) fun hfree => ?_) fun _ =>
        Verdict.obeys_ite (fun _ => refuse_obeys _) fun _ => Ruled.finish (changeMember_moves (g := g.plain) hg e hx)
          (.of_binds (Part.changeMember_binds e hx))
      refine Ruled.edits hg (Part.setMember_edits_of_idle _ nofun fun y hy => ?_)
      rw [hx] at hy
      cases hy
      simp only [Bool.or_eq_true, not_or] at hfree
      simpa using hfree.1

theorem planTaken_obeys (hg : g.edits) {n : PlanId} {x : Option Plan} (h : p.PlansSound → ∀ pl ∈ x, pl.Sound) :
    (p.planTaken n x).Obeys dup (Ruled g l p) :=
  Ruled.edits hg (Part.setPlan_edits h)

theorem planDelete_obeys (hg : g.edits) (n : PlanId) (ops : List Operand) :
    (planDelete n ops p).Obeys dup (Ruled g l p) := by
  refine Verdict.obeys_ite (fun _ => badOperand_obeys) fun _ => ?_
  split
  · exact refuse_obeys _
  · exact planTaken_obeys hg fun _ => nofun

theorem planReport_obeys (n : PlanId) (ops : List Operand) : (planReport n ops p).Obeys dup (Ruled g l p) :=
  Verdict.obeys_ite (fun _ => badOperand_obeys) fun _ => unchanged_obeys _

theorem planSettings_obeys (hg : g.edits) (n : PlanId) (ops : List Operand) :
    (planSettings n ops p).Obeys dup (Ruled g l p) := by
  refine Verdict.obeys_ite (fun _ => badOperand_obeys) fun _ => ?_
  split
  · next window turnout _ _ text hw ht _ _ _ =>
    split
    · exact refuse_obeys _
    · next pl hpl =>
      refine planTaken_obeys hg fun hp x hx => ?_
      cases hx
      have hsound := hp.working hpl
      have ⟨_, _, _, _, h5, h6, h7, h8, h9⟩ := hsound
      refine hsound.of_entries rfl (getD_within ((optWithin_eq_some (by decide)).1 hw).2 ⟨h5, h6⟩)
        (getD_within ((optWithin_eq_some (by decide)).1 ht).2 ⟨h7, h8⟩) ?_
      cases text with
      | none => exact h9
      | some t => exact cleanCut_length 24 t
  · exact badOperand_obeys

theorem planGroups_obeys (hg : g.edits) (n : PlanId) (ops : List Operand) :
    (planGroups n ops p).Obeys dup (Ruled g l p) := by
  refine Verdict.obeys_ite (fun _ => badOperand_obeys) fun _ => ?_
  split
  · split
    · exact refuse_obeys _
    · next pl hpl =>
      refine planTaken_obeys hg fun hp x hx => ?_
      cases hx
      have hsound := hp.working hpl
      have ⟨_, _, _, _, h5, h6, h7, h8, h9⟩ := hsound
      exact hsound.of_entries rfl ⟨h5, h6⟩ ⟨h7, h8⟩ h9
  · exact badOperand_obeys

theorem planEntry_obeys (hg : g.edits) (n : PlanId) (ops : List Operand) :
    (planEntry n ops p).Obeys dup (Ruled g l p) := by
  refine Verdict.obeys_ite (fun _ => badOperand_obeys) fun _ => ?_
  split
  · next k main alternate oic drv ba gen hk hletters hoic hdrv hba hgen =>
    refine Verdict.obeys_ite (fun _ => badOperand_obeys) fun hchecks => ?_
    simp only [not_or, Bool.not_eq_true] at hchecks
    obtain ⟨hsum, -, hmain⟩ := hchecks
    have hentry : PlanEntry.Right
        { main := main, alternate := alternate, need := { oic := oic, drv := drv, ba := ba, gen := gen } } :=
      ⟨(needLetters_eq_some.1 hletters).2, hsum, ((needWithin_eq_some (by decide)).1 hoic).2.2,
        ((needWithin_eq_some (by decide)).1 hdrv).2.2, ((needWithin_eq_some (by decide)).1 hba).2.2,
        ((needWithin_eq_some (by decide)).1 hgen).2.2⟩
    split
    · exact planTaken_obeys hg fun _ x hx => by cases hx; exact Plan.sound_define hentry
    · next pl hpl =>
      refine planTaken_obeys hg fun hp x hx => ?_
      cases hx
      simp only [hpl, Option.map_some, Option.getD_some] at hk hmain
      obtain ⟨-, h1, h2⟩ := (needWithin_eq_some (by omega)).1 hk
      exact (hp.working hpl).putEntry hentry (by omega) (by omega) (by simpa using hmain)
  · exact badOperand_obeys

theorem planRemoveEntry_obeys (hg : g.edits) (n : PlanId) (ops : List Operand) :
    (planRemoveEntry n ops p).Obeys dup (Ruled g l p) := by
  refine Verdict.obeys_ite (fun _ => badOperand_obeys) fun _ => ?_
  split
  · exact badOperand_obeys
  · next k hk =>
    have hk := ((needWithin_eq_some (by decide)).1 hk).2
    split
    · exact refuse_obeys _
    · next pl hpl =>
      refine Verdict.obeys_ite (fun _ => badOperand_obeys) fun hlen => Verdict.obeys_ite (fun _ => refuse_obeys _)
        fun hone => planTaken_obeys hg fun hp x hx => ?_
      cases hx
      exact (hp.working hpl).eraseEntry (by omega) hone

theorem editPlanPart_obeys (declared : Nat) (plan : Operand) {body : PlanId → Part → Verdict}
    (h : ∀ n, (body n p).Obeys dup (Ruled g l p)) : (editPlanPart l declared plan body p).Obeys dup (Ruled g l p) := by
  refine checked_obeys _ _ _ ?_
  split
  · exact badOperand_obeys
  · exact h _

theorem editPlanOrder_obeys (hg : g.edits) (declared : Nat) (ops : List Operand) :
    (editPlanOrder l declared ops p).Obeys dup (Ruled g l p) := by
  unfold editPlanOrder
  refine editPlanPart_obeys _ _ fun n => ?_
  split
  · exact planDelete_obeys hg _ _
  · exact planSettings_obeys hg _ _
  · exact planGroups_obeys hg _ _
  · exact planEntry_obeys hg _ _
  · exact planRemoveEntry_obeys hg _ _
  · exact planReport_obeys _ _
  · exact badOperand_obeys

theorem editUnitPart_obeys (declared : Nat) {body : Part → Verdict} (h : (body p).Obeys dup (Ruled g l p)) :
    (editUnitPart l declared body p).Obeys dup (Ruled g l p) :=
  checked_obeys _ _ _ h

theorem editUnitOrder_obeys (hg : g.edits) (declared : Nat) (ops : List Operand) :
    (editUnitOrder l declared ops p).Obeys dup (Ruled g l p) := by
  refine editUnitPart_obeys _ ?_
  split
  · exact unitGeneral_obeys hg _
  · exact unitPattern_obeys hg _
  · exact badOperand_obeys

/-! ## Orders on callouts, and responses -/

theorem Part.resolvePlan_sound {x : Option PlanId} {cls : ClassId} {zone : ZoneId} {n : PlanId} {pl : Plan}
    (hp : p.PlansSound) (h : p.resolvePlan x cls zone = some (n, pl)) : pl.Sound := by
  unfold Part.resolvePlan at h
  simp only at h
  split at h
  · cases h
  · next m _ =>
    obtain ⟨y, hy, e⟩ := Option.map_eq_some_iff.1 h
    cases e
    exact hp.working hy

theorem duplicateAlert_obeys (hp : g.plans → p.PlansSound) (hdup : dup) (x : AlertArgs) {i : SlotId} {c : Callout}
    (hc : p.callout? i = some c) : (p.duplicateAlert x i c).Obeys dup (Ruled g l p) := by
  refine Verdict.obeys_ite (fun ho => ?_) fun _ => .inr ⟨hdup, rfl⟩
  have hopen : p.stateAt i = some .inOpen := ho ▸ Part.stateAt_of_callout hc
  have hadd : Moves g.plain p (p.addInOpen i c ((p.resolvePlan x.override x.cls x.zone).map Prod.snd) 0#16) := by
    refine p.addInOpen_moves _ i c _ _ fun hg pl hpl => ?_
    obtain ⟨⟨n, y⟩, hy, rfl⟩ := Option.map_eq_some_iff.1 hpl
    exact Part.resolvePlan_sound (hp hg) hy
  have hplain : (p.addInOpen i c ((p.resolvePlan x.override x.cls x.zone).map Prod.snd) 0#16).PlainAt i :=
    Part.plainAt_of_stateAt (Part.stateAt_addInOpen hopen _ _ _) rfl
  have hties := Part.addInOpen_binds hc (by rw [ho]; nofun) ((p.resolvePlan x.override x.cls x.zone).map Prod.snd) 0#16
  exact Ruled.finish (.ite (hadd.trans (Part.leaveOpen_moves _ hplain)) hadd)
    (.of_binds (.ite (hties.trans (Part.leaveOpen_binds hplain)) hties))

theorem freshAlert_obeys (hp : g.plans → p.PlansSound) (x : AlertArgs)
    (hnew : ∀ j d, p.callout? j = some d → d.reference ≠ x.reference) :
    (p.freshAlert l x).Obeys dup (Ruled g l p) := by
  unfold Part.freshAlert
  split
  · exact refuse_obeys _
  · next i rest hfree =>
    split
    · exact refuse_obeys _
    · next n pl hpl =>
      refine Verdict.obeys_ite (fun _ => refuse_obeys _) fun hsome => ?_
      obtain ⟨a, hcreate⟩ := Part.createCallout_creates (plans := g.plans) (l := l) (n := n) (x := x) hfree
        (fun hg => Part.resolvePlan_sound (hp hg) hpl) hnew hsome
      have hplain : (p.createCallout i (p.newCallout l x n pl (p.attempt (fun _ => false) pl))).PlainAt i := fun d hd => by
        rw [hcreate.callout?, if_pos rfl] at hd
        cases hd
        rfl
      exact Ruled.created hcreate ((Moves.ite (Part.leaveOpen_moves _ hplain) .refl).trans (Part.finish_moves _ _))
        (.finish _ _) fun hp => ((hcreate.binds hp.free).trans (.ite (Part.leaveOpen_binds hplain) (.refl _))).trans
          (Part.finish_binds _)

theorem alertOrder_obeys (hp : g.plans → p.PlansSound) (hdup : dup) (declared : Nat) (ops : List Operand) :
    (alertOrder l declared ops p).Obeys dup (Ruled g l p) := by
  refine checked_obeys _ _ _ ?_
  split
  · exact badOperand_obeys
  · next x _ =>
    split
    · next i c h =>
      obtain ⟨j, -, h⟩ := Option.bind_eq_some_iff.1 h
      obtain ⟨d, hd, e⟩ := Option.map_eq_some_iff.1 h
      cases e
      exact duplicateAlert_obeys hp hdup x hd
    · next h =>
      refine freshAlert_obeys hp x fun j d hd e => ?_
      cases hf : p.findLive fun c => c.reference == x.reference with
      | none => simpa [e] using Part.findLive_eq_none.1 hf j d hd
      | some k =>
        obtain ⟨y, hy, -⟩ := Part.findLive_eq_some hf
        rw [hf, Option.bind_some, hy] at h
        cases h

theorem addOrder_obeys (hp : g.plans → p.PlansSound) (declared : Nat) (ops : List Operand) :
    (addOrder l declared ops p).Obeys dup (Ruled g l p) := by
  refine checked_obeys _ _ _ ?_
  split
  · next x plan given _ _ _ =>
    have hsound : g.plain.plans → ∀ pl ∈ plan.bind fun n => p.resolver.plans.get n, pl.Sound := fun hg pl hpl => by
      obtain ⟨n, -, hn⟩ := Option.bind_eq_some_iff.1 hpl
      exact (hp hg).working hn
    refine Verdict.obeys_ite (fun _ => badOperand_obeys) fun _ => ?_
    split
    · exact refuse_obeys _
    · next i c hl =>
      have hc := Part.lookup_eq_some hl
      simp only
      split
      iterate 3 exact refuse_obeys _
      · next h =>
        exact Verdict.obeys_ite (fun _ => refuse_obeys _) fun _ => takenFor_obeys _ (p.addInOpen_moves _ i c _ _ hsound)
          (.of_binds (Part.addInOpen_binds hc (by rw [h]; nofun) _ _))
      iterate 3
        next h =>
        exact Verdict.obeys_ite (fun _ => refuse_obeys _) fun _ => takenFor_obeys _ (p.supplement_moves _ i c _ _ hsound)
          (.of_binds (Part.supplement_binds hc (by rw [h]; nofun) _ _))
  · exact badOperand_obeys

theorem commitOrder_obeys (declared : Nat) (ops : List Operand) :
    (commitOrder l declared ops p).Obeys dup (Ruled g l p) := by
  refine checked_obeys _ _ _ (onCallout_obeys fun i c hc => Verdict.obeys_ite (fun h => ?_) fun _ => refuse_obeys _)
  have hplain : p.PlainAt i := Part.plainAt_of hc (by rw [h]; rfl)
  exact takenFor_obeys _ (Part.leaveOpen_moves _ hplain) (.of_binds (Part.leaveOpen_binds hplain))

theorem holdOrder_obeys (declared : Nat) (ops : List Operand) :
    (holdOrder l declared ops p).Obeys dup (Ruled g l p) := by
  refine checked_obeys _ _ _ (onCallout_obeys fun i c hc => ?_)
  have held (h : c.state = .inOpen ∨ c.state = .alerting ∨ c.state = .counting ∨ c.state = .crewed) :
      ((p.hold i c).takenFor c.number).Obeys dup (Ruled g l p) :=
    takenFor_obeys _ (Part.hold_moves _ hc h) (.of_binds (Part.hold_binds hc fun e => by rw [e] at h; simp at h))
  split
  · next h => exact held (.inl h)
  · next h => exact held (.inr (.inl h))
  · next h => exact held (.inr (.inr (.inl h)))
  · next h => exact held (.inr (.inr (.inr h)))
  iterate 3 exact refuse_obeys _

theorem resumeOrder_obeys (declared : Nat) (ops : List Operand) :
    (resumeOrder l declared ops p).Obeys dup (Ruled g l p) := by
  refine checked_obeys _ _ _ (onCallout_obeys fun i c hc => ?_)
  split
  · next h =>
    exact takenFor_obeys _ (Part.resume_moves _ hc h) fun hp => Part.resume_binds hc (hp.states i c hc) h
  · exact refuse_obeys _

theorem departOrder_obeys (declared : Nat) (ops : List Operand) :
    (departOrder l declared ops p).Obeys dup (Ruled g l p) := by
  refine checked_obeys _ _ _ ?_
  split
  · split
    · exact refuse_obeys _
    · next i c hl =>
      have hc := Part.lookup_eq_some hl
      split
      · exact refuse_obeys _
      · split
        iterate 3
          next h =>
          have hplain : p.PlainAt i := Part.plainAt_of hc (by rw [h]; rfl)
          exact Verdict.obeys_ite (fun _ => refuse_obeys _) fun _ =>
            takenFor_obeys _ (Part.depart_moves _ hplain) (.of_binds (Part.depart_binds hplain))
        iterate 4 exact refuse_obeys _
  · exact badOperand_obeys

theorem standDownPaged_obeys {i : SlotId} {c : Callout} (hc : p.callout? i = some c) (n : CalloutNo) :
    ((p.standDownPaged i c).takenFor n).Obeys dup (Ruled g l p) := by
  have h : Moves { g.plain with loose := some i } p (p.standDownPaged i c) := Part.standDownPaged_moves rfl c p
  refine Ruled.moves (some i) (h.trans (Part.finish_moves _ _)) (fun hp => ?_) (.finish _ _)
    (.of_binds ((Part.standDownPaged_binds hc).trans (Part.finish_binds _)))
  refine (Part.finish_moves g.plain _).statesRight rfl fun j d hd => ?_
  by_cases hij : i = j
  · subst hij
    exact Part.standDownPaged_right hd
  · exact h.statesRight_ne hp (fun e => hij (Option.some.inj e)) hd

theorem standDownOrder_obeys (declared : Nat) (ops : List Operand) :
    (standDownOrder l declared ops p).Obeys dup (Ruled g l p) := by
  refine checked_obeys _ _ _ (onCallout_obeys fun i c hc => ?_)
  split
  · exact takenFor_obeys _ (p.standDownSilent_moves _ i _ 1) (.of_binds (p.standDownSilent_binds i _ 1))
  · exact takenFor_obeys _ (p.standDownSilent_moves _ i _ 2) (.of_binds (p.standDownSilent_binds i _ 2))
  iterate 4 exact standDownPaged_obeys hc _
  · exact refuse_obeys _

theorem orderedResponse_obeys {i : SlotId} {c : Callout} {m : MemberId} {x : Member} {f : ResponseForm}
    (hc : p.callout? i = some c) (hs : c.state ≠ .closing) (hx : p.member? m = some x)
    (hw : f = .bookOn → x.availability ≠ .withheld) (k : Line) :
    (p.orderedResponse i c m f k).Obeys dup (Ruled g l p) :=
  Ruled.finish (p.applyResponse_moves _ m f (.line k) hc) fun hp =>
    Part.applyResponse_binds (.line k) hc (hp.sound i c hc) hs hx hw

theorem relayOrder_obeys (declared : Nat) (ops : List Operand) :
    (relayOrder l declared ops p).Obeys dup (Ruled g l p) := by
  refine checked_obeys _ _ _ ?_
  split
  · next m _ _ _ _ _ _ _ =>
    refine Verdict.obeys_ite (fun _ => badOperand_obeys) fun _ => Verdict.obeys_ite (fun _ => refuse_obeys _) fun hm => ?_
    obtain ⟨x, hx⟩ := Option.ne_none_iff_exists'.1 fun h => hm (Option.isNone_iff_eq_none.2 h)
    split
    · exact refuse_obeys _
    · next i c hl =>
      refine Verdict.obeys_ite (fun _ => refuse_obeys _) fun hs =>
        orderedResponse_obeys (Part.lookup_eq_some hl) hs hx (fun h => ?_) _
      split at h <;> cases h
  · exact badOperand_obeys

theorem bookOnTo_obeys {ic : SlotId × Callout} (hc : p.callout? ic.1 = some ic.2) {m : MemberId} {x : Member}
    (hx : p.member? m = some x) (k : Line) : (p.bookOnTo m x k ic).Obeys dup (Ruled g l p) := by
  refine Verdict.obeys_ite (fun _ => refuse_obeys _) fun h => ?_
  simp only [not_or] at h
  obtain ⟨-, hs, hw, -⟩ := h
  exact orderedResponse_obeys hc hs hx (fun _ => hw) _

theorem Part.chooseBooking_eq_some {m : MemberId} {ic : SlotId × Callout} (h : p.chooseBooking m = some ic) :
    p.callout? ic.1 = some ic.2 := by
  unfold Part.chooseBooking at h
  split at h
  · obtain ⟨c, hc, rfl⟩ := Option.map_eq_some_iff.1 h
    exact hc
  · split at h
    · next hl =>
      cases h
      have hm : ic ∈ p.live.filter fun ic => ic.2.state.bookable := by rw [hl]; exact List.mem_singleton_self _
      exact mem_live.1 (List.mem_filter.1 hm).1
    · cases h

theorem bookOnOrder_obeys (declared : Nat) (ops : List Operand) :
    (bookOnOrder l declared ops p).Obeys dup (Ruled g l p) := by
  refine checked_obeys _ _ _ ?_
  split
  · split
    · next hx hl => exact bookOnTo_obeys (Part.lookup_eq_some hl) hx _
    · exact refuse_obeys _
  · split
    · exact badOperand_obeys
    · next hb =>
      split
      · exact refuse_obeys _
      · next hx => exact bookOnTo_obeys (Part.chooseBooking_eq_some hb) hx _
  · exact badOperand_obeys

theorem setAvailabilityOrder_obeys (hm : g.marks ∨ l ≠ .console) (declared : Nat) (ops : List Operand) :
    (setAvailabilityOrder l declared ops p).Obeys dup (Ruled g l p) := by
  refine Verdict.obeys_ite (fun _ => refuse_obeys _) fun hbar => checked_obeys _ _ _ ?_
  split
  · next m code hidx hcode =>
    split
    · exact refuse_obeys _
    · next x hx =>
      refine Verdict.obeys_ite (fun _ => refuse_obeys _) fun _ =>
        Ruled.finish (p.changeAvailability_moves _ _ ?_) (.of_binds (p.changeAvailability_binds m _ _))
      refine hm.imp id fun hl => ?_
      obtain ⟨hop, -, hle⟩ := (needWithin_eq_some (by decide)).1 hcode
      have hctl : controlOnly l = true := by cases l <;> simp_all [controlOnly]
      simp only [Part.withholdingBarred, hctl, hidx, Bool.true_and, Bool.or_eq_true, not_or, Option.map_some,
        Option.getD_some, Part.isWithheld, hx, beq_iff_eq] at hbar
      refine ⟨fun e => hbar.1 ((needWithin_eq_some (by decide)).2 ⟨?_, by decide, by decide⟩), fun y hy => ?_⟩
      · rw [hop]
        match code, hle with
        | 2, _ => rfl
        | 0, _ => cases e
        | 1, _ => cases e
      · rw [hx] at hy
        cases hy
        exact hbar.2
  · exact badOperand_obeys

theorem keepOrder_obeys (declared : Nat) (ops : List Operand) :
    (keepOrder l declared ops p).Obeys dup (Ruled g l p) :=
  checked_obeys _ _ _ (unchanged_obeys _)

end

end Sys2Proof.Machine


/-!
SUPPORT. What every event and order comes to: an exchange on the lines, a rule's moves, and an exchange again; or a part
just loaded.
-/

namespace Sys2Proof.Machine

open Sys2Proof

/-! ## Exchanges -/

/-- `q` is `p` but for its lines, its restart and its cause, its pins and its meter; flags of the ten codes may have been
raised, and masks stay. -/
structure Exchanged (p q : Part) : Prop where
  after : q = { p with lines := q.lines, restart := q.restart, cause := q.cause, pins := q.pins, supply := q.supply }
  supply : q.supply.state = p.supply.state ∧ q.supply.reserveLevel = p.supply.reserveLevel
  flags : ∀ l, ∃ b : Set16, b &&& ~~~allNotices = 0#16 ∧ (q.ctl l).flags = (p.ctl l).flags ||| b
  masks : ∀ l, (q.ctl l).mask = (p.ctl l).mask

namespace Exchanged

variable {p q r : Part}

/-- Flags and masks have stayed. -/
theorem of_same (h : q = { p with lines := q.lines, restart := q.restart, cause := q.cause, pins := q.pins })
    (hf : ∀ l, (q.ctl l).flags = (p.ctl l).flags ∧ (q.ctl l).mask = (p.ctl l).mask) : Exchanged p q :=
  ⟨by rw [h], by rw [h]; exact ⟨rfl, rfl⟩, fun l => ⟨0#16, by decide, by rw [(hf l).1, BitVec.or_zero]⟩,
    fun l => (hf l).2⟩

theorem refl (p : Part) : Exchanged p p := .of_same rfl fun _ => ⟨rfl, rfl⟩

theorem trans (h : Exchanged p q) (k : Exchanged q r) : Exchanged p r := by
  refine ⟨?_, ⟨k.supply.1.trans h.supply.1, k.supply.2.trans h.supply.2⟩, fun l => ?_,
    fun l => (k.masks l).trans (h.masks l)⟩
  · rw [k.after, h.after]
  · obtain ⟨b, hb, e⟩ := h.flags l
    obtain ⟨b', hb', e'⟩ := k.flags l
    refine ⟨b ||| b', ?_, by rw [e', e, BitVec.or_assoc]⟩
    have hor (x y z : Set16) : (x ||| y) &&& z = (x &&& z) ||| (y &&& z) := by
      ext j; simp [Bool.and_or_distrib_right]
    rw [hor, hb, hb']
    rfl

theorem onLine (p : Part) (l : Line) {f : LineController → LineController}
    (hf : ∀ c, (f c).flags = c.flags ∧ (f c).mask = c.mask) : Exchanged p (p.onLine l f) := by
  refine .of_same rfl fun k => ?_
  by_cases h : k = l
  · subst h
    rw [Part.ctl_onLine]
    exact hf _
  · rw [Part.ctl_onLine_ne _ h]
    exact ⟨rfl, rfl⟩

theorem ite {b : Prop} [Decidable b] (hq : Exchanged p q) (hr : Exchanged p r) : Exchanged p (if b then q else r) := by
  split
  · exact hq
  · exact hr

theorem breakReply (p : Part) (l : Line) : Exchanged p (p.breakReply l) := by
  refine .of_same (by rw [p.breakReply_frame l]) fun k => ?_
  obtain ⟨hf, hm, -⟩ := p.breakReply_ctl l k
  exact ⟨hf, hm⟩

theorem breakOff (p : Part) (l : Line) : Exchanged p (p.breakOff l) := by
  refine .of_same (by rw [p.breakOff_frame l]) fun k => ?_
  obtain ⟨hf, hm, -⟩ := p.breakOff_ctl l k
  exact ⟨hf, hm⟩

theorem raise (p : Part) (n : Notice) : Exchanged p (p.raise n) :=
  ⟨rfl, ⟨rfl, rfl⟩, fun l => ⟨n.bit, n.bit_within, by rw [Part.ctl_raise]; rfl⟩, fun l => by rw [Part.ctl_raise]; rfl⟩

theorem sendReply (p : Part) (l : Line) (why : Option Reason) (results : List Operand) :
    Exchanged p (p.sendReply l why results) :=
  .onLine p l fun _ => ⟨rfl, rfl⟩

theorem pins (p : Part) (x : Pins) : Exchanged p { p with pins := x } := .of_same rfl fun _ => ⟨rfl, rfl⟩

theorem meter (p : Part) {f : Supply → Supply}
    (hf : ∀ u, (f u).state = u.state ∧ (f u).reserveLevel = u.reserveLevel) : Exchanged p (p.onSupply f) :=
  ⟨rfl, hf _, fun l => ⟨0#16, by decide, (BitVec.or_zero).symm⟩, fun _ => rfl⟩

theorem onSuper (p : Part) (l : ControlLine) (u : Supervision) : Exchanged p (p.onLines fun ls => ls.setSuper l u) := by
  refine .of_same rfl fun k => ?_
  cases l <;> cases k <;> exact ⟨rfl, rfl⟩

end Exchanged

/-- The part an order is worked on: the exchange before is broken off, and the controller holds the order. -/
def Part.worked (l : Line) (code : Byte) (n : Nat) (ops : List Operand) (p : Part) : Part :=
  (p.breakOff l).onLine l (LineController.work code n ops)

theorem Exchanged.worked (p : Part) (l : Line) (code : Byte) (n : Nat) (ops : List Operand) :
    Exchanged p (p.worked l code n ops) :=
  (Exchanged.breakOff p l).trans (.onLine _ l fun _ => ⟨rfl, rfl⟩)

theorem Part.workOrder_eq (l : Line) (code : Byte) (n : Nat) (ops : List Operand) (order : Part → Verdict) (p : Part) :
    p.workOrder l code n ops order = (p.worked l code n ops).answer l (order (p.worked l code n ops)) :=
  rfl

theorem Exchanged.takeOpening (p : Part) (l : Line) (code : List Byte) (exchange : Byte) :
    Exchanged p (p.takeOpening l code exchange) := by
  unfold Part.takeOpening
  refine (Exchanged.breakOff p l).trans (.onLine _ l ?_)
  intro c
  split <;> exact ⟨rfl, rfl⟩

theorem Exchanged.gapExpires (p : Part) (l : Line) : Exchanged p (p.gapExpires l) := by
  unfold Part.gapExpires
  split
  iterate 2 exact .onLine p l fun _ => ⟨rfl, rfl⟩
  iterate 3 exact .refl p

theorem Exchanged.supervise (p : Part) (l : ControlLine) : Exchanged p (p.supervise l) := by
  unfold Part.supervise Part.raiseIf
  exact .ite ((Exchanged.onSuper p l _).trans (.raise _ _)) (.onSuper p l _)

theorem Exchanged.endWithReply (p : Part) (l : Line) : Exchanged p (p.endWithReply l) := by
  unfold Part.endWithReply
  refine .ite ((Exchanged.onLine p l (f := LineController.replied) fun _ => ⟨rfl, rfl⟩).trans ?_) (.refl p)
  cases l with
  | p => exact .supervise _ .p
  | s => exact .supervise _ .s
  | console => exact .ite (.of_same rfl fun _ => ⟨rfl, rfl⟩) (.refl _)

theorem Exchanged.supervisionExpires (p : Part) (l : ControlLine) : Exchanged p (p.supervisionExpires l) :=
  .ite ((Exchanged.onSuper p l _).trans (.raise _ _)) (.refl p)

theorem Exchanged.restartLines (p : Part) : Exchanged p p.restartLines := by
  have h := ((Exchanged.breakReply p .p).trans (.breakReply _ .s)).trans (.breakReply _ .console)
  unfold Part.restartLines
  generalize ((p.breakReply .p).breakReply .s).breakReply .console = q at h
  refine (h.trans ?_).trans (.raise _ _)
  exact .of_same rfl fun l => by cases l <;> exact ⟨rfl, rfl⟩

/-! ## The shape of an effect -/

/-- An exchange, a rule, and an exchange. -/
structure Runs (g : Grants) (p q : Part) : Prop where
  parts : ∃ r s l, Exchanged p r ∧ Ruled g l r s ∧ Exchanged s q

namespace Runs

variable {g : Grants} {p q r : Part}

theorem of_exchanged (h : Exchanged p q) : Runs g p q := ⟨p, p, .p, .refl p, .unchanged, h⟩

theorem of_ruled {l : Line} (h : Ruled g l p q) : Runs g p q := ⟨p, q, l, .refl p, h, .refl q⟩

theorem refl (g : Grants) (p : Part) : Runs g p p := .of_exchanged (.refl p)

theorem after (h : Exchanged p q) (k : Runs g q r) : Runs g p r := by
  obtain ⟨x, y, l, hx, hy, hr⟩ := k
  exact ⟨x, y, l, h.trans hx, hy, hr⟩

theorem ite {b : Prop} [Decidable b] (hq : Runs g p q) (hr : Runs g p r) : Runs g p (if b then q else r) := by
  split
  · exact hq
  · exact hr

theorem answer {l : Line} {dup : Prop} {v : Verdict} (h : v.Obeys dup (Ruled g l p)) : Runs g p (p.answer l v) := by
  cases v with
  | refused why results => exact .of_exchanged (.sendReply p l _ _)
  | taken q results => exact ⟨p, q, l, .refl p, h, .sendReply q l _ _⟩

theorem workOrder {l : Line} {dup : Prop} {code : Byte} {n : Nat} {ops : List Operand} {order : Part → Verdict}
    (h : (order (p.worked l code n ops)).Obeys dup (Ruled g l (p.worked l code n ops))) :
    Runs g p (p.workOrder l code n ops order) :=
  .after (.worked p l code n ops) (.answer h)

theorem whenRunning {f : Part → Part} (h : Runs g p (f p)) : Runs g p (p.whenRunning f) := .ite h (.refl g p)

end Runs

/-! ## Orders -/

section
variable {g : Grants} {p : Part} {l : Line}

/-- A command that brings a frame of an order. -/
def Instr.isFrame : Instr → Bool
  | .order _ _ | .operand _ _ => true
  | _ => false

/-- The command has all the grants it needs. -/
structure Grants.Cover (g : Grants) (c : Instr) : Prop where
  edits   : c.mayConfigure = true → g.edits
  marks   : c.mayConfigure = true ∨ (∃ ops, c = .setAvailability .console ops) → g.marks
  clears  : ∀ l, Instr.isFrame c = true ∨ (∃ ops, c = .ackNotice l ops) → g.clears l
  remasks : ∀ l, Instr.isFrame c = true ∨ (∃ ops, c = .setMask l ops) → g.remasks l

/-- What the order of a command comes to. -/
theorem orderRule_obeys {c : Instr} {code : Byte} {ops : List Operand} (hc : c.exchange? = some (l, code, ops))
    (hp : g.plans → p.PlansSound) (hg : g.Cover c) :
    (orderRule c p).Obeys (∃ ops, c = .alert l ops) (Ruled g l p) := by
  cases c with
  | unknownOrder => exact refuse_obeys _
  | alert => cases hc; exact alertOrder_obeys hp ⟨_, rfl⟩ _ _
  | add => cases hc; exact addOrder_obeys hp _ _
  | commit => cases hc; exact commitOrder_obeys _ _
  | hold => cases hc; exact holdOrder_obeys _ _
  | resume => cases hc; exact resumeOrder_obeys _ _
  | standDown => cases hc; exact standDownOrder_obeys _ _
  | depart => cases hc; exact departOrder_obeys _ _
  | siren => cases hc; exact sirenOrder_obeys _ _
  | sirenStop => cases hc; exact sirenStopOrder_obeys _ ops
  | queryCallout => cases hc; exact queryCalloutOrder_obeys _ _
  | queryCrew => cases hc; exact queryCrewOrder_obeys _ _
  | queryMember => cases hc; exact queryMemberOrder_obeys _ _
  | queryUnit => cases hc; exact queryUnitOrder_obeys _ ops
  | readNotices => cases hc; exact readNoticesOrder_obeys _ ops
  | ackNotice => cases hc; exact ackNoticeOrder_obeys (hg.clears _ (.inr ⟨_, rfl⟩)) _ _
  | setMask => cases hc; exact setMaskOrder_obeys (hg.remasks _ (.inr ⟨_, rfl⟩)) _ _
  | setAvailability =>
    cases hc
    refine setAvailabilityOrder_obeys ?_ _ _
    cases l with
    | console => exact .inl (hg.marks (.inr ⟨_, rfl⟩))
    | p | s => exact .inr nofun
  | keep => cases hc; exact keepOrder_obeys _ ops
  | relayResponse => cases hc; exact relayOrder_obeys _ _
  | bookOn => cases hc; exact bookOnOrder_obeys _ _
  | editMember => cases hc; exact editMemberOrder_obeys (hg.edits rfl) _ _
  | editGroup => cases hc; exact editGroupOrder_obeys (hg.edits rfl) _ _
  | editAppliance => cases hc; exact editApplianceOrder_obeys (hg.edits rfl) _ _
  | editPlanDelete => cases hc; exact editPlanPart_obeys _ _ fun n => planDelete_obeys (hg.edits rfl) n _
  | editPlanSettings => cases hc; exact editPlanPart_obeys _ _ fun n => planSettings_obeys (hg.edits rfl) n _
  | editPlanGroups => cases hc; exact editPlanPart_obeys _ _ fun n => planGroups_obeys (hg.edits rfl) n _
  | editPlanEntry => cases hc; exact editPlanPart_obeys _ _ fun n => planEntry_obeys (hg.edits rfl) n _
  | editPlanRemoveEntry => cases hc; exact editPlanPart_obeys _ _ fun n => planRemoveEntry_obeys (hg.edits rfl) n _
  | editPlanReport => cases hc; exact editPlanPart_obeys _ _ fun n => planReport_obeys n _
  | editClass => cases hc; exact editClassOrder_obeys (hg.edits rfl) _ _
  | editZone => cases hc; exact editZoneOrder_obeys (hg.edits rfl) _ _
  | editSite => cases hc; exact editSiteOrder_obeys (hg.edits rfl) _ _
  | editUnitGeneral => cases hc; exact editUnitPart_obeys _ (unitGeneral_obeys (hg.edits rfl) _)
  | editUnitPattern => cases hc; exact editUnitPart_obeys _ (unitPattern_obeys (hg.edits rfl) _)
  | save => cases hc; exact saveOrder_obeys (hg.edits rfl) _ _
  | queryStore => cases hc; exact queryStoreOrder_obeys (hg.edits rfl) _ ops
  | clearStoreError => cases hc; exact clearStoreErrorOrder_obeys (hg.edits rfl) _ ops
  | restart => cases hc; exact restartOrder_obeys _ ops
  | opening | order | operand | gapTimerExpiry | endWithReply | supervisionTimerExpiry | saveWriteEnd | warmRestart
  | coldStart | resetInputHeld | accumulationTimerExpiry | responseWindowExpiry | returnFrame | channelClearAsserted
  | clearWaitExpiry | leadInEnd | burstEnd | creditAccrual | sirenOnTimeEnd | sirenPeriodBoundary | mainsPresentRises
  | mainsPresentFalls | batterySample | powerLoss | elapsedTimeSecond => cases hc

/-- What the order of a code comes to. -/
theorem orderFor_obeys (hp : g.plans → p.PlansSound) (he : g.edits) (hm : g.marks) (hn : g.clears l ∧ g.remasks l) (code : Byte) (n : Nat)
    (ops : List Operand) : (orderFor l code n ops p).Obeys True (Ruled g l p) := by
  generalize hf : orderFor l code n ops = f
  unfold orderFor at hf
  split at hf
  all_goals subst hf
  · exact alertOrder_obeys hp trivial _ _
  · exact addOrder_obeys hp _ _
  · exact commitOrder_obeys _ _
  · exact holdOrder_obeys _ _
  · exact resumeOrder_obeys _ _
  · exact standDownOrder_obeys _ _
  · exact sirenOrder_obeys _ _
  · exact sirenStopOrder_obeys _ _
  · exact queryCalloutOrder_obeys _ _
  · exact queryCrewOrder_obeys _ _
  · exact queryMemberOrder_obeys _ _
  · exact queryUnitOrder_obeys _ ops
  · exact readNoticesOrder_obeys _ ops
  · exact ackNoticeOrder_obeys hn.1 _ _
  · exact setMaskOrder_obeys hn.2 _ _
  · exact setAvailabilityOrder_obeys (.inl hm) _ _
  · exact keepOrder_obeys _ _
  · exact relayOrder_obeys _ _
  · exact bookOnOrder_obeys _ _
  · exact departOrder_obeys _ _
  · exact editMemberOrder_obeys he _ _
  · exact editGroupOrder_obeys he _ _
  · exact editApplianceOrder_obeys he _ _
  · exact editPlanOrder_obeys he _ _
  · exact editClassOrder_obeys he _ _
  · exact editZoneOrder_obeys he _ _
  · exact editSiteOrder_obeys he _ _
  · exact editUnitOrder_obeys he _ _
  · exact saveOrder_obeys he _ _
  · exact queryStoreOrder_obeys he _ _
  · exact clearStoreErrorOrder_obeys he _ _
  · exact restartOrder_obeys _ _
  · exact refuse_obeys _

end

end Sys2Proof.Machine


/-!
SUPPORT. The events as rules, and the shape of every command's effect and of the clock's millisecond.
-/

namespace Sys2Proof.Machine

open Sys2Proof

variable {g : Grants} {p q : Part}

/-! ## Events -/

/-- `q` is `p` but for its pins and its meter. -/
def Metered (p q : Part) : Prop :=
  q = { p with pins := q.pins, supply := q.supply } ∧ q.supply.state = p.supply.state
    ∧ q.supply.reserveLevel = p.supply.reserveLevel

theorem Metered.exchanged (h : Metered p q) : Exchanged p q := by
  obtain ⟨e, hs⟩ := h
  refine ⟨by rw [e], hs, fun l => ⟨0#16, by decide, ?_⟩, fun l => ?_⟩
  · rw [e, BitVec.or_zero]
    rfl
  · rw [e]
    rfl

/-- An event: the pins and the meter move, and a rule follows that is none of the lines'. -/
def Event (g : Grants) (p q : Part) : Prop :=
  ∃ r, Metered p r ∧ Ruled g .p r q

namespace Event

variable {r : Part}

theorem of_ruled (h : Ruled g .p p q) : Event g p q := ⟨p, ⟨rfl, rfl, rfl⟩, h⟩

theorem of_moves (h : Moves g.plain p q) (hs : Settles p q) (hk : KeepsTies p q) : Event g p q :=
  of_ruled (.of_moves h hs hk)

theorem of_pages (h : OnlyPages p q) (k : KeepsBounds p q) (hs : Settles p q) : Event g p q :=
  of_moves (.pages h k) hs (.of_binds (.pages h))

theorem refl (g : Grants) (p : Part) : Event g p p := of_ruled .unchanged

theorem ite {b : Prop} [Decidable b] (hq : Event g p q) (hr : Event g p r) : Event g p (if b then q else r) := by
  split
  · exact hq
  · exact hr

theorem after (h : Metered p q) (k : Event g q r) : Event g p r := by
  obtain ⟨x, ⟨e, hs, hr⟩, hx⟩ := k
  obtain ⟨e', hs', hr'⟩ := h
  exact ⟨x, ⟨by rw [e, e'], hs.trans hs', hr.trans hr'⟩, hx⟩

theorem runs (h : Event g p q) : Runs g p q := by
  obtain ⟨x, hx, hr⟩ := h
  exact .after hx.exchanged (.of_ruled hr)

end Event

/-! ## The sequencer's events, the siren's and the store's -/

theorem Settles.of_busy (ht : q.table = p.table) (hc : q.resolver = p.resolver) (hl : q.station = p.station)
    (hr : q.pages.reports = p.pages.reports) (hs : q.sites.sequencer ≠ .idle) : Settles p q where
  lamps := (Settles.of_same (q := { p with table := q.table, resolver := q.resolver, station := q.station }) ht
    (fun ap => by unfold Part.appliance; rw [hc]) (by rw [hl]) rfl rfl).lamps
  quiet := fun h => by
    rw [Part.quiet_iff] at *
    exact ⟨hr.trans h.1, fun e => absurd e hs⟩

theorem Part.keySite_event (k : SiteId) (forced : Bool) (p : Part) : Event g p (p.keySite k forced) := by
  refine .of_pages (p.keySite_onlyPages k forced) (p.keySite_keepsBounds k forced) ?_
  unfold Part.keySite
  cases hb : p.current? with
  | none => exact .refl p
  | some b =>
    refine .of_busy rfl rfl rfl ?_ nofun
    simp only [Part.setSequencer, Part.onCurrent, Part.debit, Part.updateSite, Part.onSites_pages, Part.onPages_pages]
    split <;> rfl

theorem Part.clearWaitExpires_event (k : SiteId) (p : Part) : Event g p (p.clearWaitExpires k) := by
  unfold Part.clearWaitExpires
  split
  · exact .ite (p.keySite_event k true) (.refl g p)
  all_goals exact .refl g p

theorem Part.leadInEnds_event (k : SiteId) (p : Part) : Event g p (p.leadInEnds k) := by
  unfold Part.leadInEnds
  split
  · refine .ite (.of_pages (p.setSequencer_onlyPages _) (p.setSequencer_keepsBounds _) ?_)
      (.refl g p)
    exact .of_busy rfl rfl rfl rfl nofun
  all_goals exact .refl g p

theorem Part.passEnds_moves (k : SiteId) (forced : Bool) (p : Part) : Moves g p (p.passEnds k forced) := by
  have h : Moves g p (p.endPass k forced) := .pages (p.endPass_onlyPages k forced) (p.endPass_keepsBounds k forced)
  have hleave (q : Part) : Moves g q q.leaveQueue := .pages q.leaveQueue_onlyPages q.leaveQueue_keepsBounds
  have hjoin (q : Part) : Moves g q (q.joinOrUnkey k) := .pages (q.joinOrUnkey_onlyPages k) (q.joinOrUnkey_keepsBounds k)
  have hidle (q : Part) : Moves g q (q.setSequencer .idle) :=
    .pages (q.setSequencer_onlyPages .idle) (q.setSequencer_keepsBounds .idle)
  exact .ite (((((h.trans (Part.work_moves g _)).trans (hleave _)).trans (hjoin _)).trans (Part.finish_moves g _)))
    ((h.trans (hidle _)).trans (Part.finish_moves g _))

theorem Part.passEnds_binds (k : SiteId) (forced : Bool) (p : Part) : Binds p (p.passEnds k forced) := by
  have h : Binds p (p.endPass k forced) := .pages (p.endPass_onlyPages k forced)
  refine .ite ?_ ((h.trans (.pages (Part.setSequencer_onlyPages .idle _))).trans (Part.finish_binds _))
  exact (((h.trans (Part.workFor_binds _ _)).trans (.pages (Part.leaveQueue_onlyPages _))).trans
    (.pages (Part.joinOrUnkey_onlyPages k _))).trans (Part.finish_binds _)

theorem Part.passEnds_settles (k : SiteId) (forced : Bool) (p : Part) : Settles p (p.passEnds k forced) :=
  .ite (.finish p _) (.finish p _)

theorem Part.burstEnds_event (k : SiteId) (p : Part) : Event g p (p.burstEnds k) := by
  unfold Part.burstEnds
  split
  · exact .ite (.of_moves (p.passEnds_moves _ _) (p.passEnds_settles _ _) (.of_binds (p.passEnds_binds _ _))) (.refl g p)
  all_goals exact .refl g p

theorem Part.accrue_event (k : SiteId) (p : Part) : Event g p (p.updateSite k SiteRecord.accrue) := by
  have hcredit (r : SiteRecord) (h : r.credit ≤ r.ceiling) : r.accrue.credit ≤ r.accrue.ceiling := by
    simp only [SiteRecord.accrue]
    split <;> omega
  refine .of_pages (p.updateSite_onlyPages k _ (fun _ => rfl) hcredit) (p.updateSite_keepsBounds k _ hcredit) ?_
  exact .of_same rfl (fun _ => rfl) rfl rfl rfl

theorem Part.channelClear_event (k : SiteId) (p : Part) : Event g p (p.channelClear k) := by
  refine .after (q := { p with pins := { p.pins with channelClear := p.pins.channelClear.set k true } }) ⟨rfl, rfl, rfl⟩ ?_
  unfold Part.channelClear
  simp only
  split
  · exact .ite (Part.keySite_event k false _) (.refl g _)
  all_goals exact .refl g _

theorem Part.onTimeEnds_event (p : Part) : Event g p p.onTimeEnds := by
  unfold Part.onTimeEnds
  split
  · exact .refl g p
  · next r hr =>
    refine .ite (.of_moves (.run fun hp hs => ?_) (setRun_settles _) (.of_binds (.run _ p))) (.refl g p)
    rw [hp hs] at hr
    cases hr

theorem Part.periodEnds_event (p : Part) : Event g p p.periodEnds := by
  unfold Part.periodEnds
  split
  · exact .refl g p
  · next r hr =>
    refine .ite (.of_moves (.run fun _ _ => rfl) (setRun_settles _) (.of_binds (.run _ p)))
      (.of_moves (.run fun hp hs => ?_) (setRun_settles _) (.of_binds (.run _ p)))
    rw [hp hs] at hr
    cases hr

theorem Part.writeEnds_event (hg : g.edits) (failed : Bool) (p : Part) : Event g p (p.writeEnds failed) := by
  unfold Part.writeEnds
  split
  · exact .refl g p
  · next x hx =>
    have h := Part.endSave_edits failed hx
    exact .of_moves (.tail (.one (.edit hg h)) (.raise .store))
      (.of_same h.table h.committed h.station.2 h.pages h.sequencer) (.of_binds ((Binds.edits h).trans (.raise _ .store)))

/-! ## The supply -/

theorem Part.endInhibitedWait_moves (p : Part) : Moves g p p.endInhibitedWait := by
  unfold Part.endInhibitedWait
  split
  · refine .ite (.trans (.pages (p.setSequencer_onlyPages .idle) (p.setSequencer_keepsBounds .idle))
      (.pages (Part.settle_onlyPages _ _ _) (Part.settle_keepsBounds _ _ _))) .refl
  all_goals exact .refl

theorem Part.endInhibitedWait_onlyPages (p : Part) : OnlyPages p p.endInhibitedWait := by
  unfold Part.endInhibitedWait
  split
  · split
    · exact (p.setSequencer_onlyPages .idle).trans (Part.settle_onlyPages _ _ _)
    · exact .refl p
  all_goals exact .refl p

theorem Part.supplyBecomes_event (st : SupplyState) (p : Part) : Event g p (p.supplyBecomes st) := by
  unfold Part.supplyBecomes
  split
  · exact .refl g p
  · simp only
    split
    · next hst =>
      have h : Moves g.plain p (((p.setSupply st).setRun none).raise .supply) :=
        .tail (.one (.supply st none fun _ _ => rfl)) (.raise .supply)
      have hties : Binds p (((p.setSupply st).setRun none).raise .supply) := .of_same rfl rfl rfl
      exact .of_moves ((h.trans (Part.endInhibitedWait_moves _)).trans (Part.finish_moves _ _)) (.finish _ _)
        (.of_binds ((hties.trans (.pages (Part.endInhibitedWait_onlyPages _))).trans (Part.finish_binds _)))
    · next hst =>
      have h : Moves g.plain p (((p.setSupply st).setRun p.station.run).raise .supply) :=
        .tail (.one (.supply st p.station.run fun _ e => absurd e hst)) (.raise .supply)
      exact .of_moves h (.of_same rfl (fun _ => rfl) rfl rfl rfl) (.of_binds (.of_same rfl rfl rfl))

/-! ## The clock -/

theorem Callout.tick_moves (i : SlotId) (c : Callout) : c.Moves g i c.tick ∧ c.tick.state = c.state := by
  rw [Callout.tick_eq]
  refine ⟨⟨⟨rfl, Nat.le_refl _, id, .refl _, fun h => ?_⟩, id, fun _ => id, fun _ => id⟩, rfl⟩
  show c.elapsed ≤ (if c.elapsedMs < 999 then _ else _) ∧ (if c.elapsedMs < 999 then _ else _) ≤ 65535
  split <;> omega

theorem Callout.shown_tick (c : Callout) : c.tick.shown = c.shown := by
  rw [Callout.tick_eq]
  rfl

/-- Every callout is written, and claims what it claimed. -/
theorem Binds.each {f : Callout → Callout} (p : Part) (h : ∀ c, (f c).ties = c.ties) : Binds p (p.onCallouts f) :=
  .of_slots (fun i => by
    rw [Part.callout?_onCallouts, Option.map_map]
    exact congrArg (Option.map · _) (funext h)) rfl fun _ => rfl

/-- What a millisecond does to the blocks but the lines and the meter. -/
def Part.countBlocks (p : Part) : Part :=
  ((p.onCallouts Callout.tick).onSites SiteUnit.tick).setRun (p.station.run.map SirenRun.tick)

theorem SiteRecord.tick_within {r : SiteRecord} (h : r.credit ≤ r.ceiling) : r.tick.credit ≤ r.tick.ceiling := by
  rw [SiteRecord.tick_eq]
  split
  · exact h
  · split
    · exact h
    · show r.credit + 1 ≤ r.ceiling
      omega

theorem SiteRecord.toStored_tick (r : SiteRecord) : r.tick.toStored = r.toStored := by
  rw [SiteRecord.tick_eq]
  split
  · rfl
  · split <;> rfl

theorem Part.siteTick_moves (p : Part) : Moves g p (p.onSites SiteUnit.tick) := by
  refine .pages (.onSites p _ (fun k => ?_) fun hb k => ?_) (.onSites p _ fun hb k => ?_)
  · rw [SiteUnit.tick, Table.get_map, SiteRecord.toStored_tick]
  · rw [SiteUnit.tick, Table.get_map]
    exact SiteRecord.tick_within (hb.1 k)
  · rw [SiteUnit.tick, Table.get_map]
    exact SiteRecord.tick_within (hb k)

theorem Sequencer.tick_eq_idle {x : Sequencer} : x.tick = .idle ↔ x = .idle := by
  cases x <;> simp [Sequencer.tick]

theorem Part.countBlocks_ruled (l : Line) (p : Part) : Ruled g l p p.countBlocks := by
  refine .of_moves ((Moves.trans (.one (.each _ fun i c => c.tick_moves i)) (Part.siteTick_moves _)).trans (.run ?_)) ?_
    (.of_binds ((Binds.each p fun c => by rw [Callout.tick_eq]; rfl).trans (.of_same rfl rfl rfl)))
  · intro hp hs
    have hr : p.station.run = none := hp hs
    rw [hr]
    rfl
  · refine ⟨Part.lampsRight_congr rfl (fun _ => rfl) fun i => ?_, fun h => ?_⟩
    · show ((p.onCallouts Callout.tick).callout? i).map _ = _
      rw [Part.callout?_onCallouts, Option.map_map]
      congr 1
      funext c
      exact c.shown_tick
    · rw [Part.quiet_iff] at *
      exact ⟨h.1, fun e => h.2 (Sequencer.tick_eq_idle.1 e)⟩

theorem Part.count_runs (p : Part) : Runs g p p.count := by
  refine ⟨p, p.countBlocks, .p, .refl p, p.countBlocks_ruled .p, ⟨rfl, ⟨rfl, rfl⟩, fun l => ⟨0#16, by decide, ?_⟩, fun l => ?_⟩⟩
  · rw [Part.ctl_count, BitVec.or_zero]
    rfl
  · rw [Part.ctl_count]
    rfl

theorem Part.clock_runs (p : Part) : Runs g p p.clock.1 := by
  unfold Part.clock
  split
  · split
    · exact .refl g p
    · exact p.count_runs
  · exact .of_exchanged (.meter p fun _ => ⟨rfl, rfl⟩)
  all_goals exact .refl g p

/-! ## A warm restart -/

theorem Part.demandAgain_moves (c : Callout) (p : Part) : Moves g p (p.demandAgain c) := by
  unfold Part.demandAgain
  split
  · exact .demand _ p
  · exact .demand _ p
  all_goals exact .refl

theorem Part.restoreSlot_moves (lost : Owner → List BatchKind) (i : SlotId) (p : Part) :
    Moves g p (Part.restoreSlot lost p i) := by
  unfold Part.restoreSlot
  split
  · exact .refl
  · next c _ =>
    refine ((Moves.ite (p.degrade_moves g i) .refl).trans (.ite (Part.alertStatusEnded_moves g i _) .refl)).trans
      (Part.demandAgain_moves c _)

theorem Part.restoreSlots_moves (lost : Owner → List BatchKind) (l : List SlotId) (p : Part) :
    Moves g p (l.foldl (Part.restoreSlot lost) p) := by
  induction l generalizing p with
  | nil => exact .refl
  | cons i rest ih => exact (p.restoreSlot_moves lost i).trans (ih _)

theorem Part.emptyPages_moves (p : Part) : Moves g p p.emptyPages := by
  refine Moves.trans (.pages (.onPages p _ ?_) (.onPages p _ ?_)) (.pages (Part.setSequencer_onlyPages .idle _)
    (Part.setSequencer_keepsBounds .idle _))
  · exact fun _ => ⟨Nat.zero_le _, Nat.zero_le _⟩
  · exact fun _ => ⟨Nat.zero_le _, Nat.zero_le _⟩

theorem Part.emptyPages_binds (p : Part) : Binds p p.emptyPages := .of_same rfl rfl rfl

theorem Part.restoreSlot_binds (lost : Owner → List BatchKind) (i : SlotId) (p : Part) :
    Binds p (Part.restoreSlot lost p i) := by
  have again (c : Callout) (q : Part) : Binds q (q.demandAgain c) := by
    unfold Part.demandAgain
    split
    · exact .demand _ q
    · exact .demand _ q
    all_goals exact .refl q
  unfold Part.restoreSlot
  split
  · exact .refl p
  · next c _ =>
    refine ((Binds.ite (p.degrade_binds i) (.refl p)).trans (.ite (.modify ?_) (.refl _))).trans (again c _)
    exact fun _ _ => rfl

theorem Part.restoreSlots_binds (lost : Owner → List BatchKind) (l : List SlotId) (p : Part) :
    Binds p (l.foldl (Part.restoreSlot lost) p) := by
  induction l generalizing p with
  | nil => exact .refl p
  | cons i rest ih => exact (p.restoreSlot_binds lost i).trans (ih _)

theorem Part.breakReply_emptyPages (l : Line) (p : Part) : p.emptyPages.breakReply l = (p.breakReply l).emptyPages := by
  have hctl : p.emptyPages.ctl l = p.ctl l := rfl
  unfold Part.breakReply
  rw [hctl]
  split <;> rfl

theorem Part.restartLines_emptyPages (p : Part) : p.emptyPages.restartLines = p.restartLines.emptyPages := by
  unfold Part.restartLines
  rw [Part.breakReply_emptyPages, Part.breakReply_emptyPages, Part.breakReply_emptyPages]
  rfl

theorem Part.warmRestart_runs (p : Part) : Runs g p p.warmRestart := by
  refine .after ((Exchanged.of_same (q := { p with cause := .warm, restart := .none }) rfl fun _ => ⟨rfl, rfl⟩).trans
    (.restartLines _)) ?_
  unfold Part.warmRestart
  simp only [Part.restartLines_emptyPages]
  refine .of_ruled (l := .p) (.finish ((Part.emptyPages_moves _).trans (Part.restoreSlots_moves _ _ _)) (.of_binds ?_))
  exact (Part.emptyPages_binds _).trans (Part.restoreSlots_binds _ _ _)

/-! ## The shape of every effect -/

/-- A part just loaded from the stored copies of `p`. -/
def Loads (p q : Part) : Prop :=
  ∃ condition cause pins breaks, q = .loaded condition cause pins breaks p.store.stored

/-- An event, or a part that has stopped or started afresh. -/
def Acts (g : Grants) (p q : Part) : Prop :=
  Event g p q ∨ Loads p q ∧ (p.condition = .running → q.condition ≠ .running)

theorem Part.cutOff_loads (p : Part) : Loads p p.cutOff := ⟨_, _, _, _, rfl⟩

theorem Acts.cutOff (p : Part) : Acts g p p.cutOff := .inr ⟨p.cutOff_loads, fun _ => nofun⟩

theorem Acts.ite {b : Prop} [Decidable b] {r : Part} (hq : Acts g p q) (hr : Acts g p r) :
    Acts g p (if b then q else r) := by
  split
  · exact hq
  · exact hr

theorem Acts.after {r : Part} (h : Metered p q) (k : Acts g q r) : Acts g p r := by
  refine k.imp (Event.after h) fun ⟨⟨condition, cause, pins, breaks, e⟩, hc⟩ => ⟨⟨condition, cause, pins, breaks, ?_⟩, ?_⟩
  · rw [e, h.1]
  · rw [h.1] at hc
    exact hc

theorem Acts.supplyBecomes (st : SupplyState) (p : Part) : Acts g p (p.supplyBecomes st) :=
  .inl (p.supplyBecomes_event st)

theorem Part.settleFall_acts (p : Part) : Acts g p p.settleFall :=
  .ite (.cutOff p) (.ite (.supplyBecomes _ p) (.supplyBecomes _ p))

theorem Part.judgeSample_acts (x : Level) (p : Part) : Acts g p (p.judgeSample x) := by
  unfold Part.judgeSample
  split
  · exact .inl (.refl g p)
  · exact .ite (.cutOff p) (.ite (.supplyBecomes _ p) (.inl (.refl g p)))
  · exact .ite (.cutOff p) (.ite (.supplyBecomes _ p) (.inl (.refl g p)))

theorem Part.coldStart_loads (cause : StartCause) (x : Level) (p : Part) : Loads p (p.coldStart cause x) :=
  ⟨_, _, _, _, rfl⟩

theorem Part.mainsRises_acts (p : Part) : Acts g p p.mainsRises := by
  refine .after (q := { p with pins := { p.pins with mainsPresent := true } }) ⟨rfl, rfl, rfl⟩ ?_
  unfold Part.mainsRises
  simp only
  split
  · exact .supplyBecomes _ _
  · next c hc =>
    refine .inr ⟨Part.coldStart_loads _ _ _, fun h => ?_⟩
    rw [show (p.setMains true).condition = .running from h] at hc
    cases hc
  all_goals exact .inl (.refl g _)

theorem Part.mainsFalls_acts (p : Part) : Acts g p p.mainsFalls := by
  refine .after (q := { p with pins := { p.pins with mainsPresent := false } }) ⟨rfl, rfl, rfl⟩ ?_
  unfold Part.mainsFalls
  simp only
  split
  · exact .ite (Part.settleFall_acts _) (.inl (.refl g _))
  all_goals exact .inl (.refl g _)

theorem Metered.setSample (p : Part) (x : Level) : Metered p (p.setSample x) := ⟨rfl, rfl, rfl⟩

theorem Part.takeSample_acts (x : Level) (p : Part) : Acts g p (p.takeSample x) := by
  refine .after (q := { p with pins := { p.pins with batterySense := x } }) ⟨rfl, rfl, rfl⟩ ?_
  unfold Part.takeSample
  simp only
  split
  · exact .after (.setSample _ x) (Part.judgeSample_acts x _)
  · next c hc =>
    refine .ite (.inr ⟨Part.coldStart_loads _ _ _, fun h => ?_⟩) (.inl (.after (.setSample _ x) (.refl g _)))
    rw [show (p.setSense x).condition = .running from h] at hc
    cases hc
  all_goals exact .inl (.refl g _)

theorem Part.holdReset_acts (p : Part) : Acts g p p.holdReset := by
  unfold Part.holdReset
  split
  · exact .inl (.refl g p)
  all_goals exact .inr ⟨⟨_, _, _, _, rfl⟩, fun _ => nofun⟩

theorem Part.losePower_acts (p : Part) : Acts g p p.losePower :=
  .inr ⟨⟨_, _, _, _, rfl⟩, fun _ => nofun⟩

/-- Events of a rule that keeps the lamps right and leaves no work over. -/
theorem Part.accumulationExpires_settles (i : SlotId) (p : Part) : Settles p (p.accumulationExpires i) := by
  unfold Part.accumulationExpires
  split
  · exact .refl p
  · exact .ite (.finish p _) (.refl p)

theorem Part.windowExpires_settles (i : SlotId) (p : Part) : Settles p (p.windowExpires i) := by
  unfold Part.windowExpires
  split
  · exact .refl p
  · exact .ite (.finish p _) (.refl p)

theorem Part.receiveFrame_settles (k : SiteId) (bits : BitVec 58) (spoiled : Bool) (p : Part) :
    Settles p (p.receiveFrame k bits spoiled) :=
  .ite (.refl p) (.finish p _)

theorem Callout.addSecond_moves (i : SlotId) (c : Callout) : c.Moves g i c.addSecond ∧ c.addSecond.state = c.state := by
  refine ⟨⟨⟨rfl, Nat.le_refl _, id, .refl _, fun h => ?_⟩, id, fun _ => id, fun _ => id⟩, rfl⟩
  simp only [Callout.addSecond, Config.elapsedCap]
  omega

theorem Part.addSecond_event (p : Part) : Event g p (p.onCallouts Callout.addSecond) := by
  refine .of_moves (.one (.each _ fun i c => c.addSecond_moves i))
    ⟨Part.lampsRight_congr rfl (fun _ => rfl) fun i => ?_, fun h => ?_⟩ (.of_binds (.each p fun _ => rfl))
  · rw [Part.callout?_onCallouts, Option.map_map]
    rfl
  · rw [Part.quiet_iff] at *
    exact h

/-! ## Frames -/

theorem Part.receive_runs {α : Type} {l : Line} {kind : Byte} {read : List Byte → Option α} {take : α → Part → Part}
    {f : List Byte} (h : ∀ x q, Exchanged p q → Runs g q (take x q)) : Runs g p (p.receive l kind read take f) := by
  unfold Part.receive
  simp only
  have hx := Exchanged.onLine p l (f := fun c => { c with received := unread kind ((p.ctl l).received ++ f) })
    fun _ => ⟨rfl, rfl⟩
  split
  · exact .after hx (h _ _ hx)
  · exact .of_exchanged hx

theorem Exchanged.plansSound (h : Exchanged p q) (hp : p.PlansSound) : q.PlansSound := by
  rw [h.after]
  exact hp

theorem Part.workHeld_runs (hp : g.plans → p.PlansSound) (he : g.edits) (hm : g.marks) (l : Line) (hn : g.clears l ∧ g.remasks l) (code : Byte) (n : Nat)
    (ops : List Operand) : Runs g p (p.workHeld l code n ops) :=
  .workOrder (dup := True) (orderFor_obeys (fun h => (Exchanged.worked p l code n ops).plansSound (hp h)) he hm hn code n ops)

theorem Part.takeOrder_runs (hp : g.plans → p.PlansSound) (he : g.edits) (hm : g.marks) (l : Line) (hn : g.clears l ∧ g.remasks l) (code : Byte)
    (count : Nat) : Runs g p (p.takeOrder l code count) := by
  unfold Part.takeOrder
  split
  · exact .ite (p.workHeld_runs hp he hm l hn code count []) (.of_exchanged (.onLine p l fun _ => ⟨rfl, rfl⟩))
  · exact .of_exchanged (.onLine p l fun _ => ⟨rfl, rfl⟩)
  all_goals exact .refl g p

theorem Part.takeOperand_runs (hp : g.plans → p.PlansSound) (he : g.edits) (hm : g.marks) (l : Line) (hn : g.clears l ∧ g.remasks l) (x : Operand) :
    Runs g p (p.takeOperand l x) := by
  unfold Part.takeOperand
  simp only
  split
  · exact .of_exchanged (.onLine p l fun _ => ⟨rfl, rfl⟩)
  · exact .ite (p.workHeld_runs hp he hm l hn _ _ _) (.of_exchanged (.onLine p l fun _ => ⟨rfl, rfl⟩))
  all_goals exact .refl g p

/-- Everything granted but to make a callout; sound plans as said. -/
def Grants.all (plans : Prop) : Grants := ⟨plans, True, True, fun _ => True, fun _ => True, False, none⟩

theorem Grants.all_cover (plans : Prop) (c : Instr) : (Grants.all plans).Cover c :=
  ⟨fun _ => trivial, fun _ => trivial, fun _ _ => trivial, fun _ _ => trivial⟩

theorem Part.coldStartFor_loads (cause : ColdCause) (x : Level) (p : Part) :
    Runs g p (p.coldStartFor cause x) ∨ Loads p (p.coldStartFor cause x) := by
  unfold Part.coldStartFor
  split
  · split
    · exact .inr (p.coldStart_loads _ _)
    · exact .inl ((Event.after (q := p.setSense x) ⟨rfl, rfl, rfl⟩ (.after (.setSample _ x) (.refl g _))).runs)
  · exact .inr (p.coldStart_loads _ _)

theorem Acts.whenRunning {f : Part → Part} (h : Event g p (f p)) : Acts g p (p.whenRunning f) :=
  .ite (.inl h) (.inl (.refl g p))

/-- A command that is neither an order, nor a line's event, nor a start. -/
def Instr.isEvent : Instr → Bool
  | .saveWriteEnd _ | .accumulationTimerExpiry _ | .responseWindowExpiry _ | .returnFrame _ _ _
  | .channelClearAsserted _ | .clearWaitExpiry _ | .leadInEnd _ | .burstEnd _ | .creditAccrual _ | .sirenOnTimeEnd
  | .sirenPeriodBoundary | .mainsPresentRises | .mainsPresentFalls | .batterySample _ | .resetInputHeld | .powerLoss
  | .elapsedTimeSecond => true
  | _ => false

theorem effect_event {c : Instr} (he : c.mayConfigure = true → g.edits) (hc : Instr.isEvent c = true) :
    Acts g p (effect c p) := by
  cases c with
  | saveWriteEnd failed => exact .whenRunning (p.writeEnds_event (he rfl) failed)
  | resetInputHeld => exact p.holdReset_acts
  | accumulationTimerExpiry i =>
    exact .whenRunning (.of_moves (p.accumulationExpires_moves _ i) (p.accumulationExpires_settles i)
      (.of_binds (p.accumulationExpires_binds i)))
  | responseWindowExpiry i =>
    exact .whenRunning (.of_moves (p.windowExpires_moves _ i) (p.windowExpires_settles i)
      (.of_binds (p.windowExpires_binds i)))
  | returnFrame k b spoiled =>
    exact .whenRunning (.of_moves (p.receiveFrame_moves _ k b spoiled) (p.receiveFrame_settles k b spoiled)
      fun hp => Part.receiveFrame_binds hp.sound k b spoiled)
  | channelClearAsserted k => exact .inl (p.channelClear_event k)
  | clearWaitExpiry k => exact .whenRunning (p.clearWaitExpires_event k)
  | leadInEnd k => exact .whenRunning (p.leadInEnds_event k)
  | burstEnd k => exact .whenRunning (p.burstEnds_event k)
  | creditAccrual k => exact .whenRunning (p.accrue_event k)
  | sirenOnTimeEnd => exact .whenRunning p.onTimeEnds_event
  | sirenPeriodBoundary => exact .whenRunning p.periodEnds_event
  | mainsPresentRises => exact p.mainsRises_acts
  | mainsPresentFalls => exact p.mainsFalls_acts
  | batterySample x => exact p.takeSample_acts x
  | powerLoss => exact p.losePower_acts
  | elapsedTimeSecond => exact .whenRunning p.addSecond_event
  | _ => cases hc

/-- What any command but a cold start comes to. -/
theorem effect_runs {c : Instr} (hp : g.plans → p.PlansSound) (hg : g.Cover c)
    (hc : ∀ cause x, c ≠ .coldStart cause x) :
    Runs g p (effect c p) ∨ Loads p (effect c p) ∧ (p.condition = .running → (effect c p).condition ≠ .running) := by
  cases hx : c.exchange? with
  | some x =>
    obtain ⟨l, code, ops⟩ := x
    rw [effect_order hx]
    refine .inl (.whenRunning (.workOrder (orderRule_obeys hx (fun h => ?_) hg)))
    exact (Exchanged.worked p l code _ ops).plansSound (hp h)
  | none =>
    cases hv : Instr.isEvent c with
    | true => exact (effect_event hg.edits hv).imp Event.runs id
    | false =>
      cases c with
      | opening l f =>
        exact .inl (.whenRunning (Part.receive_runs fun x q _ => .of_exchanged (.takeOpening q l x.1 x.2)))
      | order l f =>
        exact .inl (.whenRunning (Part.receive_runs fun x q hq =>
          q.takeOrder_runs (fun h => hq.plansSound (hp h)) (hg.edits rfl) (hg.marks (.inl rfl)) l ⟨hg.clears l (.inl rfl), hg.remasks l (.inl rfl)⟩ x.1 x.2))
      | operand l f =>
        exact .inl (.whenRunning (Part.receive_runs fun x q hq =>
          q.takeOperand_runs (fun h => hq.plansSound (hp h)) (hg.edits rfl) (hg.marks (.inl rfl)) l ⟨hg.clears l (.inl rfl), hg.remasks l (.inl rfl)⟩ x))
      | gapTimerExpiry l => exact .inl (.whenRunning (.of_exchanged (.gapExpires p l)))
      | endWithReply l => exact .inl (.whenRunning (.of_exchanged (.endWithReply p l)))
      | supervisionTimerExpiry l => exact .inl (.whenRunning (.of_exchanged (.supervisionExpires p l)))
      | warmRestart => exact .inl (.whenRunning p.warmRestart_runs)
      | coldStart cause x => exact absurd rfl (hc cause x)
      | saveWriteEnd | resetInputHeld | accumulationTimerExpiry | responseWindowExpiry | returnFrame
      | channelClearAsserted | clearWaitExpiry | leadInEnd | burstEnd | creditAccrual | sirenOnTimeEnd
      | sirenPeriodBoundary | mainsPresentRises | mainsPresentFalls | batterySample | powerLoss | elapsedTimeSecond =>
        cases hv
      | _ => cases hx

end Sys2Proof.Machine


/-!
SUPPORT. What every command and the clock leave of the lines, and of a RESTART on its way.
-/

namespace Sys2Proof.Machine

open Sys2Proof

variable {g : Grants} {p q r : Part}

/-! ## Lines that only notices have touched -/

/-- The controllers of the two parts differ in flags and masks alone. -/
structure SameLines (p q : Part) : Prop where
  ctl   : ∀ l, q.ctl l = { p.ctl l with flags := (q.ctl l).flags, mask := (q.ctl l).mask }
  super : q.lines.superP = p.lines.superP ∧ q.lines.superS = p.lines.superS

theorem SameLines.of_eq (h : q.lines = p.lines) : SameLines p q :=
  ⟨fun l => by unfold Part.ctl; rw [h], by rw [h]; exact ⟨rfl, rfl⟩⟩

theorem Raises.sameLines (h : Raises p q) : SameLines p q := by
  refine ⟨fun l => ?_, ?_⟩
  · obtain ⟨b, -, hb⟩ := h.ctl
    rw [hb l]
  · obtain ⟨b, -, e⟩ := h
    rw [e]
    exact ⟨rfl, rfl⟩

theorem SameLines.onLine (p : Part) (l : Line) {f : LineController → LineController}
    (hf : ∀ c, f c = { c with flags := (f c).flags, mask := (f c).mask }) : SameLines p (p.onLine l f) := by
  refine ⟨fun k => ?_, by simp [Part.onLine]⟩
  by_cases h : k = l
  · subst h
    rw [Part.ctl_onLine]
    exact hf _
  · rw [Part.ctl_onLine_ne _ h]

theorem Creates.raises {plans : Prop} {i : SlotId} {c : Callout} (h : Creates plans i c p q) : Raises p q :=
  ⟨Notice.callout.bit, Notice.bit_within _, by rw [h.after]; rfl⟩

theorem Ruled.sameLines {l : Line} (h : Ruled g l p q) : SameLines p q := by
  cases h with
  | moves loose h _ _ => exact h.frame.lines.sameLines
  | created hc h _ => exact (hc.raises.trans h.frame.lines).sameLines
  | notices f hf => exact .onLine p l hf
  | restart hl => exact .of_eq rfl

/-! ## Soundness of the lines -/

theorem LineController.sound_congr {c d : LineController} (h : d = { c with flags := d.flags, mask := d.mask }) :
    d.Sound ↔ c.Sound := by
  rw [h]
  rfl

theorem SameLines.linesSound (h : SameLines p q) (hp : p.LinesSound) : q.LinesSound := by
  obtain ⟨hc, h1, h2⟩ := hp
  exact ⟨fun l => (LineController.sound_congr (h.ctl l)).2 (hc l), by rw [h.super.1]; exact h1, by rw [h.super.2]; exact h2⟩

/-- Every line but one is sound. -/
def Part.OthersSound (l : Line) (p : Part) : Prop :=
  (∀ k, k ≠ l → (p.ctl k).Sound) ∧ p.lines.superP.Sound ∧ p.lines.superS.Sound

theorem Part.LinesSound.others (h : p.LinesSound) (l : Line) : p.OthersSound l := ⟨fun k _ => h.1 k, h.2⟩

theorem SameLines.others {l : Line} (h : SameLines p q) (hp : p.OthersSound l) : q.OthersSound l := by
  obtain ⟨hc, h1, h2⟩ := hp
  exact ⟨fun k hk => (LineController.sound_congr (h.ctl k)).2 (hc k hk), by rw [h.super.1]; exact h1,
    by rw [h.super.2]; exact h2⟩

theorem Part.OthersSound.onLine {l : Line} (h : p.OthersSound l) (f : LineController → LineController) :
    (p.onLine l f).OthersSound l :=
  ⟨fun k hk => by rw [Part.ctl_onLine_ne _ hk]; exact h.1 k hk, by simpa [Part.onLine] using h.2⟩

theorem Part.OthersSound.linesSound {l : Line} (h : p.OthersSound l) (hl : (p.ctl l).Sound) : p.LinesSound :=
  ⟨fun k => by
    by_cases hk : k = l
    · exact hk ▸ hl
    · exact h.1 k hk, h.2⟩

theorem Part.OthersSound.breakOff {l : Line} (h : p.OthersSound l) : (p.breakOff l).OthersSound l :=
  ⟨fun k hk => by rw [(p.breakOff_ctl l k).2.2.2 hk]; exact h.1 k hk, by
    rw [(p.breakOff_super l).1, (p.breakOff_super l).2]; exact h.2⟩

/-- A line's controller changed to a sound one. -/
theorem Part.LinesSound.onLine (h : p.LinesSound) {l : Line} {f : LineController → LineController}
    (hf : (f (p.ctl l)).Sound) : (p.onLine l f).LinesSound :=
  ((h.others l).onLine f).linesSound (by rw [Part.ctl_onLine]; exact hf)

theorem LineController.discard_sound {c : LineController} (h : c.state ≠ .replying → c.reply = none)
    (hs : c.state ≠ .replying) : c.discard.Sound := by
  simp [LineController.Sound, LineController.discard, h hs]

/-- No reply is held outside REPLYING. -/
theorem LineController.Sound.reply_none {c : LineController} (h : c.Sound) (hs : c.state ≠ .replying) : c.reply = none := by
  obtain ⟨-, -, hr, -⟩ := h
  cases hc : c.reply with
  | none => rfl
  | some x => exact absurd (hr.1 (by rw [hc]; rfl)) hs

theorem Part.breakOff_reply {l : Line} (h : (p.ctl l).Sound) : ((p.breakOff l).ctl l).reply = none := by
  rw [Part.breakOff_self]
  split
  · rfl
  · next hs => exact h.reply_none hs

/-! ## A worked order -/

/-- A RESTART on its way on a part on which an order of line `l` is worked. -/
def Part.RestartWorking (l : Line) (p : Part) : Prop :=
  (p.restart = .replying → l ≠ .console ∧ (p.ctl .console).state = .replying)
    ∧ (p.restart = .ending → (p.ctl .console).tail ≠ none)

theorem Part.breakOff_restartSound {l : Line} (h : p.RestartSound) :
    (p.breakOff l).RestartWorking l := by
  unfold Part.RestartWorking
  obtain ⟨hreply, hend⟩ := h
  by_cases hl : l = .console
  · subst hl
    have hb : (p.breakReply .console).restart = p.restart := by rw [p.breakReply_frame .console]
    rw [Part.breakOff_restart]
    by_cases hs : (p.ctl .console).state = .replying ∧ p.restart = .replying
    · rw [if_pos ⟨rfl, hs⟩, Part.breakOff_self, if_pos hs.1]
      exact ⟨nofun, fun _ => nofun⟩
    · rw [if_neg fun e => hs e.2]
      refine ⟨fun e => absurd ⟨hreply e, e⟩ hs, fun e => ?_⟩
      rw [Part.breakOff_self]
      split
      · nofun
      · exact hend e
  · rw [Part.breakOff_restart, if_neg fun e => hl e.1, (p.breakOff_ctl l .console).2.2.2 (Ne.symm hl)]
    exact ⟨fun e => ⟨hl, hreply e⟩, hend⟩

theorem Part.worked_restart {l : Line} (code : Byte) (n : Nat) (ops : List Operand) (hr : p.RestartSound) :
    (p.worked l code n ops).RestartWorking l := by
  obtain ⟨h1, h2⟩ := Part.breakOff_restartSound (l := l) hr
  refine ⟨fun e => ?_, fun e => ?_⟩
  · obtain ⟨hne, hs⟩ := h1 e
    refine ⟨hne, ?_⟩
    rw [Part.worked, Part.ctl_onLine_ne _ (Ne.symm hne)]
    exact hs
  · have := h2 e
    by_cases hne : l = .console
    · subst hne
      rw [Part.worked, Part.ctl_onLine]
      exact this
    · rw [Part.worked, Part.ctl_onLine_ne _ (Ne.symm hne)]
      exact this

/-- A reply is formed on a line with the gap timer stopped: every line is sound again. -/
theorem Part.sendReply_linesSound {l : Line} (ho : p.OthersSound l) (hg : (p.ctl l).gap = none) (why : Option Reason)
    (results : List Operand) : (p.sendReply l why results).LinesSound := by
  refine (ho.onLine _).linesSound ?_
  rw [Part.ctl_onLine]
  simp [LineController.Sound, hg]

theorem Part.sendReply_restartSound {l : Line}
    (hr : (p.restart = .replying → l = .console ∨ (p.ctl .console).state = .replying)
      ∧ (p.restart = .ending → (p.ctl .console).tail ≠ none)) (why : Option Reason) (results : List Operand) :
    (p.sendReply l why results).RestartSound := by
  refine ⟨fun e => ?_, fun e => ?_⟩
  · show ((p.sendReply l why results).ctl .console).state = .replying
    by_cases hl : l = .console
    · subst hl
      rw [Part.sendReply, Part.ctl_onLine]
    · rw [Part.sendReply, Part.ctl_onLine_ne _ (Ne.symm hl)]
      exact (hr.1 e).resolve_left hl
  · show ((p.sendReply l why results).ctl .console).tail ≠ none
    by_cases hl : l = .console
    · subst hl
      rw [Part.sendReply, Part.ctl_onLine]
      exact hr.2 e
    · rw [Part.sendReply, Part.ctl_onLine_ne _ (Ne.symm hl)]
      exact hr.2 e

theorem Ruled.restart_eq {l : Line} (h : Ruled g l p q) :
    q.restart = p.restart ∨ l = .console ∧ q.restart = p.restart.order ∧ q.lines = p.lines := by
  cases h with
  | moves loose h _ _ => exact .inl h.frame.restart
  | created hc h _ => exact .inl (h.frame.restart.trans (by rw [hc.after]))
  | notices f => exact .inl rfl
  | restart hl => exact .inr ⟨hl, rfl, rfl⟩

theorem RestartPhase.order_eq_ending {x : RestartPhase} (h : x.order = .ending) : x = .ending := by
  cases x <;> first | rfl | cases h

/-- An order worked and answered leaves every line sound. -/
theorem Part.answer_linesSound {l : Line} {dup : Prop} {v : Verdict} (ho : p.OthersSound l) (hg : (p.ctl l).gap = none)
    (hv : v.Obeys dup (Ruled g l p)) : (p.answer l v).LinesSound := by
  cases v with
  | refused why results => exact Part.sendReply_linesSound ho hg _ _
  | taken q results =>
    have hs := Ruled.sameLines hv
    exact Part.sendReply_linesSound (hs.others ho) (by rw [hs.ctl l]; exact hg) _ _

/-- An order worked and answered leaves a RESTART on its way sound. -/
theorem Part.answer_restartSound {l : Line} {dup : Prop} {v : Verdict} (hw : p.RestartWorking l)
    (hv : v.Obeys dup (Ruled g l p)) : (p.answer l v).RestartSound := by
  obtain ⟨h1, h2⟩ := hw
  cases v with
  | refused why results => exact Part.sendReply_restartSound ⟨fun e => .inr (h1 e).2, h2⟩ _ _
  | taken q results =>
    refine Part.sendReply_restartSound ?_ _ _
    rw [(Ruled.sameLines hv).ctl .console]
    rcases Ruled.restart_eq hv with e | ⟨hl, e, -⟩
    · rw [e]
      exact ⟨fun e => .inr (h1 e).2, h2⟩
    · rw [e]
      exact ⟨fun _ => .inl hl, fun e => h2 (RestartPhase.order_eq_ending e)⟩

/-! ## Every effect -/

/-- Lines that are sound stay so, and a RESTART on its way does with them. -/
structure KeepsLines (p q : Part) : Prop where
  lines   : p.LinesSound → q.LinesSound
  restart : p.RestartSound → q.RestartSound

namespace KeepsLines

theorem refl (p : Part) : KeepsLines p p := ⟨id, id⟩

theorem trans (h : KeepsLines p q) (k : KeepsLines q r) : KeepsLines p r :=
  ⟨k.lines ∘ h.lines, k.restart ∘ h.restart⟩

theorem ite {b : Prop} [Decidable b] (hq : b → KeepsLines p q) (hr : ¬ b → KeepsLines p r) :
    KeepsLines p (if b then q else r) := by
  split
  · next h => exact hq h
  · next h => exact hr h

theorem of_sameLines (h : SameLines p q) (hr : q.restart = p.restart) : KeepsLines p q := by
  refine ⟨h.linesSound, fun ⟨h1, h2⟩ => ?_⟩
  show (q.restart = _ → (q.ctl .console).state = _) ∧ (q.restart = _ → (q.ctl .console).tail ≠ none)
  rw [hr, h.ctl .console]
  exact ⟨h1, h2⟩

theorem of_eq (hl : q.lines = p.lines) (hr : q.restart = p.restart) : KeepsLines p q := of_sameLines (.of_eq hl) hr

/-- The controller of a line that is not REPLYING is changed to a sound one, its frame under way going on. -/
theorem onLine {l : Line} {f : LineController → LineController} (hs : (p.ctl l).state ≠ .replying)
    (hf : (p.ctl l).Sound → (f (p.ctl l)).Sound) (ht : (f (p.ctl l)).tail = (p.ctl l).tail) :
    KeepsLines p (p.onLine l f) := by
  refine ⟨fun h => h.onLine (hf (h.1 l)), fun ⟨h1, h2⟩ => ?_⟩
  show (p.restart = _ → ((p.onLine l f).ctl .console).state = _)
    ∧ (p.restart = _ → ((p.onLine l f).ctl .console).tail ≠ none)
  by_cases hl : l = .console
  · subst hl
    rw [Part.ctl_onLine, ht]
    exact ⟨fun e => absurd (h1 e) hs, h2⟩
  · rw [Part.ctl_onLine_ne _ (Ne.symm hl)]
    exact ⟨h1, h2⟩

theorem discard {l : Line} (hs : (p.ctl l).state ≠ .replying) : KeepsLines p (p.onLine l LineController.discard) :=
  onLine hs (fun h => LineController.discard_sound h.reply_none hs) rfl

theorem workOrder {l : Line} {dup : Prop} {code : Byte} {n : Nat} {ops : List Operand} {order : Part → Verdict}
    (h : (order (p.worked l code n ops)).Obeys dup (Ruled g l (p.worked l code n ops))) :
    KeepsLines p (p.workOrder l code n ops order) := by
  refine ⟨fun hl => Part.answer_linesSound ((hl.others l).breakOff.onLine _) ?_ h,
    fun hr => Part.answer_restartSound (Part.worked_restart code n ops hr) h⟩
  exact congrArg LineController.gap (Part.ctl_onLine _ l _)

theorem ruled {l : Line} (h : Ruled g l p q) (hr : q.restart = p.restart) : KeepsLines p q :=
  of_sameLines h.sameLines hr

theorem moves (h : Moves g p q) : KeepsLines p q := of_sameLines h.frame.lines.sameLines h.frame.restart

end KeepsLines

theorem Part.takeOpening_keepsLines (l : Line) (code : List Byte) (exchange : Byte) (p : Part) :
    KeepsLines p (p.takeOpening l code exchange) := by
  have hctl (c : LineController) (hr : c.reply = none) :
      (if code == p.settings.stationCode then c.openExchange exchange else c.discard).Sound := by
    split <;> simp [LineController.Sound, LineController.openExchange, LineController.discard, hr]
  refine ⟨fun hl => ((hl.others l).breakOff.onLine _).linesSound ?_, fun hr => ?_⟩
  · rw [Part.ctl_onLine]
    exact hctl _ (Part.breakOff_reply (hl.1 l))
  · obtain ⟨h1, h2⟩ := Part.breakOff_restartSound (l := l) hr
    show ((p.breakOff l).restart = _ → ((p.takeOpening l code exchange).ctl .console).state = _)
      ∧ ((p.breakOff l).restart = _ → ((p.takeOpening l code exchange).ctl .console).tail ≠ none)
    unfold Part.takeOpening
    by_cases hl : l = .console
    · subst hl
      rw [Part.ctl_onLine]
      refine ⟨fun e => absurd rfl (h1 e).1, fun e => ?_⟩
      split <;> exact h2 e
    · rw [Part.ctl_onLine_ne _ (Ne.symm hl)]
      exact ⟨fun e => (h1 e).2, h2⟩

theorem Part.gapExpires_keepsLines (l : Line) (p : Part) : KeepsLines p (p.gapExpires l) := by
  unfold Part.gapExpires
  split
  · next h => exact .discard (by rw [h]; nofun)
  · next h => exact .discard (by rw [h]; nofun)
  all_goals exact .refl p

theorem Part.ctl_onSuper (l : ControlLine) (u : Supervision) (k : Line) (p : Part) :
    (p.onLines fun ls => ls.setSuper l u).ctl k = p.ctl k := by
  cases l <;> cases k <;> rfl

theorem KeepsLines.onSuper (l : ControlLine) {u : Supervision} (hu : u.Sound) (p : Part) :
    KeepsLines p (p.onLines fun ls => ls.setSuper l u) := by
  refine ⟨fun ⟨h1, h2, h3⟩ => ⟨fun k => by rw [Part.ctl_onSuper]; exact h1 k, ?_⟩, fun ⟨h1, h2⟩ => ?_⟩
  · cases l
    · exact ⟨hu, h3⟩
    · exact ⟨h2, hu⟩
  · show (p.restart = _ → (Part.ctl _ .console).state = _) ∧ (p.restart = _ → (Part.ctl _ .console).tail ≠ none)
    rw [Part.ctl_onSuper]
    exact ⟨h1, h2⟩

theorem KeepsLines.raise (p : Part) (n : Notice) : KeepsLines p (p.raise n) :=
  .of_sameLines (Raises.raise p n).sameLines rfl

theorem Part.supervise_keepsLines (l : ControlLine) (p : Part) : KeepsLines p (p.supervise l) := by
  have h : KeepsLines p (p.onLines fun ls => ls.setSuper l (.called (p.settings.period l))) := .onSuper l (u := .called _) rfl p
  unfold Part.supervise Part.raiseIf
  exact .ite (fun _ => h.trans (.raise _ _)) fun _ => h

theorem Part.supervisionExpires_keepsLines (l : ControlLine) (p : Part) : KeepsLines p (p.supervisionExpires l) :=
  .ite (fun _ => (KeepsLines.onSuper l (u := { up := false, timer := none }) rfl p).trans (.raise _ _)) fun _ => .refl p

theorem Part.endWithReply_keepsLines (l : Line) (p : Part) : KeepsLines p (p.endWithReply l) := by
  have hsound (c : LineController) : c.replied.Sound := by simp [LineController.Sound, LineController.replied]
  have hline {k : Line} (hk : k ≠ .console) : KeepsLines p (p.onLine k LineController.replied) := by
    refine ⟨fun h => h.onLine (hsound _), fun ⟨h1, h2⟩ => ?_⟩
    show (p.restart = _ → (Part.ctl _ .console).state = _) ∧ (p.restart = _ → (Part.ctl _ .console).tail ≠ none)
    rw [Part.ctl_onLine_ne _ (Ne.symm hk)]
    exact ⟨h1, h2⟩
  refine .ite (fun hs => ?_) fun _ => .refl p
  cases l with
  | p => exact (hline (k := .p) nofun).trans (Part.supervise_keepsLines .p _)
  | s => exact (hline (k := .s) nofun).trans (Part.supervise_keepsLines .s _)
  | console =>
    refine ⟨fun h => ?_, fun _ => ?_⟩ <;> unfold Part.afterReply <;> simp only <;> split
    · exact h.onLine (hsound _)
    · exact h.onLine (hsound _)
    · exact ⟨nofun, nofun⟩
    · next hr =>
      rw [not_or] at hr
      exact ⟨fun e => absurd e hr.1, fun e => absurd e hr.2⟩

/-! ## A warm restart and the clock -/

theorem LineController.toIdle_sound (c : LineController) : c.toIdle.Sound := by
  simp [LineController.Sound, LineController.toIdle]

theorem Supervision.reload_sound (n : Nat) {u : Supervision} (h : u.Sound) : (u.reload n).Sound := by
  unfold Supervision.reload
  split
  · next hu => simp [Supervision.Sound, hu]
  · exact h

theorem Part.restartLines_keepsLines (p : Part) (hp : p.restart = .none) : KeepsLines p p.restartLines := by
  have hframe := ((Exchanged.breakReply p .p).trans (.breakReply _ .s)).trans (.breakReply _ .console)
  have hrestart : (((p.breakReply .p).breakReply .s).breakReply .console).restart = .none := by
    rw [((p.breakReply .p).breakReply .s).breakReply_frame .console, (p.breakReply .p).breakReply_frame .s,
      p.breakReply_frame .p]
    exact hp
  have hsuper (h : p.LinesSound) : (((p.breakReply .p).breakReply .s).breakReply .console).lines.superP.Sound
      ∧ (((p.breakReply .p).breakReply .s).breakReply .console).lines.superS.Sound := by
    simpa only [Part.breakReply_super] using h.2
  unfold Part.restartLines
  generalize ((p.breakReply .p).breakReply .s).breakReply .console = q at hframe hrestart hsuper
  refine .trans ⟨fun h => ⟨fun l => ?_, ?_⟩, fun _ => ?_⟩ (.raise _ _)
  · cases l <;> exact LineController.toIdle_sound _
  · exact ⟨Supervision.reload_sound _ (hsuper h).1, Supervision.reload_sound _ (hsuper h).2⟩
  · show (q.restart = _ → _) ∧ (q.restart = _ → _)
    rw [hrestart]
    exact ⟨nofun, nofun⟩

theorem Part.warmRestart_keepsLines (p : Part) : KeepsLines p p.warmRestart := by
  have h0 : KeepsLines p { p with cause := .warm, restart := .none } := ⟨id, fun _ => ⟨nofun, nofun⟩⟩
  unfold Part.warmRestart
  simp only [Part.restartLines_emptyPages]
  refine (h0.trans (Part.restartLines_keepsLines _ rfl)).trans (.moves (g := .all False) ?_)
  exact ((Part.emptyPages_moves _).trans (Part.restoreSlots_moves _ _ _)).trans (Part.finish_moves _ _)

theorem countDown_isSome (x : Option Nat) : (countDown x).isSome = x.isSome := by
  cases x <;> rfl

theorem LineController.tick_sound {c : LineController} (h : c.Sound) : c.tick.Sound := by
  simpa only [LineController.Sound, LineController.tick, countDown_isSome] using h

theorem Part.count_keepsLines (p : Part) : KeepsLines p p.count := by
  refine ⟨fun ⟨h1, h2, h3⟩ => ⟨fun l => ?_, ?_, ?_⟩, fun ⟨h1, h2⟩ => ?_⟩
  · rw [Part.ctl_count]
    exact LineController.tick_sound (h1 l)
  · show (countDown p.lines.superP.timer).isSome = p.lines.superP.up
    rw [countDown_isSome]
    exact h2
  · show (countDown p.lines.superS.timer).isSome = p.lines.superS.up
    rw [countDown_isSome]
    exact h3
  · show (p.restart.tick p.lines.tick.console.tail = _ → _) ∧ (p.restart.tick p.lines.tick.console.tail = _ → _)
    unfold RestartPhase.tick
    split
    · exact ⟨nofun, nofun⟩
    · next h =>
      refine ⟨h1, fun e hn => h ⟨e, ?_⟩⟩
      rw [Option.isNone_iff_eq_none]
      exact hn

theorem Part.clock_keepsLines (p : Part) : KeepsLines p p.clock.1 := by
  unfold Part.clock
  split
  · split
    · exact .refl p
    · exact p.count_keepsLines
  · exact .of_eq rfl rfl
  all_goals exact .refl p

/-! ## Frames -/

theorem Part.received_keepsLines (l : Line) (bytes : List Byte) (p : Part) :
    KeepsLines p (p.onLine l fun c => { c with received := bytes }) := by
  refine ⟨fun h => h.onLine (h.1 l), fun ⟨h1, h2⟩ => ?_⟩
  show (p.restart = _ → (Part.ctl _ .console).state = _) ∧ (p.restart = _ → (Part.ctl _ .console).tail ≠ none)
  by_cases hl : l = .console
  · subst hl
    rw [Part.ctl_onLine]
    exact ⟨h1, h2⟩
  · rw [Part.ctl_onLine_ne _ (Ne.symm hl)]
    exact ⟨h1, h2⟩

theorem Part.receive_keepsLines {α : Type} {l : Line} {kind : Byte} {read : List Byte → Option α} {take : α → Part → Part}
    {f : List Byte} (p : Part) (h : ∀ x q, KeepsLines q (take x q)) : KeepsLines p (p.receive l kind read take f) := by
  unfold Part.receive
  simp only
  split
  · exact (p.received_keepsLines l _).trans (h _ _)
  · exact p.received_keepsLines l _

theorem Part.workHeld_keepsLines (l : Line) (code : Byte) (n : Nat) (ops : List Operand) (p : Part) :
    KeepsLines p (p.workHeld l code n ops) :=
  .workOrder (g := .all False) (orderFor_obeys (fun (h : False) => h.elim) trivial trivial ⟨trivial, trivial⟩ code n ops)

theorem Part.takeOrder_keepsLines (l : Line) (code : Byte) (count : Nat) (p : Part) :
    KeepsLines p (p.takeOrder l code count) := by
  unfold Part.takeOrder
  split
  · next hs =>
    refine .ite (fun _ => p.workHeld_keepsLines l code count []) fun hn => .onLine (by rw [hs]; nofun) (fun h => ?_) rfl
    have hr := h.reply_none (by rw [hs]; nofun)
    simp only [LineController.Sound, LineController.collect, hr, List.length_nil]
    exact ⟨nofun, by simp, by simp, fun _ => by omega⟩
  · next hs => exact .discard (by rw [hs]; nofun)
  all_goals exact .refl p

theorem Part.takeOperand_keepsLines (l : Line) (x : Operand) (p : Part) : KeepsLines p (p.takeOperand l x) := by
  unfold Part.takeOperand
  simp only
  split
  · next hs => exact .discard (by rw [hs]; nofun)
  · next hs =>
    refine .ite (fun _ => p.workHeld_keepsLines l _ _ _) fun hn => .onLine (by rw [hs]; nofun) (fun h => ?_) rfl
    have hr := h.reply_none (by rw [hs]; nofun)
    have hd := (h.2.2.2 hs).2
    simp only [LineController.Sound, hs, hr]
    exact ⟨nofun, by simp, by simp, fun _ => ⟨Nat.lt_of_not_le hn, hd⟩⟩
  all_goals exact .refl p

/-! ## Every command -/

theorem KeepsLines.whenRunning {f : Part → Part} (h : KeepsLines p (f p)) : KeepsLines p (p.whenRunning f) :=
  .ite (fun _ => h) fun _ => .refl p

theorem Loads.keepsLines (h : Loads p q) : KeepsLines p q := by
  obtain ⟨condition, cause, pins, breaks, rfl⟩ := h
  exact ⟨fun _ => Part.loaded_linesSound _ _ _ _ _, fun _ => Part.loaded_restartSound _ _ _ _ _⟩

theorem Metered.keepsLines (h : Metered p q) : KeepsLines p q := by
  rw [h.1]
  exact .of_eq rfl rfl

theorem Event.keepsLines (h : Event g p q) : KeepsLines p q := by
  obtain ⟨r, hm, hr⟩ := h
  exact hm.keepsLines.trans (.ruled hr (hr.restart_eq.resolve_right fun e => nomatch e.1))

theorem Acts.keepsLines (h : Acts g p q) : KeepsLines p q :=
  h.elim Event.keepsLines fun h => h.1.keepsLines

theorem Part.coldStartFor_keepsLines (cause : ColdCause) (x : Level) (p : Part) :
    KeepsLines p (p.coldStartFor cause x) := by
  unfold Part.coldStartFor
  split
  · split
    · exact (p.coldStart_loads _ _).keepsLines
    · exact .of_eq rfl rfl
  · exact (p.coldStart_loads _ _).keepsLines

theorem effect_keepsLines (c : Instr) (p : Part) : KeepsLines p (effect c p) := by
  cases hx : c.exchange? with
  | some x =>
    obtain ⟨l, code, ops⟩ := x
    rw [effect_order hx]
    exact .whenRunning (.workOrder (g := .all False) (orderRule_obeys hx (fun (h : False) => h.elim) (Grants.all_cover _ _)))
  | none =>
    cases hv : Instr.isEvent c with
    | true => exact (effect_event (g := .all False) (fun _ => trivial) hv).keepsLines
    | false =>
      cases c with
      | opening l f => exact .whenRunning (p.receive_keepsLines fun x q => q.takeOpening_keepsLines l x.1 x.2)
      | order l f => exact .whenRunning (p.receive_keepsLines fun x q => q.takeOrder_keepsLines l x.1 x.2)
      | operand l f => exact .whenRunning (p.receive_keepsLines fun x q => q.takeOperand_keepsLines l x)
      | gapTimerExpiry l => exact .whenRunning (p.gapExpires_keepsLines l)
      | endWithReply l => exact .whenRunning (p.endWithReply_keepsLines l)
      | supervisionTimerExpiry l => exact .whenRunning (p.supervisionExpires_keepsLines l)
      | warmRestart => exact .whenRunning p.warmRestart_keepsLines
      | coldStart cause x => exact p.coldStartFor_keepsLines cause x
      | saveWriteEnd | resetInputHeld | accumulationTimerExpiry | responseWindowExpiry | returnFrame
      | channelClearAsserted | clearWaitExpiry | leadInEnd | burstEnd | creditAccrual | sirenOnTimeEnd
      | sirenPeriodBoundary | mainsPresentRises | mainsPresentFalls | batterySample | powerLoss | elapsedTimeSecond =>
        cases hv
      | _ => cases hx

end Sys2Proof.Machine


/-!
TIER 3. The invariants that every step keeps.
-/

namespace Sys2Proof.Machine

open Sys2Proof

variable {g : Grants} {p q r : Part}

/-! ## What invariants of the blocks look at -/

/-- `q` is `p` but for lines, restart, cause, pins and meter; the supply state is the same. -/
def Alike (p q : Part) : Prop :=
  q = { p with lines := q.lines, restart := q.restart, cause := q.cause, pins := q.pins, supply := q.supply }
    ∧ q.supply.state = p.supply.state

theorem Exchanged.alike (h : Exchanged p q) : Alike p q := ⟨h.after, h.supply.1⟩

theorem Alike.trans (h : Alike p q) (k : Alike q r) : Alike p r := by
  refine ⟨?_, k.2.trans h.2⟩
  rw [k.1, h.1]

theorem Alike.refl (p : Part) : Alike p p := ⟨rfl, rfl⟩

/-- A rule's writes between two exchanges on the lines. -/
structure Passes (g : Grants) (p q : Part) : Prop where
  parts : ∃ r s loose, Alike p r ∧ Moves { g with makes := True, loose := loose } r s ∧ Alike s q

theorem Ruled.passes {l : Line} (h : Ruled g l p q) : Passes g p q := by
  cases h with
  | moves loose h _ _ => exact ⟨p, q, loose, .refl p, h.makes, .refl q⟩
  | created hc h _ =>
    have hm : Moves { g with makes := True, loose := none } p q :=
      .trans (.one (.create trivial _ _ hc)) h.makes
    exact ⟨p, q, none, .refl p, hm, .refl q⟩
  | notices f hf => exact ⟨p, p, none, .refl p, .refl, ⟨rfl, rfl⟩⟩
  | restart hl => exact ⟨p, p, none, .refl p, .refl, ⟨rfl, rfl⟩⟩

theorem Runs.passes (h : Runs g p q) : Passes g p q := by
  obtain ⟨r, s, l, hpr, hrs, hsq⟩ := h
  obtain ⟨x, y, loose, hrx, hxy, hys⟩ := hrs.passes
  exact ⟨x, y, loose, hpr.alike.trans hrx, hxy, hys.trans hsq.alike⟩

theorem Passes.keeps {I : Part → Prop} (h : Passes g p q) (ha : ∀ {p q}, Alike p q → I p → I q)
    (hm : ∀ {loose p q}, Moves { g with makes := True, loose := loose } p q → I p → I q) (hp : I p) : I q := by
  obtain ⟨r, s, loose, hpr, hrs, hsq⟩ := h
  exact ha hsq (hm hrs (ha hpr hp))

/-! ## Steps -/

theorem effect_runs_or_loads (c : Instr) (plans : Prop) (hp : plans → p.PlansSound) :
    Runs (.all plans) p (effect c p) ∨ Loads p (effect c p) := by
  by_cases hc : ∃ cause x, c = .coldStart cause x
  · obtain ⟨cause, x, rfl⟩ := hc
    exact p.coldStartFor_loads cause x
  · refine (effect_runs hp (Grants.all_cover _ _) fun cause x e => hc ⟨cause, x, e⟩).imp id And.left

theorem step_runs_or_loads {s t : State} (plans : Prop) (hp : plans → s.PlansSound) (h : step s = .next t) :
    Runs (.all plans) s.toPart t.toPart ∨ Loads s.toPart t.toPart := by
  rcases step_next h with e | ⟨c, -, e⟩
  · rw [e]
    exact .inl s.toPart.clock_runs
  · rw [e]
    exact effect_runs_or_loads c plans hp

theorem step_keepsLines {s t : State} (h : step s = .next t) : KeepsLines s.toPart t.toPart := by
  rcases step_next h with e | ⟨c, -, e⟩
  · rw [e]
    exact s.toPart.clock_keepsLines
  · rw [e]
    exact effect_keepsLines c _

/-- An invariant of the blocks that moves keep, and that a part just loaded has, is kept by every step. -/
theorem step_keeps {I : Part → Prop} (plans : Prop) (ha : ∀ {p q}, Alike p q → I p → I q)
    (hm : ∀ {loose p q}, Moves { Grants.all plans with makes := True, loose := loose } p q → I p → I q)
    (hl : ∀ {p q}, Loads p q → I p → I q) {s t : State} (hp : plans → s.PlansSound) (hs : I s.toPart)
    (h : step s = .next t) : I t.toPart :=
  (step_runs_or_loads plans hp h).elim (fun h => h.passes.keeps ha hm hs) (hl · hs)

/-! ## Credits, queue, quiet -/

theorem Alike.quiet (h : Alike p q) : p.Quiet → q.Quiet := by
  rw [Part.quiet_iff, Part.quiet_iff, h.1]
  exact id

/-- What one rule between exchanges leaves of the lamps and of work. -/
theorem Ruled.settles {l : Line} (h : Ruled g l p q) : Settles p q := by
  cases h with
  | moves loose h hr hs => exact hs
  | created hc h hs => exact hs
  | notices f hf => exact .of_same rfl (fun _ => rfl) rfl rfl rfl
  | restart hl => exact .of_same rfl (fun _ => rfl) rfl rfl rfl

theorem Runs.quiet (h : Runs g p q) (hp : p.Quiet) : q.Quiet := by
  obtain ⟨r, s, l, hpr, hrs, hsq⟩ := h
  exact hsq.alike.quiet (hrs.settles.quiet (hpr.alike.quiet hp))

theorem Part.lampsRight_alike (h : Alike p q) : p.LampsRight → q.LampsRight := by
  rw [h.1]
  exact id

theorem Runs.lampsRight (h : Runs g p q) (hp : p.LampsRight) : q.LampsRight := by
  obtain ⟨r, s, l, hpr, hrs, hsq⟩ := h
  exact Part.lampsRight_alike hsq.alike (hrs.settles.lamps (Part.lampsRight_alike hpr.alike hp))

/-- Settles O27. -/
theorem boundsKept : Obligations.BoundsKept := by
  unfold Obligations.BoundsKept
  refine ⟨fun s t hs h => ?_, fun s t hs h => ?_, fun s t hs h => ?_⟩
  · refine step_keeps (I := Part.CreditsWithin) False (fun ha => ?_) (fun m => m.frame.credits) ?_ nofun hs h
    · rw [ha.1]; exact id
    · rintro p q ⟨condition, cause, pins, breaks, rfl⟩ -
      exact Part.loaded_creditsWithin _ _ _ _ _
  · refine step_keeps (I := Part.QueueWithin) False (fun ha => ?_) (fun m => m.frame.queue) ?_ nofun hs h
    · rw [ha.1]; exact id
    · rintro p q ⟨condition, cause, pins, breaks, rfl⟩ -
      exact Part.loaded_queueWithin _ _ _ _ _
  · rcases step_runs_or_loads False nofun h with h | ⟨condition, cause, pins, breaks, e⟩
    · exact h.quiet hs
    · rw [Part.Quiet, e]
      exact Part.loaded_quiet _ _ _ _ _

/-! ## Lines, notices and RESTART -/

theorem BitVec.and_not_or (f b m : Set16) (hf : f &&& ~~~m = 0#16) (hb : b &&& ~~~m = 0#16) : (f ||| b) &&& ~~~m = 0#16 := by
  have e : (f ||| b) &&& ~~~m = (f &&& ~~~m) ||| (b &&& ~~~m) := by
    ext j; simp [Bool.and_or_distrib_right]
  rw [e, hf, hb]
  rfl

theorem Exchanged.noticesWithin (h : Exchanged p q) (hp : p.NoticesWithin) : q.NoticesWithin := by
  intro l
  obtain ⟨b, hb, e⟩ := h.flags l
  rw [e, h.masks l]
  exact ⟨BitVec.and_not_or _ _ _ (hp l).1 hb, (hp l).2⟩

theorem Raises.noticesWithin (h : Raises p q) (hp : p.NoticesWithin) : q.NoticesWithin := by
  obtain ⟨b, hb, e⟩ := h.ctl
  intro l
  rw [e l]
  exact ⟨BitVec.and_not_or _ _ _ (hp l).1 hb, (hp l).2⟩

theorem Ruled.noticesWithin {l : Line} (h : Ruled g l p q) (hp : p.NoticesWithin) : q.NoticesWithin := by
  cases h with
  | moves loose h => exact h.frame.lines.noticesWithin hp
  | created hc h => exact (hc.raises.trans h.frame.lines).noticesWithin hp
  | notices f hf hw =>
    intro k
    by_cases hk : k = l
    · subst hk
      rw [Part.ctl_onLine]
      exact ⟨(hw _).1 (hp k).1, (hw _).2 (hp k).2⟩
    · rw [Part.ctl_onLine_ne _ hk]
      exact hp k
  | restart hl => exact hp

theorem Runs.noticesWithin (h : Runs g p q) (hp : p.NoticesWithin) : q.NoticesWithin := by
  obtain ⟨r, s, l, hpr, hrs, hsq⟩ := h
  exact hsq.noticesWithin (hrs.noticesWithin (hpr.noticesWithin hp))

/-- Settles O28. -/
theorem linesAndNoticesKept : Obligations.LinesAndNoticesKept := by
  unfold Obligations.LinesAndNoticesKept
  refine ⟨fun s t hs h => (step_keepsLines h).lines hs, fun s t hs h => ?_,
    fun s t hs h => (step_keepsLines h).restart hs⟩
  rcases step_runs_or_loads False nofun h with h | ⟨condition, cause, pins, breaks, e⟩
  · exact h.noticesWithin hs
  · rw [e]
    exact Part.loaded_noticesWithin _ _ _ _ _

/-! ## Siren, store, lamps, outputs -/

/-- With distinct numbers a callout is found by its own. -/
theorem Part.findCallout_self (hn : p.NumbersDistinct) {i : SlotId} {c : Callout} (hc : p.callout? i = some c) :
    p.findCallout c.number = some i := by
  unfold Part.findCallout
  cases hf : p.findLive fun d => d.number == c.number with
  | none => exact absurd (Part.findLive_eq_none.1 hf i c hc) (by simp)
  | some j =>
    obtain ⟨d, hd, he⟩ := Part.findLive_eq_some hf
    by_contra hij
    exact (hn.2 j i d c hd hc fun e => hij (congrArg some e)).1 (eq_of_beq he)

theorem BitVec.ne_zero_iff (x : Set16) : x ≠ 0#16 ↔ ∃ k, x.getLsbD k = true := by
  rw [ne_eq, ← not_iff_not, not_not, not_exists]
  refine ⟨fun h k => by rw [h]; simp, fun h => BitVec.eq_of_getLsbD_eq fun k _ => ?_⟩
  simpa using h k

theorem alwaysEnabled_getLsbD (k : Nat) : alwaysEnabled.getLsbD k = true ↔ k = 3 ∨ k = 4 := by
  by_cases hk : k < 16
  · exact (by decide : ∀ k : Fin 16, alwaysEnabled.getLsbD k = true ↔ k.val = 3 ∨ k.val = 4) ⟨k, hk⟩
  · rw [BitVec.getLsbD_of_ge _ _ (by omega)]
    exact iff_of_false nofun (by omega)

theorem LineController.attention_iff (c : LineController) : c.attention = true ↔
    ∃ k, c.flags.getLsbD k = true ∧ (c.mask.getLsbD k = true ∨ k = 3 ∨ k = 4) := by
  unfold LineController.attention
  rw [bne_iff_ne, BitVec.ne_zero_iff]
  simp only [BitVec.getLsbD_and, BitVec.getLsbD_or, Bool.and_eq_true, Bool.or_eq_true, alwaysEnabled_getLsbD]

/-- Settles O29. -/
theorem stationAndStoreKept : Obligations.StationAndStoreKept := by
  unfold Obligations.StationAndStoreKept
  refine ⟨fun s t hsiren hstore h => ⟨?_, ?_⟩, fun s t hs h => ?_, fun p hl hn ap => ⟨fun hc => ?_, fun i c hi hc => ?_⟩,
    fun p => ⟨fun hr => ⟨fun ap => ?_, ?_⟩, fun hr => ⟨fun ap => ?_, ?_⟩⟩⟩
  · refine step_keeps (I := Part.SirenSound) False (fun ha h => ?_) (fun m => m.frame.siren) ?_ nofun hsiren h
    · rw [Part.SirenSound, ha.2, ha.1]
      exact h
    · rintro p q ⟨condition, cause, pins, breaks, rfl⟩ -
      exact Part.loaded_sirenSound _ _ _ _ _
  · refine step_keeps (I := Part.StoreSound) False (fun ha => ?_) (fun m => m.frame.store) ?_ nofun hstore h
    · rw [ha.1]; exact id
    · rintro p q ⟨condition, cause, pins, breaks, rfl⟩ -
      exact Part.loaded_storeSound _ _ _ _ _
  · rcases step_runs_or_loads False nofun h with h | ⟨condition, cause, pins, breaks, e⟩
    · exact h.lampsRight hs
    · rw [e]
      exact Part.loaded_lampsRight _ _ _ _ _
  · rw [hl ap, hc]
  · simp only
    rw [hl ap, hc]
    simp only [Part.findCallout_self hn hi, Option.bind_some, hi]
    split
    · simp_all
    · split <;> simp_all
  · unfold Part.lampDrives
    rw [Part.isRunning, hr]
    cases p.station.lamps.get ap.index <;> rfl
  · rw [Part.attentionOutput, Part.isRunning, hr]
    exact p.lines.console.attention_iff
  · unfold Part.lampDrives
    rw [Part.isRunning, beq_false_of_ne hr]
    cases p.station.lamps.get ap.index <;> rfl
  · rw [Part.attentionOutput, Part.isRunning, beq_false_of_ne hr]
    rfl

end Sys2Proof.Machine


/-!
TIER 3. The callout table: slots, plans, response and appliance lists, and the ties to roster and appliances, across a step.
-/

namespace Sys2Proof.Machine

open Sys2Proof

variable {g : Grants} {p q r : Part} {l : Line}

/-! ## Parts alike in their table -/

theorem Alike.table (h : Alike p q) : q.table = p.table := by rw [h.1]

theorem Alike.binds (h : Alike p q) : Binds p q := .of_same h.table (by rw [h.1]) (by rw [h.1])

theorem Part.freeOrderRight_alike (h : Alike p q) (hp : p.FreeOrderRight) : q.FreeOrderRight :=
  Part.freeOrderRight_congr (by rw [h.table]) (fun i => by rw [Part.callout?_congr h.table]) hp

theorem Part.numbersDistinct_alike (h : Alike p q) : p.NumbersDistinct → q.NumbersDistinct := by
  simp only [Part.NumbersDistinct, Part.callout?_congr h.table]
  exact id

/-- What holds of every live callout holds of those of a part alike. -/
theorem Part.each_alike {I : Callout → Prop} (h : Alike p q) (hp : ∀ i c, p.callout? i = some c → I c) :
    ∀ i c, q.callout? i = some c → I c := fun i c hc => hp i c (Part.callout?_congr h.table i ▸ hc)

/-- And of those of a part just loaded, which has none. -/
theorem Loads.each {I : Callout → Prop} (h : Loads p q) : ∀ i c, q.callout? i = some c → I c := by
  obtain ⟨condition, cause, pins, breaks, rfl⟩ := h
  exact fun i c => Part.loaded_vacuous (P := fun _ => I) _ _ _ _ _ i c

/-! ## Every rule -/

theorem Ruled.statesRight (h : Ruled g l p q) (hp : p.StatesRight) : q.StatesRight := by
  cases h with
  | moves loose h hr => exact hr hp
  | created hc h =>
    refine h.statesRight rfl ?_
    exact Moves.statesRight (g := { g with makes := True, loose := none }) rfl (.one (.create trivial _ _ hc)) hp
  | notices f => exact hp
  | restart hl => exact hp

theorem Ruled.binds (h : Ruled g l p q) (hp : p.TableRight) : Binds p q := by
  cases h with
  | moves loose h hr hs hk => exact hk hp
  | created hc h hs hk => exact hk hp
  | notices f => exact .of_same rfl rfl rfl
  | restart hl => exact .of_same rfl rfl rfl

theorem Runs.binds (h : Runs g p q) (hp : p.TableRight) : Binds p q := by
  obtain ⟨r, s, l, hpr, hrs, hsq⟩ := h
  exact (hpr.alike.binds.trans (hrs.binds (hp.congr hpr.alike.table))).trans hsq.alike.binds

/-! ## Every step -/

variable {s t : State}

theorem step_statesRight (hs : s.StatesRight) (h : step s = .next t) : t.StatesRight := by
  rcases step_runs_or_loads False nofun h with ⟨r, x, l, hpr, hrs, hsq⟩ | h
  · exact Part.each_alike hsq.alike (hrs.statesRight (Part.each_alike hpr.alike hs))
  · exact h.each

theorem step_plansSound (hs : s.PlansSound) (h : step s = .next t) : t.PlansSound := by
  refine step_keeps (I := Part.PlansSound) False (fun ha => ?_) (fun m => m.frame.plans) ?_ nofun hs h
  · rw [ha.1]
    exact id
  · rintro p q ⟨condition, cause, pins, breaks, rfl⟩ hp
    exact Part.loaded_plansSound _ _ _ _ hp

/-- With the table in order a step keeps both ties. -/
theorem step_ties (hs : s.TableRight) (h : step s = .next t) :
    (s.EngagementRight → t.EngagementRight) ∧ (s.CommitmentRight → t.CommitmentRight) := by
  rcases step_runs_or_loads False nofun h with h | ⟨condition, cause, pins, breaks, e⟩
  · have hbinds := h.binds hs
    exact ⟨hbinds.engagement hs.numbers.apart, hbinds.commitment hs.numbers.apart⟩
  · rw [e]
    exact ⟨fun _ => Part.loaded_engagementRight _ _ _ _ _, fun _ => Part.loaded_commitmentRight _ _ _ _ _⟩

/-- Settles O30. -/
theorem calloutTableKept : Obligations.CalloutTableKept := by
  unfold Obligations.CalloutTableKept
  refine ⟨fun s t hs h => ?_, fun s t _ hs h => ?_, fun s t hs h => ?_, fun s t => step_plansSound,
    fun s t hplans hs h => ?_, fun s t => step_statesRight,
    fun s t hfree hnumbers hsound hstates hs h => (step_ties ⟨hfree, hnumbers, hsound, hstates⟩ h).1 hs,
    fun s t hfree hnumbers hsound hstates hs h => (step_ties ⟨hfree, hnumbers, hsound, hstates⟩ h).2 hs⟩
  · refine step_keeps (I := Part.FreeOrderRight) False Part.freeOrderRight_alike (fun m => m.freeOrderRight) ?_ nofun hs h
    rintro p q ⟨condition, cause, pins, breaks, rfl⟩ -
    exact Part.loaded_freeOrderRight _ _ _ _ _
  · refine step_keeps (I := Part.NumbersDistinct) False Part.numbersDistinct_alike (fun m => m.numbersDistinct) ?_ nofun hs h
    rintro p q ⟨condition, cause, pins, breaks, rfl⟩ -
    exact Part.loaded_numbersDistinct _ _ _ _ _
  · exact step_keeps (I := Part.CalloutsSound) False Part.each_alike (fun m => m.calloutsSound) (fun h _ => h.each) nofun hs h
  · exact step_keeps (I := Part.AppliancesWithin) True Part.each_alike (fun m => m.appliancesWithin trivial)
      (fun h _ => h.each) (fun _ => hplans) hs h

end Sys2Proof.Machine


/-!
TIER 3. Configuration, and the history of a callout, across a command and a step.
-/

namespace Sys2Proof.Machine

open Sys2Proof

variable {g : Grants} {p q r : Part}

/-- Just the grants that a command needs. -/
def Grants.of (plans : Prop) (c : Instr) : Grants where
  plans := plans
  marks := c.mayConfigure = true ∨ ∃ ops, c = .setAvailability .console ops
  edits := c.mayConfigure = true
  clears l := Instr.isFrame c = true ∨ ∃ ops, c = .ackNotice l ops
  remasks l := Instr.isFrame c = true ∨ ∃ ops, c = .setMask l ops
  makes := False
  loose := none

theorem Grants.of_cover (plans : Prop) (c : Instr) : (Grants.of plans c).Cover c :=
  ⟨id, id, fun _ => id, fun _ => id⟩

/-- What a command but a cold start does, under just its grants, while the part runs on. -/
theorem effect_runs_on {c : Instr} (hc : ∀ cause x, c ≠ .coldStart cause x) (hp : p.condition = .running)
    (hq : (effect c p).condition = .running) : Runs (.of False c) p (effect c p) :=
  (effect_runs (fun (h : False) => h.elim) (Grants.of_cover _ _) hc).resolve_right fun h => h.2 hp hq

/-! ## Configuration -/

theorem Exchanged.configuration (h : Exchanged p q) : SameConfiguration p q := by
  obtain ⟨e, hs, -⟩ := h
  refine .of_same ?_ hs.2 ?_ ?_ ?_ ?_ ?_ <;> rw [e]
  exact fun _ => rfl

theorem Exchanged.marks (h : Exchanged p q) : SameMarks p q := .of_roster (by rw [h.after])

theorem SameMarks.trans (h : SameMarks p q) (k : SameMarks q r) : SameMarks p r := fun m => (k m).trans (h m)

theorem Ruled.configuration {l : Line} (hg : ¬ g.edits) (h : Ruled g l p q) : SameConfiguration p q := by
  cases h with
  | moves loose h => exact Moves.configuration (g := { g with makes := False, loose := loose }) hg h
  | created hc h =>
    exact (Move.configuration (g := { g with makes := True }) hg (.create trivial _ _ hc)).trans
      (Moves.configuration (g := { g with makes := False, loose := none }) hg h)
  | notices f => exact .of_same rfl rfl rfl rfl (fun _ => rfl) rfl rfl
  | restart hl => exact .of_same rfl rfl rfl rfl (fun _ => rfl) rfl rfl

theorem Ruled.marks {l : Line} (he : ¬ g.edits) (hm : ¬ g.marks) (h : Ruled g l p q) : SameMarks p q := by
  cases h with
  | moves loose h => exact Moves.marks (g := { g with makes := False, loose := loose }) he hm h
  | created hc h =>
    exact (Move.marks (g := { g with makes := True }) he hm (.create trivial _ _ hc)).trans
      (Moves.marks (g := { g with makes := False, loose := none }) he hm h)
  | notices f => exact .of_roster rfl
  | restart hl => exact .of_roster rfl

theorem Runs.configuration (hg : ¬ g.edits) (h : Runs g p q) : SameConfiguration p q := by
  obtain ⟨r, s, l, hpr, hrs, hsq⟩ := h
  exact (hpr.configuration.trans (hrs.configuration hg)).trans hsq.configuration

theorem Runs.marks (he : ¬ g.edits) (hm : ¬ g.marks) (h : Runs g p q) : SameMarks p q := by
  obtain ⟨r, s, l, hpr, hrs, hsq⟩ := h
  exact (hpr.marks.trans (hrs.marks he hm)).trans hsq.marks

/-- Settles O33. -/
theorem configurationStays : Obligations.ConfigurationStays := by
  unfold Obligations.ConfigurationStays
  intro c s t h hs ht hc
  rw [exec_next_iff] at h
  subst h
  have hcold (cause : ColdCause) (x : Level) : c ≠ .coldStart cause x := by rintro rfl; cases hc
  have hedits : ¬ c.mayConfigure = true := by rw [hc]; nofun
  have hruns := effect_runs_on hcold hs ht
  refine ⟨hruns.configuration hedits, fun hset m => (hruns.marks hedits ?_ m).symm⟩
  rintro (h | ⟨ops, h⟩)
  · exact hedits h
  · exact hset ops h

/-! ## Notices -/

/-- No flag of line `l` has been cleared, or one may be; and its mask is the same, or may be set. -/
structure KeepsNotices (g : Grants) (l : Line) (p q : Part) : Prop where
  flags : ¬ g.clears l → (p.ctl l).flags &&& ~~~(q.ctl l).flags = 0#16
  mask  : ¬ g.remasks l → (q.ctl l).mask = (p.ctl l).mask

theorem BitVec.and_not_or_self (x b : Set16) : x &&& ~~~(x ||| b) = 0#16 := by
  ext j
  simp only [BitVec.getElem_and, BitVec.getElem_not, BitVec.getElem_or, BitVec.getElem_zero]
  cases x[j] <;> rfl

theorem BitVec.and_not_trans {x y z : Set16} (h : x &&& ~~~y = 0#16) (k : y &&& ~~~z = 0#16) : x &&& ~~~z = 0#16 := by
  ext j hj
  have h' := congrArg (·[j]) h
  have k' := congrArg (·[j]) k
  simp only [BitVec.getElem_and, BitVec.getElem_not, BitVec.getElem_zero] at *
  cases hx : x[j] <;> cases hy : y[j] <;> simp_all

theorem KeepsNotices.trans {l : Line} (h : KeepsNotices g l p q) (k : KeepsNotices g l q r) : KeepsNotices g l p r :=
  ⟨fun hn => BitVec.and_not_trans (h.flags hn) (k.flags hn), fun hn => (k.mask hn).trans (h.mask hn)⟩

theorem Exchanged.keepsNotices (l : Line) (h : Exchanged p q) : KeepsNotices g l p q := by
  obtain ⟨b, -, e⟩ := h.flags l
  exact ⟨fun _ => by rw [e]; exact BitVec.and_not_or_self _ _, fun _ => h.masks l⟩

theorem Raises.keepsNotices (l : Line) (h : Raises p q) : KeepsNotices g l p q := by
  obtain ⟨b, -, e⟩ := h.ctl
  exact ⟨fun _ => by rw [e l]; exact BitVec.and_not_or_self _ _, fun _ => by rw [e l]⟩

theorem Ruled.keepsNotices {k : Line} (l : Line) (h : Ruled g k p q) : KeepsNotices g l p q := by
  cases h with
  | moves loose h => exact h.frame.lines.keepsNotices l
  | created hc h => exact (hc.raises.trans h.frame.lines).keepsNotices l
  | notices f hf hw hk =>
    by_cases hl : l = k
    · subst hl
      constructor <;> rw [Part.ctl_onLine]
      · exact fun h => hk.1 h _
      · exact fun h => hk.2 h _
    · constructor <;> rw [Part.ctl_onLine_ne _ hl]
      · exact fun _ => BitVec.and_not_self _
      · exact fun _ => rfl
  | restart hl => exact ⟨fun _ => BitVec.and_not_self _, fun _ => rfl⟩

theorem Runs.keepsNotices (l : Line) (h : Runs g p q) : KeepsNotices g l p q := by
  obtain ⟨r, s, k, hpr, hrs, hsq⟩ := h
  exact ((hpr.keepsNotices l).trans (hrs.keepsNotices l)).trans (hsq.keepsNotices l)

/-- Settles O12. -/
theorem noticeFlagsStay : Obligations.NoticeFlagsStay := by
  unfold Obligations.NoticeFlagsStay
  refine ⟨fun c s t l h hs ht hcold hframe => ?_, fun n p l => ?_, LineController.attention_iff⟩
  · rw [exec_next_iff] at h
    subst h
    have hkeep := (effect_runs_on hcold hs ht).keepsNotices l
    have hf : ¬ Instr.isFrame c = true := by
      intro h
      cases c with
      | order k f => exact (hframe k f).1 rfl
      | operand k f => exact (hframe k f).2 rfl
      | _ => cases h
    exact ⟨fun h => hkeep.flags fun e => e.elim hf fun ⟨ops, e⟩ => h ops e,
      fun h => hkeep.mask fun e => e.elim hf fun ⟨ops, e⟩ => h ops e⟩
  · rw [Part.ctl_raise]
    rfl

/-! ## The history of a callout -/

/-- The states of all slots are what they were, or CALLOUT stands on all three lines. -/
def Tells (p q : Part) : Prop :=
  (∀ i, q.stateAt i = p.stateAt i) ∨ CalloutRaised q

theorem Exchanged.stateAt (h : Exchanged p q) (i : SlotId) : q.stateAt i = p.stateAt i := by
  rw [h.after]
  rfl

theorem Exchanged.calloutRaised (h : Exchanged p q) (hp : CalloutRaised p) : CalloutRaised q := by
  intro l
  obtain ⟨b, -, e⟩ := h.flags l
  rw [e, BitVec.getLsbD_or, hp l]
  rfl

theorem Ruled.tells {l : Line} (h : Ruled g l p q) : Tells p q := by
  cases h with
  | moves loose h => exact h.announces.2
  | created hc h =>
    exact ((Move.announces (g := { g with makes := True }) (.create trivial _ _ hc)).trans h.announces).2
  | notices f => exact .inl fun _ => rfl
  | restart hl => exact .inl fun _ => rfl

theorem Runs.tells (h : Runs g p q) : Tells p q := by
  obtain ⟨r, s, l, hpr, hrs, hsq⟩ := h
  exact hrs.tells.imp (fun h i => (hsq.stateAt i).trans ((h i).trans (hpr.stateAt i))) hsq.calloutRaised

/-- What a step tells of a slot whose state has changed; where one has become FREE the part must run on. -/
theorem step_tells {s t : State} (h : step s = .next t) (i : SlotId) (hi : t.stateAt i ≠ s.stateAt i)
    (hlive : t.callout? i ≠ none ∨ s.condition = .running ∧ t.condition = .running
      ∧ ∀ cause x, s.pending.head? ≠ some (.coldStart cause x)) : CalloutRaised t.toPart := by
  have of_runs {g : Grants} (h : Runs g s.toPart t.toPart) : CalloutRaised t.toPart :=
    h.tells.resolve_left fun e => hi (e i)
  rcases hlive with hlive | ⟨hs, ht, hcold⟩
  · rcases step_runs_or_loads False nofun h with h | ⟨condition, cause, pins, breaks, e⟩
    · exact of_runs h
    · rw [e] at hlive
      exact absurd (Part.loaded_callout? _ _ _ _ _ i) hlive
  · rcases step_next h with e | ⟨c, hc, e⟩
    · exact of_runs (g := .all False) (by rw [e]; exact s.toPart.clock_runs)
    · rw [e] at ht
      exact of_runs (by rw [e]; exact effect_runs_on (fun cause x hx => hcold cause x (hx ▸ hc)) hs ht)

/-- Given the free order, a slot that stays live keeps its callout, whose history goes on. -/
theorem Ruled.grows {l : Line} (h : Ruled g l p q) (ho : p.FreeOrderRight) {i : SlotId} {a b : Callout}
    (ha : p.callout? i = some a) (hb : q.callout? i = some b) : a.Grows b := by
  cases h with
  | moves loose h =>
    obtain ⟨c, hc, hcb⟩ := Moves.grows (g := { g with makes := False, loose := loose }) id h i b hb
    rw [ha] at hc
    cases hc
    exact hcb
  | created hc h =>
    obtain ⟨c, hr, hcb⟩ := Moves.grows (g := { g with makes := False, loose := none }) id h i b hb
    rw [hc.callout?] at hr
    split at hr
    · next e =>
      subst e
      rw [((p.freeOrderRight_iff.1 ho).2 _).1 (List.mem_of_mem_head? hc.head)] at ha
      cases ha
    · rw [ha] at hr
      cases hr
      exact hcb
  | notices f => exact Option.some.inj (ha.symm.trans hb) ▸ .refl a
  | restart hl => exact Option.some.inj (ha.symm.trans hb) ▸ .refl a

theorem step_grows {s t : State} (ho : s.FreeOrderRight) (h : step s = .next t) {i : SlotId} {a b : Callout}
    (ha : s.callout? i = some a) (hb : t.callout? i = some b) : a.Grows b := by
  rcases step_runs_or_loads False nofun h with ⟨r, x, l, hpr, hrs, hsq⟩ | ⟨condition, cause, pins, breaks, e⟩
  · have hr : r.callout? i = some a := by rw [hpr.after]; exact ha
    have hx : x.callout? i = some b := by rw [← hb, hsq.after]; rfl
    refine hrs.grows (Part.freeOrderRight_congr ?_ (fun j => ?_) ho) hr hx <;> rw [hpr.after]
    rfl
  · rw [e, Part.loaded_callout?] at hb
    cases hb

theorem BitVec.or_sub_or {x y z w : Set16} (h : x &&& ~~~z = 0#16) (k : y &&& ~~~w = 0#16) :
    (x ||| y) &&& ~~~(z ||| w) = 0#16 := by
  refine BitVec.and_not_or _ _ _ (BitVec.and_not_trans h (BitVec.and_not_or_self _ _)) ?_
  rw [BitVec.or_comm]
  exact BitVec.and_not_trans k (BitVec.and_not_or_self _ _)

theorem CalloutFlags.Le.toSet {f h : CalloutFlags} (le : f.Le h) : f.toSet &&& ~~~h.toSet = 0#16 := by
  have bit {a b : Bool} (k : Set16) (h : a = true → b = true) :
      (if a then k else 0#16) &&& ~~~(if b then k else 0#16) = 0#16 := by
    cases a with
    | false => exact BitVec.zero_and
    | true => rw [if_pos rfl, if_pos (h rfl)]; exact BitVec.and_not_self _
  exact BitVec.or_sub_or (BitVec.or_sub_or (BitVec.or_sub_or (BitVec.or_sub_or (BitVec.or_sub_or (bit _ le.substituted)
    (bit _ le.applianceOmitted)) (bit _ le.groupsOmitted)) (bit _ le.txDegraded)) (bit _ le.aidRequested))
    (bit _ le.responseLost)

/-- Settles O31. -/
theorem calloutHistory : Obligations.CalloutHistory := by
  unfold Obligations.CalloutHistory
  refine ⟨fun s t i h => ⟨fun a b ha hb hne => ?_, fun b ha hb => ?_, fun a ha hb hs ht hcold => ?_⟩,
    fun s t i a b ho h ha hb => ?_⟩
  · refine step_tells h i (fun e => hne ?_) (.inl (by rw [hb]; nofun))
    rw [Part.stateAt, Part.stateAt, ha, hb] at e
    exact Option.some.inj e
  · exact step_tells h i (by rw [Part.stateAt, Part.stateAt, ha, hb]; nofun) (.inl (by rw [hb]; nofun))
  · exact step_tells h i (by rw [Part.stateAt, Part.stateAt, ha, hb]; nofun) (.inr ⟨hs, ht, hcold⟩)
  · have hg := step_grows ho h ha hb
    refine ⟨?_, hg.level, hg.exhausted, hg.flags.toSet, fun he => (hg.elapsed he).1⟩
    have field {α : Type} (f : Callout → α) : f b.fixed = f a.fixed := congrArg f hg.fixed
    exact ⟨field Callout.number, field Callout.token, field Callout.reference, field Callout.origin, field Callout.cls,
      field Callout.zone, field Callout.plan, field Callout.window, field Callout.turnout, field Callout.sirenPolicy,
      field Callout.sirenPattern, field Callout.text⟩

end Sys2Proof.Machine


/-!
PROOF. Every order is answered, and a refused one changes nothing (R179, R183); frames and the gap timer (R177, R178).
-/

namespace Sys2Proof.Machine

open Sys2Proof

/-! ## Answers -/

/-- Every order is answered on its own line. -/
theorem Part.answer_replying {g : Grants} {l : Line} {dup : Prop} {p : Part} {v : Verdict}
    (hg : (p.ctl l).gap = none) (hv : v.Obeys dup (Ruled g l p)) :
    ((p.answer l v).ctl l).state = .replying ∧ ((p.answer l v).ctl l).gap = none := by
  cases v with
  | refused why results => rw [Part.answer, Part.sendReply, Part.ctl_onLine]; exact ⟨rfl, hg⟩
  | taken q results =>
    have hq : (q.ctl l).gap = none := by rw [(Ruled.sameLines hv).ctl l]; exact hg
    rw [Part.answer, Part.sendReply, Part.ctl_onLine]
    exact ⟨rfl, hq⟩

/-- Settles O10. -/
theorem refusedOrderChangesNothing : Obligations.RefusedOrderChangesNothing := by
  unfold Obligations.RefusedOrderChangesNothing
  intro c l code ops s hs hc
  rw [leads_iff, effect_order hc, Part.orderEvent_running hs]
  have hobeys := orderRule_obeys (p := s.toPart.working l code ops) (g := .all False) hc (fun (h : False) => h.elim)
    (Grants.all_cover _ _)
  have hexchange := (s.toPart.working_ctl l code ops l).2.2.1
  obtain ⟨hstate, hgap⟩ := Part.answer_replying (s.toPart.working_gap l code ops) hobeys
  refine ⟨hstate, hgap, ?_⟩
  clear hstate hgap
  cases hv : orderRule c (s.toPart.working l code ops) with
  | taken q results =>
    rw [hv] at hobeys
    rw [Part.answer, Part.sendReply, Part.ctl_onLine]
    refine ⟨_, rfl, ?_, rfl, nofun⟩
    rw [(Ruled.sameLines hobeys).ctl l]
    exact hexchange
  | refused why results =>
    rw [hv] at hobeys
    have hanswered := s.toPart.sendReply_answered (s.toPart.working l code ops) l code ops (some why) results 0#16
      (by simp [Lines.all])
    have hsame := Part.orderEvent_refused hs l code ops (orderRule c) why results hv
    rw [Part.orderEvent_running hs, hv] at hsame
    refine ⟨_, hanswered.reply, rfl, rfl, ?_⟩
    rintro _ ⟨rfl⟩
    exact ⟨hanswered, hsame.2, fun hr => (hobeys.resolve_left hr).symm⟩

/-! ## Frames and the gap timer -/

theorem checked_refused {b : Bool} {arity n : Nat} (h : 8 < n) (v : Verdict) :
    ∃ why, checked b arity n v = .refused why [] := by
  unfold checked
  split
  · exact ⟨_, rfl⟩
  · rw [if_pos (by simp [h])]
    exact ⟨_, rfl⟩

theorem setAvailabilityOrder_refused {n : Nat} (h : 8 < n) (l : Line) (ops : List Operand) (p : Part) :
    ∃ why, setAvailabilityOrder l n ops p = .refused why [] := by
  unfold setAvailabilityOrder
  split
  · exact ⟨_, rfl⟩
  · exact checked_refused h _

/-- An order with more than eight operands declared is refused. -/
theorem orderFor_refused {n : Nat} (h : 8 < n) (l : Line) (code : Byte) (ops : List Operand) (p : Part) :
    ∃ why, orderFor l code n ops p = .refused why [] := by
  generalize hf : orderFor l code n ops = f
  unfold orderFor at hf
  split at hf
  all_goals subst hf
  case h_16 => exact setAvailabilityOrder_refused h l ops p
  case h_33 => exact ⟨_, rfl⟩
  all_goals exact checked_refused h _

/-- The line with another controller. -/
theorem Part.hears_onLine (p : Part) (l : Line) (kind : Byte) (frame : List Byte) (f : LineController → LineController) :
    (p.hears l kind frame).onLine l f = { p with
      lines := p.lines.setCtl l (f { p.ctl l with received := unread kind ((p.ctl l).received ++ frame) }) } := by
  cases l <;> rfl

theorem Part.workHeld_replying (l : Line) (code : Byte) (n : Nat) (ops : List Operand) (p : Part) :
    ((p.workHeld l code n ops).ctl l).state = .replying ∧ ((p.workHeld l code n ops).ctl l).gap = none := by
  refine Part.answer_replying (g := .all False) ?_
    (orderFor_obeys (fun (h : False) => h.elim) trivial trivial ⟨trivial, trivial⟩ code n ops)
  exact congrArg LineController.gap (Part.ctl_onLine _ l _)

theorem Part.workHeld_refused {n : Nat} (h : 8 < n) (l : Line) (code : Byte) (ops : List Operand) (p : Part) :
    ∃ r, ((p.workHeld l code n ops).ctl l).reply = some r ∧ r.refused ≠ none := by
  obtain ⟨why, hv⟩ := orderFor_refused h l code ops (p.worked l code n ops)
  rw [Part.workHeld, Part.workOrder_eq, hv]
  refine ⟨_, congrArg LineController.reply (Part.ctl_onLine _ l _), nofun⟩

/-- Settles O7. -/
theorem framesTaken : Obligations.FramesTaken := by
  unfold Obligations.FramesTaken
  intro l frame s hs bytes heard held discarded
  refine ⟨fun code count h => ?_, fun x h => ?_, ?_, fun h => ?_, fun h => ?_, fun h => ?_⟩ <;> refine leads_of_event hs rfl ?_
  · have hstate : ((s.toPart.hears l 2#8 frame).ctl l).state = (s.ctl l).state := by rw [Part.hears_ctl]
    rw [Part.receive_some (p := s.toPart) h]
    unfold Part.takeOrder
    rw [hstate]
    cases (s.ctl l).state with
    | opened =>
      simp only
      by_cases hn : count = 0 ∨ 8 < count
      · rw [if_pos hn, if_neg (by omega)]
        exact ⟨(Part.workHeld_replying l code count [] _).1, (Part.workHeld_replying l code count [] _).2,
          fun h8 => Part.workHeld_refused h8 l code [] _⟩
      · rw [if_neg hn, if_pos (by omega)]
        exact Part.hears_onLine _ l _ _ _
    | collecting => exact Part.hears_onLine _ l _ _ _
    | idle | working | replying => rfl
  · have hctl : (s.toPart.hears l 3#8 frame).ctl l = heard 3#8 := Part.hears_ctl
    rw [Part.receive_some (p := s.toPart) h]
    unfold Part.takeOperand
    simp only [hctl]
    cases hst : (s.ctl l).state with
    | opened => exact Part.hears_onLine _ l _ _ _
    | collecting =>
      simp only [heard, List.length_append, List.length_singleton]
      by_cases hn : (s.ctl l).declared ≤ (s.ctl l).operands.length + 1
      · rw [if_pos hn, if_neg (by omega)]
        exact Part.workHeld_replying l _ _ _ _
      · rw [if_neg hn, if_pos (by omega), ← hst]
        exact Part.hears_onLine _ l _ _ _
    | idle | working | replying => rfl
  · unfold Part.gapExpires
    cases (s.ctl l).state <;> cases l <;> rfl
  · exact Part.receive_none (p := s.toPart) h
  · exact Part.receive_none (p := s.toPart) h
  · exact Part.receive_none (p := s.toPart) h

end Sys2Proof.Machine


/-!
PROOF. The page queue: admission of demands (R131 to R134, R147), and the work inside an event (R135, R137, R148 to R152).
-/

namespace Sys2Proof.Machine

open Sys2Proof

/-! ## Demands and admission -/

theorem Demand.size_eq (d : Demand) : d.size = 1 + match d.content with
    | .groups gs => gs.length
    | .members ms => ms.length
    | .formed ps => ps.length := by
  unfold Demand.size Content.count
  cases d.content <;> rfl

theorem PageQueue.room_iff (q : PageQueue) (d : Demand) : q.room d = true ↔ q.used + d.size ≤ 64 :=
  decide_eq_true_iff

theorem Part.admission_eq (d : Demand) (p : Part) : p.admission d = { p with
    sites := { p.sites with direction := p.sites.direction.flip }
    pages := if p.formPages d = [] then { p.pages with reports := p.pages.reports ++ [.ended d.owner d.kind .complete false] }
      else if p.nextSites d = [] then { p.pages with reports := p.pages.reports ++ [.ended d.owner d.kind .complete true] }
      else { p.pages with queue := p.pages.queue ++ [p.batchFor d] } } := by
  unfold Part.admission Part.batchFor Part.nextSites
  simp only
  split
  · rfl
  · split <;> rfl

/-- The part with another demand list. -/
def Part.setDemands (l : List Demand) (p : Part) : Part :=
  { p with pages := { p.pages with demands := l } }

/-- An admission does not look at the demand list. -/
theorem Part.admission_setDemands (l : List Demand) (d : Demand) (p : Part) :
    (p.setDemands l).admission d = (p.admission d).setDemands l := by
  rw [Part.admission_eq, Part.admission_eq]
  show ({ p with sites := _, pages := if p.formPages d = [] then _ else if p.nextSites d = [] then _ else _ } : Part) = _
  unfold Part.setDemands
  split
  · rfl
  · split <;> rfl

theorem Part.admitFrom_setDemands (l x : List Demand) (p : Part) :
    Part.admitFrom l (p.setDemands x) = Part.admitFrom l p := by
  induction l generalizing p with
  | nil => rfl
  | cons d rest ih =>
    unfold Part.admitFrom
    rw [Part.admission_setDemands, ih]
    rfl

/-- Admission is tried for the head of the list, and then for the rest (R133). -/
theorem Part.tryAdmissions_cons {p : Part} {d : Demand} {rest : List Demand} (h : p.pages.demands = d :: rest) :
    p.tryAdmissions = if p.pages.room d = true then ((p.setDemands rest).admission d).tryAdmissions else p := by
  unfold Part.tryAdmissions
  rw [h, Part.admitFrom, Part.admission_setDemands]
  split
  · exact (Part.admitFrom_setDemands _ _ _).symm
  · show p.setDemands (d :: rest) = p
    rw [← h]
    rfl

theorem Part.tryAdmissions_nil {p : Part} (h : p.pages.demands = []) : p.tryAdmissions = p :=
  p.tryAdmissions_of_headWaits fun d rest e => by rw [h] at e; cases e

theorem Part.nextSites_eq (p : Part) (d : Demand) : p.nextSites d = p.sites.direction.flip.order.filter fun k =>
    (p.sites.records.get k).enabled && !(p.supply.state == .reserve && (p.sites.records.get k).stationPowered)
      && d.restrict.allows k := by
  unfold Part.nextSites Part.siteList Part.inhibited
  rw [List.filter_filter]
  congr 1
  funext k
  exact Bool.and_comm _ _

/-- Settles O35. -/
theorem demandsAdmitted : Obligations.DemandsAdmitted := by
  unfold Obligations.DemandsAdmitted
  intro p d used size onPages
  refine ⟨?_, Part.tryAdmissions_nil, fun e rest h => ?_, ?_, fun i c hi hc => ?_⟩
  · have hsize : d.size = size d := d.size_eq
    have hused : p.pages.used = used := rfl
    unfold Part.demand
    rw [← hsize]
    by_cases h : p.pages.demands = [] ∧ used + d.size ≤ 64
    · rw [if_pos h, if_pos (by simpa [PageQueue.room_iff, hused, h.1] using h.2)]
    · rw [if_neg h, if_neg (by simpa [PageQueue.room_iff, hused] using h)]
      rfl
  · rw [Part.tryAdmissions_cons h]
    refine if_congr ?_ rfl rfl
    rw [PageQueue.room_iff, e.size_eq]
    rfl
  · intro turned order listed pages
    have hlisted : p.nextSites d = listed := by
      rw [Part.nextSites_eq]
      unfold listed order turned
      cases p.sites.direction <;> cases d.restrict <;> rfl
    rw [Part.admission_eq, hlisted]
    unfold Part.batchFor
    rw [hlisted]
    have hturned : p.sites.direction.flip = turned := by
      unfold turned
      cases p.sites.direction <;> rfl
    rw [hturned]
  · intro page
    have hpage (who : Addressee) (address : Address) : pageFor d.kind c who address = page who address := by
      unfold pageFor page
      cases d.kind <;> rfl
    unfold Part.formPages Part.pagesFor
    rw [hi, Option.bind_some, hc]
    cases d.content with
    | formed ps => rfl
    | groups gs => simp only [hpage]
    | members ms => simp only [hpage]

end Sys2Proof.Machine


/-!
PROOF. Turns, settled sites and joins (R135 to R137, R148 to R152).
-/

namespace Sys2Proof.Machine

open Sys2Proof

/-! ## Sites of a batch -/

theorem SiteEntry.remaining_eq_false {e : SiteEntry} : e.remaining = false ↔ ∃ o, e.condition = .settled o := by
  unfold SiteEntry.remaining
  cases e.condition <;> simp

theorem SiteEntry.remaining_eq_true {e : SiteEntry} : e.remaining = true ↔ ∀ o, e.condition ≠ .settled o := by
  rw [← Bool.not_eq_false, SiteEntry.remaining_eq_false, not_exists]

theorem SiteEntry.failed_iff {e : SiteEntry} : e.failed = true ↔ ∃ o, e.condition = .settled o ∧ o ≠ .done := by
  unfold SiteEntry.failed
  cases e.condition with
  | settled o => cases o <;> simp
  | toServe => simp
  | deferred => simp

theorem Batch.failed_iff (b : Batch) : b.failed = true ↔ ∃ e ∈ b.sites, ∃ o, e.condition = .settled o ∧ o ≠ .done := by
  simp only [Batch.failed, List.any_eq_true, SiteEntry.failed_iff]

theorem Batch.remaining_eq_nil {b : Batch} : b.remaining = [] ↔ ∀ e ∈ b.sites, ∃ o, e.condition = .settled o := by
  simp only [Batch.remaining, List.filter_eq_nil_iff, Bool.not_eq_true, SiteEntry.remaining_eq_false]

theorem Batch.over_iff {b : Batch} : b.over = true ↔ b.remaining = [] := beq_iff_eq

/-- The first remaining site is the first that is not settled. -/
theorem Batch.remaining_of_first {b : Batch} {e : SiteEntry} {l r : List SiteEntry} (h : b.sites = l ++ e :: r)
    (he : ∀ o, e.condition ≠ .settled o) (hl : ∀ x ∈ l, ∃ o, x.condition = .settled o) :
    b.remaining = e :: r.filter SiteEntry.remaining := by
  have hnil : l.filter SiteEntry.remaining = [] := by
    simpa only [List.filter_eq_nil_iff, Bool.not_eq_true, SiteEntry.remaining_eq_false] using hl
  rw [Batch.remaining, h, List.filter_append, hnil, List.nil_append,
    List.filter_cons_of_pos (SiteEntry.remaining_eq_true.2 he)]

/-! ## The operations on a current batch -/

section
variable {p : Part} {b : Batch} {rest : List Batch}

/-- The part with another queue. -/
def Part.withQueue (p : Part) (l : List Batch) : Part :=
  { p with pages := { p.pages with queue := l } }

theorem Part.onCurrent_withQueue (hq : p.pages.queue = b :: rest) (f : Batch → Batch) :
    p.onCurrent f = p.withQueue (f b :: rest) := by
  simp only [Part.onCurrent, Part.onPages, hq]
  rfl

theorem Part.settle_cons (hq : p.pages.queue = b :: rest) (k : SiteId) (o : PassOutcome) :
    p.settle k o = { p with pages := { p.pages with
      queue := b.settledAt k o :: rest
      reports := p.pages.reports ++ .pass b.owner o b.groups ::
        if (b.settledAt k o).remaining = [] then [.ended b.owner b.kind .complete (b.settledAt k o).failed] else [] } } := by
  have hcur : p.current? = some b := by rw [Part.current?, hq]; rfl
  have hset : b.setSite k (.settled o) = b.settledAt k o := rfl
  unfold Part.settle
  simp only [hcur, Part.onCurrent_withQueue hq, hset, Batch.over_iff]
  split
  · simp only [Part.report, Part.onPages, Part.withQueue, List.append_assoc, List.cons_append, List.nil_append]
  · rfl

theorem Part.keySite_eq (hq : p.pages.queue = b :: rest) (k : SiteId) (forced : Bool) :
    p.keySite k forced = { p with
      pages := { p.pages with queue := { b with started := true } :: rest }
      sites := { p.sites with
        records := p.sites.records.set k { p.sites.records.get k with
          credit := (p.sites.records.get k).credit - airtime (p.sites.records.get k).leadIn b.pages }
        sequencer := .leadIn k forced (p.sites.records.get k).leadIn } } := by
  have hcur : p.current? = some b := by rw [Part.current?, hq]; rfl
  unfold Part.keySite
  simp only [hcur]
  rw [Part.onCurrent_withQueue (b := b) (rest := rest) (by exact hq)]
  rfl

theorem Part.joinSite_eq (hq : p.pages.queue = b :: rest) (k : SiteId) : p.joinSite k = { p with
      pages := { p.pages with queue := { b with started := true } :: rest }
      sites := { p.sites with
        records := p.sites.records.set k { p.sites.records.get k with
          credit := (p.sites.records.get k).credit - airtime 0 b.pages }
        sequencer := .burst k false (burstTime b.pages) } } := by
  have hcur : p.current? = some b := by rw [Part.current?, hq]; rfl
  unfold Part.joinSite
  simp only [hcur]
  rw [Part.onCurrent_withQueue (b := b) (rest := rest) (by exact hq)]
  rfl

theorem Part.inhibited_iff (k : SiteId) :
    p.inhibited k = true ↔ p.supply.state = .reserve ∧ (p.sites.records.get k).stationPowered = true := by
  simp [Part.inhibited]

/-- A turn at the first remaining site (R149, R150). -/
theorem Part.turn_eq (hq : p.pages.queue = b :: rest) {e : SiteEntry} {more : List SiteEntry} (hr : b.remaining = e :: more) :
    p.turn =
      if p.supply.state = .reserve ∧ (p.sites.records.get e.site).stationPowered = true then p.settle e.site .skippedReserve
      else if (p.sites.records.get e.site).ceiling < airtime (p.sites.records.get e.site).leadIn b.pages
      then p.settle e.site .skippedAirtime
      else if (p.sites.records.get e.site).credit < airtime (p.sites.records.get e.site).leadIn b.pages then
        if e.condition = .toServe ∧ 1 < b.remaining.length then p.onCurrent (Batch.defer e.site)
        else p.settle e.site .skippedAirtime
      else p.clearCheck e.site := by
  have hcur : p.current? = some b := by rw [Part.current?, hq]; rfl
  unfold Part.turn
  simp only [hcur]
  rw [hr]
  simp only [Part.turnCheck, Part.inhibited_iff, Bool.and_eq_true, decide_eq_true_eq, hr]
  split_ifs <;> rfl

/-- A joined turn, or none (R152). -/
theorem Part.joinOrUnkey_eq (hq : p.pages.queue = b :: rest) {e : SiteEntry} {more : List SiteEntry}
    (hr : b.remaining = e :: more) (k : SiteId) : p.joinOrUnkey k =
      if e.site ≠ k then p.setSequencer .idle
      else if p.supply.state = .reserve ∧ (p.sites.records.get k).stationPowered = true
      then (p.setSequencer .idle).settle k .skippedReserve
      else if (p.sites.records.get k).ceiling < airtime 0 b.pages then (p.setSequencer .idle).settle k .skippedAirtime
      else if (p.sites.records.get k).credit < airtime 0 b.pages then
        if e.condition = .toServe ∧ 1 < b.remaining.length then (p.setSequencer .idle).onCurrent (Batch.defer k)
        else (p.setSequencer .idle).settle k .skippedAirtime
      else p.joinSite k := by
  have hcur : p.current? = some b := by rw [Part.current?, hq]; rfl
  unfold Part.joinOrUnkey
  simp only [hcur]
  rw [hr]
  by_cases hk : e.site = k
  · subst hk
    simp only [Part.turnCheck, Part.inhibited_iff, Bool.and_eq_true, decide_eq_true_eq, hr, if_true, ne_eq, not_true_eq_false,
      if_false]
    split_ifs <;> rfl
  · simp only [if_neg hk, if_pos hk, ne_eq]

theorem Part.workStep_reports {r : Report} {more : List Report} (h : p.pages.reports = r :: more) :
    p.workStep = some (({ p with pages := { p.pages with reports := more } } : Part).takeReport r) := by
  unfold Part.workStep
  rw [h]
  rfl

theorem Part.workStep_over (hr : p.pages.reports = []) (hs : p.sites.sequencer = .idle) (hq : p.pages.queue = b :: rest)
    (hb : b.remaining = []) : p.workStep = some (p.withQueue rest).tryAdmissions := by
  unfold Part.workStep
  simp only [hr, hs, hq, if_true, Batch.over_iff.2 hb]
  rw [Part.leaveQueue, Part.onPages, hq]
  rfl

theorem Part.workStep_turn (hr : p.pages.reports = []) (hs : p.sites.sequencer = .idle) (hq : p.pages.queue = b :: rest)
    (hb : b.remaining ≠ []) (hw : b.withdrawing = false) : p.workStep = some p.turn := by
  have ho : b.over = false := by rw [← Bool.not_eq_true, Batch.over_iff]; exact hb
  unfold Part.workStep
  simp only [hr, hs, hq, if_true, ho, hw]
  rfl

end

/-- Settles O36. -/
theorem turnsTaken : Obligations.TurnsTaken := by
  unfold Obligations.TurnsTaken
  intro p settled allSettled first deferred debited
  have hfirst {b : Batch} {e : SiteEntry} (h : first b e) : ∃ more, b.remaining = e :: more := by
    obtain ⟨l, r, hb, he, hl⟩ := h
    exact ⟨_, Batch.remaining_of_first hb he hl⟩
  have hdefer (b : Batch) (k : SiteId) : Batch.defer k b = deferred b k := by
    unfold deferred Batch.defer
    simp only [bne, decide_not, ne_eq]
    rfl
  refine ⟨fun r rest h => Part.workStep_reports h, fun hr h => ?_, fun b rest hq => ⟨fun hr hs => ⟨fun hb => ?_, fun hb hw e he => ?_⟩,
    fun k o => Part.settle_cons hq k o, b.failed_iff, Batch.remaining_eq_nil, fun k => ⟨fun hb => ?_, fun e he => ?_⟩⟩⟩
  · exact (p.quiet_iff).2 ⟨hr, fun hs => by simp [h.resolve_left (not_not.2 hs)]⟩
  · exact Part.workStep_over hr hs hq (Batch.remaining_eq_nil.2 hb)
  · obtain ⟨more, hrem⟩ := hfirst he
    rw [Part.workStep_turn hr hs hq (by rw [hrem]; nofun) hw, Part.turn_eq hq hrem]
    simp only [Part.onCurrent_withQueue hq, hdefer, airtime]
    unfold Part.clearCheck
    rw [Part.keySite_eq hq]
    rfl
  · have hcur : p.current? = some b := by rw [Part.current?, hq]; rfl
    unfold Part.joinOrUnkey
    simp only [hcur, Batch.remaining_eq_nil.2 hb]
    rfl
  · obtain ⟨more, hrem⟩ := hfirst he
    rw [Part.joinOrUnkey_eq hq hrem, Part.joinSite_eq hq,
      Part.onCurrent_withQueue (p := p.setSequencer .idle) (b := b) (rest := rest) hq]
    simp only [hdefer, airtime, Nat.zero_add]
    rfl

end Sys2Proof.Machine

/-! The crew assessor (chapter 5): the seating as a rule over the better-ranked candidates, and what an entry's part says. -/

namespace Sys2Proof.Machine
open Sys2Proof

/-! ### The rank order (R98, R99) -/

/-- The order of the candidates, as a relation (R99). -/
def Candidate.NotBehind (x y : Candidate) : Prop :=
  x.estimate < y.estimate ∨ x.estimate = y.estimate
    ∧ (x.sequence < y.sequence ∨ x.sequence = y.sequence ∧ x.member.val ≤ y.member.val)

theorem Candidate.notBehind_of_before {x y : Candidate} (h : x.before y = true) : x.NotBehind y := by
  simp only [Candidate.before, Bool.or_eq_true, Bool.and_eq_true, decide_eq_true_eq, beq_iff_eq] at h
  unfold Candidate.NotBehind
  omega

theorem Candidate.notBehind_of_not_before {x y : Candidate} (h : ¬ x.before y = true) : y.NotBehind x := by
  simp only [Candidate.before, Bool.or_eq_true, Bool.and_eq_true, decide_eq_true_eq, beq_iff_eq] at h
  unfold Candidate.NotBehind
  omega

theorem Candidate.NotBehind.trans {x y z : Candidate} (h : x.NotBehind y) (h' : y.NotBehind z) : x.NotBehind z := by
  unfold Candidate.NotBehind at *
  omega

theorem Candidate.insert_perm (x : Candidate) (l : List Candidate) : (x.insert l).Perm (x :: l) := by
  induction l with
  | nil => exact .refl _
  | cons y rest ih =>
    rw [Candidate.insert]
    split
    · exact .refl _
    · exact (ih.cons y).trans (.swap x y rest)

theorem Candidate.insert_pairwise (x : Candidate) {l : List Candidate} (h : l.Pairwise Candidate.NotBehind) :
    (x.insert l).Pairwise Candidate.NotBehind := by
  induction l with
  | nil => exact List.pairwise_singleton _ _
  | cons y rest ih =>
    obtain ⟨hy, hrest⟩ := List.pairwise_cons.mp h
    rw [Candidate.insert]
    split
    next hb =>
      have hxy := Candidate.notBehind_of_before hb
      refine List.pairwise_cons.mpr ⟨fun z hz => ?_, h⟩
      rcases List.mem_cons.mp hz with rfl | hz
      · exact hxy
      · exact hxy.trans (hy z hz)
    next hb =>
      refine List.pairwise_cons.mpr ⟨fun z hz => ?_, ih hrest⟩
      rcases List.mem_cons.mp ((x.insert_perm rest).mem_iff.mp hz) with rfl | hz
      · exact Candidate.notBehind_of_not_before hb
      · exact hy z hz

theorem rankOrder_pairwise (l : List Candidate) : (rankOrder l).Pairwise Candidate.NotBehind := by
  induction l with
  | nil => exact .nil
  | cons x rest ih => exact x.insert_pairwise ih

/-- Inserting the image of a record is the image of an order of the records. -/
theorem exists_perm_insert {α : Type} (f : α → Candidate) (x : α) (l : List α) :
    ∃ l' : List α, l'.Perm (x :: l) ∧ l'.map f = (f x).insert (l.map f) := by
  induction l with
  | nil => exact ⟨[x], .refl _, rfl⟩
  | cons y rest ih =>
    rw [List.map_cons, Candidate.insert]
    split
    · exact ⟨x :: y :: rest, .refl _, rfl⟩
    · obtain ⟨l', hp, hm⟩ := ih
      exact ⟨y :: l', (hp.cons y).trans (.swap x y rest), by rw [List.map_cons, hm]⟩

theorem exists_perm_rankOrder {α : Type} (f : α → Candidate) (l : List α) :
    ∃ l' : List α, l'.Perm l ∧ l'.map f = rankOrder (l.map f) := by
  induction l with
  | nil => exact ⟨[], .refl _, rfl⟩
  | cons x rest ih =>
    obtain ⟨l', hp, hm⟩ := ih
    obtain ⟨l'', hp', hm'⟩ := exists_perm_insert f x l'
    exact ⟨l'', hp'.trans (hp.cons x), by rw [hm', hm]; rfl⟩

/-! ### Required slots (R100) -/

theorem RoleCounts.count_takeOne (n : RoleCounts) (r s : Role) :
    (n.takeOne r).count s = n.count s - if r = s then 1 else 0 := by
  cases r <;> cases s <;> rfl

/-- The slots a candidate with these qualifications can take, in the order of R100. -/
def openSlots (q : Qualifications) (es : List OpenEntry) : List (Appliance × Role) :=
  (es.filter fun e => !e.departed).flatMap fun e =>
    (roles.filter fun r => q.holds r && decide (0 < e.need.count r)).map fun r => (e.letter, r)

/-- An entry once a candidate has been given this slot, or none. -/
def OpenEntry.slotGiven (f : Option (Appliance × Role)) (e : OpenEntry) : OpenEntry :=
  match f with
  | some (l, r) => if l = e.letter then { e with need := e.need.takeOne r } else e
  | none => e

theorem OpenEntry.slotGiven_letter (f : Option (Appliance × Role)) (e : OpenEntry) :
    (e.slotGiven f).letter = e.letter ∧ (e.slotGiven f).departed = e.departed ∧ (e.slotGiven f).free = e.free := by
  unfold OpenEntry.slotGiven
  split
  · split <;> exact ⟨rfl, rfl, rfl⟩
  · exact ⟨rfl, rfl, rfl⟩

theorem OpenEntry.slotGiven_count (f : Option (Appliance × Role)) (e : OpenEntry) (r : Role) :
    (e.slotGiven f).need.count r = e.need.count r - if f = some (e.letter, r) then 1 else 0 := by
  unfold OpenEntry.slotGiven
  cases f with
  | none => simp
  | some x =>
    obtain ⟨l, s⟩ := x
    by_cases h : l = e.letter
    · simp [h, RoleCounts.count_takeOne]
    · simp [h]

theorem slotGiven_letters (f : Option (Appliance × Role)) (es : List OpenEntry) :
    (es.map (OpenEntry.slotGiven f)).map OpenEntry.letter = es.map OpenEntry.letter := by
  simp [OpenEntry.slotGiven_letter]

theorem openSlots_letter {q : Qualifications} {es : List OpenEntry} {x : Appliance × Role} (h : x ∈ openSlots q es) :
    x.1 ∈ es.map OpenEntry.letter := by
  obtain ⟨e, he, hx⟩ := List.mem_flatMap.mp h
  obtain ⟨r, -, rfl⟩ := List.mem_map.mp hx
  exact List.mem_map_of_mem (List.mem_of_mem_filter he)

theorem openSlots_cons (q : Qualifications) (e : OpenEntry) (es : List OpenEntry) :
    (openSlots q (e :: es)).head? = ((e.slotFor q).map fun r => (e.letter, r)).or (openSlots q es).head? := by
  unfold openSlots OpenEntry.slotFor
  cases hd : e.departed with
  | true => simp [hd]
  | false => simp [hd, List.head?_append, List.head?_map, List.head?_filter]

theorem takeSlot_eq (q : Qualifications) {es : List OpenEntry} (hn : (es.map OpenEntry.letter).Nodup) :
    takeSlot q es = ((openSlots q es).head?, es.map (OpenEntry.slotGiven (openSlots q es).head?)) := by
  induction es with
  | nil => rfl
  | cons e rest ih =>
    obtain ⟨he, hrest⟩ := List.nodup_cons.mp hn
    have apart {l : Appliance} {r : Role} {d : OpenEntry} (hl : l = e.letter) (hd : d ∈ rest) :
        d.slotGiven (some (l, r)) = d :=
      if_neg fun h => he ((hl.symm.trans h) ▸ List.mem_map_of_mem hd)
    rw [takeSlot, openSlots_cons]
    cases hs : e.slotFor q with
    | some r =>
      have same : rest.map (OpenEntry.slotGiven (some (e.letter, r))) = rest :=
        (List.map_congr_left fun d hd => apart rfl hd).trans (List.map_id' rest)
      rw [Option.map_some, Option.some_or, List.map_cons, same]
      simp [OpenEntry.slotGiven]
    | none =>
      rw [ih hrest]
      have same : e.slotGiven (openSlots q rest).head? = e := by
        cases hh : (openSlots q rest).head? with
        | none => rfl
        | some x =>
          have hx : x.1 ∈ rest.map OpenEntry.letter := openSlots_letter (List.mem_of_mem_head? (Option.mem_def.mpr hh))
          exact if_neg fun h : x.1 = e.letter => he (h ▸ hx)
      simp [same]

/-- An entry once the candidates have been given these slots, one after the other. -/
def OpenEntry.slotsGiven (fs : List (Option (Appliance × Role))) (e : OpenEntry) : OpenEntry :=
  fs.foldl (fun e f => e.slotGiven f) e

theorem OpenEntry.slotsGiven_letter (fs : List (Option (Appliance × Role))) (e : OpenEntry) :
    (e.slotsGiven fs).letter = e.letter ∧ (e.slotsGiven fs).departed = e.departed ∧ (e.slotsGiven fs).free = e.free := by
  induction fs generalizing e with
  | nil => exact ⟨rfl, rfl, rfl⟩
  | cons f rest ih =>
    obtain ⟨hl, hd, hf⟩ := ih (e.slotGiven f)
    obtain ⟨hl', hd', hf'⟩ := e.slotGiven_letter f
    exact ⟨hl.trans hl', hd.trans hd', hf.trans hf'⟩

theorem OpenEntry.slotsGiven_count (fs : List (Option (Appliance × Role))) (e : OpenEntry) (r : Role) :
    (e.slotsGiven fs).need.count r = e.need.count r - fs.count (some (e.letter, r)) := by
  induction fs generalizing e with
  | nil => rfl
  | cons f rest ih =>
    rw [show e.slotsGiven (f :: rest) = (e.slotGiven f).slotsGiven rest from rfl, ih, e.slotGiven_count,
      (e.slotGiven_letter f).1, List.count_cons]
    by_cases h : f = some (e.letter, r)
    · simp only [h, if_true, beq_self_eq_true]
      omega
    · simp [h]

theorem requiredStep_eq (quals : MemberId → Qualifications) (cs : List Candidate) {es : List OpenEntry}
    (hn : (es.map OpenEntry.letter).Nodup) :
    let out := (requiredStep quals cs es).1
    out.map Prod.fst = cs
    ∧ (requiredStep quals cs es).2 = es.map (OpenEntry.slotsGiven (out.map Prod.snd))
    ∧ ∀ k x f, out[k]? = some (x, f) →
        f = (openSlots (quals x.member) (es.map (OpenEntry.slotsGiven ((out.map Prod.snd).take k)))).head? := by
  induction cs generalizing es with
  | nil => exact ⟨rfl, (List.map_id' es).symm, fun k x f h => by simp [requiredStep] at h⟩
  | cons x rest ih =>
    obtain ⟨hfst, hleft, hat⟩ := ih (es := es.map (OpenEntry.slotGiven (openSlots (quals x.member) es).head?))
      (by rw [slotGiven_letters]; exact hn)
    simp only [requiredStep, takeSlot_eq (quals x.member) hn]
    refine ⟨by rw [List.map_cons, hfst], by rw [hleft, List.map_map]; rfl, fun k y f h => ?_⟩
    cases k with
    | zero =>
      obtain ⟨rfl, rfl⟩ := Prod.mk.inj (Option.some.inj h)
      exact congrArg (fun l => (openSlots (quals x.member) l).head?) (List.map_id' es).symm
    | succ k =>
      rw [hat k y f h, List.map_map]
      rfl

/-! ### Spare seats (R101) -/

/-- The entries a waiting candidate can take a spare seat of, in list order. -/
def openSpares (es : List OpenEntry) : List Appliance :=
  (es.filter fun e => !e.departed && decide (0 < e.free)).map OpenEntry.letter

/-- An entry once a candidate has been given a spare seat of this one, or none. -/
def OpenEntry.spareGiven (f : Option Appliance) (e : OpenEntry) : OpenEntry :=
  if f = some e.letter then { e with free := e.free - 1 } else e

theorem OpenEntry.spareGiven_letter (f : Option Appliance) (e : OpenEntry) :
    (e.spareGiven f).letter = e.letter ∧ (e.spareGiven f).departed = e.departed := by
  unfold OpenEntry.spareGiven
  split <;> exact ⟨rfl, rfl⟩

theorem spareGiven_letters (f : Option Appliance) (es : List OpenEntry) :
    (es.map (OpenEntry.spareGiven f)).map OpenEntry.letter = es.map OpenEntry.letter := by
  rw [List.map_map]
  exact List.map_congr_left fun e _ => (e.spareGiven_letter f).1

theorem takeSpare_eq {es : List OpenEntry} (hn : (es.map OpenEntry.letter).Nodup) :
    takeSpare es = ((openSpares es).head?, es.map (OpenEntry.spareGiven (openSpares es).head?)) := by
  induction es with
  | nil => rfl
  | cons e rest ih =>
    obtain ⟨he, hrest⟩ := List.nodup_cons.mp hn
    rw [takeSpare]
    by_cases ho : (!e.departed && decide (0 < e.free)) = true
    · have hs : openSpares (e :: rest) = e.letter :: openSpares rest := by simp [openSpares, ho]
      have same : rest.map (OpenEntry.spareGiven (some e.letter)) = rest :=
        (List.map_congr_left fun d hd => if_neg fun h : some e.letter = some _ =>
          he (Option.some.inj h ▸ List.mem_map_of_mem hd)).trans (List.map_id' rest)
      rw [if_pos ho, hs, List.head?_cons, List.map_cons, same]
      simp [OpenEntry.spareGiven]
    · have hs : openSpares (e :: rest) = openSpares rest := by simp [openSpares, ho]
      have same : e.spareGiven (openSpares rest).head? = e := if_neg fun h => by
        obtain ⟨d, hd, hl⟩ := List.mem_map.mp (List.mem_of_mem_head? (Option.mem_def.mpr h))
        exact he (hl ▸ List.mem_map_of_mem (List.mem_of_mem_filter hd))
      rw [if_neg ho, ih hrest, hs, List.map_cons, same]

/-- An entry once the candidates have been given these spare seats, one after the other. -/
def OpenEntry.sparesGiven (fs : List (Option Appliance)) (e : OpenEntry) : OpenEntry :=
  fs.foldl (fun e f => e.spareGiven f) e

theorem OpenEntry.sparesGiven_letter (fs : List (Option Appliance)) (e : OpenEntry) :
    (e.sparesGiven fs).letter = e.letter ∧ (e.sparesGiven fs).departed = e.departed := by
  induction fs generalizing e with
  | nil => exact ⟨rfl, rfl⟩
  | cons f rest ih =>
    obtain ⟨hl, hd⟩ := ih (e.spareGiven f)
    obtain ⟨hl', hd'⟩ := e.spareGiven_letter f
    exact ⟨hl.trans hl', hd.trans hd'⟩

theorem OpenEntry.sparesGiven_free (fs : List (Option Appliance)) (e : OpenEntry) :
    (e.sparesGiven fs).free = e.free - fs.count (some e.letter) := by
  induction fs generalizing e with
  | nil => rfl
  | cons f rest ih =>
    rw [show e.sparesGiven (f :: rest) = (e.spareGiven f).sparesGiven rest from rfl, ih, (e.spareGiven_letter f).1,
      List.count_cons, OpenEntry.spareGiven]
    by_cases h : f = some e.letter
    · simp only [h, if_true, beq_self_eq_true]
      omega
    · simp [h]

/-- The required slot of an assignment, if it is one. -/
def Assignment.slot? : Assignment → Option (Appliance × Role)
  | .seated l (.role r) => some (l, r)
  | .seated _ .spare => none
  | .surplus => none

/-- The appliance of an assignment to a spare seat. -/
def Assignment.spare? : Assignment → Option Appliance
  | .seated _ (.role _) => none
  | .seated l .spare => some l
  | .surplus => none

/-- The assignment of a candidate with this slot, and with this spare seat without one. -/
def assignmentOf : Option (Appliance × Role) → Option Appliance → Assignment
  | some (l, r), _ => .seated l (.role r)
  | none, some l => .seated l .spare
  | none, none => .surplus

theorem spareStep_eq (out : List (Candidate × Option (Appliance × Role))) {es : List OpenEntry}
    (hn : (es.map OpenEntry.letter).Nodup) :
    (spareStep out es).map Prod.fst = out.map Prod.fst
    ∧ (spareStep out es).map (fun x => x.2.slot?) = out.map Prod.snd
    ∧ ∀ k x asg, (spareStep out es)[k]? = some (x, asg) → ∃ f, out[k]? = some (x, f) ∧
        asg = assignmentOf f
          (openSpares (es.map (OpenEntry.sparesGiven (((spareStep out es).map fun x => x.2.spare?).take k)))).head? := by
  induction out generalizing es with
  | nil => exact ⟨rfl, rfl, fun k x asg h => by simp [spareStep] at h⟩
  | cons y rest ih =>
    obtain ⟨x, f⟩ := y
    cases f with
    | some lr =>
      obtain ⟨l, r⟩ := lr
      obtain ⟨hfst, hslot, hat⟩ := ih hn
      refine ⟨by rw [spareStep, List.map_cons, List.map_cons, hfst],
        by rw [spareStep, List.map_cons, List.map_cons, hslot]; rfl, fun k z asg h => ?_⟩
      cases k with
      | zero =>
        obtain ⟨rfl, rfl⟩ := Prod.mk.inj (Option.some.inj h)
        exact ⟨_, rfl, rfl⟩
      | succ k => exact hat k z asg h
    | none =>
      obtain ⟨hfst, hslot, hat⟩ := ih (es := es.map (OpenEntry.spareGiven (openSpares es).head?))
        (by rw [spareGiven_letters]; exact hn)
      have step : spareStep ((x, none) :: rest) es = (x, assignmentOf none (openSpares es).head?)
          :: spareStep rest (es.map (OpenEntry.spareGiven (openSpares es).head?)) := by
        rw [spareStep, takeSpare_eq hn]
        cases (openSpares es).head? <;> rfl
      have spare : (assignmentOf none (openSpares es).head?).spare? = (openSpares es).head? := by
        cases (openSpares es).head? <;> rfl
      have slot : (assignmentOf none (openSpares es).head?).slot? = none := by
        cases (openSpares es).head? <;> rfl
      rw [step]
      refine ⟨by rw [List.map_cons, List.map_cons, hfst], by rw [List.map_cons, List.map_cons, hslot, slot],
        fun k z asg h => ?_⟩
      cases k with
      | zero =>
        obtain ⟨rfl, rfl⟩ := Prod.mk.inj (Option.some.inj h)
        exact ⟨none, rfl, congrArg (fun l => assignmentOf none (openSpares l).head?) (List.map_id' es).symm⟩
      | succ k =>
        obtain ⟨f, hf, ha⟩ := hat k z asg h
        refine ⟨f, hf, ha.trans ?_⟩
        rw [List.map_map, List.map_cons, List.take_succ_cons, spare]
        rfl

/-! ### The seating as a rule over the better-ranked candidates -/

theorem ranked_eq (n : Nat) (l : List (Candidate × Assignment)) :
    ranked n l = (l.zipIdx n).map fun x =>
      { member := x.1.1.member, rank := x.2, estimate := x.1.1.estimate, assignment := x.1.2 } := by
  induction l generalizing n with
  | nil => rfl
  | cons x rest ih => rw [ranked, List.zipIdx_cons, List.map_cons, ih]

/-- How many of these candidates hold this kind of place. -/
def holders (cs : List CandidatePart) (l : Appliance) (seat : Seat) : Nat :=
  (cs.filter fun y => y.assignment = .seated l seat).length

theorem holders_slot (cs : List CandidatePart) (l : Appliance) (r : Role) :
    (cs.map fun y => y.assignment.slot?).count (some (l, r)) = holders cs l (.role r) := by
  rw [holders, ← List.countP_eq_length_filter, List.count, List.countP_map]
  refine List.countP_congr fun y _ => ?_
  rcases hy : y.assignment with ⟨_, _ | _⟩ | _ <;> simp [hy, Assignment.slot?]

theorem holders_spare (cs : List CandidatePart) (l : Appliance) :
    (cs.map fun y => y.assignment.spare?).count (some l) = holders cs l .spare := by
  rw [holders, ← List.countP_eq_length_filter, List.count, List.countP_map]
  refine List.countP_congr fun y _ => ?_
  rcases hy : y.assignment with ⟨_, _ | _⟩ | _ <;> simp [hy, Assignment.spare?]

/-- The slots a candidate can take once the better-ranked ones `better` have theirs (R100). -/
def Callout.slotsLeft (c : Callout) (q : Qualifications) (better : List CandidatePart) : List (Appliance × Role) :=
  (c.appliances.filter fun e => e.departed = false).flatMap fun e =>
    (roles.filter fun r => q.holds r ∧ holders better e.letter (.role r) < e.need.count r).map fun r => (e.letter, r)

/-- The entries with a spare seat left once the better-ranked ones `better` have theirs (R101). -/
def Callout.sparesLeft (c : Callout) (seats : Appliance → Nat) (better : List CandidatePart) : List Appliance :=
  ((c.appliances.filter fun e => e.departed = false).filter fun e =>
    holders better e.letter .spare < seats e.letter - e.need.sum).map ApplianceEntry.letter

/-- The entries as the required step finds them. -/
def Callout.opened (seats : Appliance → Nat) (c : Callout) : List OpenEntry :=
  c.appliances.map fun e =>
    { letter := e.letter, departed := e.departed, need := e.need, free := seats e.letter - e.need.sum }

theorem Callout.opened_letters (seats : Appliance → Nat) (c : Callout) :
    (c.opened seats).map OpenEntry.letter = c.appliances.map ApplianceEntry.letter := by
  rw [Callout.opened, List.map_map]
  rfl

theorem openSlots_opened (seats : Appliance → Nat) (q : Qualifications) (c : Callout) (better : List CandidatePart) :
    openSlots q ((c.opened seats).map (OpenEntry.slotsGiven (better.map fun y => y.assignment.slot?)))
      = c.slotsLeft q better := by
  unfold openSlots Callout.slotsLeft Callout.opened
  rw [List.map_map, List.filter_map, List.flatMap_map]
  congr 1
  · funext e
    simp [OpenEntry.slotsGiven_letter, OpenEntry.slotsGiven_count, holders_slot]
  · refine List.filter_congr fun e _ => ?_
    simp [OpenEntry.slotsGiven_letter]

theorem openSpares_opened (seats : Appliance → Nat) (fs : List (Option (Appliance × Role))) (c : Callout)
    (better : List CandidatePart) :
    openSpares (((c.opened seats).map (OpenEntry.slotsGiven fs)).map
        (OpenEntry.sparesGiven (better.map fun y => y.assignment.spare?)))
      = c.sparesLeft seats better := by
  unfold openSpares Callout.sparesLeft Callout.opened
  rw [List.map_map, List.map_map, List.filter_map, List.map_map, List.filter_filter]
  refine congrArg₂ _ ?_ (List.filter_congr fun e _ => ?_)
  · funext e
    simp [OpenEntry.slotsGiven_letter, OpenEntry.sparesGiven_letter]
  · simp [OpenEntry.slotsGiven_letter, OpenEntry.sparesGiven_letter, OpenEntry.sparesGiven_free, holders_spare,
      Bool.and_comm]

section
variable (seats : Appliance → Nat) (quals : MemberId → Qualifications) (c : Callout)

/-- The candidates with their slots, and the entries after the required step. -/
def Callout.slotted : List (Candidate × Option (Appliance × Role)) × List OpenEntry :=
  requiredStep quals c.candidates (c.opened seats)

/-- The candidates with their assignments. -/
def Callout.seated : List (Candidate × Assignment) :=
  spareStep (c.slotted seats quals).1 (c.slotted seats quals).2

theorem assess_candidates : (assess seats quals c).candidates = ranked 1 (c.seated seats quals) :=
  rfl

theorem assess_entries : (assess seats quals c).entries = c.appliances.map fun e =>
    appliancePart c.turnout (seats e.letter) e
      (if e.departed then e.crew else crewOn e.letter (assess seats quals c).candidates) :=
  rfl

/-- The candidates' parts carry the assignments in rank order. -/
theorem candidates_assignments {β : Type} (f : Assignment → β) :
    (assess seats quals c).candidates.map (fun y => f y.assignment) = (c.seated seats quals).map fun x => f x.2 := by
  rw [assess_candidates, ranked_eq, List.map_map]
  exact (List.map_map (g := fun x : Candidate × Assignment => f x.2) (f := Prod.fst)).symm.trans
    (congrArg _ (List.zipIdx_map_fst ..))

variable {c} (hn : (c.appliances.map ApplianceEntry.letter).Nodup)
include hn

theorem Callout.slotted_spec :
    (c.slotted seats quals).1.map Prod.fst = c.candidates
    ∧ (c.slotted seats quals).2
        = (c.opened seats).map (OpenEntry.slotsGiven ((c.slotted seats quals).1.map Prod.snd))
    ∧ ∀ k x f, (c.slotted seats quals).1[k]? = some (x, f) →
        f = (openSlots (quals x.member) ((c.opened seats).map
          (OpenEntry.slotsGiven (((c.slotted seats quals).1.map Prod.snd).take k)))).head? :=
  requiredStep_eq quals c.candidates (c.opened_letters seats ▸ hn)

theorem Callout.slotted_nodup : ((c.slotted seats quals).2.map OpenEntry.letter).Nodup := by
  rw [(Callout.slotted_spec seats quals hn).2.1, List.map_map]
  have same : (c.opened seats).map (OpenEntry.letter ∘ OpenEntry.slotsGiven ((c.slotted seats quals).1.map Prod.snd))
      = (c.opened seats).map OpenEntry.letter :=
    List.map_congr_left fun e _ => (e.slotsGiven_letter _).1
  rw [same, c.opened_letters]
  exact hn

theorem Callout.seated_members : (c.seated seats quals).map Prod.fst = c.candidates :=
  (spareStep_eq _ (Callout.slotted_nodup seats quals hn)).1.trans (Callout.slotted_spec seats quals hn).1

/-- Each candidate's place by the slots and the spare seats better-ranked ones leave (R100, R101). -/
theorem Callout.seating {k : Nat} {x : CandidatePart} (hx : (assess seats quals c).candidates[k]? = some x) :
    x.assignment = assignmentOf (c.slotsLeft (quals x.member) ((assess seats quals c).candidates.take k)).head?
      (c.sparesLeft seats ((assess seats quals c).candidates.take k)).head? := by
  obtain ⟨-, hleft, hslots⟩ := Callout.slotted_spec seats quals hn
  obtain ⟨-, hslot, hspare⟩ := spareStep_eq (c.slotted seats quals).1 (Callout.slotted_nodup seats quals hn)
  obtain ⟨y, hy, rfl⟩ : ∃ y, (c.seated seats quals)[k]? = some y ∧
      x = { member := y.1.member, rank := 1 + k, estimate := y.1.estimate, assignment := y.2 } := by
    rw [assess_candidates, ranked_eq, List.getElem?_map, List.getElem?_zipIdx] at hx
    obtain ⟨z, hz, rfl⟩ := Option.map_eq_some_iff.mp hx
    obtain ⟨y, hy, rfl⟩ := Option.map_eq_some_iff.mp hz
    exact ⟨y, hy, rfl⟩
  obtain ⟨f, hf, ha⟩ := hspare k y.1 y.2 hy
  refine ha.trans (congrArg₂ _ ((hslots k y.1 f hf).trans ?_) ?_)
  · rw [← openSlots_opened seats, List.map_take, candidates_assignments, ← hslot]
    rfl
  · rw [← openSpares_opened seats ((c.slotted seats quals).1.map Prod.snd), List.map_take, candidates_assignments,
      ← hleft]
    rfl

end

/-! ### What the seating keeps to -/

/-- Elements each found below a bound among the ones before it stay within the bound. -/
theorem countP_le_of_take {α : Type} (P : α → Bool) (cap : Nat) (l : List α)
    (h : ∀ k x, l[k]? = some x → P x = true → (l.take k).countP P < cap) : l.countP P ≤ cap := by
  induction l using List.reverseRecOn with
  | nil => exact Nat.zero_le _
  | append_singleton l x ih =>
    have below := ih fun k y hk hy => by
      have hlt := (List.getElem?_eq_some_iff.mp hk).1
      have := h k y (by rw [List.getElem?_append_left hlt]; exact hk) hy
      rwa [List.take_append_of_le_length hlt.le] at this
    rw [List.countP_append, List.countP_singleton]
    split
    next hx =>
      have := h l.length x (by simp) hx
      rw [List.take_left] at this
      omega
    · exact below

theorem holders_take_le (cs : List CandidatePart) (k : Nat) (l : Appliance) (seat : Seat) :
    holders (cs.take k) l seat ≤ holders cs l seat :=
  ((List.take_sublist k cs).filter _).length_le

theorem assignmentOf_eq_role {f : Option (Appliance × Role)} {g : Option Appliance} {l : Appliance} {r : Role}
    (h : assignmentOf f g = .seated l (.role r)) : f = some (l, r) := by
  rcases f with _ | ⟨l', r'⟩
  · cases g <;> simp [assignmentOf] at h
  · simp only [assignmentOf, Assignment.seated.injEq, Seat.role.injEq] at h
    rw [h.1, h.2]

theorem assignmentOf_eq_spare {f : Option (Appliance × Role)} {g : Option Appliance} {l : Appliance}
    (h : assignmentOf f g = .seated l .spare) : g = some l := by
  rcases f with _ | ⟨l', r'⟩
  · cases g with
    | none => simp [assignmentOf] at h
    | some l' =>
      simp only [assignmentOf, Assignment.seated.injEq, and_true] at h
      rw [h]
  · simp [assignmentOf] at h

theorem assignmentOf_eq_surplus {f : Option (Appliance × Role)} {g : Option Appliance}
    (h : assignmentOf f g = .surplus) : f = none ∧ g = none := by
  rcases f with _ | ⟨l', r'⟩
  · cases g <;> simp [assignmentOf] at h ⊢
  · simp [assignmentOf] at h

theorem mem_roles (r : Role) : r ∈ roles := by
  cases r <;> simp [roles]

section
variable {c : Callout} {q : Qualifications} {seats : Appliance → Nat} {better : List CandidatePart}

theorem Callout.mem_slotsLeft {l : Appliance} {r : Role} :
    (l, r) ∈ c.slotsLeft q better ↔ ∃ e ∈ c.appliances, e.departed = false ∧ e.letter = l
      ∧ q.holds r = true ∧ holders better l (.role r) < e.need.count r := by
  unfold Callout.slotsLeft
  constructor
  · intro h
    obtain ⟨e, he, hr⟩ := List.mem_flatMap.mp h
    obtain ⟨s, hs, heq⟩ := List.mem_map.mp hr
    obtain ⟨rfl, rfl⟩ := Prod.mk.inj heq
    obtain ⟨hm, hd⟩ := List.mem_filter.mp he
    obtain ⟨hq, hh⟩ := of_decide_eq_true (List.mem_filter.mp hs).2
    exact ⟨e, hm, of_decide_eq_true hd, rfl, hq, hh⟩
  · rintro ⟨e, he, hd, rfl, hq, hh⟩
    exact List.mem_flatMap.mpr ⟨e, List.mem_filter.mpr ⟨he, decide_eq_true hd⟩,
      List.mem_map.mpr ⟨r, List.mem_filter.mpr ⟨mem_roles r, decide_eq_true ⟨hq, hh⟩⟩, rfl⟩⟩

theorem Callout.mem_sparesLeft {l : Appliance} :
    l ∈ c.sparesLeft seats better ↔ ∃ e ∈ c.appliances, e.departed = false ∧ e.letter = l
      ∧ holders better l .spare < seats l - e.need.sum := by
  unfold Callout.sparesLeft
  constructor
  · intro h
    obtain ⟨e, he, rfl⟩ := List.mem_map.mp h
    obtain ⟨he, hh⟩ := List.mem_filter.mp he
    obtain ⟨hm, hd⟩ := List.mem_filter.mp he
    exact ⟨e, hm, of_decide_eq_true hd, rfl, of_decide_eq_true hh⟩
  · rintro ⟨e, he, hd, rfl, hh⟩
    exact List.mem_map.mpr ⟨e, List.mem_filter.mpr ⟨List.mem_filter.mpr ⟨he, decide_eq_true hd⟩, decide_eq_true hh⟩, rfl⟩

end

/-- The entry of a letter, in a list that names each appliance once. -/
theorem entry_unique {es : List ApplianceEntry} (hn : (es.map ApplianceEntry.letter).Nodup) {e d : ApplianceEntry}
    (he : e ∈ es) (hd : d ∈ es) (h : d.letter = e.letter) : d = e :=
  List.inj_on_of_nodup_map hn hd he h

theorem mem_crewOn {cs : List CandidatePart} {l : Appliance} {y : CrewMember} :
    y ∈ crewOn l cs ↔ ∃ x ∈ cs, x.assignment = .seated l y.seat ∧ x.member = y.member ∧ x.estimate = y.estimate := by
  unfold crewOn
  rw [List.mem_filterMap]
  refine exists_congr fun x => and_congr_right fun _ => ?_
  rcases hx : x.assignment with ⟨l', st⟩ | _
  · by_cases hl : l = l'
    · subst hl
      rcases y with ⟨m, st', t⟩
      simp [and_comm, and_left_comm, and_assoc]
    · simp [Ne.symm hl]
  · simp

theorem seatedAs_crewOn (cs : List CandidatePart) (l : Appliance) (st : Seat) :
    (seatedAs st (crewOn l cs)).length = holders cs l st := by
  rw [seatedAs, crewOn, holders, ← List.countP_eq_length_filter, ← List.countP_eq_length_filter, List.countP_filterMap]
  refine List.countP_congr fun x _ => ?_
  rcases hx : x.assignment with ⟨l', st'⟩ | _
  · by_cases hl : l = l'
    · simp [hl]
    · simp [Ne.symm hl]
  · simp

section
variable {seats : Appliance → Nat} {quals : MemberId → Qualifications} {c : Callout}
  (hn : (c.appliances.map ApplianceEntry.letter).Nodup) {e : ApplianceEntry} (he : e ∈ c.appliances)
include hn he

/-- Roles and spare seats are given within the entry's own. -/
theorem holders_role_le (r : Role) :
    holders (assess seats quals c).candidates e.letter (.role r) ≤ e.need.count r := by
  rw [holders, ← List.countP_eq_length_filter]
  refine countP_le_of_take _ _ _ fun k x hk hx => ?_
  have hs := List.mem_of_mem_head? (Option.mem_def.mpr
    (assignmentOf_eq_role ((Callout.seating seats quals hn hk).symm.trans (of_decide_eq_true hx))))
  obtain ⟨d, hd, -, hl, -, hlt⟩ := Callout.mem_slotsLeft.mp hs
  rw [entry_unique hn he hd hl, holders, ← List.countP_eq_length_filter] at hlt
  exact hlt

theorem holders_spare_le :
    holders (assess seats quals c).candidates e.letter .spare ≤ seats e.letter - e.need.sum := by
  rw [holders, ← List.countP_eq_length_filter]
  refine countP_le_of_take _ _ _ fun k x hk hx => ?_
  have hs := List.mem_of_mem_head? (Option.mem_def.mpr
    (assignmentOf_eq_spare ((Callout.seating seats quals hn hk).symm.trans (of_decide_eq_true hx))))
  obtain ⟨d, hd, -, hl, hlt⟩ := Callout.mem_sparesLeft.mp hs
  rw [entry_unique hn he hd hl, holders, ← List.countP_eq_length_filter] at hlt
  exact hlt

/-- A SURPLUS candidate finds every slot of its roles and every spare seat taken. -/
theorem holders_of_surplus (hd : e.departed = false) {x : CandidatePart} (hx : x ∈ (assess seats quals c).candidates)
    (hs : x.assignment = .surplus) :
    holders (assess seats quals c).candidates e.letter .spare = seats e.letter - e.need.sum
    ∧ ∀ r, (quals x.member).holds r = true →
        holders (assess seats quals c).candidates e.letter (.role r) = e.need.count r := by
  obtain ⟨k, hk⟩ := List.mem_iff_getElem?.mp hx
  obtain ⟨hslots, hspares⟩ := assignmentOf_eq_surplus ((Callout.seating seats quals hn hk).symm.trans hs)
  rw [List.head?_eq_none_iff] at hslots hspares
  refine ⟨Nat.le_antisymm (holders_spare_le hn he) ?_, fun r hq => Nat.le_antisymm (holders_role_le hn he r) ?_⟩
  · refine le_trans (Nat.le_of_not_lt fun hlt => ?_) (holders_take_le _ k e.letter .spare)
    exact List.not_mem_nil (hspares ▸ Callout.mem_sparesLeft.mpr ⟨e, he, hd, rfl, hlt⟩)
  · refine le_trans (Nat.le_of_not_lt fun hlt => ?_) (holders_take_le _ k e.letter (.role r))
    exact List.not_mem_nil (hslots ▸ Callout.mem_slotsLeft.mpr ⟨e, he, hd, rfl, hq, hlt⟩)

end

theorem qualified_of_crewOn {seats : Appliance → Nat} {quals : MemberId → Qualifications} {c : Callout}
    (hn : (c.appliances.map ApplianceEntry.letter).Nodup) {l : Appliance} {y : CrewMember} {r : Role}
    (hy : y ∈ crewOn l (assess seats quals c).candidates) (hr : y.seat = .role r) :
    (quals y.member).holds r = true := by
  obtain ⟨x, hx, ha, hm, -⟩ := mem_crewOn.mp hy
  obtain ⟨k, hk⟩ := List.mem_iff_getElem?.mp hx
  rw [hr] at ha
  obtain ⟨-, -, -, -, hq, -⟩ := Callout.mem_slotsLeft.mp (List.mem_of_mem_head? (Option.mem_def.mpr
    (assignmentOf_eq_role ((Callout.seating seats quals hn hk).symm.trans ha))))
  exact hm ▸ hq

/-! ### An entry's part, and the outcome (R102 to R104) -/

theorem shortfallOf_count (need : RoleCounts) (crew : List CrewMember) (r : Role) :
    (shortfallOf need crew).count r = need.count r - (seatedAs (.role r) crew).length := by
  cases r <;> rfl

theorem RoleCounts.sum_eq_zero (n : RoleCounts) : n.sum = 0 ↔ ∀ r, n.count r = 0 := by
  constructor
  · intro h r
    unfold RoleCounts.sum at h
    cases r <;> simp only [RoleCounts.count] <;> omega
  · intro h
    have := h .oic; have := h .drv; have := h .ba; have := h .gen
    simp only [RoleCounts.count] at *
    unfold RoleCounts.sum
    omega

/-- The crewed time is the largest estimate in the required slots. -/
theorem crewedTime_spec (crew : List CrewMember) :
    (∀ y ∈ crew, y.seat ≠ .spare → y.estimate ≤ crewedTime crew)
    ∧ (crewedTime crew = 0 ∨ ∃ y ∈ crew, y.seat ≠ .spare ∧ y.estimate = crewedTime crew) := by
  induction crew using List.reverseRecOn with
  | nil => exact ⟨fun y hy => absurd hy List.not_mem_nil, .inl rfl⟩
  | append_singleton l x ih =>
    obtain ⟨hle, hat⟩ := ih
    have step : crewedTime (l ++ [x]) = if x.seat = .spare then crewedTime l else max (crewedTime l) x.estimate := by
      rw [crewedTime, List.foldl_append]
      rfl
    constructor
    · intro y hy hs
      rcases List.mem_append.mp hy with hy | hy
      · have := hle y hy hs
        rw [step]
        split <;> omega
      · rw [List.mem_singleton.mp hy] at hs ⊢
        rw [step, if_neg hs]
        exact Nat.le_max_right _ _
    · have keep : (crewedTime l = 0 ∨ ∃ y ∈ l ++ [x], y.seat ≠ .spare ∧ y.estimate = crewedTime l) :=
        hat.imp id fun ⟨y, hy, h⟩ => ⟨y, List.mem_append_left _ hy, h⟩
      rw [step]
      split
      next => exact keep
      next hs =>
        rcases Nat.le_total x.estimate (crewedTime l) with h | h
        · rw [Nat.max_eq_left h]
          exact keep
        · rw [Nat.max_eq_right h]
          exact .inr ⟨x, by simp, hs, rfl⟩

theorem appliancePart_spec (turnout seats : Nat) (e : ApplianceEntry) (crew : List CrewMember) :
    let x := appliancePart turnout seats e crew
    (∀ r : Role, x.shortfall.count r = e.need.count r - (seatedAs (.role r) crew).length)
    ∧ (x.filled = true ↔ x.shortfall.sum = 0)
    ∧ (x.filled = false → x.crewedAt = none)
    ∧ (x.filled = true → x.crewedAt = some (crewedTime crew))
    ∧ (x.inTime = true ↔ ∃ n, x.crewedAt = some n ∧ n ≤ turnout) := by
  refine ⟨shortfallOf_count _ _, beq_iff_eq, fun h => if_neg (ne_true_of_eq_false h), fun h => if_pos h, ?_⟩
  simp only [appliancePart, Bool.and_eq_true, decide_eq_true_eq]
  constructor
  · rintro ⟨hf, ht⟩
    exact ⟨_, if_pos hf, ht⟩
  · rintro ⟨n, hn, ht⟩
    by_cases hf : ((shortfallOf e.need crew).sum == 0) = true
    · rw [if_pos hf] at hn
      exact ⟨hf, Option.some.inj hn ▸ ht⟩
    · rw [if_neg hf] at hn
      exact absurd hn (by simp)

theorem outcomeOf_eq_crewed (l : List AppliancePart) : outcomeOf l = .crewed ↔ ∀ x ∈ l, x.inTime = true := by
  rw [← List.all_eq_true, outcomeOf]
  split
  next h => exact iff_of_true rfl h
  next h => exact iff_of_false (by split <;> simp) h

theorem outcomeOf_eq_short (l : List AppliancePart) :
    outcomeOf l = .short ↔ (∃ x ∈ l, x.inTime = false) ∧ ∀ x ∈ l, x.inTime = false := by
  rw [outcomeOf]
  split
  next h =>
    refine iff_of_false (by simp) fun ⟨⟨x, hx, hf⟩, _⟩ => ?_
    exact absurd (List.all_eq_true.mp h x hx) (by simp [hf])
  next h =>
    split
    next h' =>
      obtain ⟨x, hx, ht⟩ := List.any_eq_true.mp h'
      exact iff_of_false (by simp) fun ⟨_, hall⟩ => absurd ht (by simp [hall x hx])
    next h' =>
      refine iff_of_true rfl ⟨?_, fun x hx => ?_⟩
      · simpa using h
      · exact eq_false_of_ne_true fun ht => h' (List.any_eq_true.mpr ⟨x, hx, ht⟩)

/-! ### The obligation -/

/-- The record of a candidate, as the rank order sees it. -/
def Response.asCandidate (r : Response) : Candidate where
  member := r.member
  estimate := r.estimate.getD 0
  sequence := r.sequence.getD 0

theorem candidates_order (seats : Appliance → Nat) (quals : MemberId → Qualifications) {c : Callout}
    (hn : (c.appliances.map ApplianceEntry.letter).Nodup) :
    ∃ order : List Response,
      order.Perm (c.responses.filter fun r => (r.kind = .attending ∨ r.kind = .arrived)
        ∧ ∀ e ∈ c.appliances, e.departed = true → ∀ x ∈ e.crew, x.member ≠ r.member)
      ∧ order.Pairwise (fun x y => x.asCandidate.NotBehind y.asCandidate)
      ∧ (assess seats quals c).candidates.map (fun x => (x.rank, x.member, x.estimate))
          = (order.zipIdx 1).map fun x => (x.2, x.1.member, x.1.estimate.getD 0) := by
  have present : (c.responses.filter fun r => r.active && !c.onFrozenCrew r.member)
      = c.responses.filter fun r => (r.kind = .attending ∨ r.kind = .arrived)
        ∧ ∀ e ∈ c.appliances, e.departed = true → ∀ x ∈ e.crew, x.member ≠ r.member := by
    refine List.filter_congr fun r _ => ?_
    rw [Bool.eq_iff_iff]
    have hk : r.active = true ↔ r.kind = .attending ∨ r.kind = .arrived := by
      rw [Response.active]
      cases r.kind <;> simp [ResponseKind.active]
    simp [hk, Callout.onFrozenCrew]
  obtain ⟨order, hperm, horder⟩ := exists_perm_rankOrder Response.asCandidate
    (c.responses.filter fun r => r.active && !c.onFrozenCrew r.member)
  refine ⟨order, present ▸ hperm, ?_, ?_⟩
  · rw [← List.pairwise_map, horder]
    exact rankOrder_pairwise _
  · have members : (c.seated seats quals).map Prod.fst = order.map Response.asCandidate :=
      (Callout.seated_members seats quals hn).trans horder.symm
    have ranks {α : Type} (f : α → Candidate) (l : List α) :
        (l.zipIdx 1).map (fun x => (x.2, (f x.1).member, (f x.1).estimate))
          = ((l.map f).zipIdx 1).map fun x => (x.2, x.1.member, x.1.estimate) := by
      rw [List.zipIdx_map, List.map_map]
      rfl
    rw [assess_candidates, ranked_eq, List.map_map]
    exact (ranks Prod.fst _).trans ((congrArg (fun l : List Candidate =>
      (l.zipIdx 1).map fun x => (x.2, x.1.member, x.1.estimate)) members).trans (ranks Response.asCandidate order).symm)

/-- Settles O60: the required and the spare step are each one rule over what better-ranked candidates leave, by induction on
the candidates. -/
theorem assessmentSound : Obligations.AssessmentSound := by
  intro seats quals c hn a present
  have entries : a.entries = c.appliances.map fun e => appliancePart c.turnout (seats e.letter) e
      (if e.departed then e.crew else crewOn e.letter a.candidates) := assess_entries seats quals c
  have part {x : AppliancePart} (hx : x ∈ a.entries) : ∃ e crew, x = appliancePart c.turnout (seats e.letter) e crew := by
    rw [entries] at hx
    obtain ⟨e, -, rfl⟩ := List.mem_map.mp hx
    exact ⟨e, _, rfl⟩
  refine ⟨candidates_order seats quals hn, fun k x hk => ?_, ?_, fun e he hd => ⟨fun r => ?_, ?_, fun x hx r hr => ?_,
    fun x hx hs => ?_⟩, fun k e x he hx => ?_, fun x hx => ?_, outcomeOf_eq_crewed _, outcomeOf_eq_short _⟩
  case refine_1 =>
    intro better holders qualifies slots spares
    have hslots : slots = c.slotsLeft (quals x.member) better := rfl
    have hspares : spares = c.sparesLeft seats better := rfl
    rw [hslots, hspares, Callout.seating seats quals hn hk]
    rcases c.slotsLeft (quals x.member) better with _ | ⟨⟨l, r⟩, rest⟩
    · cases c.sparesLeft seats better <;> rfl
    · rfl
  case refine_2 =>
    rw [entries, List.map_map]
    rfl
  case refine_3 => exact seatedAs_crewOn a.candidates e.letter (.role r) ▸ holders_role_le hn he r
  case refine_4 => exact seatedAs_crewOn a.candidates e.letter .spare ▸ holders_spare_le hn he
  case refine_5 => exact qualified_of_crewOn hn hx hr
  case refine_6 =>
    obtain ⟨hspare, hrole⟩ := holders_of_surplus (seats := seats) (quals := quals) hn he hd hx hs
    exact ⟨(seatedAs_crewOn a.candidates e.letter .spare).trans hspare,
      fun r hr => (seatedAs_crewOn a.candidates e.letter (.role r)).trans (hrole r hr)⟩
  case refine_7 =>
    rw [entries, List.getElem?_map, he] at hx
    obtain rfl := Option.some.inj hx
    obtain ⟨hshort, hfilled, hnone, hsome, htime⟩ := appliancePart_spec c.turnout (seats e.letter) e
      (if e.departed then e.crew else crewOn e.letter a.candidates)
    exact ⟨rfl, rfl, rfl, hshort, hfilled.trans (RoleCounts.sum_eq_zero _), hnone,
      fun hf => ⟨_, hsome hf, crewedTime_spec _⟩, htime⟩
  case refine_8 =>
    obtain ⟨e, crew, rfl⟩ := part hx
    obtain ⟨-, hfilled, -, -, htime⟩ := appliancePart_spec c.turnout (seats e.letter) e crew
    exact ⟨hfilled, htime⟩

end Sys2Proof.Machine

/-! Formats (section 10.8): the check and the pages on the air, frames that come back whole, and what a line sends. -/

namespace Sys2Proof.Machine
open Sys2Proof

/-! ### The check, and a burst bit by bit -/

theorem checkOf_append (data : List Bool) (b : Bool) : checkOf (data ++ [b]) =
    if (checkOf data).getMsbD 0 = b then checkOf data <<< 1 else (checkOf data <<< 1) ^^^ 0x1021#16 := by
  have hmsb : (checkOf data).getMsbD 0 = (checkOf data).msb := rfl
  rw [checkOf, List.foldl_append, hmsb]
  show checkBit (checkOf data) b = _
  rw [checkBit]
  cases (checkOf data).msb <;> cases b <;> rfl

theorem bitsOf_eq_getMsbD {w : Nat} (x : BitVec w) : bitsOf x = (List.range w).map fun k => x.getMsbD k := by
  refine List.map_congr_left fun k hk => ?_
  rw [BitVec.getMsbD_eq_getLsbD, decide_eq_true (List.mem_range.mp hk), Bool.true_and]

/-- The four characters a text block carries, the last ones filled out with spaces. -/
theorem take_four_filled (t : Text) :
    (t ++ List.replicate 4 0x20#8).take 4 = (List.range 4).map fun j => t.getD j 0x20#8 := by
  match t with
  | [] | [_] | [_, _] | [_, _, _] | _ :: _ :: _ :: _ :: _ => rfl

theorem textBlockBits_eq (n : Nat) (t : Text) : textBlockBits n t =
    (List.range n).flatMap fun k =>
      blockOf ((List.range 4).flatMap fun j => bitsOf (t.getD (4 * k + j) 0x20#8)) := by
  induction n generalizing t with
  | zero => rfl
  | succ n ih =>
    have later (k j : Nat) : (t.drop 4).getD (4 * k + j) 0x20#8 = t.getD (4 * (k + 1) + j) 0x20#8 := by
      rw [List.getD_eq_getElem?_getD, List.getD_eq_getElem?_getD, List.getElem?_drop]
      congr 2
      omega
    rw [textBlockBits, ih, take_four_filled, bitsOfBytes, List.flatMap_map, List.range_succ_eq_map (n := n),
      List.flatMap_cons, List.flatMap_map]
    simp only [later, Nat.mul_zero, Nat.zero_add, Nat.succ_eq_add_one]

/-! ### Frames come back whole -/

theorem seekSync_cons {a : Byte} (h : a ≠ 0xC3#8) (l : List Byte) : seekSync (a :: l) = seekSync l := by
  cases l with
  | nil => simp [seekSync, h]
  | cons b rest => simp [seekSync, h]

/-- A byte that begins no sync is passed over. -/
theorem hear_cons (kind : Byte) {a : Byte} (h : a ≠ 0xC3#8) (l : List Byte) : hear kind (a :: l) = hear kind l := by
  rw [← hearFor_eq (l.length + 2) kind l (by omega)]
  show hearFor (l.length + 2) kind (a :: l) = _
  rw [hearFor, hearFor, seekSync_cons h]

theorem hear_append (kind : Byte) {before : List Byte} (h : ∀ b ∈ before, b ≠ 0xC3#8) (l : List Byte) :
    hear kind (before ++ l) = hear kind l := by
  induction before with
  | nil => rfl
  | cons a rest ih =>
    rw [List.cons_append, hear_cons kind (h a List.mem_cons_self), ih fun b hb => h b (List.mem_cons_of_mem _ hb)]

theorem bytesOf_two (n : Nat) : bytesOf 2 n = [BitVec.ofNat 8 (n / 256 ^ 1), BitVec.ofNat 8 (n / 256 ^ 0)] :=
  rfl

theorem hear_linkFrame {kind : Byte} {payload : List Byte} (hl : payload.length ≤ 40)
    (hs : lengthSuits kind payload = true) (behind : List Byte) :
    hear kind (linkFrame kind payload ++ behind) = (some payload, behind) := by
  have hn : (BitVec.ofNat 8 payload.length).toNat = payload.length := by
    rw [BitVec.toNat_ofNat]
    omega
  rw [linkFrame, bytesOf_two, hear_frame kind kind _ _ _ payload behind (by omega) hn.symm, if_pos ⟨rfl, rfl, hs⟩]

theorem linkPayload_linkFrame {kind : Byte} {payload : List Byte} (hl : payload.length ≤ 40)
    (hs : lengthSuits kind payload = true) : linkPayload kind (linkFrame kind payload) = some payload := by
  have h := hear_linkFrame hl hs []
  rw [List.append_nil] at h
  rw [linkPayload, h]

theorem natOfBytes_bytesOf_two {n : Nat} (h : n < 2 ^ 16) : natOfBytes (bytesOf 2 n) = n := by
  simp only [bytesOf_two, natOfBytes, List.foldl_cons, List.foldl_nil, BitVec.toNat_ofNat]
  omega

theorem bytesOf_four (n : Nat) : bytesOf 4 n = [BitVec.ofNat 8 (n / 256 ^ 3), BitVec.ofNat 8 (n / 256 ^ 2),
    BitVec.ofNat 8 (n / 256 ^ 1), BitVec.ofNat 8 (n / 256 ^ 0)] :=
  rfl

theorem natOfBytes_bytesOf_four {n : Nat} (h : n < 2 ^ 32) : natOfBytes (bytesOf 4 n) = n := by
  simp only [bytesOf_four, natOfBytes, List.foldl_cons, List.foldl_nil, BitVec.toNat_ofNat]
  omega

theorem operandOfPayload_operandBytes {o : Operand} (h : o.wellFormed = true) :
    operandOfPayload (operandBytes o) = some o := by
  cases o with
  | number v =>
    simp only [operandBytes, operandOfPayload, if_true, natOfBytes_bytesOf_four v.isLt, BitVec.ofNat_toNat,
      BitVec.setWidth_eq]
    rfl
  | text t =>
    have ht : t.length ≤ 38 := of_decide_eq_true h
    have hn : t.length = (BitVec.ofNat 8 t.length).toNat := by
      rw [BitVec.toNat_ofNat]
      omega
    exact if_pos hn
  | set b =>
    simp only [operandBytes, operandOfPayload, natOfBytes_bytesOf_two b.isLt, BitVec.ofNat_toNat, BitVec.setWidth_eq]
    rfl
  | absent => rfl
  | unassigned k =>
    have hk : 3 < k.toNat := of_decide_eq_true h
    have apart {n : Nat} (hn : n ≤ 3) : k ≠ BitVec.ofNat 8 n := fun he => by
      rw [he, BitVec.toNat_ofNat] at hk
      omega
    simp only [operandBytes, operandOfPayload]
    rw [if_neg (apart (n := 0) (by omega)), if_neg (apart (n := 1) (by omega)), if_neg (apart (n := 2) (by omega)),
      if_neg (apart (n := 3) (by omega))]

theorem operandBytes_length {o : Operand} (h : o.wellFormed = true) : (operandBytes o).length ≤ 40 := by
  cases o with
  | text t =>
    have ht : t.length ≤ 38 := of_decide_eq_true h
    simp only [operandBytes, List.length_cons]
    omega
  | number _ | set _ | absent | unassigned _ => simp [operandBytes, bytesOf]

theorem operandOf_linkFrame {o : Operand} (h : o.wellFormed = true) :
    operandOf (linkFrame 3#8 (operandBytes o)) = some o := by
  have hs : lengthSuits 3#8 (operandBytes o) = true := by
    simp [lengthSuits, operandOfPayload_operandBytes h]
  rw [operandOf, linkPayload_linkFrame (operandBytes_length h) hs]
  exact operandOfPayload_operandBytes h

theorem returnFrame_ofBits (address : Address) (token : Token) (code : BitVec 3) (eta : BitVec 6) :
    let f := ReturnFrame.ofBits (returnFrameBits address token code eta)
    f.address = address ∧ f.token = token ∧ f.code = code ∧ f.eta = eta ∧ f.check = f.expected := by
  intro f
  have ha : f.address = address := by
    simp only [f, ReturnFrame.ofBits, returnFrameBits]
    rw [BitVec.extractLsb'_append_eq_of_le (by omega), BitVec.extractLsb'_append_eq_of_le (by omega),
      BitVec.extractLsb'_append_eq_of_le (by omega)]
    exact BitVec.extractLsb'_append_eq_left
  have ht : f.token = token := by
    simp only [f, ReturnFrame.ofBits, returnFrameBits]
    rw [BitVec.extractLsb'_append_eq_of_le (by omega), BitVec.extractLsb'_append_eq_of_le (by omega),
      BitVec.extractLsb'_append_eq_of_le (by omega)]
    exact BitVec.extractLsb'_append_eq_right
  have hc : f.code = code := by
    simp only [f, ReturnFrame.ofBits, returnFrameBits]
    rw [BitVec.extractLsb'_append_eq_of_le (by omega), BitVec.extractLsb'_append_eq_of_le (by omega)]
    exact BitVec.extractLsb'_append_eq_right
  have he : f.eta = eta := by
    simp only [f, ReturnFrame.ofBits, returnFrameBits]
    rw [BitVec.extractLsb'_append_eq_of_le (by omega)]
    exact BitVec.extractLsb'_append_eq_right
  have hx : f.check = checkOf (bitsOf address ++ bitsOf token ++ bitsOf code ++ bitsOf eta) :=
    BitVec.extractLsb'_append_eq_right
  refine ⟨ha, ht, hc, he, ?_⟩
  rw [hx, ReturnFrame.expected, ha, ht, hc, he]

/-! ### Frames that are passed over -/

theorem hear_part (kind k n : Byte) {part : List Byte} (hn : n.toNat ≤ 40) (hp : part.length < n.toNat + 2) :
    hear kind ([0xC3#8, 0x3C#8, k, n] ++ part) = (none, [0xC3#8, 0x3C#8, k, n] ++ part) := by
  show hearFor _ _ _ = _
  simp only [List.cons_append, List.nil_append, List.length_cons]
  rw [hearFor]
  simp only [seekSync, and_self, if_true, if_neg (show ¬ 40 < n.toNat by omega), if_pos hp]

/-! ### What a line sends -/

theorem resultFrames_eq (k : Nat) (vs : List Operand) :
    resultFrames k vs = (vs.zipIdx k).map fun x => resultFrame x.2 x.1 := by
  induction vs generalizing k with
  | nil => rfl
  | cons v rest ih => rw [resultFrames, ih, List.zipIdx_cons, List.map_cons]

theorem bytesOf_four_toNat (v : BitVec 32) : bytesOf 4 v.toNat =
    [v.extractLsb' 24 8, v.extractLsb' 16 8, v.extractLsb' 8 8, v.extractLsb' 0 8] := by
  rw [bytesOf_four]
  simp [← BitVec.toNat_inj, Nat.shiftRight_eq_div_pow]

theorem bytesOf_two_toNat (b : BitVec 16) : bytesOf 2 b.toNat = [b.extractLsb' 8 8, b.extractLsb' 0 8] := by
  rw [bytesOf_two]
  simp [← BitVec.toNat_inj, Nat.shiftRight_eq_div_pow]

theorem Part.driverEnable_iff (p : Part) (k : ControlLine) : p.driverEnable k = true ↔
    p.condition = .running ∧ ((p.ctl k.line).state = .replying ∨ (p.ctl k.line).tail ≠ none) := by
  simp [Part.driverEnable, Part.isRunning, Option.isSome_iff_ne_none]

/-- Settles O59. -/
theorem formats : Obligations.Formats := by
  unfold Obligations.Formats
  refine ⟨⟨rfl, checkOf_append, fun pages => ?_⟩, ⟨fun kind payload before behind hl hs hb => ?_, fun a b c d x => ?_,
    fun code count => ?_, fun o h => operandOf_linkFrame h, returnFrame_ofBits⟩,
    ⟨fun kind k n c1 c2 payload behind hp hn hbad => ?_, fun kind k n behind hn => hear_long kind k n behind hn,
      fun kind k n part hn hp => hear_part kind k n hn hp⟩, fun s l => ?_⟩
  · intro bits block kind texts address header text
    have hb {w : Nat} (x : BitVec w) : bitsOf x = bits w x := bitsOf_eq_getMsbD x
    have sync : syncWord = ((List.range 64).map fun k => k % 2 == 0) ++ bits 32 0x5A3CE1B4#32 :=
      congrArg₂ _ (by decide) (hb _)
    have hk (p : Page) : p.kind.code = kind p := by
      show _ = match p.kind with | .alert => 1#3 | .repage => 2#3 | .notRequired => 3#3 | .standDown => 4#3
      cases p.kind <;> rfl
    have page (p : Page) : p.blocks = address p ++ header p ++ (List.range (texts p)).flatMap (text p) := by
      rw [Page.blocks, Page.addressBlock, Page.headerBlock, textBlockBits_eq, hk]
      simp only [blockOf, hb]
      rfl
    rw [burstOf, sync, show Page.blocks = _ from funext page]
  · rw [List.append_assoc, hear_append kind hb, hear_linkFrame hl hs]
  · rw [openingOf, linkPayload_linkFrame (by simp) (by simp [lengthSuits])]
  · rw [orderOf, linkPayload_linkFrame (by simp) (by simp [lengthSuits])]
  · rw [hear_frame kind k n c1 c2 payload behind hn hp]
    refine if_neg ?_
    rintro ⟨rfl, hc, hs⟩
    rcases hbad with h | h | h
    · exact h rfl
    · exact absurd (hs.symm.trans h) (by simp)
    · exact h hc.symm
  · intro frame value reason frames
    have hv (o : Operand) : operandBytes o = value o := by
      cases o with
      | number v => exact congrArg (0#8 :: ·) (bytesOf_four_toNat v)
      | set b => exact congrArg (2#8 :: ·) (bytesOf_two_toNat b)
      | text _ | absent | unassigned _ => rfl
    have hreason (r : Option Reason) : (r.map Reason.code).getD 0#8 = reason r := by
      rcases r with _ | r
      · rfl
      · cases r <;> rfl
    have hframes (r : Reply) : r.frames = frames r := by
      have status : r.status
          = (if r.refused = none then 0#8 else 0x80#8) ||| (if r.notices then 0x40#8 else 0#8) := by
        rw [Reply.status]
        cases r.refused <;> rfl
      rw [Reply.frames, Reply.frame, status, hreason, resultFrames_eq]
      simp only [resultFrame, hv]
      rfl
    refine ⟨fun hr => ?_, fun hr => if_neg (by simpa [Part.isRunning] using hr), s.driverEnable_iff⟩
    have run : s.isRunning = true := by simpa [Part.isRunning] using hr
    rw [Part.transmit, if_pos run]
    cases (s.ctl l).tail <;> cases (s.ctl l).reply <;> simp [hframes]

end Sys2Proof.Machine

/-! The operands and checks of an ALERT, the plan resolved and the commitment attempt (R8, R10, R44 to R46). -/

namespace Sys2Proof.Machine
open Sys2Proof

/-! ### Operands -/

section
variable {ops : List Operand}

theorem needText_eq_none {j : Nat} : needText ops j = none ↔ ∀ t, operandAt ops j ≠ .text t := by
  unfold needText
  cases operandAt ops j <;> simp

theorem needText_eq_some {j : Nat} {t : Text} : needText ops j = some t ↔ operandAt ops j = .text t := by
  unfold needText
  cases operandAt ops j <;> simp

theorem alertArgs_eq_some {x : AlertArgs} : alertArgs ops = some x ↔
    ∃ (reference : Text) (text : Option Text) (once : Option Bool),
      needText ops 0 = some reference ∧ needIndex ops 1 64 0 = some x.cls ∧ needIndex ops 2 32 0 = some x.zone
      ∧ optIndex ops 3 48 1 = some x.override ∧ optText ops 4 = some text ∧ optFlag ops 5 = some once
      ∧ ¬ (∀ b ∈ cleanCut 12 reference, b = 0x20#8)
      ∧ x.reference = cleanCut 12 reference ∧ x.text = text.map (cleanCut 24) ∧ x.atOnce = once.getD false := by
  constructor
  · intro h
    unfold alertArgs at h
    split at h
    next reference cls zone override text once h0 h1 h2 h3 h4 h5 =>
      dsimp only at h
      split at h
      next => cases h
      next hs =>
        cases h
        exact ⟨reference, text, once, h0, h1, h2, h3, h4, h5, by simpa using hs, rfl, rfl, rfl⟩
    next => cases h
  · rintro ⟨reference, text, once, h0, h1, h2, h3, h4, h5, hs, hr, ht, ho⟩
    unfold alertArgs
    rw [h0, h1, h2, h3, h4, h5]
    refine (if_neg (by simpa using hs)).trans ?_
    rw [← hr, ← ht, ← ho]

theorem alertArgs_eq_none : alertArgs ops = none ↔
    needText ops 0 = none ∨ needIndex ops 1 64 0 = none ∨ needIndex ops 2 32 0 = none ∨ optIndex ops 3 48 1 = none
      ∨ optText ops 4 = none ∨ optFlag ops 5 = none
      ∨ ∃ reference, needText ops 0 = some reference ∧ ∀ b ∈ cleanCut 12 reference, b = 0x20#8 := by
  constructor
  · intro h
    by_contra hn
    simp only [not_or, ← ne_eq, Option.ne_none_iff_exists'] at hn
    obtain ⟨⟨reference, h0⟩, ⟨cls, h1⟩, ⟨zone, h2⟩, ⟨override, h3⟩, ⟨text, h4⟩, ⟨once, h5⟩, hs⟩ := hn
    refine absurd (alertArgs_eq_some (x := ⟨cleanCut 12 reference, cls, zone, override, text.map (cleanCut 24),
      once.getD false⟩).mpr ⟨reference, text, once, h0, h1, h2, h3, h4, h5, fun hall => ?_, rfl, rfl, rfl⟩) (by simp [h])
    exact hs ⟨reference, h0, hall⟩
  · intro h
    rw [Option.eq_none_iff_forall_ne_some]
    intro x hx
    obtain ⟨reference, text, once, h0, h1, h2, h3, h4, h5, hs, -, -, -⟩ := alertArgs_eq_some.mp hx
    rcases h with h | h | h | h | h | h | ⟨reference', h', hall⟩
    · simp [h0] at h
    · simp [h1] at h
    · simp [h2] at h
    · simp [h3] at h
    · simp [h4] at h
    · simp [h5] at h
    · rw [h0] at h'
      exact hs (Option.some.inj h' ▸ hall)

end

/-- A plan override given is the plan read. -/
theorem override_read {override : Option (BitVec 32)} {n : Option PlanId}
    (h : optionalNumber override = optNum (n.map fun i => i.val + 1)) :
    n.map (fun i => (i.val : Int) + 1) = override.map BitVec.toInt := by
  cases override with
  | none =>
    cases n with
    | none => rfl
    | some i => exact absurd h (by simp [optionalNumber, optNum, num])
  | some v =>
    cases n with
    | none => simp [optionalNumber, optNum] at h
    | some i =>
      have hi := i.isLt
      have hv : v.toInt = (i.val + 1 : Nat) := (number_eq_num_iff (by omega)).mp h
      simp [hv]

theorem cleanCut_eq (n : Nat) (t : Text) : cleanCut n t = (t.take n).map fun b =>
    if b = 0x20#8 ∨ (0x2D ≤ b.toNat ∧ b.toNat ≤ 0x39) ∨ (0x41 ≤ b.toNat ∧ b.toNat ≤ 0x5A) then b else 0x20#8 := by
  refine List.map_congr_left fun b _ => ?_
  have h : isTextByte b = true
      ↔ b = 0x20#8 ∨ (0x2D ≤ b.toNat ∧ b.toNat ≤ 0x39) ∨ (0x41 ≤ b.toNat ∧ b.toNat ≤ 0x5A) := by
    simp [isTextByte, ← BitVec.toNat_inj, or_assoc]
  rw [cleanByte]
  exact if_congr h rfl rfl

/-! ### The resolver -/

/-- The candidate plan (R44): the override, or the class's entry, and for a class by zone the zone's entry or the map's
default (R38). -/
def Part.chosenPlan (p : Part) (override : Option PlanId) (cls : ClassId) (zone : ZoneId) : Option PlanId :=
  match override, p.resolver.classes.get cls with
  | some n, _ => some n
  | none, .unused => none
  | none, .direct n => some n
  | none, .byZone m => match (p.resolver.maps.get m).zones.get zone with
    | some n => some n
    | none => (p.resolver.maps.get m).default

theorem Part.resolvePlan_eq (p : Part) (override : Option PlanId) (cls : ClassId) (zone : ZoneId) :
    p.resolvePlan override cls zone =
      (p.chosenPlan override cls zone).bind fun n => (p.plan? n).map fun pl => (n, pl) := by
  unfold Part.resolvePlan Part.chosenPlan
  cases override with
  | some n => rfl
  | none =>
    cases p.resolver.classes.get cls with
    | unused => rfl
    | direct n => rfl
    | byZone m =>
      simp only [ZoneMap.effective]
      cases (p.resolver.maps.get m).zones.get zone with
      | some n => rfl
      | none => cases (p.resolver.maps.get m).default <;> rfl

/-! ### The commitment attempt -/

theorem Part.attempt_append (p : Part) (held : Appliance → Bool) (pl : Plan) {earlier : List PlanEntry} {e : PlanEntry}
    (h : pl.entries = earlier ++ [e]) :
    p.attempt held pl = p.settleEntry held (p.attempt held { pl with entries := earlier }) e := by
  unfold Part.attempt
  rw [h, List.foldl_append]
  rfl

theorem usable_and_not_has (p : Part) (t : Attempt) (need : RoleCounts) (ap : Appliance) :
    (p.usable need ap && !t.has ap) = true ↔ (p.appliance ap).inService = true ∧ (p.appliance ap).committed = none
      ∧ (∀ x ∈ t.committed, x.1 ≠ ap) ∧ need.oic + need.drv + need.ba + need.gen ≤ (p.appliance ap).seats := by
  simp only [Part.usable, Attempt.has, Bool.and_eq_true, beq_iff_eq, Bool.not_eq_true', List.any_eq_false,
    decide_eq_true_eq, and_assoc]
  exact and_congr_right fun _ => and_congr_right fun _ => and_comm

/-! ### The checks, in their order -/

section
variable {l : Line} {ops : List Operand} {p : Part}

theorem alertOrder_badOperand (h : 6 < ops.length ∨ alertArgs ops = none) :
    alertOrder l ops.length ops p = badOperand := by
  unfold alertOrder
  by_cases hlen : 6 < ops.length
  · exact checked_anyLine_of_lt hlen
  · rw [checked_anyLine_of_le (by omega) (by omega), h.resolve_left hlen]

theorem alertOrder_of_args (hlen : ops.length ≤ 6) {x : AlertArgs} (hx : alertArgs ops = some x) :
    alertOrder l ops.length ops p =
      match (p.findLive fun c => c.reference == x.reference).bind fun i => (p.callout? i).map fun c => (i, c) with
      | some (i, c) => p.duplicateAlert x i c
      | none => p.freshAlert l x := by
  unfold alertOrder
  rw [checked_anyLine_of_le (by omega) hlen, hx] <;> rfl

end

/-- The live callout an ALERT repeats, if there is one (R10). -/
def Part.repeated (p : Part) (x : AlertArgs) : Option Callout :=
  (p.findLive fun c => c.reference == x.reference).bind p.callout?

theorem alertOrder_of_repeated {l : Line} {ops : List Operand} {p : Part} (hlen : ops.length ≤ 6) {x : AlertArgs}
    (hx : alertArgs ops = some x) {c : Callout} (h : p.repeated x = some c) :
    ∃ i, (p.findLive fun c => c.reference == x.reference) = some i ∧ p.callout? i = some c
      ∧ alertOrder l ops.length ops p = p.duplicateAlert x i c := by
  obtain ⟨i, hi, hc⟩ := Option.bind_eq_some_iff.mp h
  refine ⟨i, hi, hc, ?_⟩
  rw [alertOrder_of_args hlen hx, hi, Option.bind_some, hc, Option.map_some]

theorem alertOrder_of_fresh {l : Line} {ops : List Operand} {p : Part} (hlen : ops.length ≤ 6) {x : AlertArgs}
    (hx : alertArgs ops = some x) (h : p.repeated x = none) : alertOrder l ops.length ops p = p.freshAlert l x := by
  have none : ((p.findLive fun c => c.reference == x.reference).bind fun i => (p.callout? i).map fun c => (i, c))
      = none := by
    rw [Option.bind_eq_none_iff]
    intro i hi
    rw [Option.map_eq_none_iff]
    exact Option.bind_eq_none_iff.mp h i hi
  rw [alertOrder_of_args hlen hx, none]

theorem Part.working_resolvePlan (p : Part) (l : Line) (code : Byte) (ops : List Operand) :
    (p.working l code ops).resolvePlan = p.resolvePlan := by
  rw [p.working_frame]
  rfl

theorem Part.working_attempt (p : Part) (l : Line) (code : Byte) (ops : List Operand) :
    (p.working l code ops).attempt = p.attempt := by
  rw [p.working_frame]
  rfl

theorem Part.working_repeated (p : Part) (l : Line) (code : Byte) (ops : List Operand) :
    (p.working l code ops).repeated = p.repeated := by
  rw [p.working_frame]
  rfl

/-- The operands of an ALERT that are read, and what they read as (R8). -/
theorem alertArgs_of_spells {reference : Text} {cls zone : BitVec 32} {override atOnce : Option (BitVec 32)}
    {text : Option Text} {ops : List Operand}
    (hsp : Spells [.text reference, .number cls, .number zone, optionalNumber override, optionalText text,
      optionalNumber atOnce] ops) :
    ((∀ b ∈ cleanCut 12 reference, b = 0x20#8) ∨ cls.toInt < 0 ∨ 63 < cls.toInt ∨ zone.toInt < 0 ∨ 31 < zone.toInt
        ∨ inRange override 1 48 = false ∨ inRange atOnce 0 1 = false ↔ alertArgs ops = none)
    ∧ ∀ x, alertArgs ops = some x →
      x.reference = cleanCut 12 reference ∧ (x.cls.val : Int) = cls.toInt ∧ (x.zone.val : Int) = zone.toInt
        ∧ x.override.map (fun n => (n.val : Int) + 1) = override.map BitVec.toInt
        ∧ x.text = text.map (cleanCut 24) ∧ (x.atOnce = true ↔ atOnce = some 1#32) := by
  have a0 : operandAt ops 0 = .text reference := hsp.at 0
  have a1 : operandAt ops 1 = .number cls := hsp.at 1
  have a2 : operandAt ops 2 = .number zone := hsp.at 2
  have a3 : operandAt ops 3 = optionalNumber override := hsp.at 3
  have a4 : operandAt ops 4 = optionalText text := hsp.at 4
  have a5 : operandAt ops 5 = optionalNumber atOnce := hsp.at 5
  have h0 := needText_eq_some.mpr a0
  have h4 := optText_of_optional a4
  constructor
  · rw [alertArgs_eq_none, h0, h4, needIndex_eq_none, needIndex_eq_none, optIndex_eq_none, optFlag_eq_none, a1, a2, a3,
      a5, numberIn_number, numberIn_number, absentOrIn_optional, absentOrIn_optional, Bool.not_eq_true,
      Bool.not_eq_true]
    simp only [Option.some.injEq, exists_eq_left', reduceCtorEq, false_or]
    have hcls : ¬ (((0 : Nat) : Int) ≤ cls.toInt ∧ cls.toInt ≤ ((64 : Nat) : Int) + ((0 : Nat) : Int) - 1)
        ↔ cls.toInt < 0 ∨ 63 < cls.toInt := by omega
    have hzone : ¬ (((0 : Nat) : Int) ≤ zone.toInt ∧ zone.toInt ≤ ((32 : Nat) : Int) + ((0 : Nat) : Int) - 1)
        ↔ zone.toInt < 0 ∨ 31 < zone.toInt := by omega
    rw [hcls, hzone]
    have hrange : inRange override ((1 : Nat) : Int) (((48 : Nat) : Int) + ((1 : Nat) : Int) - 1)
        = inRange override 1 48 := rfl
    rw [hrange]
    rw [or_comm]
    simp only [or_assoc]
  · intro x hx
    obtain ⟨r, t, once, g0, g1, g2, g3, g4, g5, -, hr, ht, ho⟩ := alertArgs_eq_some.mp hx
    cases h0.symm.trans g0
    cases h4.symm.trans g4
    rw [needIndex_eq_some (by omega), a1, number_eq_num_iff (by omega)] at g1
    rw [needIndex_eq_some (by omega), a2, number_eq_num_iff (by omega)] at g2
    refine ⟨hr, ?_, ?_, ?_, ht, ?_⟩
    · omega
    · omega
    · rw [optIndex_eq_some (by omega), a3] at g3
      exact override_read g3
    · have hin : inRange atOnce 0 1 = true := by
        rw [← absentOrIn_optional, ← a5]
        exact not_not.mp fun h => ne_none_of_eq_some g5 (optFlag_eq_none.mpr h)
      have := (optFlag_of_optional a5 hin).symm.trans g5
      cases this
      rw [ho]
      cases atOnce <;> simp

/-- Settles O48. -/
theorem alertRefused : Obligations.AlertRefused := by
  unfold Obligations.AlertRefused
  refine ⟨fun reference cls zone override atOnce text ops hsp => ?_, fun ops hbad => ?_, fun s l ops hs => ⟨fun h => ?_,
    fun x hlen hx => ?_⟩, fun p override cls zone => ?_, fun p held pl => ⟨fun h => ?_, fun earlier e h => ?_⟩⟩
  · intro cleaned
    have hclean : cleaned = cleanCut := funext fun n => funext fun t => (cleanCut_eq n t).symm
    rw [hclean]
    exact alertArgs_of_spells hsp
  · rw [alertArgs_eq_none, needText_eq_none, needIndex_eq_none, needIndex_eq_none, optIndex_eq_none, optText_eq_none,
      optFlag_eq_none]
    rcases hbad with h | h | h | h | h | h
    · exact .inl h
    · exact .inr (.inl (not_numberIn_of h _ _))
    · exact .inr (.inr (.inl (not_numberIn_of h _ _)))
    · exact .inr (.inr (.inr (.inl (not_absentOrIn_of_kind h _ _))))
    · exact .inr (.inr (.inr (.inr (.inl h))))
    · exact .inr (.inr (.inr (.inr (.inr (.inl (not_absentOrIn_of_kind h _ _))))))
  · exact refuses_of_rule hs rfl (alertOrder_badOperand h)
  · have same := congrFun (s.toPart.working_repeated l 1#8 ops) x
    show match s.toPart.repeated x with
      | some c => _
      | none => _
    cases hrep : s.toPart.repeated x with
    | some c =>
      intro hopen
      obtain ⟨i, -, -, hv⟩ := alertOrder_of_repeated (l := l) hlen hx (same.trans hrep)
      exact refuses_of_rule hs rfl (hv.trans (if_neg hopen))
    | none =>
      have hv := alertOrder_of_fresh (l := l) hlen hx (same.trans hrep)
      show if s.toPart.table.freeOrder = [] then _ else match s.toPart.resolvePlan x.override x.cls x.zone with
        | none => _
        | some (_, pl) => _
      unfold Part.freshAlert at hv
      rw [Part.working_table, Part.working_resolvePlan, Part.working_attempt] at hv
      split
      next hf => exact refuses_of_rule hs rfl (by rw [hf] at hv; exact hv)
      next hf =>
        obtain ⟨i, rest, hi⟩ := List.exists_cons_of_ne_nil hf
        rw [hi] at hv
        cases hr : s.toPart.resolvePlan x.override x.cls x.zone with
        | none => exact refuses_of_rule hs rfl (by rw [hr] at hv; exact hv)
        | some npl =>
          obtain ⟨n, pl⟩ := npl
          rw [hr] at hv
          exact fun hnone => refuses_of_rule hs rfl (hv.trans (if_pos hnone))
  · rw [Part.resolvePlan_eq]
    show (p.chosenPlan override cls zone).bind _ = match p.chosenPlan override cls zone with
      | none => none
      | some n => match p.plan? n with
        | none => none
        | some pl => some (n, pl)
    cases p.chosenPlan override cls zone with
    | none => rfl
    | some n =>
      show (p.plan? n).map _ = match p.plan? n with
        | none => none
        | some pl => some (n, pl)
      cases p.plan? n <;> rfl
  · rw [Part.attempt, h]
    rfl
  · intro before fits taken
    rw [p.attempt_append held pl h, Part.settleEntry]
    refine if_congr Iff.rfl rfl (if_congr (usable_and_not_has p before e.need e.main) rfl ?_)
    cases e.alternate with
    | none => rfl
    | some x => exact if_congr Iff.rfl rfl (if_congr (usable_and_not_has p before e.need x) rfl rfl)

end Sys2Proof.Machine


/-!
SUPPORT. What the operations on one callout leave in its slot, in the other slots, and in the roster; and the work that
follows within an event, step by step.
-/

namespace Sys2Proof.Machine

open Sys2Proof

variable {p q : Part} {i j : SlotId} {c : Callout}

/-! ## One callout written -/

theorem Part.modify_of_callout (hc : p.callout? i = some c) (f : Callout → Callout) :
    p.modify i f = { p with table := { p.table with slots := p.table.slots.set i (.live (f c)) } } := by
  unfold Part.modify
  rw [(p.callout?_eq i c).1 hc]
  rfl

theorem Part.modify_of_none (h : p.callout? i = none) (f : Callout → Callout) : p.modify i f = p := by
  unfold Part.modify
  unfold Part.callout? Slot.callout? at h
  cases hs : p.slot i with
  | free x => rfl
  | live c => rw [hs] at h; cases h

/-- The callout of the slot a write is for. -/
theorem Part.callout?_modify (p : Part) (i j : SlotId) (f : Callout → Callout) :
    (p.modify i f).callout? j = if i = j then (p.callout? j).map f else p.callout? j := by
  split
  · next h => rw [← h, Part.callout?_modify_self]
  · next h => exact Part.callout?_modify_ne _ h f

theorem Part.callout?_disengage (m : MemberId) (n : CalloutNo) (p : Part) (i : SlotId) :
    (p.disengage m n).callout? i = p.callout? i :=
  Part.callout?_modifyMember m _ p i

theorem Part.callout?_disengageAll (n : CalloutNo) (p : Part) (i : SlotId) :
    (p.disengageAll n).callout? i = p.callout? i := rfl

theorem Part.callout?_uncommitAll (n : CalloutNo) (p : Part) (i : SlotId) :
    (p.uncommitAll n).callout? i = p.callout? i := rfl

theorem Part.callout?_demandReleases (o : Owner) (ms : List MemberId) (p : Part) (i : SlotId) :
    (p.demandReleases o ms).callout? i = p.callout? i :=
  (p.demandReleases_onlyPages o ms).callout? i

theorem Part.callout?_demand (d : Demand) (p : Part) (i : SlotId) : (p.demand d).callout? i = p.callout? i :=
  (p.demand_onlyPages d).callout? i

theorem Part.callout?_enter (i j : SlotId) (st : CalloutState) (p : Part) : (p.enter i st).callout? j
    = if i = j then (p.callout? j).map fun c => { c with state := st } else p.callout? j := by
  rw [Part.enter, Part.callout?_raise, Part.callout?_modify]

theorem Part.callout?_degrade (i j : SlotId) (p : Part) : (p.degrade i).callout? j = if i = j
    then (p.callout? j).map (Callout.withFlags fun f => { f with txDegraded := true }) else p.callout? j := by
  rw [Part.degrade, Part.callout?_raise, Part.callout?_modify]

theorem Part.callout?_releaseMembers_ne (h : i ≠ j) (ms : List MemberId) (p : Part) :
    (p.releaseMembers i ms).callout? j = p.callout? j := by
  unfold Part.releaseMembers
  cases hc : p.callout? i with
  | none => rfl
  | some c =>
    simp only [Part.callout?_raiseIf, Part.callout?_foldl_disengage]
    exact Part.callout?_modify_ne _ h _

theorem Part.callout?_recompute (i j : SlotId) (p : Part) : (p.recompute i).callout? j
    = if i = j then (p.callout? j).map fun c => { c with assessment := p.assessment c } else p.callout? j := by
  by_cases hij : i = j
  · subst hij
    rw [if_pos rfl]
    unfold Part.recompute
    cases hc : p.callout? i with
    | none => exact hc
    | some c => simp only [Part.callout?_raiseIf, Part.callout?_modify_self, hc, Option.map_some]
  · rw [if_neg hij]
    unfold Part.recompute
    cases p.callout? i with
    | none => rfl
    | some c => simp only [Part.callout?_raiseIf, Part.callout?_modify_ne _ hij]

/-! ## The assessment depends on configuration alone -/

theorem Part.assessment_congr (ha : ∀ ap, (q.appliance ap).seats = (p.appliance ap).seats)
    (hm : ∀ m, (q.member? m).map Member.quals = (p.member? m).map Member.quals) (c : Callout) :
    q.assessment c = p.assessment c := by
  have hquals : q.quals = p.quals := by
    funext m
    have := hm m
    unfold Part.quals
    cases hq : q.member? m <;> cases hp : p.member? m <;> rw [hq, hp] at this <;> simp_all
  unfold Part.assessment
  rw [hquals]
  congr 1
  funext ap
  exact ha ap

theorem SameConfiguration.assessment (h : SameConfiguration p q) (c : Callout) : q.assessment c = p.assessment c := by
  refine Part.assessment_congr (fun ap => (h.appliances ap).1) (fun m => ?_) c
  have := congrArg (Option.map fun x : Text × Address × Qualifications × GroupSet => x.2.2.1) (h.members m)
  rw [Option.map_map, Option.map_map] at this
  exact this

/-! ## Entry into COUNTING and CREWED, and the outcome taken (R16, R18 to R20) -/

theorem Part.callout?_enterCounting (i j : SlotId) (p : Part) : (p.enterCounting i).callout? j = if i = j
    then (p.callout? j).map fun c => { c with state := .counting, responseWindow := .start c.window }
    else p.callout? j := by
  rw [Part.enterCounting, Part.callout?_modify, Part.callout?_enter]
  split
  · rw [Option.map_map]
    rfl
  · rfl

/-- The callout after an entry into CREWED, with this assessment. -/
def Callout.inCrewed (a : Assessment) (c : Callout) : Callout :=
  { c with state := .crewed, responseWindow := .stopped, assessment := a
           responses := c.responses.map fun r => if c.assessment.surplus.contains r.member then r.release c.elapsed else r }

theorem Part.callout?_enterCrewed (hc : p.callout? i = some c) :
    ∃ a, (p.enterCrewed i).callout? i = some (c.inCrewed a)
      ∧ (c.assessment.surplus = [] → a = c.assessment) := by
  have hcrewed : ((p.enter i .crewed).modify i Callout.stopWindow).callout? i
      = some { c with state := .crewed, responseWindow := .stopped } := by
    rw [Part.callout?_modify_self, Part.callout?_enter, if_pos rfl, hc]
    rfl
  unfold Part.enterCrewed
  simp only [hcrewed]
  split
  · next hs =>
    refine ⟨c.assessment, ?_, fun _ => rfl⟩
    rw [hcrewed]
    simp [Callout.inCrewed, hs]
  · next hs =>
    rw [Part.callout?_recompute, if_pos rfl, Part.callout?_demandReleases, Part.callout?_releaseMembers, hcrewed]
    exact ⟨_, rfl, fun h => absurd h hs⟩

theorem Part.callout?_enterCrewed_ne (h : i ≠ j) (p : Part) : (p.enterCrewed i).callout? j = p.callout? j := by
  have hcrewed : ((p.enter i .crewed).modify i Callout.stopWindow).callout? j = p.callout? j := by
    rw [Part.callout?_modify_ne _ h, Part.callout?_enter, if_neg h]
  unfold Part.enterCrewed
  simp only
  split
  · exact hcrewed
  · split
    · exact hcrewed
    · rw [Part.callout?_recompute, if_neg h, Part.callout?_demandReleases, Part.callout?_releaseMembers_ne h, hcrewed]

theorem Part.callout?_takeOutcome_ne (h : i ≠ j) (p : Part) : (p.takeOutcome i).callout? j = p.callout? j := by
  unfold Part.takeOutcome
  split
  · rfl
  · split
    · split
      · exact p.callout?_enterCrewed_ne h
      · rfl
    · split
      · exact p.callout?_enterCrewed_ne h
      · rfl
    · split
      · rfl
      · rw [Part.callout?_enterCounting, if_neg h]
    all_goals rfl

theorem Part.callout?_reassess_ne (h : i ≠ j) (p : Part) : (p.reassess i).callout? j = p.callout? j := by
  unfold Part.reassess
  split
  · rfl
  · split
    · rfl
    · rw [Part.callout?_takeOutcome_ne h, Part.callout?_recompute, if_neg h]

/-- The callout enters CREWED when it takes its outcome. -/
abbrev Callout.Enters (c : Callout) : Prop :=
  (c.state = .alerting ∨ c.state = .counting) ∧ c.assessment.outcome = .crewed

/-- The callout falls back to COUNTING when it takes its outcome. -/
abbrev Callout.Returns (c : Callout) : Prop :=
  c.state = .crewed ∧ c.assessment.outcome ≠ .crewed

theorem Callout.not_returns_of_enters (h : c.Enters) : ¬ c.Returns := by
  rintro ⟨hs, -⟩
  rcases h.1 with h | h <;> rw [h] at hs <;> cases hs

/-- The three ways of taking an outcome (R18). -/
theorem Part.takeOutcome_of_enters (hc : p.callout? i = some c) (h : c.Enters) : p.takeOutcome i = p.enterCrewed i := by
  unfold Part.takeOutcome
  simp only [hc]
  rcases h with ⟨h | h, ho⟩ <;> rw [h] <;> simp only [ho, if_true]

theorem Part.takeOutcome_of_returns (hc : p.callout? i = some c) (h : c.Returns) : p.takeOutcome i = p.enterCounting i := by
  unfold Part.takeOutcome
  simp only [hc, h.1, if_neg h.2]

theorem Part.takeOutcome_of_stays (hc : p.callout? i = some c) (he : ¬ c.Enters) (hr : ¬ c.Returns) : p.takeOutcome i = p := by
  unfold Part.takeOutcome
  simp only [hc]
  split
  · next h => exact if_neg fun ho => he ⟨.inl h, ho⟩
  · next h => exact if_neg fun ho => he ⟨.inr h, ho⟩
  · next h => exact if_pos (not_not.1 fun ho => hr ⟨h, ho⟩)
  all_goals rfl

/-- The callout after it has taken its outcome, with this assessment if it entered CREWED. -/
def Callout.outcomeTaken (a : Assessment) (c : Callout) : Callout :=
  if c.Enters then c.inCrewed a
  else if c.Returns then { c with state := .counting, responseWindow := .start c.window }
  else c

theorem Part.callout?_takeOutcome (hc : p.callout? i = some c) :
    ∃ a, (p.takeOutcome i).callout? i = some (c.outcomeTaken a) := by
  unfold Callout.outcomeTaken
  by_cases he : c.Enters
  · rw [Part.takeOutcome_of_enters hc he]
    simp only [if_pos he]
    obtain ⟨a, ha, -⟩ := Part.callout?_enterCrewed hc
    exact ⟨a, ha⟩
  · simp only [if_neg he]
    by_cases hr : c.Returns
    · rw [Part.takeOutcome_of_returns hc hr, Part.callout?_enterCounting, if_pos rfl, hc, if_pos hr]
      exact ⟨c.assessment, rfl⟩
    · rw [Part.takeOutcome_of_stays hc he hr, if_neg hr]
      exact ⟨c.assessment, hc⟩

theorem Part.reassess_eq (hc : p.callout? i = some c) (hn : c.state ≠ .closing) :
    p.reassess i = (p.recompute i).takeOutcome i := by
  unfold Part.reassess
  simp only [hc, if_neg hn]

theorem Part.callout?_recompute_self (hc : p.callout? i = some c) :
    (p.recompute i).callout? i = some { c with assessment := p.assessment c } := by
  rw [Part.callout?_recompute, if_pos rfl, hc, Option.map_some]

theorem Part.callout?_reassess (hc : p.callout? i = some c) (hn : c.state ≠ .closing) :
    ∃ a, (p.reassess i).callout? i = some (({ c with assessment := p.assessment c } : Callout).outcomeTaken a) := by
  rw [Part.reassess_eq hc hn]
  exact Part.callout?_takeOutcome (Part.callout?_recompute_self hc)

theorem Callout.outcomeTaken_reassessed (x a : Assessment) (c : Callout) :
    Reassessed x c (({ c with assessment := x } : Callout).outcomeTaken a) := by
  have hsurplus (r : Response) : (if x.surplus.contains r.member then r.release c.elapsed else r)
      = if r.member ∈ x.surplus ∧ r.kind ≠ .released
        then { r with kind := .released, eta := none, estimate := none, lastChange := c.elapsed } else r := by
    unfold Response.release
    by_cases hm : r.member ∈ x.surplus <;> by_cases hk : r.kind = .released <;> simp [hm, hk]
  unfold Callout.outcomeTaken Reassessed
  by_cases he : ({ c with assessment := x } : Callout).Enters
  · have he' : (c.state = .alerting ∨ c.state = .counting) ∧ x.outcome = .crewed := he
    simp only [if_pos he, Callout.inCrewed, hsurplus]
    exact ⟨trivial, trivial, trivial, fun h => absurd he' h, trivial, trivial⟩
  · have he' : ¬ ((c.state = .alerting ∨ c.state = .counting) ∧ x.outcome = .crewed) := he
    simp only [if_neg he]
    by_cases hr : ({ c with assessment := x } : Callout).Returns
    · have hr' : c.state = .crewed ∧ x.outcome ≠ .crewed := hr
      simp only [if_pos hr]
      exact ⟨trivial, trivial, trivial, fun _ => trivial, trivial, trivial⟩
    · have hr' : ¬ (c.state = .crewed ∧ x.outcome ≠ .crewed) := hr
      simp only [if_neg hr]
      exact ⟨trivial, trivial, trivial, fun _ => trivial, trivial, trivial⟩

/-- Only the assessment, what goes with the state, the records and the window move when an outcome is taken. -/
theorem Callout.outcomeTaken_frame (a : Assessment) (c : Callout) : c.outcomeTaken a = { c with
    state := (c.outcomeTaken a).state, responseWindow := (c.outcomeTaken a).responseWindow
    responses := (c.outcomeTaken a).responses, assessment := (c.outcomeTaken a).assessment } := by
  unfold Callout.outcomeTaken
  split
  · rfl
  · split <;> rfl

/-- Only an entry into CREWED hands anything to the page queue. -/
theorem Part.takeOutcome_samePages (hc : p.callout? i = some c) (he : ¬ c.Enters) : SamePages p (p.takeOutcome i) := by
  by_cases hr : c.Returns
  · rw [Part.takeOutcome_of_returns hc hr]
    exact (p.enter_pages i _).trans (Part.modify_pages i _ _)
  · rw [Part.takeOutcome_of_stays hc he hr]
    exact .refl p

end Sys2Proof.Machine

/-! Orders that are taken and write the table of callouts: the answer, the part after it, and the callouts found after it. -/

namespace Sys2Proof.Machine
open Sys2Proof

/-! ### Callouts found by what stays of them -/

theorem Part.findLive_eq_find (f : Callout → Bool) (p : Part) :
    p.findLive f = slotIds.find? fun j => (p.callout? j).any f := by
  unfold Part.findLive Part.callout?
  congr 1
  funext j
  cases p.slot j <;> rfl

/-- A search finds the same slot again where it still holds a callout, when every callout is an earlier one that the search
judges the same. -/
theorem Part.findLive_stays {p q : Part} {f : Callout → Bool} {i : SlotId} (hi : p.findLive f = some i)
    (hback : ∀ j d, q.callout? j = some d → ∃ c, p.callout? j = some c ∧ f c = f d)
    (hlive : q.callout? i ≠ none) : q.findLive f = some i := by
  rw [Part.findLive_eq_find, List.find?_eq_some_iff_append] at *
  obtain ⟨hfi, before, behind, hl, hbefore⟩ := hi
  obtain ⟨d, hd⟩ := Option.ne_none_iff_exists'.mp hlive
  refine ⟨?_, before, behind, hl, fun j hj => ?_⟩
  · obtain ⟨c, hc, hf⟩ := hback i d hd
    rw [hc] at hfi
    rw [hd]
    exact hf.symm.trans hfi
  · have := hbefore j hj
    cases hq : q.callout? j with
    | none => rfl
    | some e =>
      obtain ⟨c, hc, hf⟩ := hback j e hq
      rw [hc] at this
      simpa [hf] using this

theorem Moves.findCallout {g : Grants} {p q : Part} (hg : ¬ g.makes) (h : Moves g p q) {n : CalloutNo} {i : SlotId}
    (hi : p.findCallout n = some i) (hlive : q.callout? i ≠ none) : q.findCallout n = some i := by
  refine Part.findLive_stays hi (fun j d hd => ?_) hlive
  obtain ⟨c, hc, hgrow⟩ := h.grows hg j d hd
  have hnumber : d.number = c.number := congrArg Prod.fst hgrow.identity
  exact ⟨c, hc, by rw [hnumber]⟩

theorem Part.findNumber_eq (p : Part) (n : CalloutNo) : p.findNumber n.toNat = p.findCallout n := by
  unfold Part.findNumber Part.findCallout
  congr 1
  funext c
  rw [Bool.eq_iff_iff, beq_iff_eq, beq_iff_eq, Nat.cast_inj, BitVec.toNat_inj]

/-- A callout that an order names is found by its number. -/
theorem Part.lookup_spec {p : Part} {x : Int} {i : SlotId} {c : Callout} (h : p.lookup x = some (i, c)) :
    p.callout? i = some c ∧ (c.number.toNat : Int) = x ∧ p.findCallout c.number = some i := by
  have hc := Part.lookup_eq_some h
  unfold Part.lookup at h
  obtain ⟨j, hj, h⟩ := Option.bind_eq_some_iff.mp h
  obtain ⟨d, hd, e⟩ := Option.map_eq_some_iff.mp h
  cases e
  obtain ⟨d', hd', hx⟩ := Part.findLive_eq_some hj
  cases hd.symm.trans hd'
  have hx : (c.number.toNat : Int) = x := eq_of_beq hx
  exact ⟨hc, hx, by rw [← p.findNumber_eq, hx]; exact hj⟩

theorem Part.calloutResults_of {p : Part} {n : CalloutNo} {i : SlotId} {c : Callout} (hi : p.findCallout n = some i)
    (hc : p.callout? i = some c) : p.calloutResults n = [num n.toNat, num c.state.code] := by
  have hslot : p.slot i = .live c := (p.callout?_eq i c).mp hc
  simp only [Part.calloutResults, hi, hslot]
  rfl

/-! ### The callouts through the work that follows -/

/-- How far a callout goes while work is done: its core stays, and so does the rest unless it leaves ALERTING. -/
def Callout.WorkStep (c d : Callout) : Prop :=
  d.core = c.core ∧ (c.Still d ∨ c.state = .alerting ∧ (d.state = .counting ∨ d.state = .crewed))

theorem WorkFrame.callout?_back {p q : Part} (h : WorkFrame none p q) {j : SlotId} {d : Callout}
    (hd : q.callout? j = some d) : ∃ c, p.callout? j = some c ∧ c.WorkStep d := by
  have hs := h.slots j
  rw [(q.callout?_eq j d).mp hd] at hs
  cases hp : p.slot j with
  | free x =>
    rw [hp] at hs
    cases hs
  | live c =>
    rw [hp] at hs
    obtain ⟨hcore, hloose | hstep⟩ := hs
    · cases hloose
    · exact ⟨c, (p.callout?_eq j c).mpr hp, hcore, hstep⟩

theorem WorkFrame.callout?_of {p q : Part} (h : WorkFrame none p q) {j : SlotId} {c : Callout}
    (hc : p.callout? j = some c) (hn : c.state ≠ .closing) : ∃ d, q.callout? j = some d ∧ c.WorkStep d := by
  have hs := h.slots j
  rw [(p.callout?_eq j c).mp hc] at hs
  cases hq : q.slot j with
  | free x =>
    rw [hq] at hs
    obtain hloose | hclosing := hs
    · cases hloose
    · exact absurd hclosing hn
  | live d =>
    rw [hq] at hs
    obtain ⟨hcore, hloose | hstep⟩ := hs
    · cases hloose
    · exact ⟨d, (q.callout?_eq j d).mpr hq, hcore, hstep⟩

theorem Part.finish_callout? (p : Part) (i : SlotId) : p.finish.callout? i = p.work.callout? i :=
  rfl

theorem Part.finish_callout?_of {p : Part} {i : SlotId} {c : Callout} (hc : p.callout? i = some c)
    (hn : c.state ≠ .closing) : ∃ d, p.finish.callout? i = some d ∧ c.WorkStep d :=
  p.finish_work.1.callout?_of hc hn

/-! ### An order taken -/

/-- `t` is the part after an order from line `l`, answered with these results, has left `q` behind it. -/
structure OrderAnswered (l : Line) (results : List Operand) (s q t : Part) : Prop where
  answered      : ∃ raised, Answered l none results raised s t
  after         : t = { q with lines := t.lines }
  flags         : ∀ k, (t.ctl k).flags = (q.ctl k).flags

/-- The order was taken without an edit of configuration. -/
structure OrderTaken (l : Line) (results : List Operand) (s q t : Part) : Prop extends OrderAnswered l results s q t where
  configuration : SameConfiguration s t

/-- The grants of the orders on callouts, members' responses and their kind: no edits. -/
def Grants.unedited (loose : Option SlotId) (makes : Prop) : Grants where
  plans := False
  marks := True
  edits := False
  clears _ := False
  remasks _ := False
  makes := makes
  loose := loose

theorem SameConfiguration.of_lines {p q : Part} (h : q = { p with lines := q.lines, restart := q.restart }) :
    SameConfiguration p q := by
  refine .of_same ?_ ?_ ?_ ?_ ?_ ?_ ?_ <;> rw [h]
  exact fun _ => rfl

theorem leads_of_answered {c : Instr} {l : Line} {code : Byte} {ops : List Operand} {s : State} {g : Grants} {q : Part}
    {results : List Operand} (hs : s.condition = .running) (hc : c.exchange? = some (l, code, ops))
    (hv : orderRule c (s.toPart.working l code ops) = .taken q results)
    (hm : Moves g (s.toPart.working l code ops) q) :
    Leads c s (OrderAnswered l results s.toPart q) := by
  refine leads_of_taking (exec_order hc s) ?_
  rw [Part.orderEvent_taken hs l code ops _ q results hv]
  obtain ⟨b, -, hlines⟩ := hm.frame.lines
  have hsame (k : Line) : ((q.sendReply l none results).ctl k).flags = (q.ctl k).flags := by
    by_cases hk : k = l
    · rw [hk, Part.sendReply, Part.ctl_onLine]
    · rw [Part.sendReply, Part.ctl_onLine_ne _ hk]
  exact ⟨⟨b, s.toPart.sendReply_answered q l code ops none results b hlines⟩, rfl, hsame⟩

theorem leads_of_taken {c : Instr} {l : Line} {code : Byte} {ops : List Operand} {s : State} {g : Grants} {q : Part}
    {results : List Operand} (hs : s.condition = .running) (hc : c.exchange? = some (l, code, ops))
    (hv : orderRule c (s.toPart.working l code ops) = .taken q results)
    (hm : Moves g (s.toPart.working l code ops) q) (hg : ¬ g.edits) :
    Leads c s (OrderTaken l results s.toPart q) :=
  (leads_of_answered hs hc hv hm).imp fun t ht => ⟨ht,
    ((SameConfiguration.of_lines (s.toPart.working_frame l code ops)).trans (hm.configuration hg)).trans
      (.of_lines (by rw [congrArg Part.restart ht.after]; exact ht.after))⟩

/-- An order on a callout, taken: the work that follows is done, and the results are read after it. -/
theorem leads_of_takenFor {c : Instr} {l : Line} {code : Byte} {ops : List Operand} {s : State} {g : Grants} {q : Part}
    {n : CalloutNo} (hs : s.condition = .running) (hc : c.exchange? = some (l, code, ops))
    (hv : orderRule c (s.toPart.working l code ops) = q.takenFor n)
    (hm : Moves g (s.toPart.working l code ops) q) (hg : ¬ g.edits) :
    Leads c s (OrderTaken l (q.finish.calloutResults n) s.toPart q.finish) :=
  leads_of_taken hs hc hv (hm.trans (q.finish_moves g)) hg

theorem Part.working_callouts (p : Part) (l : Line) (code : Byte) (ops : List Operand) :
    (p.working l code ops).callout? = (fun i => p.callout? i) :=
  funext fun i => Part.callout?_congr (p.working_table l code ops) i

/-! ### The rules of the orders that name a callout -/

section
variable {l : Line} {ops : List Operand} {p : Part}

theorem onCallout_of_number {x : BitVec 32} (h : operandAt ops 0 = .number x) (body : SlotId → Callout → Verdict) :
    onCallout ops p body = match p.lookup x.toInt with
      | none => refuse .notFound
      | some (i, c) => body i c := by
  unfold onCallout
  rw [needNumber_of_number h] <;> rfl

theorem needNumber_eq_none {j : Nat} : needNumber ops j = none ↔ ∀ x, operandAt ops j ≠ .number x := by
  unfold needNumber
  cases operandAt ops j <;> simp

theorem onCallout_badOperand (h : ∀ x, operandAt ops 0 ≠ .number x) (body : SlotId → Callout → Verdict) :
    onCallout ops p body = badOperand := by
  unfold onCallout
  rw [needNumber_eq_none.mpr h]

theorem commitOrder_of_named {x : BitVec 32} : commitOrder l 1 [.number x] p = match p.lookup x.toInt with
    | none => refuse .notFound
    | some (i, c) => if c.state = .inOpen then (p.leaveOpen i).takenFor c.number else refuse .wrongState :=
  (checked_anyLine_of_le (by omega) le_rfl).trans (onCallout_of_number rfl _)

theorem holdOrder_of_named {x : BitVec 32} : holdOrder l 1 [.number x] p = match p.lookup x.toInt with
    | none => refuse .notFound
    | some (i, c) => match c.state with
      | .inOpen | .alerting | .counting | .crewed => (p.hold i c).takenFor c.number
      | .held | .mobile | .closing => refuse .wrongState :=
  (checked_anyLine_of_le (by omega) le_rfl).trans (onCallout_of_number rfl _)

theorem resumeOrder_of_named {x : BitVec 32} : resumeOrder l 1 [.number x] p = match p.lookup x.toInt with
    | none => refuse .notFound
    | some (i, c) => match c.state, c.prior with
      | .held, some prior => (p.resume i c prior).takenFor c.number
      | _, _ => refuse .wrongState :=
  (checked_anyLine_of_le (by omega) le_rfl).trans (onCallout_of_number rfl _)

theorem standDownOrder_of_named {x : BitVec 32} : standDownOrder l 1 [.number x] p = match p.lookup x.toInt with
    | none => refuse .notFound
    | some (i, c) => match c.state with
      | .inOpen => (p.standDownSilent i (c.responses.map Response.member) 1).takenFor c.number
      | .mobile => (p.standDownSilent i c.activeMembers 2).takenFor c.number
      | .alerting | .counting | .crewed | .held => (p.standDownPaged i c).takenFor c.number
      | .closing => refuse .wrongState :=
  (checked_anyLine_of_le (by omega) le_rfl).trans (onCallout_of_number rfl _)

end

end Sys2Proof.Machine

/-! Where HOLD and RESUME are taken and the orders on a callout refused, by its state and operands (O54). -/

namespace Sys2Proof.Machine
open Sys2Proof

theorem Part.live_slots_nodup (p : Part) : (p.live.map Prod.fst).Nodup := by
  have hsub : (p.live.map Prod.fst).Sublist slotIds := by
    rw [Part.live, List.map_filterMap]
    generalize slotIds = l
    induction l with
    | nil => exact .slnil
    | cons i rest ih =>
      cases hc : p.callout? i with
      | none => exact (by simpa [hc] using ih : List.Sublist _ rest).cons i
      | some c => simpa [hc] using ih
  exact hsub.nodup (by decide)

section
variable {l : Line} {ops : List Operand} {p : Part}

/-! ### ADD and DEPART -/

/-- What an ADD that names callout `c` is answered, by the state of the callout (R11, R12, R17). -/
def Part.addTo (i : SlotId) (c : Callout) (plan : Option PlanId) (given : GroupSet) (p : Part) : Verdict :=
  let undefinedPlan := plan.isSome && (plan.bind p.plan?).isNone
  match c.state with
  | .held | .mobile | .closing => refuse .wrongState
  | .inOpen => if undefinedPlan then refuse .noPlan else (p.addInOpen i c (plan.bind p.plan?) given).takenFor c.number
  | .alerting | .counting | .crewed =>
    if undefinedPlan then refuse .noPlan else (p.supplement i c (plan.bind p.plan?) given).takenFor c.number

theorem addOrder_of_read (hlen : ops.length ≤ 3) {x : Int} {plan : Option PlanId} {given : Option GroupSet}
    (h0 : needNumber ops 0 = some x) (h1 : optIndex ops 1 48 1 = some plan) (h2 : optSet ops 2 = some given) :
    addOrder l ops.length ops p = if plan = none ∧ given = none then badOperand
      else match p.lookup x with
        | none => refuse .notFound
        | some (i, c) => p.addTo i c plan (given.getD 0#16) := by
  unfold addOrder
  rw [checked_anyLine_of_le (by omega) hlen, h0, h1, h2] <;> rfl

theorem addOrder_badOperand (h : 3 < ops.length ∨ needNumber ops 0 = none ∨ optIndex ops 1 48 1 = none
    ∨ optSet ops 2 = none) : addOrder l ops.length ops p = badOperand := by
  unfold addOrder
  by_cases hlen : 3 < ops.length
  · exact checked_anyLine_of_lt hlen
  · rw [checked_anyLine_of_le (by omega) (by omega)]
    split
    · next h0 h1 h2 => simp [hlen, h0, h1, h2] at h
    · rfl

/-- What a DEPART of an appliance of callout `c` is answered (R25). -/
def Part.departFrom (i : SlotId) (c : Callout) (ap : Appliance) (p : Part) : Verdict :=
  match c.appliances.find? fun e => e.letter == ap with
  | none => refuse .notFound
  | some e => match c.state with
    | .alerting | .counting | .crewed => if e.departed then refuse .wrongState else (p.depart i ap).takenFor c.number
    | .inOpen | .held | .mobile | .closing => refuse .wrongState

theorem departOrder_of_read (hlen : ops.length ≤ 2) {x : Int} {ap : Appliance} (h0 : needNumber ops 0 = some x)
    (h1 : needLetter ops 1 = some ap) : departOrder .console ops.length ops p = match p.lookup x with
      | none => refuse .notFound
      | some (i, c) => p.departFrom i c ap := by
  unfold departOrder
  rw [checked_of_le (by omega) hlen, h0, h1] <;> rfl

theorem departOrder_badOperand (h : 2 < ops.length ∨ needNumber ops 0 = none ∨ needLetter ops 1 = none) :
    departOrder .console ops.length ops p = badOperand := by
  unfold departOrder
  by_cases hlen : 2 < ops.length
  · exact checked_of_lt hlen
  · rw [checked_of_le (by omega) (by omega)]
    split
    · next h0 h1 => simp [hlen, h0, h1] at h
    · rfl

theorem hasAppliance_eq_false {c : Callout} {ap : Appliance} :
    c.hasAppliance ap = false ↔ (c.appliances.find? fun e => e.letter == ap) = none := by
  rw [Callout.hasAppliance, List.find?_eq_none, List.any_eq_false]

/-! ### A relayed response and a booking -/

theorem relayOrder_of_read (hl : l ≠ .console) (hlen : ops.length ≤ 4) {m : MemberId} {n code : Nat} {eta : Option Int}
    (h0 : needIndex ops 0 128 1 = some m) (h1 : needWithin ops 1 1 255 = some n) (h2 : needWithin ops 2 0 1 = some code)
    (h3 : optNumber ops 3 = some eta) : relayOrder l ops.length ops p =
      if eta.getD 0 < 0 then badOperand
      else if (p.member? m).isNone then refuse .notFound
      else match p.lookup n with
        | none => refuse .notFound
        | some (i, c) =>
          if c.state = .closing then refuse .wrongState
          else p.orderedResponse i c m
            (if code = 0 then .attend (normaliseEta ((eta.getD 0).toNat)) else .unavailable) l := by
  unfold relayOrder
  rw [checked_controlOnly hl, if_neg (by omega), h0, h1, h2, h3] <;> rfl

theorem relayOrder_badOperand (hl : l ≠ .console) (h : 4 < ops.length ∨ needIndex ops 0 128 1 = none
    ∨ needWithin ops 1 1 255 = none ∨ needWithin ops 2 0 1 = none ∨ optNumber ops 3 = none) :
    relayOrder l ops.length ops p = badOperand := by
  unfold relayOrder
  rw [checked_controlOnly hl]
  by_cases hlen : 4 < ops.length
  · exact if_pos (.inr hlen)
  · rw [if_neg (by omega)]
    split
    · next h0 h1 h2 h3 => simp [hlen, h0, h1, h2, h3] at h
    · rfl

theorem bookOnOrder_of_named (hlen : ops.length ≤ 2) {m : MemberId} {n : Nat} (h0 : needIndex ops 0 128 1 = some m)
    (h1 : optWithin ops 1 1 255 = some (some n)) : bookOnOrder .console ops.length ops p =
      match p.member? m, p.lookup n with
      | some x, some ic => p.bookOnTo m x .console ic
      | _, _ => refuse .notFound := by
  unfold bookOnOrder
  rw [checked_of_le (by omega) hlen, h0, h1] <;> rfl

theorem bookOnOrder_badOperand (h : 2 < ops.length ∨ needIndex ops 0 128 1 = none ∨ optWithin ops 1 1 255 = none) :
    bookOnOrder .console ops.length ops p = badOperand := by
  unfold bookOnOrder
  by_cases hlen : 2 < ops.length
  · exact checked_of_lt hlen
  · rw [checked_of_le (by omega) (by omega)]
    split
    · next h0 h1 => simp [hlen, h0, h1] at h
    · next h0 h1 => simp [hlen, h0, h1] at h
    · rfl

end

/-! ### HOLD leaves its callout HELD -/

theorem Part.stateAt_degrade (i : SlotId) (p : Part) : (p.degrade i).stateAt i = p.stateAt i :=
  Part.stateAt_modify p fun _ => rfl

theorem Part.stateAt_hold {i : SlotId} {c : Callout} {p : Part} (hc : p.callout? i = some c) :
    (p.hold i c).stateAt i = some .held := by
  have hheld : ((p.modify i Callout.holding).raise .callout).stateAt i = some .held := by
    simp [Part.stateAt, hc, Callout.holding]
  rw [Part.hold_eq]
  generalize (p.modify i Callout.holding).raise .callout = q at hheld
  have hheld := (q.stateAt_withdrawFor i i BatchKind.callOut).trans hheld
  generalize q.withdrawFor i BatchKind.callOut = b at hheld
  have hkept := (Part.stateAt_modify (i := i) b.2 (f := fun d => { d with
    heldBack := ((b.1.map Returned.entry).filter fun e => !e.owesNothing).take Config.heldBackPlaces
    alertStatus := if (c.alertStatus = .outstanding && b.1.any (fun b => b.entry.kind == .alert)
      && !(((b.1.map Returned.entry).filter fun e => !e.owesNothing).take Config.heldBackPlaces).any
        fun e => e.kind == .alert) then .ended else d.alertStatus }) fun _ => rfl).trans hheld
  simp only
  split
  · exact (Part.stateAt_degrade i _).trans hkept
  · exact hkept

/-- A callout that is not CLOSING stands where it stood after the work that follows, and is found there. -/
theorem Moves.finish_found {g : Grants} {p q : Part} (hg : ¬ g.makes) (h : Moves g p q) {n : CalloutNo} {i : SlotId}
    (hi : p.findCallout n = some i) {d : Callout} (hd : q.callout? i = some d) (hn : d.state ≠ .closing) :
    q.finish.findCallout n = some i ∧ ∃ d', q.finish.callout? i = some d' ∧ d.WorkStep d' := by
  obtain ⟨d', hd', hstep⟩ := Part.finish_callout?_of hd hn
  exact ⟨(h.trans (q.finish_moves g)).findCallout hg hi (by simp [hd']), d', hd', hstep⟩

/-- What a WorkStep leaves of the state of a callout that is not ALERTING. -/
theorem Callout.WorkStep.still {c d : Callout} (h : c.WorkStep d) (hs : c.state ≠ .alerting) : c.Still d :=
  h.2.resolve_right fun ha => hs ha.1

theorem Part.working_findCallout (p : Part) (l : Line) (code : Byte) (ops : List Operand) (n : CalloutNo) :
    (p.working l code ops).findCallout n = p.findCallout n := by
  rw [p.working_frame]
  rfl

theorem Part.working_lookup_eq (p : Part) (l : Line) (code : Byte) (ops : List Operand) :
    (p.working l code ops).lookup = fun x => p.lookup x :=
  funext fun x => p.working_lookup l code ops x

theorem hold_answers {s : State} {l : Line} {x : BitVec 32} {i : SlotId} {c : Callout} (hs : s.condition = .running)
    (hf : s.toPart.lookup x.toInt = some (i, c))
    (hst : c.state = .inOpen ∨ c.state = .alerting ∨ c.state = .counting ∨ c.state = .crewed) :
    Leads (.hold l [.number x]) s fun t =>
      ∃ raised, Answered l none [num c.number.toNat, num 5] raised s.toPart t := by
  have hw := (s.toPart.working_lookup l 4#8 [.number x] x.toInt).trans hf
  obtain ⟨hc, -, hn⟩ := Part.lookup_spec hw
  have hv : orderRule (.hold l [.number x]) (s.toPart.working l 4#8 [.number x])
      = ((s.toPart.working l 4#8 [.number x]).hold i c).takenFor c.number := by
    refine holdOrder_of_named.trans ?_
    rw [hw]
    rcases hst with h | h | h | h <;> simp only [h]
  have hm : Moves (.unedited none False) _ _ := Part.hold_moves _ hc hst
  obtain ⟨d, hd, hheld⟩ := Option.map_eq_some_iff.mp (Part.stateAt_hold hc)
  obtain ⟨hfound, d', hd', hstep⟩ := hm.finish_found id hn hd (by rw [hheld]; nofun)
  refine (leads_of_takenFor hs rfl hv hm id).imp fun t ht => ?_
  have := ht.answered
  rwa [Part.calloutResults_of hfound hd', (hstep.still (by rw [hheld]; nofun)).1, hheld] at this

theorem resume_answers {s : State} {l : Line} {x : BitVec 32} {i : SlotId} {c : Callout} (hs : s.condition = .running)
    (hf : s.toPart.lookup x.toInt = some (i, c)) (hst : c.state = .held) (hp : c.prior ≠ none) :
    Leads (.resume l [.number x]) s fun t =>
      ∃ code raised, Answered l none [num c.number.toNat, num code] raised s.toPart t := by
  have hw := (s.toPart.working_lookup l 5#8 [.number x] x.toInt).trans hf
  obtain ⟨hc, -, -⟩ := Part.lookup_spec hw
  obtain ⟨prior, hp⟩ := Option.ne_none_iff_exists'.mp hp
  have hv : orderRule (.resume l [.number x]) (s.toPart.working l 5#8 [.number x])
      = ((s.toPart.working l 5#8 [.number x]).resume i c prior).takenFor c.number := by
    refine resumeOrder_of_named.trans ?_
    rw [hw]
    simp only [hst, hp]
  exact (leads_of_takenFor (g := .unedited none False) hs rfl hv (Part.resume_moves _ hc hp) id).imp fun t ht =>
    ⟨_, ht.answered⟩

/-! ### The obligation -/

theorem ordersNamed_byState {s : State} {l : Line} {x : BitVec 32} {b : GroupSet} {ap : Appliance}
    (hs : s.condition = .running) {i : SlotId} {c : Callout} (hf : s.toPart.lookup x.toInt = some (i, c)) :
    (c.state = .held ∨ c.state = .mobile ∨ c.state = .closing →
      Refuses (.add l [.number x, .absent, .set b]) l s .wrongState [] ∧ Refuses (.hold l [.number x]) l s .wrongState [])
    ∧ (c.state ≠ .inOpen → Refuses (.commit l [.number x]) l s .wrongState [])
    ∧ (c.state ≠ .held → Refuses (.resume l [.number x]) l s .wrongState [])
    ∧ (c.state = .closing → Refuses (.standDown l [.number x]) l s .wrongState [])
    ∧ (c.hasAppliance ap = false → Refuses (.depart .console [.number x, .text [ap.letter]]) .console s .notFound [])
    ∧ (c.hasAppliance ap = true →
      c.state = .inOpen ∨ c.state = .held ∨ c.state = .mobile ∨ c.state = .closing
        ∨ (∀ e ∈ c.appliances, e.letter = ap → e.departed = true) →
      Refuses (.depart .console [.number x, .text [ap.letter]]) .console s .wrongState []) := by
  have hw (l : Line) (code : Byte) (ops : List Operand) : (s.toPart.working l code ops).lookup x.toInt = some (i, c) :=
    (s.toPart.working_lookup l code ops x.toInt).trans hf
  have hdepart : departOrder .console 2 [.number x, .text [ap.letter]] (s.toPart.working .console 20#8 _)
      = (s.toPart.working .console 20#8 [.number x, .text [ap.letter]]).departFrom i c ap :=
    (departOrder_of_read (ops := [.number x, .text [ap.letter]]) le_rfl rfl (needLetter_eq_some.mpr rfl)).trans
      (by rw [hw])
  refine ⟨fun h => ⟨refuses_of_rule hs rfl ?_, refuses_of_rule hs rfl (holdOrder_of_named.trans ?_)⟩,
    fun h => refuses_of_rule hs rfl (commitOrder_of_named.trans ?_),
    fun h => refuses_of_rule hs rfl (resumeOrder_of_named.trans ?_),
    fun h => refuses_of_rule hs rfl (standDownOrder_of_named.trans ?_),
    fun h => refuses_of_rule hs rfl (hdepart.trans ?_), fun ha h => refuses_of_rule hs rfl (hdepart.trans ?_)⟩
  · refine (addOrder_of_read (ops := [.number x, .absent, .set b]) le_rfl rfl rfl rfl).trans ((if_neg (by simp)).trans ?_)
    rw [hw]
    show Part.addTo i c none b _ = _
    unfold Part.addTo
    rcases h with h | h | h <;> simp only [h] <;> rfl
  · rw [hw]
    rcases h with h | h | h <;> simp only [h] <;> rfl
  · rw [hw]
    exact if_neg h
  · rw [hw]
    dsimp only
    split
    · next hst _ => exact absurd hst h
    · rfl
  · rw [hw]
    simp only [h]
    rfl
  · rw [Part.departFrom, hasAppliance_eq_false.mp h] <;> rfl
  · rw [Part.departFrom]
    cases he : c.appliances.find? fun e => e.letter == ap with
    | none => exact absurd ha (by rw [hasAppliance_eq_false.mpr he]; nofun)
    | some e =>
      rcases h with h | h | h | h | h
      iterate 4 rw [h] <;> rfl
      have hd := h e (List.mem_of_find?_eq_some he) (by simpa using List.find?_some he)
      cases hst : c.state <;> simp [hd] <;> rfl

theorem ordersNamed_notFound {s : State} {l : Line} {x : BitVec 32} {b : GroupSet} {ap : Appliance}
    (hs : s.condition = .running) (hf : s.toPart.lookup x.toInt = none) :
    Refuses (.add l [.number x, .absent, .set b]) l s .notFound [] ∧ Refuses (.commit l [.number x]) l s .notFound []
    ∧ Refuses (.hold l [.number x]) l s .notFound [] ∧ Refuses (.resume l [.number x]) l s .notFound []
    ∧ Refuses (.standDown l [.number x]) l s .notFound []
    ∧ Refuses (.depart .console [.number x, .text [ap.letter]]) .console s .notFound [] := by
  have hw (l : Line) (code : Byte) (ops : List Operand) : (s.toPart.working l code ops).lookup x.toInt = none :=
    (s.toPart.working_lookup l code ops x.toInt).trans hf
  refine ⟨refuses_of_rule hs rfl ?_, refuses_of_rule hs rfl (commitOrder_of_named.trans (by rw [hw] <;> rfl)),
    refuses_of_rule hs rfl (holdOrder_of_named.trans (by rw [hw] <;> rfl)),
    refuses_of_rule hs rfl (resumeOrder_of_named.trans (by rw [hw] <;> rfl)),
    refuses_of_rule hs rfl (standDownOrder_of_named.trans (by rw [hw] <;> rfl)), refuses_of_rule hs rfl ?_⟩
  · exact (addOrder_of_read (ops := [.number x, .absent, .set b]) le_rfl rfl rfl rfl).trans
      ((if_neg (by simp)).trans (by rw [hw] <;> rfl))
  · exact (departOrder_of_read (ops := [.number x, .text [ap.letter]]) le_rfl rfl (needLetter_eq_some.mpr rfl)).trans
      (by rw [hw] <;> rfl)

theorem ordersNamed_badOperand {s : State} {l : Line} {ops : List Operand} (hs : s.condition = .running) :
    (1 < ops.length ∨ ¬ NumberOrAbsent (operandAt ops 0) ∨ operandAt ops 0 = .absent →
      Refuses (.commit l ops) l s .badOperand [] ∧ Refuses (.hold l ops) l s .badOperand []
      ∧ Refuses (.resume l ops) l s .badOperand [] ∧ Refuses (.standDown l ops) l s .badOperand [])
    ∧ (3 < ops.length ∨ ¬ NumberOrAbsent (operandAt ops 0) ∨ operandAt ops 0 = .absent ∨ ¬ AbsentOrIn (operandAt ops 1) 1 48
        ∨ (∀ b, operandAt ops 2 ≠ optionalSet b) →
      Refuses (.add l ops) l s .badOperand [])
    ∧ (2 < ops.length ∨ ¬ NumberOrAbsent (operandAt ops 0) ∨ operandAt ops 0 = .absent
        ∨ (∀ ap : Appliance, operandAt ops 1 ≠ .text [ap.letter]) →
      Refuses (.depart .console ops) .console s .badOperand [])
    ∧ (4 < ops.length ∨ ¬ NumberIn (operandAt ops 0) 1 128 ∨ ¬ NumberIn (operandAt ops 1) 1 255
        ∨ ¬ NumberIn (operandAt ops 2) 0 1 ∨ ¬ NumberOrAbsent (operandAt ops 3)
        ∨ (∃ x, operandAt ops 3 = .number x ∧ x.toInt < 0) →
      l ≠ .console → Refuses (.relayResponse l ops) l s .badOperand [])
    ∧ (2 < ops.length ∨ ¬ NumberIn (operandAt ops 0) 1 128 ∨ ¬ AbsentOrIn (operandAt ops 1) 1 255 →
      Refuses (.bookOn .console ops) .console s .badOperand []) := by
  have unnamed (h : ¬ NumberOrAbsent (operandAt ops 0) ∨ operandAt ops 0 = .absent) (x : BitVec 32) :
      operandAt ops 0 ≠ .number x := fun e => by
    rcases h with h | h <;> rw [e] at h
    · exact h trivial
    · cases h
  have named {body : SlotId → Callout → Verdict} {p : Part}
      (h : 1 < ops.length ∨ ¬ NumberOrAbsent (operandAt ops 0) ∨ operandAt ops 0 = .absent) :
      checked (anyLine l) 1 ops.length (onCallout ops p body) = badOperand := by
    by_cases hlen : 1 < ops.length
    · exact checked_anyLine_of_lt hlen
    · rw [checked_anyLine_of_le (by omega) (by omega), onCallout_badOperand (unnamed (h.resolve_left hlen))]
  refine ⟨fun h => ⟨refuses_of_rule hs rfl (named h), refuses_of_rule hs rfl (named h),
    refuses_of_rule hs rfl (named h), refuses_of_rule hs rfl (named h)⟩,
    fun h => refuses_of_rule hs rfl (addOrder_badOperand ?_), fun h => refuses_of_rule hs rfl (departOrder_badOperand ?_),
    fun h hl => refuses_of_rule hs rfl ?_, fun h => refuses_of_rule hs rfl (bookOnOrder_badOperand ?_)⟩
  · rw [needNumber_eq_none, optIndex_eq_none, optSet_eq_none]
    rcases h with h | h | h | h
    · exact .inl h
    · exact .inr (.inl (unnamed (.inl h)))
    · exact .inr (.inl (unnamed (.inr h)))
    · exact .inr (.inr h)
  · rw [needNumber_eq_none, needLetter_eq_none]
    rcases h with h | h | h | h
    · exact .inl h
    · exact .inr (.inl (unnamed (.inl h)))
    · exact .inr (.inl (unnamed (.inr h)))
    · exact .inr (.inr h)
  · by_cases hread : 4 < ops.length ∨ needIndex ops 0 128 1 = none ∨ needWithin ops 1 1 255 = none
        ∨ needWithin ops 2 0 1 = none ∨ optNumber ops 3 = none
    · exact relayOrder_badOperand hl hread
    · rw [needIndex_eq_none, needWithin_eq_none, needWithin_eq_none, optNumber_eq_none_iff] at hread
      obtain ⟨x, hx, hneg⟩ : ∃ x, operandAt ops 3 = .number x ∧ x.toInt < 0 := by
        push Not at hread
        obtain ⟨hlen, h0, h1, h2, h3⟩ := hread
        rcases h with h | h | h | h | h | h
        · omega
        · exact absurd h0 h
        · exact absurd h1 h
        · exact absurd h2 h
        · exact absurd h3 h
        · exact h
      rw [← needIndex_eq_none, ← needWithin_eq_none, ← needWithin_eq_none] at hread
      simp only [not_or, ← ne_eq, Option.ne_none_iff_exists'] at hread
      obtain ⟨hlen, ⟨m, h0⟩, ⟨n, h1⟩, ⟨code, h2⟩, -⟩ := hread
      exact (relayOrder_of_read hl (by omega) h0 h1 h2 (optNumber_of_number hx)).trans (if_pos hneg)
  · rw [needIndex_eq_none, optWithin_eq_none]
    exact h

theorem responses_byState {s : State} {l : Line} {m : MemberId} {n : CalloutNo} {code : Nat} {eta : Option (BitVec 32)}
    {given : List Operand} (hs : s.condition = .running) (hn : n ≠ 0#8) (hcode : code ≤ 1) (heta : ∀ v ∈ eta, 0 ≤ v.toInt)
    (hsp : Spells [num (m.val + 1), num n.toNat, num code, optionalNumber eta] given) :
    (s.toPart.member? m = none ∨ s.toPart.lookup n.toNat = none →
      (l ≠ .console → Refuses (.relayResponse l given) l s .notFound [])
      ∧ Refuses (.bookOn .console [num (m.val + 1), num n.toNat]) .console s .notFound [])
    ∧ ∀ x i c, s.toPart.member? m = some x → s.toPart.lookup n.toNat = some (i, c) →
      (c.state = .closing → l ≠ .console → Refuses (.relayResponse l given) l s .wrongState [])
      ∧ (c.state = .closing ∨ c.state = .mobile ∨ x.availability = .withheld →
        Refuses (.bookOn .console [num (m.val + 1), num n.toNat]) .console s .wrongState []) := by
  have hm := m.isLt
  have hn0 : 1 ≤ n.toNat ∧ n.toNat ≤ 255 := by
    have := n.isLt
    have : n.toNat ≠ 0 := fun h => hn (BitVec.eq_of_toNat_eq h)
    omega
  have r0 : needIndex given 0 128 1 = some m := (needIndex_eq_some (by omega)).mpr (hsp.at 0)
  have r1 : needWithin given 1 1 255 = some n.toNat := (needWithin_eq_some (by omega)).mpr ⟨hsp.at 1, hn0⟩
  have r2 : needWithin given 2 0 1 = some code := (needWithin_eq_some (by omega)).mpr ⟨hsp.at 2, by omega, hcode⟩
  have r3 : optNumber given 3 = some (eta.map BitVec.toInt) := optNumber_of_optional (hsp.at 3)
  have hpos : ¬ (eta.map BitVec.toInt).getD 0 < 0 := by
    cases eta with
    | none => simp
    | some v => simpa using heta v rfl
  have relay (p : Part) (hl : l ≠ .console) := (relayOrder_of_read (p := p) hl hsp.length_le r0 r1 r2 r3).trans (if_neg hpos)
  have book (p : Part) := bookOnOrder_of_named (p := p) (ops := [num (m.val + 1), num n.toNat]) le_rfl
    ((needIndex_eq_some (by omega)).mpr rfl) ((optWithin_eq_some (x := some n.toNat) (by omega)).mpr
      ⟨rfl, fun y hy => by cases hy; exact hn0⟩)
  refine ⟨fun h => ⟨fun hl => refuses_of_rule hs rfl ((relay _ hl).trans ?_), refuses_of_rule hs rfl ((book _).trans ?_)⟩,
    fun x i c hx hf => ⟨fun hcl hl => refuses_of_rule hs rfl ((relay _ hl).trans ?_),
      fun h => refuses_of_rule hs rfl ((book _).trans ?_)⟩⟩
  · rw [Part.working_member?, Part.working_lookup]
    by_cases hnone : s.toPart.member? m = none
    · rw [hnone]
      rfl
    · rw [h.resolve_left hnone, if_neg (by simpa using hnone)] <;> rfl
  · rw [Part.working_member?, Part.working_lookup]
    rcases h with h | h
    · rw [h] <;> rfl
    · rw [h]
      cases s.toPart.member? m <;> rfl
  · rw [Part.working_member?, Part.working_lookup, hx, hf, if_neg (by simp)]
    exact if_pos hcl
  · rw [Part.working_member?, Part.working_lookup, hx, hf]
    refine if_pos ?_
    rcases h with h | h | h
    · exact .inr (.inl h)
    · exact .inl h
    · exact .inr (.inr (.inl h))

/-- A BOOK-ON finds a callout to choose just when the member is engaged on a live one, or one alone is bookable (R81). -/
theorem chooseBooking_ne_none (p : Part) (m : MemberId) : p.chooseBooking m ≠ none ↔
    (∃ x n j, p.member? m = some x ∧ x.engaged = some n ∧ p.findCallout n = some j)
      ∨ ∃ j, (∃ d, p.callout? j = some d
          ∧ (d.state = .alerting ∨ d.state = .counting ∨ d.state = .crewed ∨ d.state = .held))
        ∧ ∀ k, (∃ d, p.callout? k = some d
          ∧ (d.state = .alerting ∨ d.state = .counting ∨ d.state = .crewed ∨ d.state = .held)) → k = j := by
  have hbook (st : CalloutState) :
      st.bookable = true ↔ st = .alerting ∨ st = .counting ∨ st = .crewed ∨ st = .held := by
    cases st <;> simp [CalloutState.bookable]
  have hmem (j : SlotId) (d : Callout) : (j, d) ∈ p.live.filter (fun ic => ic.2.state.bookable) ↔ p.callout? j = some d
      ∧ (d.state = .alerting ∨ d.state = .counting ∨ d.state = .crewed ∨ d.state = .held) := by
    rw [List.mem_filter, mem_live, hbook]
  unfold Part.chooseBooking
  cases he : ((p.member? m).bind Member.engaged).bind p.findCallout with
  | some i =>
    obtain ⟨n, hn, hi⟩ := Option.bind_eq_some_iff.mp he
    obtain ⟨x, hx, hn⟩ := Option.bind_eq_some_iff.mp hn
    obtain ⟨c, hc, -⟩ := Part.findLive_eq_some hi
    exact iff_of_true (by simp [hc]) (.inl ⟨x, n, i, hx, hn, hi⟩)
  | none =>
    have hfree : ¬ ∃ x n j, p.member? m = some x ∧ x.engaged = some n ∧ p.findCallout n = some j := by
      rintro ⟨x, n, j, hx, hn, hj⟩
      rw [hx, Option.bind_some, hn, Option.bind_some, hj] at he
      cases he
    rw [or_iff_right hfree]
    have hslots : ((p.live.filter fun ic => ic.2.state.bookable).map Prod.fst).Nodup :=
      (p.live_slots_nodup).sublist (List.filter_sublist.map _)
    dsimp only
    rcases hl : p.live.filter fun ic => ic.2.state.bookable with _ | ⟨⟨j, d⟩, _ | ⟨⟨k, e⟩, rest⟩⟩
    · refine iff_of_false (by rw [hl]; simp) ?_
      rintro ⟨j, ⟨d, hd⟩, -⟩
      exact List.not_mem_nil (hl ▸ (hmem j d).mpr hd)
    · refine iff_of_true (by rw [hl]; simp) ⟨j, ⟨d, (hmem j d).mp (hl ▸ List.mem_cons_self)⟩, ?_⟩
      rintro k ⟨e, he⟩
      have := (hmem k e).mpr he
      rw [hl, List.mem_singleton] at this
      exact congrArg Prod.fst this
    · refine iff_of_false (by rw [hl]; simp) ?_
      rintro ⟨i, -, huniq⟩
      have hj := huniq j ⟨d, (hmem j d).mp (hl ▸ List.mem_cons_self)⟩
      have hk := huniq k ⟨e, (hmem k e).mp (hl ▸ List.mem_cons_of_mem _ List.mem_cons_self)⟩
      rw [hl] at hslots
      simp [hj, hk] at hslots

theorem bookOn_unnamed {s : State} {ops : List Operand} {m : MemberId} (hs : s.condition = .running)
    (hsp : Spells [num (m.val + 1), .absent] ops) :
    (s.toPart.chooseBooking m = none → Refuses (.bookOn .console ops) .console s .badOperand [])
    ∧ (s.toPart.chooseBooking m ≠ none → s.toPart.member? m = none →
      Refuses (.bookOn .console ops) .console s .notFound []) := by
  have hm := m.isLt
  have rule (p : Part) : bookOnOrder .console ops.length ops p = match p.chooseBooking m with
      | none => badOperand
      | some ic => match p.member? m with
        | none => refuse .notFound
        | some x => p.bookOnTo m x .console ic := by
    have hlen : ops.length ≤ 2 := hsp.length_le
    unfold bookOnOrder
    rw [checked_of_le (by omega) hlen, (needIndex_eq_some (by omega)).mpr (hsp.at 0),
      (optWithin_eq_some (x := none) (by omega)).mpr ⟨hsp.at 1, nofun⟩] <;> rfl
  have hchoose (l : Line) (code : Byte) : (s.toPart.working l code ops).chooseBooking m = s.toPart.chooseBooking m := by
    rw [s.toPart.working_frame]
    rfl
  refine ⟨fun h => refuses_of_rule hs rfl ((rule _).trans ?_), fun h hnone => refuses_of_rule hs rfl ((rule _).trans ?_)⟩
  · rw [hchoose, h] <;> rfl
  · obtain ⟨ic, hic⟩ := Option.ne_none_iff_exists'.mp h
    rw [hchoose, hic, Part.working_member?, hnone] <;> rfl

/-- Settles O54. -/
theorem ordersByState : Obligations.OrdersByState := by
  unfold Obligations.OrdersByState
  refine ⟨fun s l x b ap hs => ?_, fun s l m n code eta given hs hn hcode heta hsp => ?_, fun s l ops hs => ?_⟩
  · intro n
    cases hf : s.toPart.lookup x.toInt with
    | none => exact ordersNamed_notFound hs hf
    | some ic =>
      obtain ⟨i, c⟩ := ic
      exact ⟨hold_answers hs hf, resume_answers hs hf, ordersNamed_byState hs hf⟩
  · exact responses_byState hs hn hcode heta hsp
  · obtain ⟨hnamed, hadd, hdepart, hrelay, hbook⟩ := ordersNamed_badOperand (l := l) (ops := ops) hs
    refine ⟨hnamed, hadd, hdepart, hrelay, hbook, fun m hsp => ?_⟩
    intro bookable engaged chosen
    have hiff : chosen ↔ s.toPart.chooseBooking m ≠ none := (chooseBooking_ne_none s.toPart m).symm
    rw [hiff, not_not]
    exact bookOn_unnamed hs hsp

end Sys2Proof.Machine

/-! The work that follows within an event (R135, R137, R148 to R152): how it goes on step by step, what reports that move
nothing of the page queue leave, and a turn taken. -/

namespace Sys2Proof.Machine
open Sys2Proof

variable {p q r : Part}

/-! ### Step by step -/

theorem Part.workFor_quiet (h : p.Quiet) (n : Nat) : Part.workFor n p = p := by
  cases n with
  | zero => rfl
  | succ n => rw [Part.workFor, show p.workStep = none from h]

theorem Part.workFor_add (m n : Nat) (p : Part) : Part.workFor (m + n) p = Part.workFor n (Part.workFor m p) := by
  induction m generalizing p with
  | zero => rw [Nat.zero_add, Part.workFor]
  | succ m ih =>
    rw [Nat.succ_add, Part.workFor, Part.workFor]
    cases h : p.workStep with
    | none => exact (Part.workFor_quiet h n).symm
    | some q => exact ih q

theorem Part.work_quiet (p : Part) : p.work.Quiet := Part.workFor_done p.workLeft p le_rfl

theorem Part.workFor_enough {n : Nat} (h : p.workLeft ≤ n) : Part.workFor n p = p.work := by
  rw [← Nat.add_sub_of_le h, Part.workFor_add]
  exact Part.workFor_quiet p.work_quiet _

theorem Part.work_of_quiet (h : p.Quiet) : p.work = p := Part.workFor_quiet h _

theorem Part.work_of_step (h : p.workStep = some q) : p.work = q.work := by
  have hle := Part.workStep_workLeft h
  have hfirst : Part.workFor (p.workLeft - 1 + 1) p = Part.workFor (p.workLeft - 1) q := by
    rw [Part.workFor, h]
  rw [Part.work, ← Nat.sub_add_cancel (show 1 ≤ p.workLeft by omega), hfirst]
  exact Part.workFor_enough (by omega)

theorem Part.finish_of_step (h : p.workStep = some q) : p.finish = q.finish :=
  congrArg Part.refreshLamps (Part.work_of_step h)

/-- What every step of work keeps, all of it keeps. -/
theorem Part.work_keeps {I : Part → Prop} (step : ∀ p q, p.workStep = some q → I p → I q) (h : I p) : I p.work := by
  unfold Part.work
  generalize p.workLeft = n
  induction n generalizing p with
  | zero => exact h
  | succ n ih =>
    rw [Part.workFor]
    cases hs : p.workStep with
    | none => exact h
    | some q => exact ih (step p q hs h)

theorem Part.quiet_of_busy (hr : p.pages.reports = []) (hs : p.sites.sequencer ≠ .idle) : p.Quiet :=
  p.quiet_iff.mpr ⟨hr, fun h => absurd h hs⟩

theorem Part.quiet_of_empty (hr : p.pages.reports = []) (hq : p.pages.queue = []) : p.Quiet :=
  p.quiet_iff.mpr ⟨hr, fun _ b rest h => by rw [hq] at h; cases h⟩

theorem Part.Quiet.reports (h : p.Quiet) : p.pages.reports = [] := (p.quiet_iff.mp h).1

/-! ### Reports that move nothing of the page queue -/

/-- Only the table of callouts and the lines have changed. -/
def Light (p q : Part) : Prop :=
  q = { p with
    table := q.table
    lines := q.lines }

namespace Light

theorem refl (p : Part) : Light p p := rfl

theorem trans (h : Light p q) (k : Light q r) : Light p r := by
  unfold Light at *
  rw [k, h]

theorem modify (i : SlotId) (f : Callout → Callout) (p : Part) : Light p (p.modify i f) := by
  rw [p.modify_eq i f]
  rfl

theorem raise (n : Notice) (p : Part) : Light p (p.raise n) := rfl

theorem degrade (i : SlotId) (p : Part) : Light p (p.degrade i) := (modify i _ p).trans (raise _ _)

theorem samePages (h : Light p q) : SamePages p q := by
  unfold Light at h
  rw [h]
  exact ⟨rfl, rfl⟩

theorem sites (h : Light p q) : q.sites = p.sites := h.samePages.2

theorem pages (h : Light p q) : q.pages = p.pages := h.samePages.1

theorem pins (h : Light p q) : q.pins = p.pins := by
  unfold Light at h
  rw [h]

theorem supply (h : Light p q) : q.supply = p.supply := by
  unfold Light at h
  rw [h]

end Light

/-- A report whose taking writes at most the record of its callout: a pass, a withdrawal's end, and the end of a batch that
sets nothing off. -/
def Report.light : Report → Prop
  | .pass _ _ _ => True
  | .ended _ kind form _ => form = .withdrawn ∨ (kind ≠ .alert ∧ kind ≠ .standDown)

theorem Part.batchEnded_light (i : SlotId) {kind : BatchKind} (h : kind ≠ .alert ∧ kind ≠ .standDown) (p : Part) :
    p.batchEnded i kind = p := by
  unfold Part.batchEnded
  split
  · rfl
  · cases kind with
    | alert => exact absurd rfl h.1
    | standDown => exact absurd rfl h.2
    | supplement | repage | escalate | release => rfl

theorem Part.takeReport_light {x : Report} (h : x.light) (p : Part) : Light p (p.takeReport x) := by
  unfold Part.takeReport
  split
  · split
    · exact .refl p
    · split
      · exact .modify _ _ p
      · exact .refl p
  · next o kind form failed =>
    split
    · exact .refl p
    · next i _ =>
      have hfailed : Light p (if failed = true then p.degrade i else p) := by
        split
        · exact .degrade i p
        · exact .refl p
      rcases h with rfl | h
      · exact hfailed
      · cases form with
        | withdrawn => exact hfailed
        | complete | dropped =>
          show Light p (Part.batchEnded i kind _)
          rw [Part.batchEnded_light i h]
          exact hfailed

/-- The part once all its reports have been taken off. -/
def Part.withoutReports (p : Part) : Part :=
  { p with pages := { p.pages with reports := [] } }

/-- Reports of the light kind are taken first, and the work goes on with the page queue as it was. -/
theorem Part.work_light (h : ∀ x ∈ p.pages.reports, x.light) : ∃ q, p.work = q.work ∧ Light p.withoutReports q := by
  generalize hl : p.pages.reports = l at h
  induction l generalizing p with
  | nil => exact ⟨p, rfl, by unfold Part.withoutReports; rw [← hl]; exact .refl p⟩
  | cons x rest ih =>
    have hstep := Part.workStep_reports hl
    have hlight := Part.takeReport_light (h x List.mem_cons_self) { p with pages := { p.pages with reports := rest } }
    obtain ⟨q, hq, hqlight⟩ := ih (p := Part.takeReport x { p with pages := { p.pages with reports := rest } })
      (by rw [hlight.pages]) fun y hy => h y (List.mem_cons_of_mem _ hy)
    refine ⟨q, (Part.work_of_step hstep).trans hq, Light.trans ?_ hqlight⟩
    unfold Light at hlight ⊢
    unfold Part.withoutReports
    rw [hlight]

/-! ### A turn taken (R148 to R150) -/

section
variable {b : Batch} {rest : List Batch} {e : SiteEntry} {more : List SiteEntry}

theorem Part.clearCheck_eq (hq : p.pages.queue = b :: rest) (k : SiteId) : p.clearCheck k =
    if p.pins.channelClear.get k = true then { p with
      pages := { p.pages with queue := { b with started := true } :: rest }
      sites := { p.sites with
        records := p.sites.records.set k { p.sites.records.get k with
          credit := (p.sites.records.get k).credit - airtime (p.sites.records.get k).leadIn b.pages }
        sequencer := .leadIn k false (p.sites.records.get k).leadIn } }
    else { p with sites := { p.sites with sequencer := .clearWait k ((p.sites.records.get k).clearWait * 100) } } := by
  unfold Part.clearCheck
  rw [Part.keySite_eq hq]
  rfl

theorem Part.work_turn (hr : p.pages.reports = []) (hs : p.sites.sequencer = .idle) (hq : p.pages.queue = b :: rest)
    (hrem : b.remaining = e :: more) (hw : b.withdrawing = false) (hin : p.inhibited e.site = false)
    (hcost : p.turnCost e.site b.pages ≤ (p.sites.records.get e.site).credit)
    (hcredit : (p.sites.records.get e.site).credit ≤ (p.sites.records.get e.site).ceiling) :
    p.work = p.clearCheck e.site := by
  have hturn : p.turn = p.clearCheck e.site := by
    have hin' : ¬ (p.supply.state = .reserve ∧ (p.sites.records.get e.site).stationPowered = true) := by
      rw [← Part.inhibited_iff, hin]
      nofun
    have hceiling := hcost.trans hcredit
    unfold Part.turnCost at hcost hceiling
    rw [Part.turn_eq hq hrem, if_neg hin', if_neg (by omega), if_neg (by omega)]
  have hstep := Part.workStep_turn hr hs hq (by rw [hrem]; nofun) hw
  rw [Part.work_of_step hstep, hturn, Part.work_of_quiet]
  refine Part.quiet_of_busy ?_ ?_
  · rw [Part.clearCheck_eq hq]
    split <;> exact hr
  · rw [Part.clearCheck_eq hq]
    split <;> nofun

/-- What a turn with credit enough leaves, as seen from a part with the same sites and pins. -/
theorem Part.clearCheck_turnBegun {s : Part} (hq : p.pages.queue = b :: rest) {k : SiteId}
    (hrecords : p.sites.records = s.sites.records) (hpins : p.pins.channelClear = s.pins.channelClear) :
    TurnBegun k b.pages s (p.clearCheck k).refreshLamps
      ∧ (p.clearCheck k).pages.queue = { b with started := b.started || s.pins.channelClear.get k } :: rest := by
  rw [Part.clearCheck_eq hq, hpins, hrecords]
  unfold TurnBegun
  by_cases hclear : s.pins.channelClear.get k = true
  · simp only [hclear, Bool.or_true]
    refine ⟨⟨rfl, ?_⟩, rfl⟩
    show ((s.sites.records.set k _).get k).credit = _
    rw [Table.get_set_self]
    rfl
  · simp only [Bool.eq_false_of_not_eq_true hclear, Bool.or_false]
    exact ⟨⟨rfl, hrecords⟩, hq⟩

end

/-- A current batch goes on once the reports before it have been taken. -/
theorem Part.goesOn_finish {s : Part} {b : Batch} {rest : List Batch} (hlight : ∀ x ∈ p.pages.reports, x.light)
    (hs : p.sites.sequencer = .idle) (hq : p.pages.queue = b :: rest) (hw : b.withdrawing = false)
    (hrecords : p.sites.records = s.sites.records) (hpins : p.pins.channelClear = s.pins.channelClear) : GoesOn b rest s p.finish := by
  intro e more hrem hin hcost hcredit
  obtain ⟨q, hwork, hlight⟩ := Part.work_light hlight
  have hsites : q.sites = p.sites := hlight.sites
  have hqueue : q.pages.queue = b :: rest := (congrArg PageQueue.queue hlight.pages).trans hq
  have hinhibited : q.inhibited e.site = false := by
    rw [← hin]
    have hframe := p.finish_work.1
    have hpowered : (p.work.sites.records.get e.site).stationPowered = (p.sites.records.get e.site).stationPowered :=
      congrArg StoredSite.stationPowered (hframe.sites e.site)
    show _ = (p.work.supply.state == .reserve && (p.work.sites.records.get e.site).stationPowered)
    rw [Part.inhibited, hlight.supply, hsites, hframe.supply, hpowered]
    rfl
  have hturn : p.work = q.clearCheck e.site := by
    refine hwork.trans (Part.work_turn ?_ (by rw [hsites, hs]) hqueue hrem hw hinhibited ?_ ?_)
    · rw [hlight.pages]
      rfl
    · unfold Part.turnCost at hcost ⊢
      rw [hsites, hrecords]
      exact hcost
    · rw [hsites, hrecords]
      exact hcredit
  have hbegun := q.clearCheck_turnBegun (s := s) hqueue (k := e.site) (by rw [hsites, hrecords])
    (by rw [hlight.pins]; exact hpins)
  unfold Part.finish
  rw [hturn]
  exact hbegun

/-! ### Demands handed over (R131 to R134, R147 to R150) -/

theorem Part.finish_quiet_pages (h : p.Quiet) : p.finish.pages = p.pages := by
  rw [Part.finish_quiet h]
  rfl

/-- A part stays without work left over when its queue keeps its head. -/
theorem Part.Quiet.of_head (h : p.Quiet) (hr : q.pages.reports = []) (hs : q.sites.sequencer = p.sites.sequencer)
    (hq : ∀ b rest, q.pages.queue = b :: rest → ∃ rest', p.pages.queue = b :: rest') : q.Quiet := by
  refine q.quiet_iff.mpr ⟨hr, fun hidle b rest hb => ?_⟩
  obtain ⟨rest', hb'⟩ := hq b rest hb
  exact (p.quiet_iff.mp h).2 (hs ▸ hidle) b rest' hb'

section
variable {d : Demand} {s : Part}

theorem Part.batchFor_remaining (s : Part) (d : Demand) :
    (s.batchFor d).remaining = (s.nextSites d).map fun k => { site := k, condition := .toServe } := by
  unfold Batch.remaining Part.batchFor
  rw [List.filter_eq_self]
  intro e he
  obtain ⟨k, -, rfl⟩ := List.mem_map.mp he
  rfl

theorem Part.not_inhibited_of_nextSites {k : SiteId} (h : k ∈ s.nextSites d) : s.inhibited k = false := by
  have := (List.mem_filter.mp (List.mem_filter.mp h).1).2
  simp only [Bool.and_eq_true, Bool.not_eq_true'] at this
  exact this.2

theorem Part.demand_of_room (hd : s.pages.demands = []) (hroom : s.pages.room d = true) : s.demand d = s.admission d := by
  unfold Part.demand
  rw [if_pos (by simp [hd, hroom])]

theorem Part.demand_of_wait (h : s.pages.demands ≠ [] ∨ s.pages.room d = false) (hlen : s.pages.demands.length < 16) :
    s.demand d = s.setDemands (s.pages.demands ++ [d]) := by
  unfold Part.demand
  refine (if_neg ?_).trans ((if_pos hlen).trans rfl)
  rcases h with h | h <;> simp [h]

theorem Part.admission_enters (hpages : (s.batchFor d).pages ≠ []) (hsites : (s.batchFor d).sites ≠ []) :
    s.admission d = { s with
      sites := { s.sites with direction := s.sites.direction.flip }
      pages := { s.pages with queue := s.pages.queue ++ [s.batchFor d] } } := by
  have hp : s.formPages d ≠ [] := hpages
  have hn : s.nextSites d ≠ [] := fun h => hsites (by rw [Part.batchFor, h]; rfl)
  rw [Part.admission_eq, if_neg hp, if_neg hn]

/-- A command that hands over demand `d` and moves nothing else of page queue, sites, pins and supply. -/
theorem Part.handed_finish (hquiet : s.Quiet) (hp : SamePages (s.demand d) p) (hpins : p.pins.channelClear = s.pins.channelClear)
    (hsupply : p.supply = s.supply) : Handed d s p.finish := by
  unfold Handed
  intro b hpages hsites
  refine ⟨fun hq hd hroom => ⟨[], ?_⟩, fun hq hwait hlen => ⟨[], ?_⟩, fun hq hd hroom hidle k rest hk hcost hcredit => ?_⟩
  · rw [Part.demand_of_room hd hroom, Part.admission_enters hpages hsites] at hp
    obtain ⟨x, more, hx⟩ := List.exists_cons_of_ne_nil hq
    have : p.Quiet := hquiet.of_head (by rw [hp.1]; exact hquiet.reports) (by rw [hp.2]) fun y rest hy => by
      rw [hp.1] at hy
      simp only [hx, List.cons_append, List.cons.injEq] at hy
      exact ⟨more, by rw [hx, hy.1]⟩
    rw [Part.finish_quiet_pages this, hp.1]
  · rw [Part.demand_of_wait hwait hlen] at hp
    have : p.Quiet := hquiet.of_head (by rw [hp.1]; exact hquiet.reports) (by rw [hp.2]; rfl) fun y rest hy =>
      ⟨rest, by rw [hp.1] at hy; exact hy⟩
    rw [Part.finish_quiet_pages this, hp.1]
    rfl
  · rw [Part.demand_of_room hd hroom, Part.admission_enters hpages hsites] at hp
    have hqueue : p.pages.queue = b :: [] := by
      rw [hp.1]
      show s.pages.queue ++ [b] = [b]
      rw [hq]
      rfl
    have hrem : b.remaining = { site := k, condition := .toServe } :: rest.map fun k => { site := k, condition := .toServe } := by
      rw [Part.batchFor_remaining, hk]
      rfl
    have hin : p.inhibited k = false := by
      rw [← Part.not_inhibited_of_nextSites (s := s) (d := d) (hk ▸ List.mem_cons_self), Part.inhibited, Part.inhibited, hsupply,
        hp.2]
    have hturn := Part.work_turn (by rw [hp.1]; exact hquiet.reports) (by rw [hp.2]; exact hidle) hqueue hrem rfl hin
      (by unfold Part.turnCost at hcost ⊢; rw [hp.2]; exact hcost) (by rw [hp.2]; exact hcredit)
    have hbegun := p.clearCheck_turnBegun (s := s) hqueue (k := k) (by rw [hp.2]) hpins
    unfold Part.finish
    rw [hturn]
    exact ⟨hbegun.1, [], hbegun.2⟩

end

end Sys2Proof.Machine

/-! The reports of the page queue at their callouts, and the end of a pass (R15, R32, R136, R137, R140, R151). -/

namespace Sys2Proof.Machine
open Sys2Proof

variable {p q : Part} {i j : SlotId} {c : Callout}

/-! ### A callout withdrawn for, and made FREE -/

/-- The callout with TX_DEGRADED set if `b` holds. -/
def Callout.degradedIf (b : Bool) (c : Callout) : Callout :=
  { c with flags := { c.flags with txDegraded := c.flags.txDegraded || b } }

theorem Callout.degradedIf_false (c : Callout) : c.degradedIf false = c := by
  unfold Callout.degradedIf
  rw [Bool.or_false]

theorem Callout.degradedIf_true (c : Callout) :
    c.degradedIf true = c.withFlags fun f => { f with txDegraded := true } := by
  unfold Callout.degradedIf Callout.withFlags
  rw [Bool.or_true]

theorem Part.callout?_degradeIf (b : Bool) (p : Part) (i j : SlotId) : (if b = true then p.degrade i else p).callout? j
    = if i = j then (p.callout? j).map (Callout.degradedIf b) else p.callout? j := by
  cases b with
  | true =>
    rw [if_pos rfl, Part.callout?_degrade]
    congr 2
    funext c
    exact c.degradedIf_true.symm
  | false =>
    rw [if_neg (by simp)]
    split
    · cases p.callout? j with
      | none => rfl
      | some c => exact congrArg some c.degradedIf_false.symm
    · rfl

/-- What a callout's withdrawal leaves of the part: the page queue's part of it, and TX_DEGRADED if a batch that had failed
left. -/
theorem Part.withdrawFor_eq (hc : p.callout? i = some c) (ks : BatchKind → Bool) :
    p.withdrawFor i ks = ((p.withdraw c.owner ks).1,
      if (p.withdraw c.owner ks).1.any Returned.failed = true then (p.withdraw c.owner ks).2.degrade i
      else (p.withdraw c.owner ks).2) := by
  unfold Part.withdrawFor
  rw [hc]

theorem Part.callout?_withdraw (o : Owner) (ks : BatchKind → Bool) (p : Part) (j : SlotId) :
    (p.withdraw o ks).2.callout? j = p.callout? j :=
  (p.withdraw_onlyPages o ks).callout? j

theorem Part.callout?_withdrawFor (hc : p.callout? i = some c) (ks : BatchKind → Bool) :
    (p.withdrawFor i ks).2.callout? i = some (c.degradedIf ((p.withdraw c.owner ks).1.any Returned.failed)) := by
  rw [Part.withdrawFor_eq hc, Part.callout?_degradeIf, if_pos rfl, Part.callout?_withdraw, hc]
  rfl

theorem Part.callout?_withdrawFor_ne (h : i ≠ j) (ks : BatchKind → Bool) (p : Part) :
    (p.withdrawFor i ks).2.callout? j = p.callout? j := by
  cases hc : p.callout? i with
  | none =>
    unfold Part.withdrawFor
    rw [hc]
  | some c => rw [Part.withdrawFor_eq hc, Part.callout?_degradeIf, if_neg h, Part.callout?_withdraw]

/-- A callout made FREE: its summary, the free order, and the members and appliances let go (R1, R32, R35). -/
theorem Part.becomeFree_eq {d : Callout} (hd : (p.withdrawFor i everyKind).2.callout? i = some d) (endCode : Nat) :
    p.becomeFree i endCode =
      ((((p.withdrawFor i everyKind).2.disengageAll d.number).uncommitAll d.number).onTable fun t =>
        { t with slots := t.slots.set i (.free (some (d.summarise endCode))), freeOrder := t.freeOrder ++ [i] }).raise
          .callout := by
  unfold Part.becomeFree
  simp only [hd]

theorem Part.callout?_becomeFree_ne (h : i ≠ j) (endCode : Nat) (p : Part) :
    (p.becomeFree i endCode).callout? j = p.callout? j := by
  rw [← Part.callout?_withdrawFor_ne h everyKind p]
  cases hd : (p.withdrawFor i everyKind).2.callout? i with
  | none =>
    unfold Part.becomeFree
    simp only [hd]
  | some d =>
    rw [Part.becomeFree_eq hd, Part.callout?_raise]
    show (((p.withdrawFor i everyKind).2.table.slots.set i _).get j).callout? = _
    rw [Table.get_set_ne _ h]
    rfl

theorem Part.slot_becomeFree (hc : p.callout? i = some c) (endCode : Nat) : (p.becomeFree i endCode).slot i
    = .free (some ((c.degradedIf ((p.withdraw c.owner everyKind).1.any Returned.failed)).summarise endCode)) := by
  rw [Part.becomeFree_eq (Part.callout?_withdrawFor hc everyKind)]
  show ((p.withdrawFor i everyKind).2.table.slots.set i _).get i = _
  rw [Table.get_set_self]

theorem Part.mem_freeOrder_becomeFree (hc : p.callout? i = some c) (endCode : Nat) :
    i ∈ (p.becomeFree i endCode).table.freeOrder := by
  rw [Part.becomeFree_eq (Part.callout?_withdrawFor hc everyKind)]
  exact List.mem_append_right _ List.mem_cons_self

/-- A member after everyone engaged on a callout has been let go. -/
theorem Part.member?_disengageAll (n : CalloutNo) (m : MemberId) (p : Part) :
    (p.disengageAll n).member? m = (p.member? m).map (Member.leave n) :=
  Table.get_map _ _ _

theorem Member.leave_engaged (n : CalloutNo) (x : Member) : (x.leave n).engaged ≠ some n := by
  unfold Member.leave
  split
  · nofun
  · next h => exact h

theorem Part.engaged_becomeFree (hc : p.callout? i = some c) (endCode : Nat) {m : MemberId} {x : Member}
    (hx : (p.becomeFree i endCode).member? m = some x) : x.engaged ≠ some c.number := by
  rw [Part.becomeFree_eq (Part.callout?_withdrawFor hc everyKind)] at hx
  have hx : ((p.withdrawFor i everyKind).2.disengageAll c.number).member? m = some x := hx
  rw [Part.member?_disengageAll, Option.map_eq_some_iff] at hx
  obtain ⟨y, -, rfl⟩ := hx
  exact y.leave_engaged c.number

/-! ### Reports taken (R15, R136, R137) -/

theorem Part.modify_eq_set (hc : p.callout? i = some c) (f : Callout → Callout) :
    p.modify i f = { p with table := { p.table with slots := p.table.slots.set i (.live (f c)) } } :=
  Part.modify_of_callout hc f

theorem Part.set_self (hc : p.callout? i = some c) : p.table.slots.set i (.live c) = p.table.slots := by
  refine Table.ext_get fun j => ?_
  by_cases h : i = j
  · rw [← h, Table.get_set_self]
    exact ((p.callout?_eq i c).mp hc).symm
  · rw [Table.get_set_ne _ h]

/-- The slots and the notices once a batch of the callout has failed. -/
theorem Part.degradeIf_eq (hc : p.callout? i = some c) (b : Bool) : (if b = true then p.degrade i else p) = { p with
    lines := if b = true then (p.raise .tx).lines else p.lines
    table := { p.table with slots := p.table.slots.set i (.live (c.degradedIf b)) } } := by
  cases b with
  | true =>
    rw [if_pos rfl, if_pos rfl, Part.degrade, Part.modify_eq_set hc, c.degradedIf_true]
    rfl
  | false =>
    rw [if_neg (by simp), if_neg (by simp), c.degradedIf_false, Part.set_self hc]

section
variable {o : Owner}

theorem Part.takeReport_unowned (h : p.findOwner o = none) (outcome : PassOutcome) (groups : GroupSet) (kind : BatchKind)
    (form : EndForm) (failed : Bool) :
    p.takeReport (.pass o outcome groups) = p ∧ p.takeReport (.ended o kind form failed) = p := by
  simp only [Part.takeReport, h, and_self]

theorem Part.takeReport_pass (hi : p.findOwner o = some i) (outcome : PassOutcome) (groups : GroupSet) :
    p.takeReport (.pass o outcome groups)
      = if outcome.completed = true then p.modify i (Callout.markPaged groups) else p := by
  simp only [Part.takeReport, hi]

theorem Part.takeReport_ended (hi : p.findOwner o = some i) (kind : BatchKind) (form : EndForm) (failed : Bool) :
    p.takeReport (.ended o kind form failed) =
      if form = .withdrawn then (if failed = true then p.degrade i else p)
      else (if failed = true then p.degrade i else p).batchEnded i kind := by
  simp only [Part.takeReport, hi]
  cases form <;> rfl

end

/-- What an ALERT's end leaves of its callout (R15, R16, R18). -/
theorem Part.callout?_alertEnded (hc : p.callout? i = some c) : ∃ a, (p.alertEnded i).callout? i = some
    (if c.state = .alerting then
      ({ c with alertStatus := .ended, state := .counting, responseWindow := .start c.window } : Callout).outcomeTaken a
    else { c with alertStatus := .ended }) := by
  have hended : (p.modify i fun c => { c with alertStatus := .ended }).callout? i
      = some { c with alertStatus := .ended } := by
    rw [Part.callout?_modify_self, hc, Option.map_some]
  unfold Part.alertEnded
  simp only [hended]
  split
  next hs =>
    have hcounting : ((p.modify i fun c => { c with alertStatus := .ended }).enterCounting i).callout? i
        = some { c with alertStatus := .ended, state := .counting, responseWindow := .start c.window } := by
      rw [Part.callout?_enterCounting, if_pos rfl, hended]
      rfl
    exact Part.callout?_takeOutcome hcounting
  next => exact ⟨c.assessment, hended⟩

theorem Part.callout?_alertEnded_ne (h : i ≠ j) (p : Part) : (p.alertEnded i).callout? j = p.callout? j := by
  have hended : (p.modify i fun c => { c with alertStatus := .ended }).callout? j = p.callout? j :=
    Part.callout?_modify_ne _ h _
  unfold Part.alertEnded
  simp only
  split
  · exact hended
  · split
    · rw [Part.callout?_takeOutcome_ne h, Part.callout?_enterCounting, if_neg h, hended]
    · exact hended

theorem Part.callout?_batchEnded_ne (h : i ≠ j) (kind : BatchKind) (p : Part) :
    (p.batchEnded i kind).callout? j = p.callout? j := by
  unfold Part.batchEnded
  split
  · rfl
  · cases kind with
    | alert => exact p.callout?_alertEnded_ne h
    | standDown =>
      dsimp only
      split
      · exact p.callout?_becomeFree_ne h 3
      · rfl
    | supplement | repage | escalate | release => rfl

/-! ### PAGED marks and the alert status through the work -/

/-- No PAGED mark is lost, and the alert status stays or becomes ENDED. -/
structure Callout.WorkKept (c d : Callout) : Prop where
  paged  : c.paged &&& ~~~d.paged = 0#16
  status : d.alertStatus = c.alertStatus ∨ d.alertStatus = .ended

theorem Callout.WorkKept.refl (c : Callout) : c.WorkKept c := ⟨BitVec.and_not_self c.paged, .inl rfl⟩

theorem Callout.WorkKept.trans {c d e : Callout} (h : c.WorkKept d) (k : d.WorkKept e) : c.WorkKept e :=
  ⟨BitVec.and_not_trans h.paged k.paged, k.status.elim (fun he => h.status.imp he.trans he.trans) .inr⟩

/-- Every callout of the later part is one of the earlier, with what the work keeps of it. -/
def PagedGrows (p q : Part) : Prop :=
  ∀ j d, q.callout? j = some d → ∃ c, p.callout? j = some c ∧ c.WorkKept d

theorem PagedGrows.refl (p : Part) : PagedGrows p p := fun _ d hd => ⟨d, hd, .refl d⟩

theorem PagedGrows.trans {r : Part} (h : PagedGrows p q) (k : PagedGrows q r) : PagedGrows p r := fun j e he => by
  obtain ⟨d, hd, hde⟩ := k j e he
  obtain ⟨c, hc, hcd⟩ := h j d hd
  exact ⟨c, hc, hcd.trans hde⟩

/-- Only one slot has changed. -/
theorem PagedGrows.of_slot (i : SlotId) (hne : ∀ j, i ≠ j → q.callout? j = p.callout? j)
    (h : ∀ d, q.callout? i = some d → ∃ c, p.callout? i = some c ∧ c.WorkKept d) : PagedGrows p q :=
  fun j d hd => by
    by_cases hij : i = j
    · subst hij
      exact h d hd
    · exact ⟨d, hne j hij ▸ hd, .refl d⟩

theorem PagedGrows.of_callouts (h : ∀ j, q.callout? j = p.callout? j) : PagedGrows p q :=
  fun j d hd => ⟨d, h j ▸ hd, .refl d⟩

theorem Part.batchEnded_paged (i : SlotId) (kind : BatchKind) (p : Part) : PagedGrows p (p.batchEnded i kind) := by
  refine .of_slot i (fun j h => p.callout?_batchEnded_ne h kind) fun d hd => ?_
  cases hc : p.callout? i with
  | none =>
    unfold Part.batchEnded at hd
    rw [hc] at hd
    exact absurd (hc.symm.trans hd) (by nofun)
  | some c =>
    refine ⟨c, rfl, ?_⟩
    unfold Part.batchEnded at hd
    rw [hc] at hd
    cases kind with
    | alert =>
      obtain ⟨a, ha⟩ := Part.callout?_alertEnded hc
      obtain rfl := Option.some.inj (hd.symm.trans ha)
      split
      · rw [Callout.outcomeTaken_frame]
        exact ⟨BitVec.and_not_self c.paged, .inr rfl⟩
      · exact ⟨BitVec.and_not_self c.paged, .inr rfl⟩
    | standDown =>
      dsimp only at hd
      split at hd
      · rw [p.callout?_becomeFree i 3] at hd
        cases hd
      · obtain rfl := Option.some.inj (hd.symm.trans hc)
        exact .refl d
    | supplement | repage | escalate | release =>
      obtain rfl := Option.some.inj (hd.symm.trans hc)
      exact .refl d

theorem Part.degradeIf_paged (b : Bool) (i : SlotId) (p : Part) : PagedGrows p (if b = true then p.degrade i else p) := by
  refine .of_slot i (fun j h => by rw [Part.callout?_degradeIf, if_neg h]) fun d hd => ?_
  rw [Part.callout?_degradeIf, if_pos rfl, Option.map_eq_some_iff] at hd
  obtain ⟨c, hc, rfl⟩ := hd
  exact ⟨c, hc, BitVec.and_not_self c.paged, .inl rfl⟩

theorem Part.takeReport_paged (x : Report) (p : Part) : PagedGrows p (p.takeReport x) := by
  cases x with
  | pass o outcome groups =>
    cases hi : p.findOwner o with
    | none =>
      rw [(Part.takeReport_unowned hi outcome groups .alert .complete true).1]
      exact .refl p
    | some i =>
      rw [Part.takeReport_pass hi]
      split
      · refine .of_slot i (fun j h => Part.callout?_modify_ne _ h _) fun d hd => ?_
        rw [Part.callout?_modify_self, Option.map_eq_some_iff] at hd
        obtain ⟨c, hc, rfl⟩ := hd
        exact ⟨c, hc, BitVec.and_not_or_self _ _, .inl rfl⟩
      · exact .refl p
  | ended o kind form failed =>
    cases hi : p.findOwner o with
    | none =>
      rw [(Part.takeReport_unowned hi .done 0#16 kind form failed).2]
      exact .refl p
    | some i =>
      rw [Part.takeReport_ended hi]
      split
      · exact p.degradeIf_paged failed i
      · exact (p.degradeIf_paged failed i).trans (Part.batchEnded_paged i kind _)

theorem Part.workStep_paged (h : p.workStep = some q) : PagedGrows p q := by
  unfold Part.workStep at h
  split at h
  · cases h
    exact (PagedGrows.of_callouts fun _ => rfl).trans (Part.takeReport_paged _ _)
  · split at h
    · split at h
      · cases h
      · split at h
        · cases h
          exact .of_callouts p.leaveQueue_onlyPages.callout?
        · split at h
          · cases h
          · cases h
            exact .of_callouts p.turn_onlyPages.callout?
    · cases h

/-! ### Reports are only taken off by the work -/

/-- The report tells of a pass completed. -/
def Report.passed : Report → Bool
  | .pass _ outcome _ => outcome.completed
  | .ended _ _ _ _ => false

/-- The reports of the earlier part wait in the later one, in their order, with no completed pass behind them, and the sequencer
stands as it was or in IDLE. -/
structure ReportsGrow (p q : Part) : Prop where
  reports   : ∃ more, q.pages.reports = p.pages.reports ++ more ∧ ∀ x ∈ more, x.passed = false
  sequencer : q.sites.sequencer = p.sites.sequencer ∨ q.sites.sequencer = .idle

namespace ReportsGrow

variable {r : Part}

theorem of_eq (h : q.pages.reports = p.pages.reports)
    (hs : q.sites.sequencer = p.sites.sequencer ∨ q.sites.sequencer = .idle := by exact .inl rfl) : ReportsGrow p q :=
  ⟨⟨[], by rw [h, List.append_nil], by simp⟩, hs⟩

theorem of_report {x : Report} (h : q.pages.reports = p.pages.reports ++ [x]) (hx : x.passed = false)
    (hs : q.sites.sequencer = p.sites.sequencer := by rfl) : ReportsGrow p q :=
  ⟨⟨[x], h, by simp [hx]⟩, .inl hs⟩

theorem of_same (h : SamePages p q) : ReportsGrow p q := .of_eq (by rw [h.1]) (.inl (by rw [h.2]))

theorem trans (h : ReportsGrow p q) (k : ReportsGrow q r) : ReportsGrow p r := by
  obtain ⟨⟨l, hl, hpl⟩, hs⟩ := h
  obtain ⟨⟨m, hm, hpm⟩, ht⟩ := k
  refine ⟨⟨l ++ m, by rw [hm, hl, List.append_assoc], fun x hx => (List.mem_append.mp hx).elim (hpl x) (hpm x)⟩,
    ht.elim (fun e => ?_) .inr⟩
  rw [e]
  exact hs

theorem mem (h : ReportsGrow p q) {x : Report} (hx : x ∈ p.pages.reports) : x ∈ q.pages.reports := by
  obtain ⟨more, hm, -⟩ := h.reports
  rw [hm]
  exact List.mem_append_left _ hx

theorem ite {b : Prop} [Decidable b] (hq : ReportsGrow p q) (hr : ReportsGrow p r) :
    ReportsGrow p (if b then q else r) := by
  split
  · exact hq
  · exact hr

end ReportsGrow

theorem Part.admission_reports (d : Demand) (p : Part) : ReportsGrow p (p.admission d) := by
  rw [Part.admission_eq]
  refine ⟨?_, .inl rfl⟩
  dsimp only
  have hended (k : BatchKind) (b : Bool) : ∀ x ∈ [Report.ended d.owner k .complete b], x.passed = false := fun x hx => by
    rw [List.mem_singleton.mp hx]
    rfl
  split
  · exact ⟨_, rfl, hended _ _⟩
  · split
    · exact ⟨_, rfl, hended _ _⟩
    · exact ⟨[], (List.append_nil _).symm, by simp⟩

theorem Part.demand_reports (d : Demand) (p : Part) : ReportsGrow p (p.demand d) := by
  unfold Part.demand
  exact .ite (p.admission_reports d) (.ite (.of_eq rfl) (.of_report rfl rfl))

theorem Part.demandList_reports (l : List Demand) (p : Part) :
    ReportsGrow p (l.foldl (fun p d => p.demand d) p) := by
  induction l generalizing p with
  | nil => exact .of_eq rfl
  | cons d rest ih => exact (p.demand_reports d).trans (ih _)

theorem Part.demandReleases_reports (o : Owner) (ms : List MemberId) (p : Part) :
    ReportsGrow p (p.demandReleases o ms) := by
  rw [Part.demandReleases_eq]
  exact Part.demandList_reports _ _

theorem Part.admitFrom_reports (l : List Demand) (p : Part) : ReportsGrow p (Part.admitFrom l p) := by
  induction l generalizing p with
  | nil => exact .of_eq rfl
  | cons d rest ih =>
    unfold Part.admitFrom
    exact .ite ((p.admission_reports d).trans (ih _)) (.of_eq rfl)

theorem Part.without_reports (o : Owner) (ks : BatchKind → Bool) (p : Part) : ReportsGrow p (p.without o ks) := by
  unfold Part.without
  dsimp only
  split
  · exact .of_eq rfl
  · exact .ite (.ite (.of_eq rfl) (.of_eq rfl (.inr rfl))) (.of_eq rfl)

theorem Part.withdrawFor_reports (i : SlotId) (ks : BatchKind → Bool) (p : Part) :
    ReportsGrow p (p.withdrawFor i ks).2 := by
  cases hc : p.callout? i with
  | none =>
    unfold Part.withdrawFor
    rw [hc]
    exact .of_eq rfl
  | some c =>
    have h : ReportsGrow p (p.withdraw c.owner ks).2 := by
      rw [Part.withdraw_part]
      exact (p.without_reports c.owner ks).trans (Part.admitFrom_reports _ _)
    rw [Part.withdrawFor_eq hc]
    exact .ite (h.trans (.of_same (Part.degrade_pages i _))) h

theorem Part.becomeFree_reports (i : SlotId) (endCode : Nat) (p : Part) : ReportsGrow p (p.becomeFree i endCode) := by
  refine (p.withdrawFor_reports i everyKind).trans ?_
  cases hd : (p.withdrawFor i everyKind).2.callout? i with
  | none =>
    unfold Part.becomeFree
    simp only [hd]
    exact .of_eq rfl
  | some d =>
    rw [Part.becomeFree_eq hd]
    exact .of_eq rfl

theorem Part.enterCrewed_reports (i : SlotId) (p : Part) : ReportsGrow p (p.enterCrewed i) := by
  have h : ReportsGrow p ((p.enter i .crewed).modify i Callout.stopWindow) :=
    .of_same ((p.enter_pages i .crewed).trans (Part.modify_pages i _ _))
  unfold Part.enterCrewed
  dsimp only
  split
  · exact h
  · refine .ite h ((h.trans (.of_same (Part.releaseMembers_pages i _ _))).trans ((Part.demandReleases_reports _ _ _).trans
      (.of_same (Part.recompute_pages i _))))

theorem Part.takeOutcome_reports (i : SlotId) (p : Part) : ReportsGrow p (p.takeOutcome i) := by
  unfold Part.takeOutcome
  split
  · exact .of_eq rfl
  · split
    · exact .ite (p.enterCrewed_reports i) (.of_eq rfl)
    · exact .ite (p.enterCrewed_reports i) (.of_eq rfl)
    · exact .ite (.of_eq rfl) (.of_same ((p.enter_pages i _).trans (Part.modify_pages i _ _)))
    all_goals exact .of_eq rfl

theorem Part.alertEnded_reports (i : SlotId) (p : Part) : ReportsGrow p (p.alertEnded i) := by
  have h : ReportsGrow p (p.modify i fun c => { c with alertStatus := .ended }) := .of_same (p.modify_pages i _)
  unfold Part.alertEnded
  dsimp only
  split
  · exact h
  · exact .ite ((h.trans (.of_same ((Part.enter_pages i .counting _).trans (Part.modify_pages i _ _)))).trans
      (Part.takeOutcome_reports i _)) h

theorem Part.batchEnded_reports (i : SlotId) (kind : BatchKind) (p : Part) : ReportsGrow p (p.batchEnded i kind) := by
  unfold Part.batchEnded
  split
  · exact .of_eq rfl
  · cases kind with
    | alert => exact p.alertEnded_reports i
    | standDown => exact .ite (p.becomeFree_reports i 3) (.of_eq rfl)
    | supplement | repage | escalate | release => exact .of_eq rfl

theorem Part.takeReport_reports (x : Report) (p : Part) : ReportsGrow p (p.takeReport x) := by
  cases x with
  | pass o outcome groups =>
    cases hi : p.findOwner o with
    | none =>
      rw [(Part.takeReport_unowned hi outcome groups .alert .complete true).1]
      exact .of_eq rfl
    | some i =>
      rw [Part.takeReport_pass hi]
      exact .ite (.of_same (p.modify_pages i _)) (.of_eq rfl)
  | ended o kind form failed =>
    cases hi : p.findOwner o with
    | none =>
      rw [(Part.takeReport_unowned hi .done 0#16 kind form failed).2]
      exact .of_eq rfl
    | some i =>
      have h : ReportsGrow p (if failed = true then p.degrade i else p) :=
        .ite (.of_same (p.degrade_pages i)) (.of_eq rfl)
      rw [Part.takeReport_ended hi]
      exact .ite h (h.trans (Part.batchEnded_reports i kind _))

/-! ### A report waiting is taken -/

/-- The owner `o` is the callout of slot `i`, which is not CLOSING. -/
def Part.Attends (o : Owner) (i : SlotId) (p : Part) : Prop :=
  p.findOwner o = some i ∧ ∃ c, p.callout? i = some c ∧ c.state ≠ .closing

theorem Part.Attends.congr {o : Owner} (h : p.Attends o i) (ht : q.table = p.table) : q.Attends o i := by
  unfold Part.Attends Part.findOwner Part.findLive Part.callout? Part.slot at *
  rw [ht]
  exact h

theorem Callout.core_owner {c d : Callout} (h : d.core = c.core) : d.number = c.number ∧ d.token = c.token :=
  ⟨(congrArg Callout.number h : d.core.number = c.core.number), (congrArg Callout.token h : d.core.token = c.core.token)⟩

theorem Part.Attends.work {o : Owner} (h : p.Attends o i) (hf : WorkFrame none p q) : q.Attends o i := by
  obtain ⟨ho, c, hc, hn⟩ := h
  obtain ⟨d, hd, -, hst⟩ := hf.callout?_of hc hn
  refine ⟨Part.findLive_stays ho (fun j e he => ?_) (by simp [hd]), d, hd, ?_⟩
  · obtain ⟨x, hx, hcore, -⟩ := hf.callout?_back he
    obtain ⟨hnumber, htoken⟩ := Callout.core_owner hcore
    exact ⟨x, hx, by rw [hnumber, htoken]⟩
  · rcases hst with hst | ⟨-, hst | hst⟩
    · rw [hst.1]
      exact hn
    · rw [hst]
      nofun
    · rw [hst]
      nofun

/-- A report that waits is taken by the callout that owns it, and what it brings about stays. -/
theorem Part.work_takes {o : Owner} {x : Report} {D : Part → Prop} (hp : p.Attends o i)
    (keep : ∀ p q : Part, p.workStep = some q → p.Attends o i → D p → D q)
    (take : ∀ p : Part, p.Attends o i → D (p.takeReport x)) (hx : D p ∨ x ∈ p.pages.reports) : D p.work := by
  have h : p.work.Attends o i ∧ (D p.work ∨ x ∈ p.work.pages.reports) := by
    refine Part.work_keeps (I := fun p => p.Attends o i ∧ (D p ∨ x ∈ p.pages.reports)) (fun p q hstep ⟨hp, hx⟩ => ⟨hp.work (Part.workStep_work hstep none), ?_⟩) ⟨hp, hx⟩
    rcases hx with hx | hx
    · exact .inl (keep p q hstep hp hx)
    · obtain ⟨y, rest, hr⟩ := List.exists_cons_of_ne_nil (List.ne_nil_of_mem hx)
      rw [Part.workStep_reports hr] at hstep
      cases hstep
      rw [hr] at hx
      rcases List.mem_cons.mp hx with rfl | hx
      · exact .inl (take _ (hp.congr rfl))
      · exact .inr ((Part.takeReport_reports y { p with pages := { p.pages with reports := rest } }).mem hx)
  exact h.2.resolve_right fun hmem => by
    rw [p.work_quiet.reports] at hmem
    cases hmem

end Sys2Proof.Machine

/-! The end of a pass, and the reports it brings about (R136, R137, R140, R151, R152). -/

namespace Sys2Proof.Machine
open Sys2Proof

variable {p q : Part} {i : SlotId} {c : Callout} {b : Batch} {rest : List Batch} {o : PassOutcome}

/-! ### The batch a pass leaves -/

/-- The batch after a pass at site `k`: a withdrawing one abandons the sites that remain (R136, R140). -/
def Batch.passed (k : SiteId) (o : PassOutcome) (b : Batch) : Batch :=
  if b.withdrawing = true then { b.settledAt k o with sites := (b.settledAt k o).sites.filter fun e => !e.remaining }
  else b.settledAt k o

/-- The pass is the batch's last (R136, R140). -/
abbrev Batch.EndsWith (b : Batch) (k : SiteId) (o : PassOutcome) : Prop :=
  b.withdrawing = true ∨ (b.settledAt k o).remaining = []

/-- The form of the end of a batch after its last pass (R140). -/
def Batch.endForm (b : Batch) : EndForm :=
  if b.withdrawing = true then .withdrawn else .complete

theorem Batch.failed_settledOnly (b : Batch) :
    ({ b with sites := b.sites.filter fun e => !e.remaining } : Batch).failed = b.failed := by
  refine Bool.eq_iff_iff.mpr ?_
  simp only [Batch.failed, List.any_eq_true, List.mem_filter, Bool.not_eq_true']
  refine exists_congr fun e => ⟨fun ⟨⟨hmem, _⟩, hf⟩ => ⟨hmem, hf⟩, fun ⟨hmem, hf⟩ => ⟨⟨hmem, ?_⟩, hf⟩⟩
  obtain ⟨x, hx, -⟩ := SiteEntry.failed_iff.mp hf
  exact SiteEntry.remaining_eq_false.mpr ⟨x, hx⟩

theorem Batch.over_passed (k : SiteId) (o : PassOutcome) (b : Batch) : (b.passed k o).over = true ↔ b.EndsWith k o := by
  rw [Batch.over_iff]
  by_cases hw : b.withdrawing = true
  · refine iff_of_true ?_ (.inl hw)
    rw [Batch.passed, if_pos hw, Batch.remaining, List.filter_filter, List.filter_eq_nil_iff]
    intro e _
    cases e.remaining <;> simp
  · rw [Batch.passed, if_neg hw, Batch.EndsWith]
    exact (or_iff_right hw).symm

/-- The site is settled and reported, and the batch's end as well after its last pass. -/
theorem Part.endPass_cons (hq : p.pages.queue = b :: rest) (k : SiteId) (forced : Bool) (ho : o = if forced = true then .forced else .done) :
    p.endPass k forced = { p with pages := { p.pages with
      queue := b.passed k o :: rest
      reports := p.pages.reports ++ .pass b.owner o b.groups ::
        if b.EndsWith k o then [.ended b.owner b.kind b.endForm (b.settledAt k o).failed] else [] } } := by
  have hcur : p.current? = some b := by rw [Part.current?, hq]; rfl
  have hset : b.setSite k (.settled o) = b.settledAt k o := rfl
  unfold Part.endPass
  simp only [hcur, ← ho, hset]
  by_cases hw : b.withdrawing = true
  · have hends : b.EndsWith k o := .inl hw
    rw [if_pos hw, if_pos hends, Batch.passed, if_pos hw, Batch.endForm, if_pos hw, Part.onCurrent_withQueue hq,
      Batch.failed_settledOnly]
    simp only [Part.report, Part.onPages, Part.withQueue, List.append_assoc, List.cons_append, List.nil_append]
  · have hends : b.EndsWith k o ↔ (b.settledAt k o).remaining = [] := or_iff_right hw
    rw [if_neg hw, Batch.passed, if_neg hw, Batch.endForm, if_neg hw, Part.settle_cons hq]
    simp only [hends]

/-- After the last pass the reports are taken, the batch leaves and a join is decided; otherwise the site is unkeyed. -/
theorem Part.passEnds_cons (hq : p.pages.queue = b :: rest) (k : SiteId) (forced : Bool) (ho : o = if forced = true then .forced else .done) :
    p.passEnds k forced = if b.EndsWith k o then (((p.endPass k forced).work.leaveQueue).joinOrUnkey k).finish
      else ((p.endPass k forced).setSequencer .idle).finish := by
  have hcur : (p.endPass k forced).current? = some (b.passed k o) := by
    rw [Part.endPass_cons hq k forced ho]
    rfl
  unfold Part.passEnds
  simp only [hcur, Option.map_some, Option.getD_some, Batch.over_passed]

/-! ### What a pass's reports bring about -/

/-- What a report of the pass brings about at its callout holds after the pass. -/
theorem Part.passEnds_takes {w : Owner} {x : Report} {D : Part → Prop} (hp : p.Attends w i)
    (keep : ∀ p q : Part, p.workStep = some q → p.Attends w i → D p → D q)
    (take : ∀ p : Part, p.Attends w i → D (p.takeReport x))
    (congr : ∀ p q : Part, q.table = p.table → q.lines = p.lines → D p → D q) {k : SiteId} {forced : Bool}
    (hx : x ∈ (p.endPass k forced).pages.reports) : D (p.passEnds k forced) := by
  have hend : (p.endPass k forced).Attends w i := hp.congr (p.endPass_onlyPages k forced).table
  have hfinish (q : Part) (hq : q.Attends w i) (h : D q ∨ x ∈ q.pages.reports) : D q.finish :=
    congr q.work q.finish rfl rfl (Part.work_takes hq keep take h)
  unfold Part.passEnds
  dsimp only
  split
  · have hwork := Part.work_takes hend keep take (.inr hx)
    have hframe := (Part.leaveQueue_onlyPages (p.endPass k forced).work).trans (Part.joinOrUnkey_onlyPages k _)
    exact hfinish _ ((hend.work (Part.finish_work _).1).congr hframe.table) (.inl (congr _ _ hframe.table hframe.lines hwork))
  · exact hfinish _ (hend.congr rfl) (.inr hx)

/-- The callouts of slot `i` have PAGED these groups, those that are primary. -/
def PagedAt (i : SlotId) (groups : GroupSet) (p : Part) : Prop :=
  ∀ c, p.callout? i = some c → (groups &&& c.primary) &&& ~~~c.paged = 0#16

theorem Callout.core_primary {c d : Callout} (h : d.core = c.core) : d.primary = c.primary :=
  (congrArg Callout.primary h : d.core.primary = c.core.primary)

theorem workStep_pagedAt {groups : GroupSet} (h : p.workStep = some q) (hp : PagedAt i groups p) : PagedAt i groups q := by
  intro d hd
  obtain ⟨c, hc, ⟨hpaged, -⟩⟩ := Part.workStep_paged h i d hd
  obtain ⟨c', hc', hstep⟩ := (Part.workStep_work h none).callout?_back hd
  obtain rfl := Option.some.inj (hc.symm.trans hc')
  rw [Callout.core_primary hstep.1]
  exact BitVec.and_not_trans (hp c hc) hpaged

theorem takeReport_pagedAt {w : Owner} (hp : p.findOwner w = some i) (ho : o.completed = true) (groups : GroupSet) :
    PagedAt i groups (p.takeReport (.pass w o groups)) := by
  intro d hd
  rw [Part.takeReport_pass hp, if_pos ho, Part.callout?_modify_self, Option.map_eq_some_iff] at hd
  obtain ⟨c, -, rfl⟩ := hd
  show (groups &&& c.primary) &&& ~~~(c.paged ||| (groups &&& c.primary)) = 0#16
  rw [BitVec.or_comm]
  exact BitVec.and_not_or_self _ _

/-- TX is raised on every line, and the callout of slot `i` has TX_DEGRADED. -/
def DegradedAt (i : SlotId) (p : Part) : Prop :=
  (∀ l, (p.ctl l).flags.getLsbD 5 = true) ∧ ∀ c, p.callout? i = some c → c.flags.txDegraded = true

theorem Moves.degradedAt {g : Grants} (hg : ¬ g.makes) (h : Moves g p q) (hp : DegradedAt i p) : DegradedAt i q := by
  obtain ⟨bits, -, hbits⟩ := h.frame.lines.ctl
  refine ⟨fun l => ?_, fun d hd => ?_⟩
  · rw [hbits l, BitVec.getLsbD_or, hp.1 l, Bool.true_or]
  · obtain ⟨c, hc, hgrows⟩ := h.grows hg i d hd
    exact hgrows.flags.txDegraded (hp.2 c hc)

theorem Part.degrade_degradedAt (i : SlotId) (p : Part) : DegradedAt i (p.degrade i) := by
  refine ⟨fun l => ?_, fun d hd => ?_⟩
  · rw [Part.degrade, Part.ctl_raise, LineController.raise, BitVec.getLsbD_or]
    exact Bool.or_eq_true_iff.mpr (.inr rfl)
  · rw [Part.callout?_degrade, if_pos rfl, Option.map_eq_some_iff] at hd
    obtain ⟨c, -, rfl⟩ := hd
    rfl

theorem takeReport_degradedAt {w : Owner} (hp : p.findOwner w = some i) (kind : BatchKind) (form : EndForm) :
    DegradedAt i (p.takeReport (.ended w kind form true)) := by
  rw [Part.takeReport_ended hp]
  split
  · exact p.degrade_degradedAt i
  · exact (Part.batchEnded_moves (.unedited none False) i kind _).degradedAt id (p.degrade_degradedAt i)

/-! ### An end of a batch that sets nothing off -/

theorem Part.batchEnded_standDown (hc : p.callout? i = some c) (hn : c.state ≠ .closing) : p.batchEnded i .standDown = p := by
  unfold Part.batchEnded
  simp only [hc, if_neg hn]

theorem Part.takeReport_ended_quietly {w : Owner} (hi : p.findOwner w = some i) (hc : p.callout? i = some c)
    {kind : BatchKind} {form : EndForm} (failed : Bool)
    (h : form = .withdrawn ∨ (kind ≠ .alert ∧ kind ≠ .standDown) ∨ (kind = .standDown ∧ c.state ≠ .closing)) :
    p.takeReport (.ended w kind form failed) = if failed = true then p.degrade i else p := by
  rw [Part.takeReport_ended hi]
  have hc' : (if failed = true then p.degrade i else p).callout? i = some (c.degradedIf failed) := by
    rw [Part.callout?_degradeIf, if_pos rfl, hc]
    rfl
  rcases h with h | h | ⟨rfl, hn⟩
  · rw [if_pos h]
  · rw [Part.batchEnded_light i h, ite_self]
  · rw [Part.batchEnded_standDown hc' hn, ite_self]

/-- A callout made FREE moves nothing of the page queue when the only batch has ended and no demand waits. -/
theorem Part.becomeFree_pages_over (i : SlotId) (endCode : Nat) (p : Part) (hq : p.pages.queue = [b]) (hover : b.over = true)
    (hd : p.pages.demands = []) : SamePages p (p.becomeFree i endCode) := by
  have hwithout (w : Owner) : p.without w everyKind = p := by
    have hrem : b.remaining = [] := Batch.over_iff.mp hover
    unfold Part.without
    simp only [hq, hrem, hd, List.tail_cons, List.filter_nil, bne_self_eq_false, Bool.and_false]
    rw [← hq, ← hd]
    rfl
  have hwithdraw : SamePages p (p.withdrawFor i everyKind).2 := by
    cases hc : p.callout? i with
    | none =>
      unfold Part.withdrawFor
      rw [hc]
      exact .refl p
    | some c =>
      have hpart : (p.withdraw c.owner everyKind).2 = p := by
        rw [Part.withdraw_part, hwithout, Part.tryAdmissions_nil hd]
      rw [Part.withdrawFor_eq hc, hpart]
      show SamePages p (if _ then p.degrade i else p)
      split
      · exact p.degrade_pages i
      · exact .refl p
  cases hc : (p.withdrawFor i everyKind).2.callout? i with
  | none =>
    unfold Part.becomeFree
    simp only [hc]
    exact hwithdraw
  | some d =>
    rw [Part.becomeFree_eq hc]
    exact hwithdraw

/-- Taking an end that is not an ALERT's moves nothing of the page queue when the batch is the only one and no demand waits. -/
theorem Part.takeReport_ended_pages {w : Owner} {kind : BatchKind} {form : EndForm} (failed : Bool) (hq : p.pages.queue = [b])
    (hover : b.over = true) (hd : p.pages.demands = []) (h : form = .withdrawn ∨ kind ≠ .alert) :
    SamePages p (p.takeReport (.ended w kind form failed)) := by
  cases hi : p.findOwner w with
  | none =>
    rw [(Part.takeReport_unowned hi .done 0#16 kind form failed).2]
    exact .refl p
  | some i =>
    have hdegrade : SamePages p (if failed = true then p.degrade i else p) := by
      split
      · exact p.degrade_pages i
      · exact .refl p
    rw [Part.takeReport_ended hi]
    split
    · exact hdegrade
    next hform =>
      refine hdegrade.trans ?_
      generalize hq' : (if failed = true then p.degrade i else p) = q at hdegrade
      clear hq'
      have hkind := h.resolve_left hform
      by_cases hs : kind = .standDown
      · subst hs
        unfold Part.batchEnded
        split
        · exact .refl q
        · dsimp only
          split
          · exact q.becomeFree_pages_over i 3 (by rw [hdegrade.1]; exact hq) hover (by rw [hdegrade.1]; exact hd)
          · exact .refl q
      · rw [Part.batchEnded_light i ⟨hkind, hs⟩]
        exact .refl q

/-- The part once the pass has been settled in the only batch, its reports waiting. -/
def Part.settled (p : Part) (b : Batch) (k : SiteId) (o : PassOutcome) (reports : List Report) : Part :=
  { p with pages := { p.pages with
      queue := [b.passed k o]
      reports := reports } }

/-- The part once the two reports of the last pass of the only batch have been taken. -/
def Part.lastReported (p : Part) (b : Batch) (k : SiteId) (o : PassOutcome) : Part :=
  let finished : Report := .ended b.owner b.kind b.endForm (b.settledAt k o).failed
  let q := (p.settled b k o [finished]).takeReport (.pass b.owner o b.groups)
  ({ q with pages := { q.pages with reports := [] } } : Part).takeReport finished

theorem Part.lastReported_pages (hd : p.pages.demands = []) {k : SiteId} (hends : b.EndsWith k o)
    (h : b.endForm = .withdrawn ∨ b.kind ≠ .alert) : SamePages (p.settled b k o []) (p.lastReported b k o) := by
  have hpass : Light (p.settled b k o _) (Part.takeReport (.pass b.owner o b.groups) (p.settled b k o
    [.ended b.owner b.kind b.endForm (b.settledAt k o).failed])) := Part.takeReport_light (x := .pass _ _ _) trivial _
  have hdrop : SamePages (p.settled b k o []) ({ Part.takeReport (.pass b.owner o b.groups) (p.settled b k o
      [.ended b.owner b.kind b.endForm (b.settledAt k o).failed]) with pages := { p.pages with
      queue := [b.passed k o]
      reports := [] } } : Part) := ⟨rfl, hpass.sites⟩
  refine hdrop.trans ?_
  unfold Part.lastReported
  simp only [hpass.pages]
  exact Part.takeReport_ended_pages _ rfl (Batch.over_passed k o b |>.mpr hends) hd h

/-- The end of a pass that is the last of the only batch, with no demand waiting and no ALERT ended: its two reports are taken,
the queue is empty and the site unkeyed (R151, R152). -/
theorem Part.passEnds_alone (hq : p.pages.queue = [b]) (hd : p.pages.demands = []) (hr : p.pages.reports = [])
    (hs : p.sites.sequencer ≠ .idle) (k : SiteId) (forced : Bool) (ho : o = if forced = true then .forced else .done)
    (hends : b.EndsWith k o) (h : b.endForm = .withdrawn ∨ b.kind ≠ .alert) :
    p.passEnds k forced = (((p.lastReported b k o).withQueue []).setSequencer .idle).refreshLamps := by
  have hpages := Part.lastReported_pages (p := p) hd hends h
  have hwork : (p.endPass k forced).work = p.lastReported b k o := by
    have hend : p.endPass k forced = p.settled b k o
        [.pass b.owner o b.groups, .ended b.owner b.kind b.endForm (b.settledAt k o).failed] := by
      rw [Part.endPass_cons hq k forced ho, if_pos hends, hr]
      rfl
    have hlight : Light (p.settled b k o _) (Part.takeReport (.pass b.owner o b.groups) (p.settled b k o
      [.ended b.owner b.kind b.endForm (b.settledAt k o).failed])) := Part.takeReport_light (x := .pass _ _ _) trivial _
    rw [hend, Part.work_of_step (Part.workStep_reports rfl)]
    refine (Part.work_of_step (Part.workStep_reports (congrArg PageQueue.reports hlight.pages))).trans (Part.work_of_quiet ?_)
    exact Part.quiet_of_busy (congrArg PageQueue.reports hpages.1) (by
      show (p.lastReported b k o).sites.sequencer ≠ .idle
      rw [hpages.2]
      exact hs)
  have hleave : (p.lastReported b k o).leaveQueue = (p.lastReported b k o).withQueue [] := by
    have hqueue : (p.lastReported b k o).pages.queue = [b.passed k o] := congrArg PageQueue.queue hpages.1
    have htail : (p.lastReported b k o).onPages (fun q => { q with queue := q.queue.tail })
        = (p.lastReported b k o).withQueue [] := by
      unfold Part.onPages Part.withQueue
      simp only [hqueue, List.tail_cons]
    unfold Part.leaveQueue
    rw [htail]
    exact Part.tryAdmissions_nil ((congrArg PageQueue.demands hpages.1).trans hd)
  rw [Part.passEnds_cons hq k forced ho, if_pos hends, hwork, hleave]
  exact Part.finish_quiet (Part.quiet_of_empty (congrArg PageQueue.reports hpages.1) rfl)

theorem Part.flags_degradeIf (failed : Bool) (i : SlotId) (p : Part) (l : Line) :
    ((if failed = true then p.degrade i else p).ctl l).flags
      = if failed = true then (p.ctl l).flags ||| 1#16 <<< 5 else (p.ctl l).flags := by
  cases failed with
  | true =>
    rw [if_pos rfl, if_pos rfl, Part.degrade, Part.ctl_raise, Part.modify_eq]
    rfl
  | false => rfl

/-- What that end leaves of a callout that owns the batch and is not CLOSING, and of the notices. -/
theorem Part.lastReported_owner (hi : p.findOwner b.owner = some i) (hc : p.callout? i = some c) (hn : c.state ≠ .closing)
    {k : SiteId} (ho : o.completed = true) (h : b.endForm = .withdrawn ∨ b.kind ≠ .alert) :
    (∀ l, ((p.lastReported b k o).ctl l).flags =
      if (b.settledAt k o).failed = true then (p.ctl l).flags ||| 1#16 <<< 5 else (p.ctl l).flags)
    ∧ (p.lastReported b k o).callout? i = some { c with
        paged := c.paged ||| (b.groups &&& c.primary)
        flags := { c.flags with txDegraded := c.flags.txDegraded || (b.settledAt k o).failed } } := by
  generalize hr : p.settled b k o [.ended b.owner b.kind b.endForm (b.settledAt k o).failed] = r
  have htable : r.table = p.table := by rw [← hr]; rfl
  have hlines (l : Line) : r.ctl l = p.ctl l := by rw [← hr]; rfl
  have hattends : r.Attends b.owner i := .congr ⟨hi, c, hc, hn⟩ htable
  generalize hs : ({ r.takeReport (.pass b.owner o b.groups) with
    pages := { (r.takeReport (.pass b.owner o b.groups)).pages with reports := [] } } : Part) = s
  have hpass : r.takeReport (.pass b.owner o b.groups) = r.modify i (Callout.markPaged b.groups) := by
    rw [Part.takeReport_pass hattends.1, if_pos ho]
  have hmarked : s.Attends b.owner i :=
    .congr (hattends.work (Part.takeReport_work none (.pass b.owner o b.groups) r)) (by rw [← hs])
  have hcs : s.callout? i = some (c.markPaged b.groups) := by
    have hstable : s.table = (r.modify i (Callout.markPaged b.groups)).table := by rw [← hs, hpass]
    rw [Part.callout?_congr hstable, Part.callout?_modify_self, Part.callout?_congr htable, hc]
    rfl
  have hquiet : b.endForm = .withdrawn ∨ (b.kind ≠ .alert ∧ b.kind ≠ .standDown)
      ∨ (b.kind = .standDown ∧ (c.markPaged b.groups).state ≠ .closing) :=
    h.imp id fun hk => (em (b.kind = .standDown)).elim (fun hst => .inr ⟨hst, hn⟩) fun hst => .inl ⟨hk, hst⟩
  have hlast : p.lastReported b k o = if (b.settledAt k o).failed = true then s.degrade i else s := by
    rw [← Part.takeReport_ended_quietly hmarked.1 hcs _ hquiet, ← hs, ← hr]
    rfl
  rw [hlast]
  refine ⟨fun l => ?_, ?_⟩
  · have hflags : (s.ctl l).flags = (p.ctl l).flags := by
      rw [← hs, hpass]
      show ((r.modify i _).ctl l).flags = _
      rw [Part.modify_eq, ← hlines l]
      rfl
    rw [Part.flags_degradeIf, hflags]
  · rw [Part.callout?_degradeIf, if_pos rfl, hcs]
    rfl

/-! ### What the end of a pass leaves -/

/-- But for the lamps, the end of a pass is framed as its work is. -/
theorem Part.passEnds_work (k : SiteId) (forced : Bool) (p : Part) :
    ∃ r, WorkFrame none p r ∧ p.passEnds k forced = r.refreshLamps := by
  have hend : WorkFrame none p (p.endPass k forced) := .of_pages (p.endPass_onlyPages k forced)
  have hfinish (q : Part) (hq : WorkFrame none p q) : ∃ r, WorkFrame none p r ∧ q.finish = r.refreshLamps :=
    ⟨q.work, hq.trans q.finish_work.1, rfl⟩
  unfold Part.passEnds
  dsimp only
  split
  · have hframe := (Part.leaveQueue_onlyPages (p.endPass k forced).work).trans (Part.joinOrUnkey_onlyPages k _)
    exact hfinish _ ((hend.trans (Part.finish_work _).1).trans (.of_pages hframe))
  · exact hfinish _ (hend.trans (.of_pages (Part.setSequencer_onlyPages _ _)))

theorem Part.passEnds_callout?_of (hc : p.callout? i = some c) (hn : c.state ≠ .closing) (k : SiteId) (forced : Bool) :
    ∃ d, (p.passEnds k forced).callout? i = some d ∧ c.WorkStep d := by
  obtain ⟨r, hr, e⟩ := p.passEnds_work k forced
  rw [e]
  exact hr.callout?_of hc hn

section
variable {k : SiteId} {forced : Bool}

theorem Part.endPass_reports (hq : p.pages.queue = b :: rest) (k : SiteId) (ho : o = if forced = true then .forced else .done) :
    .pass b.owner o b.groups ∈ (p.endPass k forced).pages.reports
    ∧ (b.EndsWith k o →
      .ended b.owner b.kind b.endForm (b.settledAt k o).failed ∈ (p.endPass k forced).pages.reports) := by
  rw [Part.endPass_cons hq k forced ho]
  refine ⟨List.mem_append_right _ List.mem_cons_self, fun h => List.mem_append_right _ (List.mem_cons_of_mem _ ?_)⟩
  rw [if_pos h]
  exact List.mem_cons_self

theorem PassOutcome.completed_of_pass (forced : Bool) :
    (if forced = true then PassOutcome.forced else .done).completed = true := by
  cases forced <;> rfl

theorem Part.passEnds_marks (hq : p.pages.queue = b :: rest) (hi : p.findOwner b.owner = some i) (hc : p.callout? i = some c)
    (hn : c.state ≠ .closing) :
    ∃ c', (p.passEnds k forced).callout? i = some c' ∧ (b.groups &&& c.primary) &&& ~~~c'.paged = 0#16 := by
  obtain ⟨c', hc', hstep⟩ := Part.passEnds_callout?_of hc hn k forced
  have hpaged : PagedAt i b.groups (p.passEnds k forced) := Part.passEnds_takes ⟨hi, c, hc, hn⟩
    (fun _ _ hstep _ => workStep_pagedAt hstep)
    (fun _ hp => takeReport_pagedAt hp.1 (PassOutcome.completed_of_pass forced) b.groups)
    (fun _ _ ht _ hp d hd => hp d ((Part.callout?_congr ht i).symm.trans hd))
    (Part.endPass_reports hq k rfl).1
  exact ⟨c', hc', Callout.core_primary hstep.1 ▸ hpaged c' hc'⟩

theorem Part.passEnds_degrades (hq : p.pages.queue = b :: rest) (ho : o = if forced = true then .forced else .done)
    (hfailed : (b.settledAt k o).failed = true) (hends : b.EndsWith k o) (hi : p.findOwner b.owner = some i)
    (hc : p.callout? i = some c) (hn : c.state ≠ .closing) :
    (∀ l, ((p.passEnds k forced).ctl l).flags.getLsbD 5 = true)
    ∧ ∃ c', (p.passEnds k forced).callout? i = some c' ∧ c'.flags.txDegraded = true := by
  obtain ⟨c', hc', -⟩ := Part.passEnds_callout?_of hc hn k forced
  have hdegraded : DegradedAt i (p.passEnds k forced) := Part.passEnds_takes ⟨hi, c, hc, hn⟩
    (fun _ _ hstep _ => (Part.workStep_moves (.unedited none False) hstep).degradedAt id)
    (fun _ hp => takeReport_degradedAt hp.1 b.kind b.endForm)
    (fun _ _ ht hl hp => ⟨fun l => by rw [Part.ctl, hl]; exact hp.1 l, fun d hd => hp.2 d ((Part.callout?_congr ht i).symm.trans hd)⟩)
    (hfailed ▸ (Part.endPass_reports hq k ho).2 hends)
  exact ⟨hdegraded.1, c', hc', hdegraded.2 c' hc'⟩

theorem Part.passEnds_goesOn (hq : p.pages.queue = b :: rest) (ho : o = if forced = true then .forced else .done)
    (hw : b.withdrawing = false) (hr : p.pages.reports = []) : GoesOn (b.settledAt k o) rest p (p.passEnds k forced) := by
  by_cases hrem : (b.settledAt k o).remaining = []
  · intro e more h
    rw [hrem] at h
    cases h
  · have hends : ¬ b.EndsWith k o := fun h => h.elim (by simp [hw]) hrem
    rw [Part.passEnds_cons hq k forced ho, if_neg hends, Part.endPass_cons hq k forced ho, if_neg hends, hr, Batch.passed,
      if_neg (by simp [hw])]
    refine Part.goesOn_finish (fun x hx => ?_) rfl rfl hw rfl rfl
    obtain rfl := List.mem_singleton.mp hx
    trivial

end

/-! ### An end reported -/

/-- An ALERT's end at its callout (R15, R16, R18). -/
theorem Part.takeReport_alert {w : Owner} (hi : p.findOwner w = some i) (hc : p.callout? i = some c) {form : EndForm}
    (failed : Bool) (hf : form ≠ .withdrawn) : ∃ a, (p.takeReport (.ended w .alert form failed)).callout? i = some
      (if c.state = .alerting then ({ c.degradedIf failed with
          alertStatus := .ended, state := .counting, responseWindow := .start c.window } : Callout).outcomeTaken a
        else { c.degradedIf failed with alertStatus := .ended }) := by
  have hc' : (if failed = true then p.degrade i else p).callout? i = some (c.degradedIf failed) := by
    rw [Part.callout?_degradeIf, if_pos rfl, hc]
    rfl
  rw [Part.takeReport_ended hi, if_neg hf, Part.batchEnded]
  simp only [hc']
  exact Part.callout?_alertEnded hc'

/-- A STAND_DOWN's end at its CLOSING callout (R32). -/
theorem Part.takeReport_standDown {w : Owner} (hi : p.findOwner w = some i) (hc : p.callout? i = some c) {form : EndForm}
    (failed : Bool) (hf : form ≠ .withdrawn) (hs : c.state = .closing) :
    p.takeReport (.ended w .standDown form failed) = (if failed = true then p.degrade i else p).becomeFree i 3
    ∧ (if failed = true then p.degrade i else p).callout? i = some (c.degradedIf failed) := by
  have hc' : (if failed = true then p.degrade i else p).callout? i = some (c.degradedIf failed) := by
    rw [Part.callout?_degradeIf, if_pos rfl, hc]
    rfl
  refine ⟨?_, hc'⟩
  rw [Part.takeReport_ended hi, if_neg hf, Part.batchEnded]
  simp only [hc']
  exact if_pos hs

/-- Settles O38. -/
theorem passEvents : Obligations.PassEvents := by
  unfold Obligations.PassEvents
  refine ⟨fun s k hs => ⟨fun forced left hl => ?_, fun h => ?_, fun forced left b rest hl hq => ?_, fun h => ?_⟩,
    fun p o => ⟨fun h outcome groups kind form failed => Part.takeReport_unowned h outcome groups kind form failed,
      fun i c hi hc => ⟨fun groups => ⟨?_, ?_, fun outcome ho => ?_⟩, fun kind form failed => ?_⟩⟩⟩
  · refine leads_of_event hs rfl ?_
    unfold Part.leadInEnds
    simp only [hl, if_true]
    rfl
  · refine exec_eq_self_of_event hs rfl ?_
    unfold Part.leadInEnds
    split
    next j forced left hl => exact if_neg fun hj => h forced left (hl.trans (by rw [hj]))
    all_goals rfl
  · have hburst : s.burstEnds k = s.passEnds k forced := by
      unfold Part.burstEnds
      simp only [hl, if_true]
    refine leads_of_event hs rfl ?_
    rw [hburst]
    refine ⟨Moves.configuration (g := .unedited none False) id (Part.passEnds_moves k forced s.toPart),
      fun i c hi hc hn => Part.passEnds_marks hq hi hc hn, ?_⟩
    intro b'
    refine ⟨Part.passEnds_goesOn hq rfl, fun hfailed hends i c hi hc hn => Part.passEnds_degrades hq rfl hfailed hends hi hc hn,
      fun hrest hd hr h => ?_⟩
    subst hrest
    have hends : b.EndsWith k _ := h.imp id And.right
    have hform : b.endForm = .withdrawn ∨ b.kind ≠ .alert := h.imp (fun hw => by rw [Batch.endForm, if_pos hw]) And.left
    rw [Part.passEnds_alone hq hd hr (by rw [hl]; nofun) k forced rfl hends hform]
    refine ⟨rfl, rfl, fun i c hi hc hn => ?_⟩
    have howner := Part.lastReported_owner (k := k) hi hc hn (PassOutcome.completed_of_pass forced) hform
    generalize s.lastReported b k _ = r at howner
    exact howner
  · refine exec_eq_self_of_event hs rfl ?_
    unfold Part.burstEnds
    split
    next j forced left hl => exact if_neg fun hj => h forced left (hl.trans (by rw [hj]))
    all_goals rfl
  · rw [Part.takeReport_pass hi]
    rfl
  · rw [Part.takeReport_pass hi]
    rfl
  · rw [Part.takeReport_pass hi, if_pos (by rcases ho with rfl | rfl <;> rfl), Part.modify_eq_set hc]
    rfl
  · intro t degraded
    refine ⟨fun hfailed => ?_, fun h => ?_, fun hf hk => ?_, fun hf hk hst => ?_⟩
    · subst hfailed
      exact (takeReport_degradedAt hi kind form).1
    · have hquiet := Part.takeReport_ended_quietly hi hc failed h
      rw [Part.degradeIf_eq hc] at hquiet
      show p.takeReport _ = _
      have hlines : t.lines = if failed = true then (p.raise .tx).lines else p.lines := congrArg Part.lines hquiet
      rw [hlines]
      exact hquiet
    · subst hk
      obtain ⟨a, ha⟩ := Part.takeReport_alert hi hc failed hf
      refine ⟨_, ha, ?_, ?_, fun hst => if_neg hst, fun hst => ?_⟩
      · split
        · rw [Callout.outcomeTaken_frame]
        · rfl
      · split
        · rw [Callout.outcomeTaken_frame]
          rfl
        · rfl
      · rw [if_pos hst]
        unfold Callout.outcomeTaken
        by_cases hcrewed : c.assessment.outcome = .crewed
        · rw [if_pos hcrewed, if_pos ⟨.inr rfl, hcrewed⟩]
          rfl
        · rw [if_neg hcrewed, if_neg fun h => hcrewed h.2, if_neg (by nofun)]
          rfl
    · subst hk
      obtain ⟨he, hd⟩ := Part.takeReport_standDown hi hc failed hf hst
      have ht : t = _ := he
      rw [ht]
      refine ⟨_, Part.slot_becomeFree hd 3, rfl, rfl, fun h => ?_, Part.mem_freeOrder_becomeFree hd 3,
        fun m z hz => Part.engaged_becomeFree hd 3 hz⟩
      exact Bool.or_eq_true_iff.mpr (.inl h)

end Sys2Proof.Machine

/-! The supply states: what a change of state does, and what RESERVE ends (R155, R168, R170, R172). -/

namespace Sys2Proof.Machine
open Sys2Proof

variable {p q : Part} {i : SlotId} {c : Callout} {b : Batch} {rest : List Batch} {k : SiteId}

/-! ### A station-powered site in RESERVE -/

theorem WorkFrame.inhibited (h : WorkFrame none p q) (k : SiteId) : q.inhibited k = p.inhibited k := by
  have hpowered : (q.sites.records.get k).stationPowered = (p.sites.records.get k).stationPowered :=
    congrArg StoredSite.stationPowered (h.sites k)
  rw [Part.inhibited, Part.inhibited, h.supply, hpowered]

/-- The site is not used in RESERVE, and the sequencer is not concerned with it. -/
def Part.Shut (k : SiteId) (p : Part) : Prop :=
  p.inhibited k = true ∧ p.sites.sequencer.site? ≠ some k

theorem ReportsGrow.site? (h : ReportsGrow p q) (hp : p.sites.sequencer.site? ≠ some k) :
    q.sites.sequencer.site? ≠ some k := by
  rcases h.sequencer with e | e
  · rw [e]
    exact hp
  · rw [e]
    nofun

theorem Part.settle_sites (k : SiteId) (o : PassOutcome) (p : Part) : (p.settle k o).sites = p.sites := by
  unfold Part.settle
  split
  · rfl
  · dsimp only
    split <;> rfl

theorem Part.turn_shut (h : p.Shut k) : p.turn.sites.sequencer.site? ≠ some k := by
  have hsame : p.sites.sequencer.site? ≠ some k := h.2
  unfold Part.turn
  split
  · exact hsame
  next b _ =>
    split
    · exact hsame
    next e _ _ =>
      cases hcheck : p.turnCheck b e (airtime (p.sites.records.get e.site).leadIn b.pages) with
      | skipReserve | skipAirtime =>
        dsimp only
        rw [Part.settle_sites]
        exact hsame
      | putBack => exact hsame
      | go =>
        have hne : e.site ≠ k := by
          rintro rfl
          rw [Part.turnCheck, if_pos h.1] at hcheck
          cases hcheck
        show (p.clearCheck e.site).sites.sequencer.site? ≠ some k
        unfold Part.clearCheck
        split
        · unfold Part.keySite
          split
          · exact hsame
          · exact fun e => hne (Option.some.inj e)
        · exact fun e => hne (Option.some.inj e)

theorem workStep_shut (h : p.workStep = some q) (hp : p.Shut k) : q.Shut k := by
  refine ⟨by rw [(Part.workStep_work h none).inhibited]; exact hp.1, ?_⟩
  unfold Part.workStep at h
  split at h
  · cases h
    exact (Part.takeReport_reports _ _).site? hp.2
  · split at h
    · split at h
      · cases h
      · split at h
        · cases h
          exact (Part.admitFrom_reports _ (p.onPages fun q => { q with queue := q.queue.tail })).site? hp.2
        · split at h
          · cases h
          · cases h
            exact Part.turn_shut hp
    · cases h

theorem Part.finish_shut (h : p.Shut k) : p.finish.Shut k :=
  Part.work_keeps (I := Part.Shut k) (fun _ _ => workStep_shut) h

/-! ### RESERVE begins -/

/-- The part as RESERVE begins, before a clear wait is ended (R168, R170). -/
def Part.inReserve (p : Part) : Part :=
  ((p.setSupply .reserve).raise .supply).setRun none

theorem Part.supplyBecomes_reserve (h : p.supply.state ≠ .reserve) :
    p.supplyBecomes .reserve = p.inReserve.endInhibitedWait.finish := by
  unfold Part.supplyBecomes
  exact (if_neg h).trans (if_pos rfl)

theorem Part.supplyBecomes_plain {st : SupplyState} (h : p.supply.state ≠ st) (hst : st ≠ .reserve) :
    p.supplyBecomes st = (p.setSupply st).raise .supply := by
  unfold Part.supplyBecomes
  exact (if_neg h).trans (if_neg hst)

theorem Part.endInhibitedWait_inhibited {left : Nat} (hs : p.sites.sequencer = .clearWait k left) (h : p.inhibited k = true) :
    p.endInhibitedWait = (p.setSequencer .idle).settle k .skippedReserve := by
  unfold Part.endInhibitedWait
  simp only [hs]
  exact if_pos h

theorem Part.endInhibitedWait_self (h : ∀ k left, p.sites.sequencer = .clearWait k left → p.inhibited k = false) :
    p.endInhibitedWait = p := by
  unfold Part.endInhibitedWait
  split
  next k left hs => exact if_neg (by simp [h k left hs])
  all_goals rfl

theorem Part.inReserve_inhibited (p : Part) (k : SiteId) : p.inReserve.inhibited k = (p.sites.records.get k).stationPowered :=
  Bool.true_and _

/-- The only batch, at its end, with no demand waiting, leaves the queue once its two reports are taken (R135, R137). -/
theorem Part.work_last {w : Owner} {o : PassOutcome} {groups : GroupSet} {kind : BatchKind} {failed : Bool}
    (hq : p.pages.queue = [b]) (hover : b.over = true) (hd : p.pages.demands = [])
    (hr : p.pages.reports = [.pass w o groups, .ended w kind .complete failed]) (hs : p.sites.sequencer = .idle)
    (hk : kind ≠ .alert) : p.work.pages.queue = [] ∧ p.work.sites.sequencer = .idle := by
  have hfirst : Light { p with pages := { p.pages with reports := [.ended w kind .complete failed] } } _ :=
    Part.takeReport_light (x := .pass w o groups) trivial _
  generalize hx : Part.takeReport (.pass w o groups) { p with pages := { p.pages with
    reports := [.ended w kind .complete failed] } } = x at hfirst
  have hsecond := Part.takeReport_ended_pages (p := { x with pages := { x.pages with reports := [] } }) (w := w) (kind := kind)
    (form := .complete) failed ((congrArg PageQueue.queue hfirst.pages).trans hq) hover
    ((congrArg PageQueue.demands hfirst.pages).trans hd) (.inr hk)
  have hsites : x.sites = p.sites := hfirst.sites
  have hpages : x.pages = { p.pages with reports := [.ended w kind .complete failed] } := hfirst.pages
  generalize hy : Part.takeReport (.ended w kind .complete failed) { x with pages := { x.pages with reports := [] } } = y at hsecond
  have hleave : y.work = y.withQueue [] := by
    have hstep := Part.workStep_over (b := b) (rest := []) (congrArg PageQueue.reports hsecond.1)
      ((congrArg SiteUnit.sequencer (hsecond.2.trans hsites)).trans hs)
      ((congrArg PageQueue.queue hsecond.1).trans ((congrArg PageQueue.queue hpages).trans hq)) (Batch.over_iff.mp hover)
    have hdemands : (y.withQueue []).pages.demands = [] :=
      (congrArg PageQueue.demands hsecond.1).trans ((congrArg PageQueue.demands hpages).trans hd)
    rw [Part.tryAdmissions_nil hdemands] at hstep
    rw [Part.work_of_step hstep]
    exact Part.work_of_quiet (Part.quiet_of_empty (congrArg PageQueue.reports hsecond.1) rfl)
  rw [Part.work_of_step (Part.workStep_reports hr), hx, Part.work_of_step (Part.workStep_reports (congrArg PageQueue.reports hpages)),
    hy, hleave]
  exact ⟨rfl, (congrArg SiteUnit.sequencer (hsecond.2.trans hsites)).trans hs⟩

/-- The beginning of RESERVE, from `s` to `t`. -/
def EntersReserve (s t : Part) : Prop :=
  t.supply.state = .reserve ∧ t.station.run = none ∧ t.condition = .running ∧ SameConfiguration s t
    ∧ (∀ l, (t.ctl l).flags.getLsbD 7 = true)
    ∧ (s.Quiet → (∀ k left, s.sites.sequencer = .clearWait k left → (s.sites.records.get k).stationPowered = false) →
      t.sites = s.sites ∧ t.pages = s.pages ∧ t.table = s.table)
    ∧ ∀ k left, s.sites.sequencer = .clearWait k left → (s.sites.records.get k).stationPowered = true →
      t.sites.sequencer.site? ≠ some k
      ∧ (s.Quiet → ∀ b rest, s.pages.queue = b :: rest → b.withdrawing = false → (∃ e ∈ b.remaining, e.site = k) →
        let b' := b.settledAt k .skippedReserve
        GoesOn b' rest s t
        ∧ (b'.remaining = [] →
          (∀ i c, s.findOwner b.owner = some i → s.callout? i = some c → c.state ≠ .closing →
            (∀ l, (t.ctl l).flags.getLsbD 5 = true) ∧ ∃ c', t.callout? i = some c' ∧ c'.flags.txDegraded = true)
          ∧ (b.kind ≠ .alert → rest = [] → s.pages.demands = [] →
            t.pages.queue = [] ∧ t.sites.sequencer = .idle)))

/-- `p` is `s` but for pins and supply, with the channel-clear pins and the reserve level as they were. -/
structure Supplied (s p : Part) : Prop where
  same  : p = { s with
    pins := p.pins
    supply := p.supply }
  clear : p.pins.channelClear = s.pins.channelClear
  level : p.supply.reserveLevel = s.supply.reserveLevel

/-- A site skipped in RESERVE fails its batch (R137). -/
theorem Batch.failed_skipped (h : ∃ e ∈ b.remaining, e.site = k) : (b.settledAt k .skippedReserve).failed = true := by
  obtain ⟨e, he, hk⟩ := h
  refine (Batch.failed_iff _).mpr ⟨_, List.mem_map_of_mem (List.mem_filter.mp he).1, .skippedReserve, ?_, nofun⟩
  rw [if_pos hk]

theorem Part.finish_takes {w : Owner} {x : Report} {D : Part → Prop} (hp : p.Attends w i)
    (keep : ∀ p q : Part, p.workStep = some q → p.Attends w i → D p → D q)
    (take : ∀ p : Part, p.Attends w i → D (p.takeReport x))
    (congr : ∀ p q : Part, q.table = p.table → q.lines = p.lines → D p → D q) (hx : x ∈ p.pages.reports) : D p.finish :=
  congr p.work p.finish rfl rfl (Part.work_takes hp keep take (.inr hx))

theorem Part.finish_degrades {w : Owner} {kind : BatchKind} {form : EndForm} (hi : p.findOwner w = some i)
    (hc : p.callout? i = some c) (hn : c.state ≠ .closing) (hx : .ended w kind form true ∈ p.pages.reports) :
    (∀ l, (p.finish.ctl l).flags.getLsbD 5 = true) ∧ ∃ c', p.finish.callout? i = some c' ∧ c'.flags.txDegraded = true := by
  obtain ⟨c', hc', -⟩ := Part.finish_callout?_of hc hn
  have hdegraded : DegradedAt i p.finish := Part.finish_takes ⟨hi, c, hc, hn⟩
    (fun _ _ hstep _ => (Part.workStep_moves (.unedited none False) hstep).degradedAt id)
    (fun _ hp => takeReport_degradedAt hp.1 kind form)
    (fun _ _ ht hl hp => ⟨fun l => by rw [Part.ctl, hl]; exact hp.1 l, fun d hd => hp.2 d ((Part.callout?_congr ht i).symm.trans hd)⟩)
    hx
  exact ⟨hdegraded.1, c', hc', hdegraded.2 c' hc'⟩

section
variable {s : Part}

/-- A clear wait of a station-powered site is ended, and its batch goes on or leaves the queue. -/
theorem skipped_finish {left : Nat} (h : Supplied s p) (hs : s.sites.sequencer = .clearWait k left)
    (hk : (s.sites.records.get k).stationPowered = true) (hquiet : s.Quiet) (hq : s.pages.queue = b :: rest)
    (hw : b.withdrawing = false) (hrem : ∃ e ∈ b.remaining, e.site = k) :
    GoesOn (b.settledAt k .skippedReserve) rest s p.inReserve.endInhibitedWait.finish
    ∧ ((b.settledAt k .skippedReserve).remaining = [] →
      (∀ i c, s.findOwner b.owner = some i → s.callout? i = some c → c.state ≠ .closing →
        (∀ l, (p.inReserve.endInhibitedWait.finish.ctl l).flags.getLsbD 5 = true)
        ∧ ∃ c', p.inReserve.endInhibitedWait.finish.callout? i = some c' ∧ c'.flags.txDegraded = true)
      ∧ (b.kind ≠ .alert → rest = [] → s.pages.demands = [] → p.inReserve.endInhibitedWait.finish.pages.queue = []
        ∧ p.inReserve.endInhibitedWait.finish.sites.sequencer = .idle)) := by
  have hsites : p.sites = s.sites := by rw [h.same]
  have hpages : p.pages = s.pages := by rw [h.same]
  have htable : p.table = s.table := by rw [h.same]
  have hended : p.inReserve.endInhibitedWait = (p.inReserve.setSequencer .idle).settle k .skippedReserve :=
    Part.endInhibitedWait_inhibited (left := left) ((congrArg SiteUnit.sequencer hsites).trans hs)
      ((p.inReserve_inhibited k).trans (by rw [hsites]; exact hk))
  have hsettled := Part.settle_cons (p := p.inReserve.setSequencer .idle) ((congrArg PageQueue.queue hpages).trans hq) k .skippedReserve
  have hreports : (p.inReserve.setSequencer .idle).pages.reports = [] :=
    (congrArg PageQueue.reports hpages).trans hquiet.reports
  rw [hreports, List.nil_append] at hsettled
  rw [← hended] at hsettled
  generalize p.inReserve.endInhibitedWait = r at hsettled
  by_cases hlast : (b.settledAt k .skippedReserve).remaining = []
  · refine ⟨fun e more he => ?_, fun _ => ⟨fun i c hi hc hn => ?_, fun hkind hrest hd => ?_⟩⟩
    · rw [hlast] at he
      cases he
    · have htable' : r.table = s.table := by rw [hsettled]; exact htable
      refine Part.finish_degrades (w := b.owner) (kind := b.kind) (form := .complete) (Part.Attends.congr ⟨hi, c, hc, hn⟩ htable').1
        ((Part.callout?_congr htable' i).trans hc) hn ?_
      rw [hsettled]
      simp [hlast, Batch.failed_skipped hrem]
    · subst hrest
      refine Part.work_last (b := b.settledAt k .skippedReserve) (w := b.owner) (o := .skippedReserve) (groups := b.groups)
        (kind := b.kind) (failed := (b.settledAt k .skippedReserve).failed) ?_ (Batch.over_iff.mpr hlast) ?_ ?_ ?_ hkind
      · rw [hsettled]
      · rw [hsettled]
        exact (congrArg PageQueue.demands hpages).trans hd
      · rw [hsettled]
        simp [hlast]
      · rw [hsettled]
        rfl
  · refine ⟨Part.goesOn_finish (fun x hx => ?_) ?_ ?_ hw ?_ ?_, fun hl => absurd hl hlast⟩
    · rw [hsettled, if_neg hlast] at hx
      obtain rfl := List.mem_singleton.mp hx
      trivial
    · rw [hsettled]
      rfl
    · rw [hsettled]
    · rw [hsettled]
      show p.sites.records = _
      rw [hsites]
    · rw [hsettled]
      exact h.clear

/-- What the beginning of RESERVE does. -/
theorem supplyBecomes_entersReserve (h : Supplied s p) (hs : s.condition = .running) (hne : p.supply.state ≠ .reserve) :
    EntersReserve s (p.supplyBecomes .reserve)
    ∧ (p.supplyBecomes .reserve).supply.lastSample = p.supply.lastSample := by
  have hsites : p.sites = s.sites := by rw [h.same]
  have hpages : p.pages = s.pages := by rw [h.same]
  have htable : p.table = s.table := by rw [h.same]
  have hcondition : p.condition = .running := by rw [h.same]; exact hs
  have hconf : SameConfiguration s p.inReserve := by
    have hall : p.inReserve = { s with
        pins := p.pins
        supply := { p.supply with state := .reserve }
        lines := s.lines.raise .supply
        station := { s.station with run := none } } := by
      rw [h.same]
      rfl
    refine .of_same ?_ h.level ?_ ?_ ?_ ?_ ?_ <;> rw [hall]
    exact fun _ => rfl
  have hframe : WorkFrame none p.inReserve p.inReserve.endInhibitedWait.work :=
    (WorkFrame.of_pages p.inReserve.endInhibitedWait_onlyPages).trans (Part.finish_work _).1
  have hmoves : Moves (.unedited none False) p.inReserve p.inReserve.endInhibitedWait.finish :=
    (Part.endInhibitedWait_moves _).trans (Part.finish_moves _ _)
  obtain ⟨bits, -, hbits⟩ := hmoves.frame.lines.ctl
  rw [Part.supplyBecomes_reserve hne]
  refine ⟨⟨congrArg Supply.state hframe.supply, ?_, hframe.condition.trans hcondition, hconf.trans (hmoves.configuration id),
    fun l => ?_, fun hquiet hpowered => ?_, fun k left hseq hk => ⟨?_, fun hquiet b rest hq hw hrem =>
      skipped_finish h hseq hk hquiet hq hw hrem⟩⟩, (congrArg Supply.lastSample hframe.supply).trans rfl⟩
  · show p.inReserve.endInhibitedWait.work.station.run = none
    rw [hframe.station]
    rfl
  · rw [hbits l]
    show BitVec.getLsbD ((p.inReserve.ctl l).flags ||| bits) 7 = true
    have hraised : (p.inReserve.ctl l).flags = (p.ctl l).flags ||| 1#16 <<< 7 := by
      show (((p.setSupply .reserve).raise .supply).ctl l).flags = _
      rw [Part.ctl_raise]
      rfl
    rw [hraised, BitVec.getLsbD_or, BitVec.getLsbD_or]
    exact Bool.or_eq_true_iff.mpr (.inl (Bool.or_eq_true_iff.mpr (.inr rfl)))
  · have hself : p.inReserve.endInhibitedWait = p.inReserve := Part.endInhibitedWait_self fun k left hk => by
      rw [Part.inReserve_inhibited, hsites]
      exact hpowered k left ((congrArg SiteUnit.sequencer hsites).symm.trans hk)
    have hquiet' : p.inReserve.Quiet := hquiet.of_head ((congrArg PageQueue.reports hpages).trans hquiet.reports)
      (congrArg SiteUnit.sequencer hsites) fun b rest hb => ⟨rest, (congrArg PageQueue.queue hpages).symm.trans hb⟩
    rw [hself, Part.finish_quiet hquiet']
    exact ⟨hsites, hpages, htable⟩
  · refine (Part.finish_shut ⟨?_, ?_⟩).2
    · rw [(WorkFrame.of_pages p.inReserve.endInhibitedWait_onlyPages).inhibited, Part.inReserve_inhibited, hsites]
      exact hk
    · rw [Part.endInhibitedWait_inhibited (p := p.inReserve) (left := left)
        ((congrArg SiteUnit.sequencer hsites).trans hseq) ((p.inReserve_inhibited k).trans (by rw [hsites]; exact hk)), Part.settle_sites]
      nofun

end

theorem Part.mainsRises_running (h : p.condition = .running) : p.mainsRises = (p.setMains true).supplyBecomes .mains := by
  unfold Part.mainsRises
  simp only [show (p.setMains true).condition = .running from h]

theorem Part.mainsFalls_running (h : p.condition = .running) :
    p.mainsFalls = if p.supply.state = .mains then (p.setMains false).settleFall else p.setMains false := by
  unfold Part.mainsFalls
  simp only [show (p.setMains false).condition = .running from h]
  rfl

theorem Part.takeSample_running (h : p.condition = .running) (x : Level) :
    p.takeSample x = ((p.setSense x).setSample x).judgeSample x := by
  unfold Part.takeSample
  simp only [show (p.setSense x).condition = .running from h]

/-- Settles O19. -/
theorem supplyStates : Obligations.SupplyStates := by
  unfold Obligations.SupplyStates
  intro s hs changed entersReserve mains
  refine ⟨?_, fun h => ?_, fun x h => ?_⟩
  · rw [leads_iff]
    show Part.mainsRises s.toPart = _
    rw [Part.mainsRises_running hs]
    split
    next hst => exact if_pos hst
    next hst => exact Part.supplyBecomes_plain hst nofun
  · rw [leads_iff]
    have heffect : effect .mainsPresentFalls s.toPart
        = if s.supply.state = .mains then (s.setMains false).settleFall else s.setMains false := Part.mainsFalls_running hs
    rw [heffect]
    by_cases hst : s.supply.state = .mains
    · rw [if_neg (not_not.mpr hst), if_pos hst]
      have hcut : ¬ s.supply.lastSample.val < 1050 := Nat.not_lt.mpr (h.resolve_right (not_not.mpr hst))
      have hfall : (s.setMains false).settleFall = if s.supply.lastSample.val < s.supply.reserveLevel * 10
          then (s.setMains false).supplyBecomes .reserve else (s.setMains false).supplyBecomes .battery := if_neg hcut
      rw [hfall]
      split
      · exact (supplyBecomes_entersReserve (p := s.setMains false) ⟨rfl, rfl, rfl⟩ hs (by
          show s.supply.state ≠ _
          rw [hst]
          nofun)).1
      · exact Part.supplyBecomes_plain (p := s.setMains false) (st := .battery) (by
          show s.supply.state ≠ _
          rw [hst]
          nofun) nofun
    · rw [if_pos hst, if_neg hst]
      rfl
  · intro p
    rw [leads_iff]
    have heffect : effect (.batterySample x) s.toPart = p.judgeSample x := Part.takeSample_running hs x
    rw [heffect]
    have hsupplied : Supplied s.toPart p := ⟨rfl, rfl, rfl⟩
    have hjudge : p.judgeSample x = match s.supply.state with
      | .mains => p
      | .battery => if x.val < 1050 then p.cutOff else if x.val < s.supply.reserveLevel * 10 then p.supplyBecomes .reserve else p
      | .reserve => if x.val < 1050 then p.cutOff
        else if s.supply.reserveLevel * 10 + 30 ≤ x.val then p.supplyBecomes .battery else p := rfl
    have hstate : p.supply.state = s.supply.state := rfl
    rw [hjudge]
    cases hst : s.supply.state with
    | mains => rfl
    | battery =>
      have hcut : ¬ x.val < 1050 := Nat.not_lt.mpr (h.resolve_right (by rw [hst]; nofun))
      dsimp only
      rw [if_neg hcut]
      split
      · exact supplyBecomes_entersReserve hsupplied hs (by rw [hstate, hst]; nofun)
      · rfl
    | reserve =>
      have hcut : ¬ x.val < 1050 := Nat.not_lt.mpr (h.resolve_right (by rw [hst]; nofun))
      dsimp only
      rw [if_neg hcut]
      split
      · exact Part.supplyBecomes_plain (by rw [hstate, hst]; nofun) nofun
      · rfl

end Sys2Proof.Machine

/-! Reassessments and the work that follows end engagements only (R54, R56). -/

namespace Sys2Proof.Machine
open Sys2Proof

variable {p q r : Part} {i : SlotId} {c d e : Callout}

/-- Every member is as before, or engaged no longer. -/
def Eases (p q : Part) : Prop :=
  ∀ m, q.member? m = p.member? m ∨ ∃ x, p.member? m = some x ∧ q.member? m = some { x with engaged := none }

namespace Eases

theorem of_roster (h : q.roster = p.roster) : Eases p q := fun m => .inl (by rw [Part.member?, h]; rfl)

theorem refl (p : Part) : Eases p p := of_roster rfl

theorem trans (h : Eases p q) (k : Eases q r) : Eases p r := fun m => by
  rcases k m with e | ⟨y, hy, e⟩
  · rw [e]
    exact h m
  · rcases h m with e' | ⟨x, hx, e'⟩
    · exact .inr ⟨y, e' ▸ hy, e⟩
    · refine .inr ⟨x, hx, e.trans ?_⟩
      rw [Option.some.inj (hy.symm.trans e')]

theorem ite {b : Prop} [Decidable b] (hq : Eases p q) (hr : Eases p r) : Eases p (if b then q else r) := by
  split
  · exact hq
  · exact hr

/-- A member no longer engaged stays so. -/
theorem free (h : Eases p q) {m : MemberId} {x : Member} (hx : p.member? m = some x) (hfree : x.engaged = none) :
    q.member? m = some x := by
  rcases h m with e | ⟨y, hy, e⟩
  · exact e.trans hx
  · obtain rfl := Option.some.inj (hx.symm.trans hy)
    rw [e, ← hfree]

end Eases

theorem Member.leave_eases (n : CalloutNo) (x : Member) : x.leave n = x ∨ x.leave n = { x with engaged := none } := by
  unfold Member.leave
  split
  · exact .inr rfl
  · exact .inl rfl

theorem Part.disengage_eases (m : MemberId) (n : CalloutNo) (p : Part) : Eases p (p.disengage m n) := fun j => by
  rw [Part.disengage, Part.member?_modifyMember]
  split
  · next h =>
    rw [h]
    cases hx : p.member? m with
    | none => exact .inl rfl
    | some x =>
      rcases x.leave_eases n with e | e
      · exact .inl (congrArg some e)
      · exact .inr ⟨x, rfl, congrArg some e⟩
  · exact .inl rfl

theorem Part.disengageAll_eases (n : CalloutNo) (p : Part) : Eases p (p.disengageAll n) := fun m => by
  rw [Part.member?_disengageAll]
  cases p.member? m with
  | none => exact .inl rfl
  | some x =>
    rcases x.leave_eases n with e | e
    · exact .inl (congrArg some e)
    · exact .inr ⟨x, rfl, congrArg some e⟩

theorem Part.disengageList_eases (n : CalloutNo) (l : List MemberId) (p : Part) :
    Eases p (l.foldl (fun p m => p.disengage m n) p) := by
  induction l generalizing p with
  | nil => exact .refl p
  | cons m rest ih => exact (p.disengage_eases m n).trans (ih _)

theorem Part.modify_eases (i : SlotId) (f : Callout → Callout) (p : Part) : Eases p (p.modify i f) :=
  .of_roster (by rw [Part.modify_eq])

theorem Part.raiseIf_eases (b : Bool) (n : Notice) (p : Part) : Eases p (p.raiseIf b n) := by
  unfold Part.raiseIf
  exact .ite (.of_roster rfl) (.refl p)

theorem OnlyPages.eases (h : OnlyPages p q) : Eases p q := .of_roster h.roster

theorem Part.releaseMembers_eases (i : SlotId) (ms : List MemberId) (p : Part) : Eases p (p.releaseMembers i ms) := by
  unfold Part.releaseMembers
  split
  · exact .refl p
  · exact ((p.modify_eases i _).trans (Part.disengageList_eases _ _ _)).trans (Part.raiseIf_eases _ _ _)

theorem Part.recompute_eases (i : SlotId) (p : Part) : Eases p (p.recompute i) := by
  unfold Part.recompute
  split
  · exact .refl p
  · exact (p.modify_eases i _).trans (Part.raiseIf_eases _ _ _)

theorem Part.enter_eases (i : SlotId) (st : CalloutState) (p : Part) : Eases p (p.enter i st) :=
  (p.modify_eases i _).trans (.of_roster rfl)

theorem Part.enterCrewed_eases (i : SlotId) (p : Part) : Eases p (p.enterCrewed i) := by
  have h : Eases p ((p.enter i .crewed).modify i Callout.stopWindow) := (p.enter_eases i .crewed).trans (Part.modify_eases i _ _)
  unfold Part.enterCrewed
  dsimp only
  split
  · exact h
  · exact .ite h ((h.trans (Part.releaseMembers_eases i _ _)).trans
      ((Part.demandReleases_onlyPages _ _ _).eases.trans (Part.recompute_eases i _)))

theorem Part.enterCounting_eases (i : SlotId) (p : Part) : Eases p (p.enterCounting i) :=
  (p.enter_eases i .counting).trans (Part.modify_eases i _ _)

theorem Part.takeOutcome_eases (i : SlotId) (p : Part) : Eases p (p.takeOutcome i) := by
  unfold Part.takeOutcome
  split
  · exact .refl p
  · split
    · exact .ite (p.enterCrewed_eases i) (.refl p)
    · exact .ite (p.enterCrewed_eases i) (.refl p)
    · exact .ite (.refl p) (p.enterCounting_eases i)
    all_goals exact .refl p

theorem Part.reassess_eases (i : SlotId) (p : Part) : Eases p (p.reassess i) := by
  unfold Part.reassess
  split
  · exact .refl p
  · exact .ite (.refl p) ((p.recompute_eases i).trans (Part.takeOutcome_eases i _))

theorem Part.degrade_eases (i : SlotId) (p : Part) : Eases p (p.degrade i) :=
  (p.modify_eases i _).trans (.of_roster rfl)

theorem Part.alertEnded_eases (i : SlotId) (p : Part) : Eases p (p.alertEnded i) := by
  have h := p.modify_eases i fun c => { c with alertStatus := .ended }
  unfold Part.alertEnded
  dsimp only
  split
  · exact h
  · exact .ite ((h.trans (Part.enterCounting_eases i _)).trans (Part.takeOutcome_eases i _)) h

theorem Part.withdrawFor_eases (i : SlotId) (ks : BatchKind → Bool) (p : Part) : Eases p (p.withdrawFor i ks).2 := by
  cases hc : p.callout? i with
  | none =>
    unfold Part.withdrawFor
    rw [hc]
    exact .refl p
  | some c =>
    rw [Part.withdrawFor_eq hc]
    have h := (p.withdraw_onlyPages c.owner ks).eases
    exact .ite (h.trans (Part.degrade_eases i _)) h

theorem Part.becomeFree_eases (i : SlotId) (endCode : Nat) (p : Part) : Eases p (p.becomeFree i endCode) := by
  refine (p.withdrawFor_eases i everyKind).trans ?_
  cases hd : (p.withdrawFor i everyKind).2.callout? i with
  | none =>
    unfold Part.becomeFree
    simp only [hd]
    exact .refl _
  | some d =>
    rw [Part.becomeFree_eq hd]
    exact (Part.disengageAll_eases d.number _).trans (.of_roster rfl)

theorem Part.batchEnded_eases (i : SlotId) (kind : BatchKind) (p : Part) : Eases p (p.batchEnded i kind) := by
  unfold Part.batchEnded
  split
  · exact .refl p
  · cases kind with
    | alert => exact p.alertEnded_eases i
    | standDown => exact .ite (p.becomeFree_eases i 3) (.refl p)
    | supplement | repage | escalate | release => exact .refl p

theorem Part.takeReport_eases (x : Report) (p : Part) : Eases p (p.takeReport x) := by
  cases x with
  | pass o outcome groups =>
    cases hi : p.findOwner o with
    | none =>
      rw [(Part.takeReport_unowned hi outcome groups .alert .complete true).1]
      exact .refl p
    | some i =>
      rw [Part.takeReport_pass hi]
      exact .ite (p.modify_eases i _) (.refl p)
  | ended o kind form failed =>
    cases hi : p.findOwner o with
    | none =>
      rw [(Part.takeReport_unowned hi .done 0#16 kind form failed).2]
      exact .refl p
    | some i =>
      have h : Eases p (if failed = true then p.degrade i else p) := .ite (p.degrade_eases i) (.refl p)
      rw [Part.takeReport_ended hi]
      exact .ite h (h.trans (Part.batchEnded_eases i kind _))

theorem Part.workStep_eases (h : p.workStep = some q) : Eases p q := by
  unfold Part.workStep at h
  split at h
  · cases h
    exact (Eases.of_roster rfl).trans (Part.takeReport_eases _ _)
  · split at h
    · split at h
      · cases h
      · split at h
        · cases h
          exact p.leaveQueue_onlyPages.eases
        · split at h
          · cases h
          · cases h
            exact p.turn_onlyPages.eases
    · cases h

theorem Part.finish_eases (p : Part) : Eases p p.finish :=
  Part.work_keeps (I := Eases p) (fun _ _ hstep h => h.trans (Part.workStep_eases hstep)) (.refl p)

/-! ### One callout reassessed, and the work after it -/

theorem Appliance.exists_index (k : Fin 4) : ∃ ap : Appliance, ap.index = k := by
  match k with
  | 0 => exact ⟨.a, rfl⟩
  | 1 => exact ⟨.b, rfl⟩
  | 2 => exact ⟨.c, rfl⟩
  | 3 => exact ⟨.d, rfl⟩

/-- With no work left over and the lamps right, the end of an event changes nothing. -/
theorem Part.finish_of_settled (hq : p.Quiet) (hl : p.LampsRight) : p.finish = p := by
  have hlamps : p.refreshLamps.station.lamps = p.station.lamps := Table.ext_get fun k => by
    obtain ⟨ap, rfl⟩ := Appliance.exists_index k
    exact (p.refreshLamps.lampsRight_iff.mp p.refreshLamps_lampsRight ap).trans (p.lampsRight_iff.mp hl ap).symm
  rw [Part.finish_quiet hq, Part.refreshLamps_frame, hlamps]

/-- A bit of the notices that stands on every line. -/
def Part.Noticed (k : Nat) (p : Part) : Prop :=
  ∀ l, (p.ctl l).flags.getLsbD k = true

theorem Raises.noticed {k : Nat} (h : Raises p q) (hp : p.Noticed k) : q.Noticed k := fun l => by
  obtain ⟨b, -, hb⟩ := h.ctl
  rw [hb l, BitVec.getLsbD_or, hp l, Bool.true_or]

theorem Part.raise_noticed (n : Notice) (p : Part) : (p.raise n).Noticed n.code := fun l => by
  rw [Part.ctl_raise, LineController.raise, BitVec.getLsbD_or]
  cases n <;> exact Bool.or_eq_true_iff.mpr (.inr rfl)

theorem Part.raise_response_noticed (p : Part) : (p.raise .response).Noticed 1 := p.raise_noticed .response

theorem Part.Noticed.raise {k : Nat} (h : p.Noticed k) (n : Notice) : (p.raise n).Noticed k := (Raises.raise p n).noticed h

theorem Part.Noticed.finish {k : Nat} (h : p.Noticed k) : p.finish.Noticed k :=
  (p.finish_moves (.unedited none False)).frame.lines.noticed h

/-- A reassessment that changes the outcome raises CREW (R105). -/
theorem Part.reassess_crew (hc : p.callout? i = some c) (hn : c.state ≠ .closing)
    (h : (p.assessment c).outcome ≠ c.assessment.outcome) : (p.reassess i).Noticed 2 := by
  rw [Part.reassess_eq hc hn]
  refine (Part.takeOutcome_moves (.unedited none False) i _).frame.lines.noticed ?_
  unfold Part.recompute
  simp only [hc, Part.raiseIf]
  rw [if_pos (by simpa using h)]
  exact Part.raise_noticed .crew _

theorem Callout.WorkStep.reassessed {a : Assessment} (h : d.WorkStep e) (hs : d.Still e) (hr : Reassessed a c d) :
    Reassessed a c e := by
  obtain ⟨hstate, hresponses, hwindow, hassessment, hlevel, happliances⟩ := hr
  obtain ⟨kstate, kresponses, kassessment, kwindow⟩ := hs
  refine ⟨kstate.trans hstate, kresponses.trans hresponses, kwindow.trans hwindow, fun he => kassessment.trans (hassessment he),
    ?_, ?_⟩
  · exact (congrArg Callout.level h.1 : e.core.level = d.core.level).trans hlevel
  · exact (congrArg Callout.appliances h.1 : e.core.appliances = d.core.appliances).trans happliances

/-- A callout reassessed on a part without work left over, after the work that follows. -/
theorem Part.finish_reassessed (hc : p.callout? i = some c) (hn : c.state ≠ .closing) (hquiet : p.Quiet)
    (ht : q.table = (p.reassess i).table) (hp : SamePages (p.reassess i) q) :
    ∃ d, q.finish.callout? i = some d ∧ Reassessed (p.assessment c) c d := by
  obtain ⟨a, ha⟩ := Part.callout?_reassess hc hn
  have hreassessed := Callout.outcomeTaken_reassessed (p.assessment c) a c
  have hq : q.callout? i = _ := (Part.callout?_congr ht i).trans ha
  by_cases he : ({ c with assessment := p.assessment c } : Callout).Enters
  · have hcrewed : (({ c with assessment := p.assessment c } : Callout).outcomeTaken a).state = .crewed := by
      rw [Callout.outcomeTaken, if_pos he]
      rfl
    obtain ⟨d, hd, hstep⟩ := Part.finish_callout?_of hq (by rw [hcrewed]; nofun)
    exact ⟨d, hd, hstep.reassessed (hstep.still (by rw [hcrewed]; nofun)) hreassessed⟩
  · have hsame : SamePages p q := by
      rw [Part.reassess_eq hc hn] at hp
      exact (SamePages.trans (p.recompute_pages i) (Part.takeOutcome_samePages (Part.callout?_recompute_self hc) he)).trans hp
    have hquiet' : q.Quiet := hsame.workStep.mpr hquiet
    rw [Part.finish_quiet hquiet']
    exact ⟨_, hq, hreassessed⟩

/-- The same with RESPONSE raised meanwhile. -/
theorem Part.finish_reassessed_raise (n : Notice) (hc : p.callout? i = some c) (hn : c.state ≠ .closing) (hquiet : p.Quiet) :
    ∃ d, ((p.reassess i).raise n).finish.callout? i = some d ∧ Reassessed (p.assessment c) c d :=
  Part.finish_reassessed hc hn hquiet (Part.raise_table _ _) ⟨rfl, rfl⟩

end Sys2Proof.Machine

/-! A member's availability changed by an order or a duty report (R54, R55, R58 to R60, R91). -/

namespace Sys2Proof.Machine
open Sys2Proof

variable {p q : Part} {i : SlotId} {c : Callout} {m : MemberId} {x : Member} {n : CalloutNo} {v : Availability} {source : Source}

/-- The member leaves AVAILABLE while engaged on the callout of slot `i`. -/
structure Part.Leaves (p : Part) (x : Member) (v : Availability) (n : CalloutNo) (i : SlotId) : Prop where
  available : x.availability = .available
  gone      : v ≠ .available
  engaged   : x.engaged = some n
  found     : p.findCallout n = some i

/-- The part with another record of a member in use. -/
def Part.withMember (p : Part) (m : MemberId) (x : Member) : Part :=
  { p with roster := { p.roster with members := p.roster.members.set m (some x) } }

theorem Table.set_get_self {α : Type} {n : Nat} (t : Table n α) (k : Fin n) : t.set k (t.get k) = t :=
  Table.ext_get fun j => by
    rw [Table.get_set]
    split
    · next h => rw [h]
    · rfl

theorem Part.withMember_self (hx : p.member? m = some x) : p.withMember m x = p := by
  unfold Part.withMember
  rw [← hx, Part.member?, Table.set_get_self]

theorem Part.withMember_pages (m : MemberId) (x : Member) (p : Part) : SamePages p (p.withMember m x) := ⟨rfl, rfl⟩

theorem Part.modifyMember_eq (hx : p.member? m = some x) (f : Member → Member) :
    p.modifyMember m f = p.withMember m (f x) := by
  unfold Part.modifyMember
  rw [hx]
  rfl

theorem Part.member?_withMember (p : Part) (m : MemberId) (x : Member) : (p.withMember m x).member? m = some x :=
  Table.get_set_self _ _ _

theorem Part.findCallout_number (h : p.findCallout n = some i) (hc : p.callout? i = some c) : c.number = n := by
  obtain ⟨d, hd, hn⟩ := Part.findLive_eq_some h
  rw [Option.some.inj (hc.symm.trans hd)]
  exact beq_iff_eq.mp hn

theorem Part.callout?_of_findCallout (h : p.findCallout n = some i) : ∃ c, p.callout? i = some c ∧ c.number = n := by
  obtain ⟨c, hc, hn⟩ := Part.findLive_eq_some h
  exact ⟨c, hc, beq_iff_eq.mp hn⟩

/-- Where no engagement ends, the availability is all that changes. -/
theorem Part.changeAvailability_plain (hx : p.member? m = some x) (h : ∀ n i, ¬ p.Leaves x v n i) :
    p.changeAvailability m v source = p.withMember m { x with availability := v } := by
  unfold Part.changeAvailability
  simp only [hx]
  split
  · next hv =>
    rw [← hv]
    exact (Part.withMember_self hx).symm
  · have hset : p.setAvailability m v = p.withMember m { x with availability := v } := Part.modifyMember_eq hx _
    split
    · exact hset
    · next i c hi =>
      exfalso
      obtain ⟨j, hj, -⟩ := Option.bind_eq_some_iff.mp hi
      obtain ⟨n, hn, hfound⟩ := Option.bind_eq_some_iff.mp hj
      split at hn
      · next hgone =>
        simp only [Bool.and_eq_true, decide_eq_true_eq, bne_iff_ne, ne_eq] at hgone
        exact h n j ⟨hgone.1, hgone.2, hn, hfound⟩
      · cases hn

/-- Where an engagement ends, its record is withdrawn and the callout reassessed. -/
theorem Part.changeAvailability_leaves (hx : p.member? m = some x) (h : p.Leaves x v n i) (hc : p.callout? i = some c) :
    p.changeAvailability m v source = (((p.withdrawMember i c m source).setAvailability m v).reassess i).raise .response := by
  have hne : x.availability ≠ v := fun e => h.gone (e ▸ h.available)
  unfold Part.changeAvailability
  simp only [hx, if_neg hne]
  have hgone : (if (x.availability = .available && v != .available) = true then x.engaged else none) = some n := by
    rw [if_pos (by simp [h.available, h.gone]), h.engaged]
  simp only [hgone, Option.bind_some, h.found, hc, Option.map_some]

/-- The callout with a member's record WITHDRAWN. -/
def Callout.withdrawing (m : MemberId) (source : Source) (c : Callout) : Callout :=
  { c with responses := c.responses.map fun r => if r.member = m
    then { r with kind := .withdrawn, eta := none, estimate := none, source := source, lastChange := c.elapsed } else r }

theorem Callout.withdrawing_eq (m : MemberId) (source : Source) (c : Callout) :
    c.mapRecords (fun k => k == m) (Response.withdraw source c.elapsed) = c.withdrawing m source := by
  unfold Callout.mapRecords Callout.withdrawing Response.withdraw
  simp only [beq_iff_eq]

theorem Part.callout?_withdrawMember (hc : p.callout? i = some c) (m : MemberId) (source : Source) :
    (p.withdrawMember i c m source).callout? i = some (c.withdrawing m source) := by
  rw [Part.withdrawMember, Part.callout?_disengage, Part.callout?_modify_self, hc, ← c.withdrawing_eq]
  rfl

theorem Part.callout?_withdrawMember_ne {j : SlotId} (h : i ≠ j) (c : Callout) (m : MemberId) (source : Source) (p : Part) :
    (p.withdrawMember i c m source).callout? j = p.callout? j := by
  rw [Part.withdrawMember, Part.callout?_disengage, Part.callout?_modify_ne _ h]

theorem Part.member?_withdrawMember (hx : p.member? m = some x) (he : x.engaged = some c.number) :
    (p.withdrawMember i c m source).member? m = some { x with engaged := none } := by
  rw [Part.withdrawMember, Part.disengage, Part.member?_modifyMember, if_pos rfl, Part.member?, Part.roster_modify]
  show (p.member? m).map _ = _
  rw [hx, Option.map_some, Member.leave, if_pos he]

theorem Part.withdrawMember_pages (i : SlotId) (c : Callout) (m : MemberId) (source : Source) (p : Part) :
    SamePages p (p.withdrawMember i c m source) :=
  (p.modify_pages i _).trans (Part.modifyMember_pages m _ _)

theorem Part.callout?_setAvailability (m : MemberId) (v : Availability) (p : Part) (i : SlotId) :
    (p.setAvailability m v).callout? i = p.callout? i :=
  Part.callout?_modifyMember m _ p i

theorem Part.findCallout_eq (p : Part) (n : CalloutNo) : p.findCallout n = p.findLive fun c => c.number == n := rfl

/-- What a change of availability, and the work that follows, leaves. -/
theorem Part.availability_changed (hx : p.member? m = some x) (v : Availability) (source : Source) :
    ∃ y, (p.changeAvailability m v source).finish.member? m = some y
      ∧ y.availability = v ∧ y.callSign = x.callSign ∧ y.address = x.address
      ∧ ((∃ n i, p.Leaves x v n i) → y.engaged = none)
      ∧ (∀ n i d, p.Leaves x v n i → p.callout? i = some d → d.state ≠ .closing → p.Quiet →
        (∃ d', (p.changeAvailability m v source).finish.callout? i = some d'
          ∧ Reassessed (p.assessment (d.withdrawing m source)) (d.withdrawing m source) d')
        ∧ (p.changeAvailability m v source).finish.Noticed 1
        ∧ ((p.assessment (d.withdrawing m source)).outcome ≠ d.assessment.outcome →
          (p.changeAvailability m v source).finish.Noticed 2))
      ∧ ((∀ n i, ¬ p.Leaves x v n i) → p.Quiet → p.LampsRight →
        (p.changeAvailability m v source).finish = p.withMember m { x with availability := v }) := by
  by_cases h : ∃ n i, p.Leaves x v n i
  · obtain ⟨n, i, hl⟩ := h
    obtain ⟨c, hc, hnumber⟩ := Part.callout?_of_findCallout hl.found
    have heq := Part.changeAvailability_leaves (source := source) hx hl hc
    have hmember : ((p.withdrawMember i c m source).setAvailability m v).member? m
        = some { x with engaged := none, availability := v } := by
      rw [Part.setAvailability, Part.member?_modifyMember, if_pos rfl,
        Part.member?_withdrawMember hx (hl.engaged.trans (congrArg some hnumber.symm))]
      rfl
    have heases : Eases ((p.withdrawMember i c m source).setAvailability m v) (p.changeAvailability m v source).finish := by
      rw [heq]
      exact ((Part.reassess_eases i _).trans (.of_roster rfl)).trans (Part.finish_eases _)
    refine ⟨_, heases.free hmember rfl, rfl, rfl, rfl, fun _ => rfl, fun n' i' d hl' hd hn hquiet => ?_,
      fun h => absurd hl (h n i)⟩
    obtain rfl : n = n' := Option.some.inj (hl.engaged.symm.trans hl'.engaged)
    obtain rfl : i = i' := Option.some.inj (hl.found.symm.trans hl'.found)
    obtain rfl : c = d := Option.some.inj (hc.symm.trans hd)
    have hcallout : ((p.withdrawMember i c m source).setAvailability m v).callout? i = some (c.withdrawing m source) := by
      rw [Part.callout?_setAvailability, Part.callout?_withdrawMember hc]
    have hpages : SamePages p ((p.withdrawMember i c m source).setAvailability m v) :=
      (p.withdrawMember_pages i c m source).trans (Part.modifyMember_pages m _ _)
    have hconf : SameConfiguration p ((p.withdrawMember i c m source).setAvailability m v) :=
      Moves.configuration (g := .unedited none False) id
        ((p.withdrawMember_moves _ i c m source).trans (Part.setAvailability_moves _ (.inl trivial)))
    rw [heq, ← hconf.assessment]
    refine ⟨Part.finish_reassessed_raise .response hcallout hn (hpages.workStep.mpr hquiet), ?_, fun hout => ?_⟩
    · exact (Part.raise_response_noticed _).finish
    · exact ((Part.reassess_crew hcallout hn hout).raise .response).finish
  · have hplain : ∀ n i, ¬ p.Leaves x v n i := fun n i hl => h ⟨n, i, hl⟩
    have heq := Part.changeAvailability_plain (source := source) hx hplain
    obtain ⟨y, hy, e⟩ : ∃ y, (p.changeAvailability m v source).finish.member? m = some y
        ∧ y = { x with availability := v, engaged := y.engaged } := by
      rcases Part.finish_eases (p.changeAvailability m v source) m with e | ⟨y, hy, e⟩
      · rw [e, heq]
        exact ⟨_, Part.member?_withMember _ _ _, rfl⟩
      · refine ⟨_, e, ?_⟩
        rw [heq, Part.member?_withMember] at hy
        obtain rfl := Option.some.inj hy
        rfl
    refine ⟨y, hy, by rw [e], by rw [e], by rw [e], fun h' => absurd h' h, fun n i d hl => absurd hl (hplain n i),
      fun _ hquiet hlamps => ?_⟩
    rw [heq]
    exact Part.finish_of_settled ((p.withMember_pages m _).workStep.mpr hquiet) (Part.lampsRight_congr rfl (fun _ => rfl) (fun _ => rfl) hlamps)

/-! ### The order (R58, R59) -/

section
variable {l : Line} {ops : List Operand}

theorem needWithin_single (j k : Nat) (hk : k < 2 ^ 31) : needWithin ops j k k = some k ↔ NumberIn (operandAt ops j) k k := by
  constructor
  · intro h
    exact not_not.mp fun hn => by rw [needWithin_eq_none.mpr hn] at h; cases h
  · intro h
    cases hv : needWithin ops j k k with
    | none => exact absurd h (needWithin_eq_none.mp hv)
    | some x =>
      obtain ⟨-, hlo, hhi⟩ := (needWithin_eq_some hk).mp hv
      rw [show x = k by omega]

theorem Part.isWithheld_iff (p : Part) (m : MemberId) :
    p.isWithheld m = true ↔ ∃ x, p.member? m = some x ∧ x.availability = .withheld := by
  unfold Part.isWithheld
  cases p.member? m <;> simp

theorem Part.withholdingBarred_iff (p : Part) (l : Line) (ops : List Operand) : p.withholdingBarred l ops = true ↔
    l ≠ .console ∧ (NumberIn (operandAt ops 1) 2 2 ∨ ∃ (m : MemberId) (x : Member), operandAt ops 0 = num (m.val + 1)
      ∧ p.member? m = some x ∧ x.availability = .withheld) := by
  have hmember : ((needIndex ops 0 128 1).map p.isWithheld).getD false = true ↔ ∃ (m : MemberId) (x : Member),
      operandAt ops 0 = num (m.val + 1) ∧ p.member? m = some x ∧ x.availability = .withheld := by
    constructor
    · intro h
      cases hm : needIndex ops 0 128 1 with
      | none =>
        rw [hm] at h
        cases h
      | some m =>
        rw [hm] at h
        obtain ⟨x, hx, hw⟩ := (p.isWithheld_iff m).mp h
        exact ⟨m, x, (needIndex_eq_some (by omega)).mp hm, hx, hw⟩
    · rintro ⟨m, x, hm, hx, hw⟩
      rw [(needIndex_eq_some (by omega)).mpr hm]
      exact (p.isWithheld_iff m).mpr ⟨x, hx, hw⟩
  unfold Part.withholdingBarred controlOnly
  rw [Bool.and_eq_true, Bool.or_eq_true, hmember, bne_iff_ne, beq_iff_eq, needWithin_single 1 2 (by omega)]
  rfl

theorem Part.working_withholdingBarred (p : Part) (l k : Line) (code : Byte) (ops bits : List Operand) :
    (p.working l code bits).withholdingBarred k ops = p.withholdingBarred k ops := by
  unfold Part.withholdingBarred Part.isWithheld
  simp only [Part.working_member?]

theorem setAvailabilityOrder_barred (h : p.withholdingBarred l ops = true) (declared : Nat) :
    setAvailabilityOrder l declared ops p = refuse .notPermitted := if_pos h

theorem setAvailabilityOrder_badOperand (h : p.withholdingBarred l ops = false)
    (hbad : 2 < ops.length ∨ needIndex ops 0 128 1 = none ∨ needWithin ops 1 0 2 = none) :
    setAvailabilityOrder l ops.length ops p = badOperand := by
  unfold setAvailabilityOrder
  rw [h]
  by_cases hlen : 2 < ops.length
  · exact checked_anyLine_of_lt (l := l) hlen
  · refine (checked_anyLine_of_le (l := l) (by omega) (by omega)).trans ?_
    split
    · next h0 h1 => simp [hlen, h0, h1] at hbad
    · rfl

theorem setAvailabilityOrder_named {v : Nat} (hv : v ≤ 2) (h : p.withholdingBarred l [num (m.val + 1), num v] = false) :
    setAvailabilityOrder l 2 [num (m.val + 1), num v] p = match p.member? m with
      | none => refuse .notFound
      | some x => if l ≠ .console ∧ v = 1 ∧ p.isArrived m x = true then refuse .wrongState
        else .taken (p.changeAvailability m (.ofCode v) (.line l)).finish
          ((p.changeAvailability m (.ofCode v) (.line l)).finish.availabilityResults m) := by
  unfold setAvailabilityOrder
  rw [h]
  rw [if_neg Bool.false_ne_true, checked_anyLine_of_le (by omega) le_rfl]
  rw [(needIndex_eq_some (i := m) (by omega)).mpr rfl, (needWithin_eq_some (x := v) (by omega)).mpr ⟨rfl, by omega, hv⟩]
  dsimp only
  cases p.member? m with
  | none => rfl
  | some x =>
    have hbarred : (controlOnly l && v == 1 && p.isArrived m x) = true ↔ l ≠ .console ∧ v = 1 ∧ p.isArrived m x = true := by
      rw [Bool.and_eq_true, Bool.and_eq_true, controlOnly, bne_iff_ne, beq_iff_eq, and_assoc]
    simp only [hbarred]

theorem Availability.ofCode_code {v : Nat} (h : v ≤ 2) : (Availability.ofCode v).code = v := by
  match v, h with
  | 0, _ => rfl
  | 1, _ => rfl
  | 2, _ => rfl

theorem Availability.ofCode_eq_available (v : Nat) : Availability.ofCode v = .available ↔ v = 0 := by
  match v with
  | 0 => exact iff_of_true rfl rfl
  | 1 => exact iff_of_false nofun nofun
  | v + 2 => exact iff_of_false nofun nofun

theorem Availability.ofCode_eq (v : Nat) :
    Availability.ofCode v = if v = 0 then .available else if v = 1 then .offDuty else .withheld := by
  match v with
  | 0 => rfl
  | 1 => rfl
  | v + 2 => rfl

end

/-! ### Orders on the roster, taken -/

section
variable {s t : Part} {l : Line} {code : Byte} {ops results : List Operand}

/-- What an order raised: nothing, where it left the lines as they were. -/
theorem OrderAnswered.raised {A : Prop} (h : OrderAnswered l results s q t) (hq : A → q.lines = (s.working l code ops).lines) :
    ∃ raised, Answered l none results raised s t ∧ (A → raised = 0#16) := by
  obtain ⟨raised, ha⟩ := h.answered
  by_cases hA : A
  · refine ⟨0#16, ⟨ha.replying, ha.reply, fun k => ?_, ha.masks, ha.others, ha.lines⟩, fun _ => rfl⟩
    rw [h.flags k, Part.ctl, hq hA, BitVec.or_zero]
    exact (s.working_ctl l code ops k).1
  · exact ⟨raised, ha, fun h => absurd h hA⟩

/-- An order that changed one member's record alone. -/
theorem OrderAnswered.withMember (h : OrderAnswered l results s ((s.working l code ops).withMember m x) t) :
    t = { s.withMember m x with
      lines := t.lines
      restart := (s.breakOff l).restart } := by
  rw [h.after]
  unfold Part.withMember
  rw [s.working_frame l code ops]

theorem SameConfiguration.working (s : Part) (l : Line) (code : Byte) (ops : List Operand) :
    SameConfiguration s (s.working l code ops) :=
  .of_lines (s.working_frame l code ops)

theorem Part.working_pages (s : Part) (l : Line) (code : Byte) (ops : List Operand) : SamePages s (s.working l code ops) := by
  rw [s.working_frame l code ops]
  exact ⟨rfl, rfl⟩

theorem Part.working_lampsRight (s : Part) (l : Line) (code : Byte) (ops : List Operand) (h : s.LampsRight) :
    (s.working l code ops).LampsRight := by
  rw [s.working_frame l code ops]
  exact h

theorem Part.working_isArrived (s : Part) (l : Line) (code : Byte) (ops : List Operand) (m : MemberId) (x : Member) :
    (s.working l code ops).isArrived m x = s.isArrived m x := by
  rw [s.working_frame l code ops]
  rfl

theorem Part.working_leaves {v : Availability} {n : CalloutNo} {i : SlotId} :
    (s.working l code ops).Leaves x v n i ↔ s.Leaves x v n i := by
  have hfound := s.working_findCallout l code ops n
  exact ⟨fun ⟨ha, hg, he, hf⟩ => ⟨ha, hg, he, hfound.symm.trans hf⟩, fun ⟨ha, hg, he, hf⟩ => ⟨ha, hg, he, hfound.trans hf⟩⟩

end

/-- The withholding R58 bars a control line from, for the operands of a well-formed order. -/
theorem withholdingBarred_named (p : Part) (l : Line) (m : MemberId) {v : Nat} (hv : v ≤ 2) :
    p.withholdingBarred l [num (m.val + 1), num v] = true
      ↔ l ≠ .console ∧ (v = 2 ∨ (p.member? m).map Member.availability = some .withheld) := by
  rw [Part.withholdingBarred_iff]
  refine and_congr_right fun _ => or_congr ?_ ?_
  · refine (numberIn_num (by omega) 2 2).trans ?_
    omega
  · rw [Option.map_eq_some_iff]
    constructor
    · rintro ⟨k, x, hk, hx, hw⟩
      have hkm : needIndex [num (m.val + 1), num v] 0 128 1 = some k := (needIndex_eq_some (by omega)).mpr hk
      have hmm : needIndex [num (m.val + 1), num v] 0 128 1 = some m := (needIndex_eq_some (by omega)).mpr rfl
      exact ⟨x, Option.some.inj (hkm.symm.trans hmm) ▸ hx, hw⟩
    · rintro ⟨x, hx, hw⟩
      exact ⟨m, x, rfl, hx, hw⟩

/-- What SET-AVAILABILITY leaves of member and callout, taken. -/
theorem setAvailability_taken {s : State} {l : Line} {v : Nat} (hv : v ≤ 2) {t : Part} (hx : s.member? m = some x)
    {ops : List Operand} (ht : OrderTaken l
      (((s.toPart.working l 16#8 ops).changeAvailability m (.ofCode v) (.line l)).finish.availabilityResults m) s.toPart
      ((s.toPart.working l 16#8 ops).changeAvailability m (.ofCode v) (.line l)).finish t) :
    ∃ y raised, t.member? m = some y
      ∧ y.availability.code = v ∧ y.callSign = x.callSign ∧ y.address = x.address
      ∧ (x.availability = .available → v ≠ 0 → (∃ n i, x.engaged = some n ∧ s.findCallout n = some i) → y.engaged = none)
      ∧ Answered l none [num (m.val + 1), num v, num (y.engaged.getD 0#8).toNat] raised s.toPart t
      ∧ let leaves (n : CalloutNo) (i : SlotId) : Prop :=
          x.availability = .available ∧ v ≠ 0 ∧ x.engaged = some n ∧ s.findCallout n = some i
        (∀ n i d, leaves n i → s.callout? i = some d → d.state ≠ .closing → s.Quiet →
          (∃ d', t.callout? i = some d' ∧ Reassessed (s.assessment (d.withdrawing m (.line l))) (d.withdrawing m (.line l)) d')
          ∧ ∀ k, (t.ctl k).flags.getLsbD 1 = true
            ∧ ((s.assessment (d.withdrawing m (.line l))).outcome ≠ d.assessment.outcome → (t.ctl k).flags.getLsbD 2 = true))
        ∧ ((∀ n i, ¬ leaves n i) → s.Quiet → s.LampsRight → raised = 0#16
          ∧ t = { s.toPart with
              roster := { s.roster with members := s.roster.members.set m (some { x with
                availability := if v = 0 then .available else if v = 1 then .offDuty else .withheld }) }
              lines := t.lines, restart := (s.toPart.breakOff l).restart }) := by
  generalize hp : s.toPart.working l 16#8 ops = p at ht
  have hxp : p.member? m = some x := by rw [← hp, Part.working_member?, hx]
  obtain ⟨y, hy, hav, hsign, haddress, hfree, hreassessed, halone⟩ :=
    Part.availability_changed hxp (.ofCode v) (.line l)
  have hleaves (n : CalloutNo) (i : SlotId) : p.Leaves x (.ofCode v) n i ↔
      x.availability = .available ∧ v ≠ 0 ∧ x.engaged = some n ∧ s.findCallout n = some i := by
    rw [← hp, Part.working_leaves]
    exact ⟨fun ⟨ha, hg, he, hf⟩ => ⟨ha, fun h0 => hg ((Availability.ofCode_eq_available v).mpr h0), he, hf⟩,
      fun ⟨ha, hg, he, hf⟩ => ⟨ha, fun h0 => hg ((Availability.ofCode_eq_available v).mp h0), he, hf⟩⟩
  have hquiet (h : s.Quiet) : p.Quiet := hp ▸ (s.toPart.working_pages l 16#8 ops).workStep.mpr h
  have hlamps (h : s.LampsRight) : p.LampsRight := hp ▸ s.toPart.working_lampsRight l 16#8 ops h
  have hmember : t.member? m = some y := by rw [ht.after]; exact hy
  have hresults : (p.changeAvailability m (.ofCode v) (.line l)).finish.availabilityResults m
      = [num (m.val + 1), num v, num (y.engaged.getD 0#8).toNat] := by
    unfold Part.availabilityResults
    simp only [hy, hav, Availability.ofCode_code hv]
  rw [hresults] at ht
  obtain ⟨raised, hanswered, hraised⟩ := ht.raised (A := (∀ n i, ¬ p.Leaves x (.ofCode v) n i) ∧ p.Quiet ∧ p.LampsRight)
    (code := 16#8) (ops := ops) fun h => by
      rw [halone h.1 h.2.1 h.2.2, hp]
      rfl
  refine ⟨y, raised, hmember, (congrArg Availability.code hav).trans (Availability.ofCode_code hv), hsign, haddress,
    fun ha hv0 ⟨n, i, he, hf⟩ => hfree ⟨n, i, (hleaves n i).mpr ⟨ha, hv0, he, hf⟩⟩, hanswered, fun n i d hl hd hn hq => ?_,
    fun hl hq hlr => ?_⟩
  · have hdp : p.callout? i = some d := by rw [← hp, Part.working_callout?, hd]
    obtain ⟨⟨d', hd', hre⟩, hresponse, hcrew⟩ := hreassessed n i d ((hleaves n i).mpr hl) hdp hn (hquiet hq)
    have hassessment (e : Callout) : p.assessment e = s.assessment e := hp ▸ (SameConfiguration.working _ _ _ _).assessment e
    rw [hassessment] at hre hcrew
    refine ⟨⟨d', by rw [ht.after]; exact hd', hre⟩, fun k => ⟨?_, fun hout => ?_⟩⟩
    · rw [ht.flags k]
      exact hresponse k
    · rw [ht.flags k]
      exact hcrew hout k
  · have hl' (n : CalloutNo) (i : SlotId) : ¬ p.Leaves x (.ofCode v) n i := fun h => hl n i ((hleaves n i).mp h)
    refine ⟨hraised ⟨hl', hquiet hq, hlamps hlr⟩, ?_⟩
    have ht' := ht
    rw [halone hl' (hquiet hq) (hlamps hlr), ← hp, Availability.ofCode_eq] at ht'
    exact ht'.withMember

/-- Settles O44. -/
theorem setAvailability : Obligations.SetAvailability := by
  unfold Obligations.SetAvailability
  refine ⟨fun s l ops hs => ?_, fun s l m v hs hv => ?_⟩
  · intro barred
    have hbarred : (s.toPart.working l 16#8 ops).withholdingBarred l ops = true ↔ barred := by
      rw [Part.working_withholdingBarred]
      exact s.withholdingBarred_iff l ops
    refine ⟨fun h => refuses_of_rule hs rfl (setAvailabilityOrder_barred (hbarred.mpr h) _),
      fun h hbad => refuses_of_rule hs rfl (setAvailabilityOrder_badOperand (Bool.eq_false_of_not_eq_true (h ∘ hbarred.mp)) ?_)⟩
    rw [needIndex_eq_none, needWithin_eq_none]
    exact hbad
  · intro c
    have hbarred := withholdingBarred_named (s.toPart.working l 16#8 [num (m.val + 1), num v]) l m hv
    rw [Part.working_member?] at hbarred
    split
    next h => exact refuses_of_rule hs rfl (setAvailabilityOrder_barred (hbarred.mpr h) _)
    next h =>
      have hrule := setAvailabilityOrder_named (p := s.toPart.working l 16#8 [num (m.val + 1), num v]) hv
        (Bool.eq_false_of_not_eq_true (h ∘ hbarred.mp))
      rw [Part.working_member?] at hrule
      cases hx : s.member? m with
      | none =>
        rw [hx] at hrule
        exact refuses_of_rule hs rfl hrule
      | some x =>
        rw [hx] at hrule
        dsimp only at hrule ⊢
        rw [Part.working_isArrived] at hrule
        split
        next harr => exact refuses_of_rule hs rfl (hrule.trans (if_pos harr))
        next harr =>
          rw [if_neg harr] at hrule
          exact (leads_of_taken (c := c) (code := 16#8) (g := .unedited none False) hs rfl hrule
            ((Part.changeAvailability_moves _ _ (.inl trivial)).trans (Part.finish_moves _ _)) id).imp
            fun t ht => ⟨ht.configuration, setAvailability_taken hv hx ht⟩

end Sys2Proof.Machine

/-! Return frames discarded, and duty reports (R60, R76 to R78, R157). -/

namespace Sys2Proof.Machine
open Sys2Proof

variable {p : Part} {k : SiteId} {m : MemberId} {x : Member}

/-! ### Frames discarded -/

theorem Part.memberAt_eq_none {a : Address} : p.memberAt a = none ↔ ∀ m x, p.member? m = some x → x.address ≠ a := by
  unfold Part.memberAt
  rw [Option.map_eq_none_iff, List.find?_eq_none]
  constructor
  · intro h m x hx ha
    exact h (m, x) (mem_inUse.mpr hx) (beq_iff_eq.mpr ha)
  · rintro h ⟨m, x⟩ hmem ha
    exact h m x (mem_inUse.mp hmem) (beq_iff_eq.mp ha)

/-- A response to no live callout, or to a CLOSING one, is discarded (R78). -/
theorem Part.frameResponse_discarded {fr : ReturnFrame}
    (h : ∀ i c, p.callout? i = some c → c.token = fr.token → c.state = .closing) : p.frameResponse k m fr = p := by
  unfold Part.frameResponse
  split
  · rfl
  next i hi =>
    obtain ⟨c, hc, htoken⟩ := Part.findLive_eq_some hi
    simp only [hc]
    exact if_pos (h i c hc (beq_iff_eq.mp htoken))

/-- The frames without effect (R77, R78). -/
theorem Part.matchFrame_discarded {fr : ReturnFrame} (h : 4 ≤ fr.code.toNat
    ∨ (∀ m x, p.member? m = some x → x.address ≠ fr.address)
    ∨ (fr.token = 0#12 ∧ fr.code ≠ 2#3 ∧ fr.code ≠ 3#3)
    ∨ (fr.token ≠ 0#12 ∧ (fr.code = 2#3 ∨ fr.code = 3#3))
    ∨ (fr.token ≠ 0#12 ∧ ∀ i c, p.callout? i = some c → c.token = fr.token → c.state = .closing)) :
    p.matchFrame k fr = p := by
  unfold Part.matchFrame
  split
  · rfl
  next hcode =>
    split
    · rfl
    next m hm =>
      have hsome : ¬ ∀ m x, p.member? m = some x → x.address ≠ fr.address := fun hnone => by
        rw [Part.memberAt_eq_none.mpr hnone] at hm
        cases hm
      rcases (h.resolve_left hcode).resolve_left hsome with ⟨ht, h2, h3⟩ | ⟨ht, hduty⟩ | ⟨ht, hclosing⟩
      · rw [if_pos ht, if_neg h2, if_neg h3]
      · rw [if_neg ht, if_neg]
        rcases hduty with e | e <;> rw [e] <;> decide
      · rw [if_neg ht]
        exact ite_eq_right_iff.mpr fun _ => Part.frameResponse_discarded hclosing

/-! ### Duty reports (R60) -/

/-- The availability a duty report leaves. -/
def Part.reported (p : Part) (m : MemberId) (x : Member) (off : Bool) : Availability :=
  match x.availability, off with
  | .withheld, _ => .withheld
  | .available, true => if p.isArrived m x then .available else .offDuty
  | .offDuty, false => .available
  | v, _ => v

theorem Part.changeAvailability_same (hx : p.member? m = some x) (source : Source) :
    p.changeAvailability m x.availability source = p := by
  unfold Part.changeAvailability
  simp only [hx, if_true]

theorem Part.dutyReport_eq (hx : p.member? m = some x) (off : Bool) (k : SiteId) :
    p.dutyReport m off k = p.changeAvailability m (p.reported m x off) (.site k) := by
  have hsame := Part.changeAvailability_same hx (.site k)
  unfold Part.dutyReport Part.reported
  simp only [hx]
  cases hav : x.availability with
  | withheld => exact (hav ▸ hsame).symm
  | available =>
    rw [hav] at hsame
    cases off with
    | true =>
      dsimp only
      split
      · exact hsame.symm
      · rfl
    | false => exact hsame.symm
  | offDuty =>
    rw [hav] at hsame
    cases off with
    | true => exact hsame.symm
    | false => rfl

theorem Part.reported_leaves {off : Bool} {n : CalloutNo} {i : SlotId} : p.Leaves x (p.reported m x off) n i ↔
    x.availability = .available ∧ off = true ∧ p.isArrived m x = false ∧ x.engaged = some n ∧ p.findCallout n = some i := by
  have hgone (ha : x.availability = .available) : p.reported m x off ≠ .available ↔ off = true ∧ p.isArrived m x = false := by
    unfold Part.reported
    rw [ha]
    cases off <;> cases p.isArrived m x <;> simp
  constructor
  · rintro ⟨ha, hg, he, hf⟩
    obtain ⟨hoff, harr⟩ := (hgone ha).mp hg
    exact ⟨ha, hoff, harr, he, hf⟩
  · rintro ⟨ha, hoff, harr, he, hf⟩
    exact ⟨ha, (hgone ha).mpr ⟨hoff, harr⟩, he, hf⟩

theorem Part.matchFrame_duty {fr : ReturnFrame} {off : Bool} (hm : p.memberAt fr.address = some m) (ht : fr.token = 0#12)
    (hc : fr.code = if off then 2#3 else 3#3) : p.matchFrame k fr = p.dutyReport m off k := by
  unfold Part.matchFrame
  simp only [hm, ht, hc, if_true]
  cases off <;> rfl

theorem Part.receiveFrame_duty (hk : p.siteKeyed k = false) (hm : p.memberAt x.address = some m) (hx : p.member? m = some x)
    (off : Bool) (eta : BitVec 6) :
    p.receiveFrame k (returnFrameBits x.address 0#12 (if off then 2#3 else 3#3) eta) false
      = (p.changeAvailability m (p.reported m x off) (.site k)).finish := by
  obtain ⟨ha, ht, hc, -, hcheck⟩ := returnFrame_ofBits x.address 0#12 (if off then 2#3 else 3#3) eta
  have hgood : ¬ (false || p.siteKeyed k || (ReturnFrame.ofBits (returnFrameBits x.address 0#12
      (if off then 2#3 else 3#3) eta)).check != (ReturnFrame.ofBits (returnFrameBits x.address 0#12
      (if off then 2#3 else 3#3) eta)).expected) = true := by
    simp [hk, hcheck]
  unfold Part.receiveFrame
  rw [if_neg hgood, Part.matchFrame_duty (ha.symm ▸ hm) ht hc, Part.dutyReport_eq hx]

/-- Settles O56. -/
theorem returnFrames : Obligations.ReturnFrames := by
  unfold Obligations.ReturnFrames
  refine ⟨fun s k bits hs => ?_, fun s k m x off eta hs hk hm hx => ?_⟩
  · intro f
    refine ⟨exec_eq_self_of_event hs rfl rfl, fun hk => exec_eq_self_of_event hs rfl (if_pos ?_),
      fun hcheck => exec_eq_self_of_event hs rfl (if_pos ?_), fun hquiet hlamps h => exec_eq_self_of_event hs rfl ?_⟩
    · rw [hk]
      rfl
    · rw [Bool.or_eq_true]
      exact .inr (bne_iff_ne.mpr hcheck)
    · refine ite_eq_left_iff.mpr fun _ => ?_
      rw [Part.matchFrame_discarded h]
      exact Part.finish_of_settled hquiet hlamps
  · refine leads_of_event hs rfl ?_
    rw [Part.receiveFrame_duty hk hm hx]
    obtain ⟨y, hy, hav, -, -, hfree, hreassessed, halone⟩ := Part.availability_changed hx (s.reported m x off) (.site k)
    refine ⟨Moves.configuration (g := .unedited none False) id
      ((Part.changeAvailability_moves _ _ (.inl trivial)).trans (Part.finish_moves _ _)), y, hy, hav, ?_⟩
    intro leaves
    refine ⟨fun ⟨n, i, h⟩ => hfree ⟨n, i, Part.reported_leaves.mpr h⟩, fun n i d h hd hn hq => ?_, fun h hq hl => ?_⟩
    · obtain ⟨hre, hresponse, hcrew⟩ := hreassessed n i d (Part.reported_leaves.mpr h) hd hn hq
      exact ⟨hre, fun l => ⟨hresponse l, fun hout => hcrew hout l⟩⟩
    · rw [hav]
      exact halone (fun n i hl' => h n i (Part.reported_leaves.mp hl')) hq hl

end Sys2Proof.Machine

/-! EDIT-MEMBER: a member's record created, edited and deleted (R63 to R65). -/

namespace Sys2Proof.Machine
open Sys2Proof

variable {p : Part} {m : MemberId} {x : Member} {ops : List Operand}

/-! ### The operands -/

theorem Set16.eight_le {b : Set16} (h : b &&& 0xFFF8#16 ≠ 0#16) : 8 ≤ b.toNat := by
  by_contra hlt
  have hsmall : ∀ k < 8, k &&& 65528 = 0 := by decide
  refine h (BitVec.eq_of_toNat_eq ?_)
  rw [BitVec.toNat_and]
  exact hsmall b.toNat (by omega)

theorem Qualifications.toSet_lt (q : Qualifications) : q.toSet.toNat < 8 := by
  obtain ⟨oic, drv, ba⟩ := q
  revert oic drv ba
  decide

theorem Qualifications.ofSet_toSet (q : Qualifications) : Qualifications.ofSet q.toSet = q := by
  obtain ⟨oic, drv, ba⟩ := q
  revert oic drv ba
  decide

theorem optFlag_of_one (h : NumberIn (operandAt ops 1) 1 1) : optFlag ops 1 = some (some true) := by
  obtain ⟨v, hv, hlo, hhi⟩ := h
  have h1 : v.toInt = 1 := by omega
  unfold optFlag optWithin
  rw [optNumber_of_number hv, h1]
  rfl

theorem optText_absent {j : Nat} (h : optText ops j = some none) : operandAt ops j = .absent := by
  unfold optText at h
  split at h
  · cases h
  · assumption
  · cases h

theorem optSet_absent {j : Nat} (h : optSet ops j = some none) : operandAt ops j = .absent := by
  unfold optSet at h
  cases ho : operandAt ops j with
  | absent => rfl
  | set b | number _ | text _ | unassigned _ => simp [ho] at h

/-- The operands of an EDIT-MEMBER that are refused (R63). -/
theorem memberEdit_eq_none (h : ¬ NumberIn (operandAt ops 0) 1 128 ∨ ¬ AbsentOrIn (operandAt ops 1) 0 1
    ∨ (∀ t, operandAt ops 2 ≠ optionalText t) ∨ ¬ AbsentOrIn (operandAt ops 3) 1 2097151
    ∨ (∀ b, operandAt ops 4 ≠ optionalSet b) ∨ (∀ b, operandAt ops 5 ≠ optionalSet b)
    ∨ (∃ b : Set16, operandAt ops 4 = .set b ∧ b &&& 0xFFF8#16 ≠ 0#16)
    ∨ (NumberIn (operandAt ops 1) 1 1 ∧ ∃ k, 2 ≤ k ∧ k ≤ 5 ∧ operandAt ops k ≠ .absent)) : memberEdit ops = none := by
  unfold memberEdit
  split
  next m del sign address quals groups h0 h1 h2 h3 h4 h5 =>
    dsimp only
    split
    · rfl
    next hdel =>
      split
      · rfl
      next hquals =>
        exfalso
        obtain h | h | h | h | h | h | ⟨b, hb, hne⟩ | ⟨hone, k, hk2, hk5, hk⟩ := h
        · exact ne_none_of_eq_some h0 (needIndex_eq_none.mpr h)
        · exact ne_none_of_eq_some h1 (optFlag_eq_none.mpr h)
        · exact ne_none_of_eq_some h2 (optText_eq_none.mpr h)
        · exact ne_none_of_eq_some h3 (optWithin_eq_none.mpr h)
        · exact ne_none_of_eq_some h4 (optSet_eq_none.mpr h)
        · exact ne_none_of_eq_some h5 (optSet_eq_none.mpr h)
        · obtain rfl := Option.some.inj (h4.symm.trans (optSet_of_optional (b := some b) hb))
          exact hquals (Set16.eight_le hne)
        · obtain rfl := Option.some.inj (h1.symm.trans (optFlag_of_one hone))
          simp only [Option.getD_some, Bool.true_and, Bool.or_eq_true, not_or, Option.not_isSome_iff_eq_none] at hdel
          obtain ⟨⟨⟨rfl, rfl⟩, rfl⟩, rfl⟩ := hdel
          have h3' := ((optWithin_eq_some (x := none) (by omega)).mp h3).1
          obtain rfl | rfl | rfl | rfl : k = 2 ∨ k = 3 ∨ k = 4 ∨ k = 5 := by omega
          · exact hk (optText_absent h2)
          · exact hk h3'
          · exact hk (optSet_absent h4)
          · exact hk (optSet_absent h5)
  next => rfl

/-- The operands of a deletion. -/
theorem memberEdit_gone (h : Spells [num (m.val + 1), num 1, .absent, .absent, .absent, .absent] ops) : memberEdit ops
    = some { member := m, delete := true, callSign := none, address := none, quals := none, groups := none } := by
  have e1 : operandAt ops 1 = num 1 := h.at 1
  have h0 : needIndex ops 0 128 1 = some m := (needIndex_eq_some (by omega)).mpr (h.at 0)
  have h1 : optFlag ops 1 = some (some true) := optFlag_of_one (by rw [e1, numberIn_num (by omega)]; omega)
  have h2 : optText ops 2 = some none := optText_of_optional (t := none) (h.at 2)
  have h3 : optWithin ops 3 1 2097151 = some none := (optWithin_eq_some (x := none) (by omega)).mpr ⟨h.at 3, nofun⟩
  have h4 : optSet ops 4 = some none := optSet_of_optional (b := none) (h.at 4)
  have h5 : optSet ops 5 = some none := optSet_of_optional (b := none) (h.at 5)
  have hsmall : ¬ 8 ≤ ((none : Option Set16).getD 0#16).toNat := by decide
  unfold memberEdit
  simp only [h0, h1, h2, h3, h4, h5, Option.isSome_none, Bool.or_self, Bool.and_false, Bool.false_eq_true, if_false, if_neg hsmall]
  rfl

section
variable {sign : Option Text} {address : Option Address} {quals : Option Qualifications} {groups : Option GroupSet}

/-- What the operands of an edit or a creation ask for. -/
def editFor (m : MemberId) (sign : Option Text) (address : Option Address) (quals : Option Qualifications)
    (groups : Option GroupSet) : MemberEdit where
  member := m
  delete := false
  callSign := sign.map (cleanCut 8)
  address := address
  quals := quals
  groups := groups

theorem memberEdit_given {flag : Operand} (hf : flag = .absent ∨ flag = num 0) (ha : address ≠ some 0#21)
    (h : Spells [num (m.val + 1), flag, optionalText sign, optNum (address.map BitVec.toNat),
      optionalSet (quals.map Qualifications.toSet), optionalSet groups] ops) :
    memberEdit ops = some (editFor m sign address quals groups) := by
  have haddress : optWithin ops 3 1 2097151 = some (address.map BitVec.toNat) := by
    refine (optWithin_eq_some (by omega)).mpr ⟨h.at 3, fun y hy => ?_⟩
    obtain ⟨a, rfl, rfl⟩ := Option.mem_map.mp hy
    have hlt := a.isLt
    have hne : a.toNat ≠ 0 := fun e => ha (congrArg some (BitVec.eq_of_toNat_eq e))
    omega
  have hback : (address.map BitVec.toNat).map (BitVec.ofNat 21) = address := by cases address <;> simp
  have hsmall : ¬ 8 ≤ ((quals.map Qualifications.toSet).getD 0#16).toNat := by
    cases quals with
    | none => decide
    | some q => exact Nat.not_le.mpr q.toSet_lt
  have hquals : (quals.map Qualifications.toSet).map Qualifications.ofSet = quals := by
    cases quals with
    | none => rfl
    | some q => exact congrArg some q.ofSet_toSet
  have hflag : ∃ del, optFlag ops 1 = some del ∧ del.getD false = false := by
    rcases hf with rfl | rfl
    · exact ⟨none, optFlag_of_flag (b := none) (h.at 1), rfl⟩
    · exact ⟨some false, optFlag_of_flag (b := some false) (h.at 1), rfl⟩
  obtain ⟨del, hdel, hfalse⟩ := hflag
  unfold memberEdit
  rw [(needIndex_eq_some (by omega)).mpr (h.at 0), hdel, optText_of_optional (h.at 2), haddress, optSet_of_optional (h.at 4),
    optSet_of_optional (h.at 5)]
  simp only [hfalse, Bool.false_and, Bool.false_eq_true, if_false, if_neg hsmall, hback, hquals]
  rfl

end

/-! ### The rule -/

theorem Part.addressTaken_iff {a : Address} : p.addressTaken m a = true ↔
    (∃ k y, k ≠ m ∧ p.member? k = some y ∧ y.address = a) ∨ ∃ g, (p.roster.groups.get g).address = a := by
  unfold Part.addressTaken
  rw [Bool.or_eq_true, List.any_eq_true, List.any_eq_true]
  refine or_congr ⟨?_, ?_⟩ ⟨?_, ?_⟩
  · rintro ⟨⟨k, y⟩, hmem, h⟩
    simp only [Bool.and_eq_true, bne_iff_ne, beq_iff_eq] at h
    exact ⟨k, y, h.1, mem_inUse.mp hmem, h.2⟩
  · rintro ⟨k, y, hk, hy, ha⟩
    exact ⟨(k, y), mem_inUse.mpr hy, by simp [hk, ha]⟩
  · rintro ⟨g, hg, ha⟩
    obtain ⟨k, rfl⟩ := Table.mem_cells.mp hg
    exact ⟨k, beq_iff_eq.mp ha⟩
  · rintro ⟨k, ha⟩
    exact ⟨_, Table.mem_cells.mpr ⟨k, rfl⟩, beq_iff_eq.mpr ha⟩

/-- EDIT-MEMBER once its operands have been read. -/
theorem editMemberOrder_of_read (hlen : ops.length ≤ 6) {e : MemberEdit} (h : memberEdit ops = some e) :
    editMemberOrder .console ops.length ops p = match p.member? e.member with
      | none => match e.address with
        | none => refuse .notFound
        | some a => if p.addressTaken e.member a = true then refuse .duplicate
          else .taken (p.withMember e.member (e.create a)).finish
            ((p.withMember e.member (e.create a)).finish.memberResults e.member)
      | some x =>
        if e.delete = true then
          if (x.engaged.isSome || decide (0 < p.recordsOf e.member)) = true then refuse .wrongState
          else .taken (p.setMember e.member none) [num (e.member.val + 1)]
        else if (e.address.map (p.addressTaken e.member)).getD false = true then refuse .duplicate
        else .taken (p.changeMember e x).finish ((p.changeMember e x).finish.memberResults e.member) := by
  unfold editMemberOrder
  rw [checked_of_le (by omega) hlen, h] <;> rfl

theorem editMemberOrder_badOperand (h : 6 < ops.length ∨ memberEdit ops = none) :
    editMemberOrder .console ops.length ops p = badOperand := by
  unfold editMemberOrder
  by_cases hlen : 6 < ops.length
  · exact checked_of_lt hlen
  · rw [checked_of_le (by omega) (by omega), h.resolve_left hlen]

/-- A change of qualifications has the callout the member is engaged on reassessed (R65). -/
theorem Part.changeMember_eq (e : MemberEdit) (x : Member) (p : Part) : p.changeMember e x =
    if (e.change x).quals = x.quals then p.withMember e.member (e.change x)
    else match x.engaged.bind p.findCallout with
      | some i => (p.withMember e.member (e.change x)).reassess i
      | none => p.withMember e.member (e.change x) := rfl

theorem Part.memberResults_eq {q : Part} (hx : q.member? m = some x) : q.memberResults m =
    [num (m.val + 1), .text x.callSign, num x.address.toNat, .set x.quals.toSet, .set x.groups, num x.availability.code,
     num (x.engaged.getD 0#8).toNat,
     optNum ((((x.engaged.bind q.findCallout).bind q.callout?).bind (Callout.record? m)).map fun r => r.kind.code),
     num (slotIds.filter fun i => (q.callout? i).any fun c => (c.record? m).isSome).length] := by
  unfold Part.memberResults
  simp only [hx, Part.recordsOf_eq]

/-! ### A member's record edited -/

/-- The grants of an edit of configuration. -/
def Grants.editing : Grants :=
  { Grants.unedited none False with edits := True }

/-- The callout a change of a member's qualifications has reassessed. -/
structure Part.Reviews (p : Part) (x y : Member) (i : SlotId) (d : Callout) : Prop where
  quals   : y.quals ≠ x.quals
  engaged : ∃ n, x.engaged = some n ∧ p.findCallout n = some i
  callout : p.callout? i = some d
  open_   : d.state ≠ .closing

theorem Part.changeMember_reviews {e : MemberEdit} {i : SlotId} {d : Callout} (h : p.Reviews x (e.change x) i d) :
    p.changeMember e x = (p.withMember e.member (e.change x)).reassess i := by
  obtain ⟨n, hn, hi⟩ := h.engaged
  rw [Part.changeMember_eq, if_neg h.quals, hn, Option.bind_some, hi]

theorem Part.changeMember_alone {e : MemberEdit} (h : ∀ i d, ¬ p.Reviews x (e.change x) i d) :
    p.changeMember e x = p.withMember e.member (e.change x) := by
  rw [Part.changeMember_eq]
  split
  · rfl
  next hq =>
    split
    next i hi =>
      obtain ⟨n, hn, hi⟩ := Option.bind_eq_some_iff.mp hi
      obtain ⟨d, hd, -⟩ := Part.callout?_of_findCallout hi
      have hclosing : d.state = .closing := not_not.mp fun ho => h i d ⟨hq, ⟨n, hn, hi⟩, hd, ho⟩
      unfold Part.reassess
      rw [show (p.withMember e.member (e.change x)).callout? i = some d from hd]
      exact if_pos hclosing
    next => rfl

theorem Part.changeMember_eases (e : MemberEdit) (x : Member) (p : Part) :
    Eases (p.withMember e.member (e.change x)) (p.changeMember e x).finish := by
  refine Eases.trans ?_ (Part.finish_eases _)
  rw [Part.changeMember_eq]
  split
  · exact .refl _
  · split
    · exact Part.reassess_eases _ _
    · exact .refl _

theorem Part.withMember_lampsRight (y : Member) (h : p.LampsRight) : (p.withMember m y).LampsRight :=
  Part.lampsRight_congr rfl (fun _ => rfl) (fun _ => rfl) h

theorem Part.withMember_finish (y : Member) (hq : p.Quiet) (hl : p.LampsRight) :
    (p.withMember m y).finish = p.withMember m y :=
  Part.finish_of_settled ((p.withMember_pages m y).workStep.mpr hq) (Part.withMember_lampsRight y hl)

theorem Part.working_withMember_assessment (s : Part) (l : Line) (code : Byte) (ops : List Operand) (m : MemberId) (y : Member)
    (d : Callout) : ((s.working l code ops).withMember m y).assessment d = (s.withMember m y).assessment d := by
  rw [s.working_frame l code ops]
  rfl

theorem Part.working_reviews {s : Part} {l : Line} {code : Byte} {y : Member} {i : SlotId} {d : Callout} :
    (s.working l code ops).Reviews x y i d ↔ s.Reviews x y i d := by
  have hf (n : CalloutNo) := s.working_findCallout l code ops n
  have hc := s.working_callout? l code ops i
  exact ⟨fun ⟨h1, ⟨n, h2, h3⟩, h4, h5⟩ => ⟨h1, ⟨n, h2, (hf n).symm.trans h3⟩, hc.symm.trans h4, h5⟩,
    fun ⟨h1, ⟨n, h2, h3⟩, h4, h5⟩ => ⟨h1, ⟨n, h2, (hf n).trans h3⟩, hc.trans h4, h5⟩⟩

/-- The reply's results are those of the part the order leaves. -/
theorem OrderAnswered.memberResults {l : Line} {s q t : Part} {results : List Operand} {y : Member} (h : OrderAnswered l results s q t)
    (hy : q.member? m = some y) : t.member? m = some y ∧ t.memberResults m = q.memberResults m := by
  rw [h.after]
  exact ⟨hy, rfl⟩

/-- What a change of one member's record, and nothing else, leaves after the reply. -/
theorem OrderAnswered.withMember_settled {l : Line} {code : Byte} {results : List Operand} {s t : Part} {y : Member}
    (ht : OrderAnswered l results s ((s.working l code ops).withMember m y).finish t) (hq : s.Quiet) (hl : s.LampsRight) :
    t = { s.withMember m y with
      lines := t.lines
      restart := (s.breakOff l).restart } := by
  rw [Part.withMember_finish y ((s.working_pages l code ops).workStep.mpr hq) (s.working_lampsRight l code ops hl)] at ht
  exact ht.withMember

/-- A member's record created. -/
theorem editMember_created {s t : Part} {y : Member} (hfree : y.engaged = none)
    (ht : OrderAnswered .console (((s.working .console 21#8 ops).withMember m y).finish.memberResults m) s
      ((s.working .console 21#8 ops).withMember m y).finish t) :
    ∃ raised, t.member? m = some y ∧ Answered .console none (t.memberResults m) raised s t
      ∧ (s.Quiet → s.LampsRight → raised = 0#16 ∧ t = { s.withMember m y with
        lines := t.lines
        restart := (s.breakOff .console).restart }) := by
  have hy : ((s.working .console 21#8 ops).withMember m y).finish.member? m = some y :=
    (Part.finish_eases _).free (Part.member?_withMember _ _ _) hfree
  obtain ⟨hm, hresults⟩ := ht.memberResults hy
  obtain ⟨raised, ha, hraised⟩ := ht.raised (A := s.Quiet ∧ s.LampsRight) (code := 21#8) (ops := ops) fun h => by
    rw [Part.withMember_finish y ((s.working_pages .console 21#8 ops).workStep.mpr h.1) (s.working_lampsRight .console 21#8 ops h.2)]
    rfl
  exact ⟨raised, hm, hresults ▸ ha, fun hq hl => ⟨hraised ⟨hq, hl⟩, ht.withMember_settled hq hl⟩⟩

/-- A member's record changed. -/
theorem editMember_changed {s t : Part} {e : MemberEdit}
    (ht : OrderAnswered .console (((s.working .console 21#8 ops).changeMember e x).finish.memberResults e.member) s
      ((s.working .console 21#8 ops).changeMember e x).finish t) :
    ∃ y raised, t.member? e.member = some y ∧ y = { e.change x with engaged := y.engaged }
      ∧ Answered .console none (t.memberResults e.member) raised s t
      ∧ (∀ i d, s.Reviews x (e.change x) i d → s.Quiet →
        (∃ d', t.callout? i = some d' ∧ Reassessed ((s.withMember e.member (e.change x)).assessment d) d d')
        ∧ (((s.withMember e.member (e.change x)).assessment d).outcome ≠ d.assessment.outcome → t.Noticed 2))
      ∧ ((∀ i d, ¬ s.Reviews x (e.change x) i d) → s.Quiet → s.LampsRight → raised = 0#16
        ∧ t = { s.withMember e.member (e.change x) with
          lines := t.lines
          restart := (s.breakOff .console).restart }) := by
  have hquiet (h : s.Quiet) : (s.working .console 21#8 ops).Quiet := (s.working_pages .console 21#8 ops).workStep.mpr h
  obtain ⟨y, hy, hkept⟩ : ∃ y, ((s.working .console 21#8 ops).changeMember e x).finish.member? e.member = some y
      ∧ y = { e.change x with engaged := y.engaged } := by
    rcases Part.changeMember_eases e x (s.working .console 21#8 ops) e.member with h | ⟨y, hy, h⟩
    · exact ⟨_, h.trans (Part.member?_withMember _ _ _), rfl⟩
    · obtain rfl := Option.some.inj ((Part.member?_withMember _ _ _).symm.trans hy)
      exact ⟨_, h, rfl⟩
  have halone (h : ∀ i d, ¬ s.Reviews x (e.change x) i d) : (s.working .console 21#8 ops).changeMember e x
      = (s.working .console 21#8 ops).withMember e.member (e.change x) :=
    Part.changeMember_alone fun i d hr => h i d (Part.working_reviews.mp hr)
  obtain ⟨hm, hresults⟩ := ht.memberResults hy
  obtain ⟨raised, ha, hraised⟩ := ht.raised
    (A := (∀ i d, ¬ s.Reviews x (e.change x) i d) ∧ s.Quiet ∧ s.LampsRight) (code := 21#8) (ops := ops) fun ⟨h, hq, hl⟩ => by
      rw [halone h, Part.withMember_finish _ (hquiet hq) (s.working_lampsRight .console 21#8 ops hl)]
      rfl
  refine ⟨y, raised, hm, hkept, hresults ▸ ha, fun i d hr hq => ?_, fun h hq hl => ⟨hraised ⟨h, hq, hl⟩, ?_⟩⟩
  · have hreviews := Part.changeMember_reviews (Part.working_reviews (l := .console) (code := 21#8) (ops := ops).mpr hr)
    have hd : ((s.working .console 21#8 ops).withMember e.member (e.change x)).callout? i = some d :=
      (s.working_callout? .console 21#8 ops i).trans hr.callout
    have hre := Part.finish_reassessed hd hr.open_ (((s.working .console 21#8 ops).withMember_pages e.member
      (e.change x)).workStep.mpr (hquiet hq)) rfl (.refl _)
    have hcrew := Part.reassess_crew hd hr.open_
    rw [Part.working_withMember_assessment] at hre hcrew
    rw [← hreviews] at hre hcrew
    obtain ⟨d', hd', hre⟩ := hre
    refine ⟨⟨d', by rw [ht.after]; exact hd', hre⟩, fun hout l => ?_⟩
    rw [ht.flags l]
    exact (hcrew hout).finish l
  · rw [halone h] at ht
    exact ht.withMember_settled hq hl

/-- Settles O45. -/
theorem editMember : Obligations.EditMember := by
  unfold Obligations.EditMember
  refine ⟨fun s ops hs h => refuses_of_rule hs rfl (editMemberOrder_badOperand (h.imp id memberEdit_eq_none)),
    fun s m sign address quals groups hs ha => ?_⟩
  intro text set fields flag given gone hf hgiven hgone edit delete taken recordOf results holding alone
  have hfields : fields = [optionalText sign, optNum (address.map BitVec.toNat), optionalSet (quals.map Qualifications.toSet),
      optionalSet groups] := by
    cases sign <;> cases quals <;> cases groups <;> rfl
  rw [hfields] at hgiven
  have hresults (t : Part) (y : Member) (hy : t.member? m = some y) : t.memberResults m = results t y := Part.memberResults_eq hy
  have hedit := memberEdit_given hf ha hgiven
  have hdelete := memberEdit_gone hgone
  have hruleE := editMemberOrder_of_read (p := s.toPart.working .console 21#8 given) hgiven.length_le hedit
  have hruleD := editMemberOrder_of_read (p := s.toPart.working .console 21#8 gone) hgone.length_le hdelete
  rw [Part.working_member?] at hruleE hruleD
  have hmember : (editFor m sign address quals groups).member = m := rfl
  have haddressTaken (a : Address) : (s.toPart.working .console 21#8 given).addressTaken m a = true ↔
      (∃ k y, k ≠ m ∧ s.member? k = some y ∧ y.address = a) ∨ ∃ g, (s.roster.groups.get g).address = a := by
    rw [Part.addressTaken_iff]
    simp only [Part.working_member?, Part.working_roster]
  rw [hmember] at hruleE
  cases hx : s.member? m with
  | none =>
    simp only [hx] at hruleE hruleD
    refine ⟨refuses_of_rule hs rfl hruleD, fun hnone => refuses_of_rule hs rfl (hruleE.trans ?_), fun ⟨a, hsome, h⟩ =>
      refuses_of_rule hs rfl (hruleE.trans ?_), fun a hsome hnot => ?_⟩
    · subst hnone
      rfl
    · subst hsome
      exact if_pos ((haddressTaken a).mpr h)
    · subst hsome
      have hfree : ¬ (s.toPart.working .console 21#8 given).addressTaken m a = true :=
        fun h => hnot ⟨a, rfl, (haddressTaken a).mp h⟩
      have hmoves : Moves .editing (s.toPart.working .console 21#8 given)
          ((s.toPart.working .console 21#8 given).withMember m ((editFor m sign (some a) quals groups).create a)) :=
        .one (.edit trivial (Part.setMember_edits_of_idle m (fun y hy => by cases hy; rfl) fun y hy => by
          rw [Part.working_member?, hx] at hy
          cases hy))
      refine (leads_of_answered (c := edit) (code := 21#8) hs rfl (hruleE.trans (if_neg hfree))
        (hmoves.trans (Part.finish_moves _ _))).imp fun t ht => ?_
      obtain ⟨raised, hm, hanswered, halone⟩ := editMember_created rfl ht
      exact ⟨_, raised, hm, rfl, rfl, rfl, rfl, rfl, rfl, hresults t _ hm ▸ hanswered, halone⟩
  | some x =>
    simp only [hx] at hruleE hruleD
    refine ⟨fun ⟨a, hsome, h⟩ => refuses_of_rule hs rfl (hruleE.trans ?_), fun hnot => ?_, ?_⟩
    · subst hsome
      exact if_pos ((haddressTaken a).mpr h)
    · have hfree : ¬ (address.map ((s.toPart.working .console 21#8 given).addressTaken m)).getD false = true := fun h => by
        cases address with
        | none => cases h
        | some a => exact hnot ⟨a, rfl, (haddressTaken a).mp h⟩
      refine (leads_of_answered (c := edit) (code := 21#8) hs rfl (hruleE.trans (if_neg hfree))
        ((changeMember_moves (g := .editing) trivial _ ((Part.working_member? _ _ _ _ _).trans hx)).trans
          (Part.finish_moves _ _))).imp fun t ht => ?_
      obtain ⟨y, raised, hm, hkept, hanswered, hreviewed, halone⟩ := editMember_changed ht
      refine ⟨y, raised, hm, by rw [hkept]; rfl, by rw [hkept]; rfl, by rw [hkept]; rfl, by rw [hkept]; rfl, by rw [hkept]; rfl,
        hresults t y hm ▸ hanswered, ?_⟩
      intro changed assessed
      have hchanged : (editFor m sign address quals groups).change x = changed := rfl
      refine ⟨fun i d ⟨hq, he, hd, hn⟩ hquiet => ?_, fun h hquiet hlamps => halone (fun i d hr =>
        h i d ⟨hr.quals, hr.engaged, hr.callout, hr.open_⟩) hquiet hlamps⟩
      exact hreviewed i d ⟨hq, he, hd, hn⟩ hquiet
    · have hbusy : (x.engaged.isSome || decide (0 < (s.toPart.working .console 21#8 gone).recordsOf m)) = true
          ↔ x.engaged ≠ none ∨ s.recordsOf m ≠ 0 := by
        rw [Bool.or_eq_true, decide_eq_true_eq, Nat.pos_iff_ne_zero, Option.isSome_iff_ne_none]
        refine or_congr Iff.rfl ?_
        rw [Part.recordsOf_eq, Part.recordsOf_eq]
        simp only [Part.working_callout?]
      split
      next h => exact refuses_of_rule hs rfl (hruleD.trans (if_pos (hbusy.mpr h)))
      next h =>
        refine takes_of_rule hs rfl (hruleD.trans (if_neg (h ∘ hbusy.mp))) ?_
        rw [s.toPart.working_frame .console 21#8 gone]
        rfl

end Sys2Proof.Machine

/-! When two parts hand the same pages to the page queue, and siren requests (R129, R134, R165). -/

namespace Sys2Proof.Machine
open Sys2Proof

variable {p q r s t : Part} {i : SlotId} {c : Callout} {d : Demand}

/-! ### Pages formed -/

/-- What a page takes of its callout's record (R129). -/
def Callout.heading (c : Callout) : CalloutNo × Token × ClassId × ZoneId × Text :=
  (c.number, c.token, c.cls, c.zone, c.text)

theorem Callout.heading_owner {c d : Callout} (h : c.heading = d.heading) : c.owner = d.owner := by
  have hn : c.number = d.number := congrArg Prod.fst h
  have ht : c.token = d.token := congrArg (fun x => x.2.1) h
  unfold Callout.owner
  rw [hn, ht]

theorem pageFor_congr {c d : Callout} (h : c.heading = d.heading) (k : BatchKind) (who : Addressee) (a : Address) :
    pageFor k c who a = pageFor k d who a := by
  simp only [Callout.heading, Prod.mk.injEq] at h
  obtain ⟨hn, ht, hc, hz, htext⟩ := h
  simp only [pageFor, hn, ht, hc, hz, htext]

/-- A search by what is kept of the callouts finds the same slot. -/
theorem Part.findLive_congr {α : Type} (g : Callout → α) {f : Callout → Bool} (f' : α → Bool) (hf : ∀ c, f c = f' (g c))
    (h : ∀ j, (q.callout? j).map g = (p.callout? j).map g) : q.findLive f = p.findLive f := by
  have hany (r : Part) (j : SlotId) : (r.callout? j).any f = ((r.callout? j).map g).any f' := by
    cases r.callout? j with
    | none => rfl
    | some c => exact hf c
  rw [Part.findLive_eq_find, Part.findLive_eq_find]
  congr 1
  funext j
  rw [hany, hany, h]

theorem Part.pagesFor_congr (hg : q.roster.groups = p.roster.groups)
    (hm : ∀ m, (q.member? m).map Member.address = (p.member? m).map Member.address) {c e : Callout}
    (h : c.heading = e.heading) (k : BatchKind) (x : Content) : q.pagesFor k c x = p.pagesFor k e x := by
  cases x with
  | groups gs =>
    unfold Part.pagesFor
    simp only [hg, pageFor_congr h]
  | members ms =>
    have hpage (r : Part) (d : Callout) (m : MemberId) : (r.member? m).map (fun x => pageFor k d (.member m) x.address)
        = ((r.member? m).map Member.address).map (pageFor k d (.member m)) := by
      rw [Option.map_map]
      rfl
    unfold Part.pagesFor
    simp only [hpage, hm]
    congr 1
    funext m
    congr 1
    funext a
    exact pageFor_congr h k _ a
  | formed ps => rfl

/-- Pages depend on addresses and on what they take of the callouts alone. -/
theorem Part.formPages_congr (hg : q.roster.groups = p.roster.groups)
    (hm : ∀ m, (q.member? m).map Member.address = (p.member? m).map Member.address)
    (hc : ∀ j, (q.callout? j).map Callout.heading = (p.callout? j).map Callout.heading) (d : Demand) :
    q.formPages d = p.formPages d := by
  have howner : q.findOwner d.owner = p.findOwner d.owner :=
    Part.findLive_congr Callout.heading (fun x => x.1 == d.owner.number && x.2.1 == d.owner.token) (fun _ => rfl) hc
  unfold Part.formPages
  rw [howner]
  cases d.content with
  | formed ps => rfl
  | groups _ | members _ =>
    dsimp only
    cases p.findOwner d.owner with
    | none => rfl
    | some i =>
      have hi := hc i
      simp only [Option.bind_some]
      cases hp : p.callout? i with
      | none =>
        rw [hp] at hi
        rw [Option.map_eq_none_iff.mp hi]
      | some c =>
        rw [hp] at hi
        obtain ⟨e, he, hh⟩ := Option.map_eq_some_iff.mp hi
        rw [he]
        exact Part.pagesFor_congr hg hm hh _ _

/-! ### Parts that page alike -/

/-- The later part hands demands to the page queue as the earlier would. -/
structure Paging (p q : Part) : Prop where
  same   : SamePages p q
  supply : q.supply = p.supply
  pins   : q.pins = p.pins
  form   : ∀ d, q.formPages d = p.formPages d

namespace Paging

theorem refl (p : Part) : Paging p p := ⟨.refl p, rfl, rfl, fun _ => rfl⟩

theorem trans (h : Paging p q) (k : Paging q r) : Paging p r :=
  ⟨h.same.trans k.same, k.supply.trans h.supply, k.pins.trans h.pins, fun d => (k.form d).trans (h.form d)⟩

theorem ite {b : Prop} [Decidable b] (hq : Paging p q) (hr : Paging p r) : Paging p (if b then q else r) := by
  split
  · exact hq
  · exact hr

theorem modify (i : SlotId) {f : Callout → Callout} (p : Part) (hf : ∀ c, p.callout? i = some c → (f c).heading = c.heading) :
    Paging p (p.modify i f) := by
  refine ⟨p.modify_pages i f, by rw [Part.modify_eq], by rw [Part.modify_eq], Part.formPages_congr (by rw [Part.roster_modify])
    (fun m => by rw [Part.member?, Part.roster_modify]; rfl) fun j => ?_⟩
  rw [Part.callout?_modify]
  split
  · next h =>
    subst h
    cases hc : p.callout? i with
    | none => rfl
    | some c => exact congrArg some (hf c hc)
  · rfl

theorem raise (n : Notice) (p : Part) : Paging p (p.raise n) := ⟨⟨rfl, rfl⟩, rfl, rfl, fun _ => rfl⟩

theorem setRun (x : Option SirenRun) (p : Part) : Paging p (p.setRun x) := ⟨⟨rfl, rfl⟩, rfl, rfl, fun _ => rfl⟩

theorem sirenOwnCycles (pat : PatternId) (p : Part) : Paging p (p.sirenOwnCycles pat) := by
  unfold Part.sirenOwnCycles Part.sirenRequest
  split
  · exact .refl p
  · split <;> exact .setRun _ p

theorem nextSites (h : Paging p q) (d : Demand) : q.nextSites d = p.nextSites d := by
  rw [Part.nextSites_eq, Part.nextSites_eq, h.supply, h.same.2]

theorem batchFor (h : Paging p q) (d : Demand) : q.batchFor d = p.batchFor d := by
  unfold Part.batchFor
  rw [h.nextSites, h.form]

theorem admission (h : Paging p q) (d : Demand) : Paging (p.admission d) (q.admission d) := by
  have hform (e : Demand) : (q.admission d).formPages e = (p.admission d).formPages e := by
    rw [Part.admission_eq, Part.admission_eq]
    exact h.form e
  refine ⟨⟨?_, ?_⟩, ?_, ?_, hform⟩ <;> rw [Part.admission_eq, Part.admission_eq]
  · simp only [h.form, h.nextSites, h.batchFor, h.same.1]
  · simp only [h.same.2]
  · exact h.supply
  · exact h.pins

theorem demand (h : Paging p q) (d : Demand) : Paging (p.demand d) (q.demand d) := by
  unfold Part.demand
  rw [h.same.1]
  split
  · exact h.admission d
  · split
    · exact ⟨⟨congrArg (fun x : PageQueue => { x with demands := x.demands ++ [d] }) h.same.1, h.same.2⟩, h.supply, h.pins, h.form⟩
    · exact ⟨⟨congrArg (fun x : PageQueue => { x with reports := x.reports ++ [Report.ended d.owner d.kind .dropped true] }) h.same.1,
        h.same.2⟩, h.supply, h.pins, h.form⟩

end Paging

/-- A command that hands over one demand. -/
theorem Paging.handed (hquiet : s.Quiet) (h : Paging (s.demand d) p) : Handed d s p.finish :=
  Part.handed_finish hquiet h.same (by rw [h.pins, (s.demand_onlyPages d).pins]) (h.supply.trans (s.demand_onlyPages d).supply)

/-! ### Siren requests -/

theorem Part.finish_run (p : Part) : p.finish.station.run = p.station.run := by
  show p.work.station.run = _
  rw [p.finish_work.1.station]

theorem sirenAsked_of {pat : PatternId} (hst : p.station = s.station) (hsupply : p.supply = s.supply)
    (ht : t.station.run = (p.sirenOwnCycles pat).station.run) : SirenAsked pat s t := by
  unfold SirenAsked
  rw [ht, ← hst, ← hsupply]
  unfold Part.sirenOwnCycles Part.sirenRequest
  split
  · rfl
  · cases p.station.run <;> rfl

end Sys2Proof.Machine

/-! The response window's expiry: the ladder (R16, R116 to R121). -/

namespace Sys2Proof.Machine
open Sys2Proof

variable {p s t : Part} {i : SlotId} {c d : Callout}

/-! ### What an expiry leaves of its callout -/

/-- The secondary groups a rise to level 2 asks for (R119). -/
def Callout.askedGroups (c : Callout) : GroupSet := c.secondary &&& ~~~c.primary

/-- The third rise: aid is requested (R120). -/
def Callout.raisedToThree (c : Callout) : Callout :=
  { c with level := 3, flags := { c.flags with aidRequested := true } }

/-- The callout exhausted (R121). -/
def Callout.exhaustedAt (c : Callout) : Callout := { c.stopWindow with exhausted := true }

/-- The callout after the expiry of its window. -/
def Part.escalated (p : Part) (c : Callout) : Callout :=
  match c.level with
  | 0 => (c.raisedTo 1 (p.repageSelection c)).startWindow
  | 1 => (c.raisedToTwo (p.judgedYes c.askedGroups) c.askedGroups).startWindow
  | 2 => c.raisedToThree.startWindow
  | 3 => c.exhaustedAt

theorem Part.escalated_state (p : Part) (c : Callout) : (p.escalated c).state = c.state := by
  unfold Part.escalated
  split <;> rfl

theorem Part.escalated_one (h : c.level = 0) (p : Part) :
    p.escalated c = (c.raisedTo 1 (p.repageSelection c)).startWindow := by
  unfold Part.escalated
  rw [h]

theorem Part.escalated_two (h : c.level = 1) (p : Part) :
    p.escalated c = (c.raisedToTwo (p.judgedYes c.askedGroups) c.askedGroups).startWindow := by
  unfold Part.escalated
  rw [h]

theorem Part.escalated_three (h : c.level = 2) (p : Part) : p.escalated c = c.raisedToThree.startWindow := by
  unfold Part.escalated
  rw [h]

theorem Part.escalated_exhaust (h : c.level = 3) (p : Part) : p.escalated c = c.exhaustedAt := by
  unfold Part.escalated
  rw [h]

/-- Below level 3 the level rises by one and the window starts again (R116). -/
theorem Part.escalated_rises (hl : c.level < 3) (p : Part) : (p.escalated c).level.val = c.level.val + 1
    ∧ (p.escalated c).responseWindow = .start c.window ∧ (p.escalated c).exhausted = c.exhausted := by
  match h : c.level with
  | 0 =>
    rw [Part.escalated_one h]
    exact ⟨rfl, rfl, rfl⟩
  | 1 =>
    rw [Part.escalated_two h]
    exact ⟨rfl, rfl, rfl⟩
  | 2 =>
    rw [Part.escalated_three h]
    exact ⟨rfl, rfl, rfl⟩
  | 3 => exact absurd (h ▸ hl) (Fin.lt_irrefl 3)

/-- Groups join at the second rise alone. -/
theorem Part.escalated_groups (hl : c.level ≠ 1) (p : Part) :
    (p.escalated c).primary = c.primary ∧ (p.escalated c).secondary = c.secondary := by
  match h : c.level with
  | 0 =>
    rw [Part.escalated_one h]
    exact ⟨rfl, rfl⟩
  | 1 => exact absurd h hl
  | 2 =>
    rw [Part.escalated_three h]
    exact ⟨rfl, rfl⟩
  | 3 =>
    rw [Part.escalated_exhaust h]
    exact ⟨rfl, rfl⟩

theorem Part.escalate_one (h : c.level = 0) (p : Part) (i : SlotId) :
    p.escalate i c = (p.levelOne i c).restartWindow i := by
  unfold Part.escalate
  rw [h]

theorem Part.escalate_two (h : c.level = 1) (p : Part) (i : SlotId) :
    p.escalate i c = (p.levelTwo i c).restartWindow i := by
  unfold Part.escalate
  rw [h]

theorem Part.escalate_three (h : c.level = 2) (p : Part) (i : SlotId) :
    p.escalate i c = (p.levelThree i).restartWindow i := by
  unfold Part.escalate
  rw [h]

theorem Part.escalate_exhaust (h : c.level = 3) (p : Part) (i : SlotId) : p.escalate i c = p.exhaust i := by
  unfold Part.escalate
  rw [h]

theorem Part.callout?_sirenOwnCycles (pat : PatternId) (p : Part) (i : SlotId) :
    (p.sirenOwnCycles pat).callout? i = p.callout? i := by
  unfold Part.sirenOwnCycles Part.sirenRequest
  split
  · rfl
  · split <;> rfl

theorem Part.callout?_restartWindow (h : p.callout? i = some c) : (p.restartWindow i).callout? i = some c.startWindow := by
  rw [Part.restartWindow, Part.callout?_modify_self, h]
  rfl

/-- The first rise with its re-page (R117). -/
def Part.repaging (i : SlotId) (c : Callout) (p : Part) : Part :=
  if p.repageSelection c = [] then p.modify i (Callout.raisedTo 1 (p.repageSelection c))
  else (p.modify i (Callout.raisedTo 1 (p.repageSelection c))).demandMembers .repage c.owner (p.repageSelection c)

theorem Part.levelOne_eq (p : Part) (i : SlotId) (c : Callout) : p.levelOne i c =
    if c.sirenPolicy = .none then p.repaging i c else (p.repaging i c).sirenOwnCycles c.sirenPattern := rfl

theorem Part.callout?_repaging (hc : p.callout? i = some c) :
    (p.repaging i c).callout? i = some (c.raisedTo 1 (p.repageSelection c)) := by
  have hraised : (p.modify i (Callout.raisedTo 1 (p.repageSelection c))).callout? i
      = some (c.raisedTo 1 (p.repageSelection c)) := by
    rw [Part.callout?_modify_self, hc]
    rfl
  unfold Part.repaging
  split
  · exact hraised
  · rw [Part.demandMembers, Part.callout?_demand, hraised]

theorem Part.callout?_levelOne (hc : p.callout? i = some c) :
    (p.levelOne i c).callout? i = some (c.raisedTo 1 (p.repageSelection c)) := by
  rw [Part.levelOne_eq]
  split
  · exact Part.callout?_repaging hc
  · rw [Part.callout?_sirenOwnCycles]
    exact Part.callout?_repaging hc

theorem Part.callout?_levelTwo (hc : p.callout? i = some c) :
    (p.levelTwo i c).callout? i = some (c.raisedToTwo (p.judgedYes c.askedGroups) c.askedGroups) := by
  have hraised : (p.modify i (Callout.raisedToTwo (p.judgedYes c.askedGroups) c.askedGroups)).callout? i
      = some (c.raisedToTwo (p.judgedYes c.askedGroups) c.askedGroups) := by
    rw [Part.callout?_modify_self, hc]
    rfl
  show (if p.judgedYes c.askedGroups = 0#16 then p.modify i (Callout.raisedToTwo (p.judgedYes c.askedGroups) c.askedGroups)
    else (p.modify i (Callout.raisedToTwo (p.judgedYes c.askedGroups) c.askedGroups)).demandGroups .escalate c.owner
      (p.judgedYes c.askedGroups)).callout? i = _
  split
  · exact hraised
  · rw [Part.demandGroups, Part.callout?_demand, hraised]

theorem Part.levelThree_eq (p : Part) (i : SlotId) : p.levelThree i =
    if p.localWorking then ((p.modify i Callout.raisedToThree).raise .aid).sirenOwnCycles p.settings.aidPattern
    else (p.modify i Callout.raisedToThree).raise .aid := by
  have hlines : ((p.modify i Callout.raisedToThree).raise .aid).localWorking = p.localWorking := by
    rw [Part.modify_eq]
    rfl
  have hsettings : ((p.modify i Callout.raisedToThree).raise .aid).settings = p.settings := by
    rw [Part.modify_eq]
    rfl
  rw [← hlines, ← hsettings]
  rfl

theorem Part.callout?_levelThree (hc : p.callout? i = some c) : (p.levelThree i).callout? i = some c.raisedToThree := by
  have hraised : ((p.modify i Callout.raisedToThree).raise .aid).callout? i = some c.raisedToThree := by
    rw [Part.callout?_raise, Part.callout?_modify_self, hc]
    rfl
  rw [Part.levelThree_eq]
  split
  · rw [Part.callout?_sirenOwnCycles, hraised]
  · exact hraised

theorem Part.callout?_escalate (hc : p.callout? i = some c) : (p.escalate i c).callout? i = some (p.escalated c) := by
  match hl : c.level with
  | 0 =>
    rw [Part.escalate_one hl, Part.escalated_one hl]
    exact Part.callout?_restartWindow (Part.callout?_levelOne hc)
  | 1 =>
    rw [Part.escalate_two hl, Part.escalated_two hl]
    exact Part.callout?_restartWindow (Part.callout?_levelTwo hc)
  | 2 =>
    rw [Part.escalate_three hl, Part.escalated_three hl]
    exact Part.callout?_restartWindow (Part.callout?_levelThree hc)
  | 3 =>
    rw [Part.escalate_exhaust hl, Part.escalated_exhaust hl, Part.exhaust, Part.callout?_raise, Part.callout?_modify_self, hc]
    rfl

/-! ### What is demanded -/

theorem Paging.restartWindow (p : Part) (i : SlotId) : Paging p (p.restartWindow i) := .modify i p fun _ _ => rfl

theorem Part.escalate_repages (hl : c.level = 0) (hne : p.repageSelection c ≠ []) :
    Paging (p.demand { kind := .repage, owner := c.owner, content := .members (p.repageSelection c), restrict := .all })
      (p.escalate i c) := by
  have hraised : Paging p (p.modify i (Callout.raisedTo 1 (p.repageSelection c))) := .modify i p fun _ _ => rfl
  have hdemanded := hraised.demand
    { kind := .repage, owner := c.owner, content := .members (p.repageSelection c), restrict := .all }
  rw [Part.escalate_one hl, Part.levelOne_eq, Part.repaging, if_neg hne]
  exact (hdemanded.trans (.ite (.refl _) (.sirenOwnCycles _ _))).trans (.restartWindow _ i)

theorem Part.escalate_pagesGroups (hl : c.level = 1)
    (hne : p.judgedYes c.askedGroups ≠ 0#16) :
    Paging (p.demand { kind := .escalate, owner := c.owner, content := .groups (membersOf 16 (p.judgedYes c.askedGroups)),
                       restrict := .all }) (p.escalate i c) := by
  have hraised : Paging p (p.modify i (Callout.raisedToTwo (p.judgedYes c.askedGroups) c.askedGroups)) :=
    .modify i p fun _ _ => rfl
  have hdemanded := (hraised.demand { kind := .escalate, owner := c.owner, restrict := .all
                                      content := .groups (membersOf 16 (p.judgedYes c.askedGroups)) }).trans (.restartWindow _ i)
  have heq : p.levelTwo i c = (p.modify i (Callout.raisedToTwo (p.judgedYes c.askedGroups) c.askedGroups)).demand _ :=
    if_neg hne
  rw [Part.escalate_two hl, heq]
  exact hdemanded

/-! ### The siren and the notices -/

theorem Part.modify_station (i : SlotId) (f : Callout → Callout) (p : Part) : (p.modify i f).station = p.station := by
  rw [Part.modify_eq]

theorem Part.modify_supply (i : SlotId) (f : Callout → Callout) (p : Part) : (p.modify i f).supply = p.supply := by
  rw [Part.modify_eq]

theorem Part.demand_station (d : Demand) (p : Part) : (p.demand d).station = p.station := (p.demand_onlyPages d).station
theorem Part.demand_supply (d : Demand) (p : Part) : (p.demand d).supply = p.supply := (p.demand_onlyPages d).supply

theorem Part.repaging_station (p : Part) (i : SlotId) (c : Callout) :
    (p.repaging i c).station = p.station ∧ (p.repaging i c).supply = p.supply := by
  unfold Part.repaging
  split
  · exact ⟨p.modify_station i _, p.modify_supply i _⟩
  · exact ⟨(Part.demand_station _ _).trans (p.modify_station i _), (Part.demand_supply _ _).trans (p.modify_supply i _)⟩

theorem Part.escalate_siren (p : Part) (i : SlotId) (c : Callout) (ht : t.station.run = (p.escalate i c).station.run) :
    if c.level = 0 ∧ c.sirenPolicy ≠ .none then SirenAsked c.sirenPattern p t
    else if c.level = 2 ∧ p.localWorking = true then SirenAsked p.settings.aidPattern p t
    else t.station.run = p.station.run := by
  unfold Part.escalate at ht
  split at ht
  next hl =>
    rw [Part.restartWindow, Part.modify_station] at ht
    obtain ⟨hstation, hsupply⟩ := p.repaging_station i c
    rw [Part.levelOne_eq] at ht
    rw [hl]
    split at ht
    next hnone =>
      rw [if_neg (fun h => h.2 hnone), if_neg (fun h => nomatch h.1), ht, hstation]
    next hnone =>
      rw [if_pos ⟨rfl, hnone⟩]
      exact sirenAsked_of hstation hsupply ht
  next hl =>
    rw [if_neg (fun h => nomatch hl ▸ h.1), if_neg (fun h => nomatch hl ▸ h.1), ht, Part.restartWindow, Part.modify_station]
    unfold Part.levelTwo
    dsimp only
    split
    · rw [Part.modify_station]
    · rw [Part.demandGroups, Part.demand_station, Part.modify_station]
  next hl =>
    rw [Part.restartWindow, Part.modify_station, Part.levelThree_eq] at ht
    rw [if_neg (fun h => nomatch hl ▸ h.1)]
    split at ht
    next hlocal =>
      rw [if_pos ⟨hl, hlocal⟩]
      have hstation : ((p.modify i Callout.raisedToThree).raise .aid).station = p.station := p.modify_station i _
      exact sirenAsked_of hstation (p.modify_supply i _) ht
    next hlocal =>
      rw [if_neg fun h => hlocal h.2, ht]
      exact congrArg StationOutput.run (p.modify_station i _)
  next hl =>
    rw [if_neg (fun h => nomatch hl ▸ h.1), if_neg (fun h => nomatch hl ▸ h.1), ht]
    exact congrArg StationOutput.run (p.modify_station i _)

theorem Part.escalate_aid (hl : c.level = 2) : (p.escalate i c).Noticed 3 := by
  have haid := (p.modify i Callout.raisedToThree).raise_noticed .aid
  rw [Part.escalate_three hl, Part.levelThree_eq]
  refine ((Part.restartWindow_moves (.unedited none False) i _).frame.lines).noticed ?_
  split
  · exact (Part.sirenOwnCycles_moves (.unedited none False) _ _).frame.lines.noticed haid
  · exact haid

theorem Part.escalate_exhausts (hl : c.level = 3) : (p.escalate i c).Noticed 4 := by
  rw [Part.escalate_exhaust hl]
  exact Part.raise_noticed .exhausted _

/-! ### The members to re-page (R69, R117) -/

theorem filterMap_pair_filter_map {α β : Type} (f : α → Option β) (g : α × β → Bool) (l : List α) :
    ((l.filterMap fun a => (f a).map fun b => (a, b)).filter g).map Prod.fst = l.filter fun a => (f a).any fun b => g (a, b) := by
  induction l with
  | nil => rfl
  | cons a l ih =>
    cases hf : f a with
    | none => simp [hf, ih]
    | some b => by_cases hg : g (a, b) <;> simp [hf, hg, ih]

theorem Part.repageSelection_eq (p : Part) (c : Callout) : p.repageSelection c
    = ((ascending 128).filter fun m => (p.member? m).any fun x =>
        x.availability == .available && x.groups &&& (c.primary &&& c.paged) != 0#16
          && (c.responses.all fun r => r.member != m)
          && [Role.oic, .drv, .ba, .gen].any fun r => x.quals.holds r && c.appliances.any fun e =>
            !e.departed && c.assessment.entries.any fun y => y.letter == e.letter && 0 < y.shortfall.count r).take 16 := by
  have hrecord (m : MemberId) : (c.record? m).isNone = c.responses.all fun r => r.member != m := by
    rw [Callout.record?, Bool.eq_iff_iff]
    simp [List.all_eq_true]
  have hroles (x : Member) : c.shortRoles.any x.quals.holds = [Role.oic, .drv, .ba, .gen].any fun r => x.quals.holds r
      && c.appliances.any fun e => !e.departed && c.assessment.entries.any fun y => y.letter == e.letter && 0 < y.shortfall.count r := by
    rw [Callout.shortRoles, List.any_filter]
    simp only [roles, Bool.and_comm]
  unfold Part.repageSelection Part.rollOf Part.inUse
  rw [List.filter_filter, filterMap_pair_filter_map]
  simp only [hrecord, hroles, Member.isAvailable, Callout.pagedPrimary, Bool.and_assoc, Bool.and_comm]
  rfl

theorem Callout.core_ladder {c d : Callout} (h : d.core = c.core) : d.secondary = c.secondary ∧ d.level = c.level
    ∧ d.exhausted = c.exhausted ∧ d.repaged = c.repaged
    ∧ ({ d.flags with txDegraded := false } : CalloutFlags) = { c.flags with txDegraded := false } :=
  ⟨(congrArg Callout.secondary h : d.core.secondary = c.core.secondary), (congrArg Callout.level h : d.core.level = c.core.level),
    (congrArg Callout.exhausted h : d.core.exhausted = c.core.exhausted),
    (congrArg Callout.repaged h : d.core.repaged = c.core.repaged), (congrArg Callout.flags h : d.core.flags = c.core.flags)⟩

/-! ### The expiry -/

theorem Part.windowExpires_escalates (hc : p.callout? i = some c) (hcounting : c.state = .counting)
    (hrun : c.responseWindow.mark = .running) : p.windowExpires i = (p.escalate i c).finish := by
  unfold Part.windowExpires
  simp only [hc]
  exact if_pos ⟨hcounting, hrun⟩

theorem Part.windowExpires_idle (h : ∀ c, p.callout? i = some c → c.state ≠ .counting ∨ c.responseWindow.mark ≠ .running) :
    p.windowExpires i = p := by
  unfold Part.windowExpires
  cases hc : p.callout? i with
  | none => rfl
  | some c =>
    refine if_neg fun ⟨hcounting, hrun⟩ => ?_
    rcases h c hc with hn | hn
    · exact hn hcounting
    · exact hn hrun

/-- Settles O55. -/
theorem windowExpiry : Obligations.WindowExpiry := by
  unfold Obligations.WindowExpiry
  refine fun s i hs => ⟨fun c hc hcounting hrun => leads_of_event hs rfl ?_,
    fun h => exec_eq_self_of_event hs rfl (Part.windowExpires_idle h)⟩
  rw [Part.windowExpires_escalates hc hcounting hrun]
  have hstate : (s.toPart.escalated c).state = .counting := (Part.escalated_state _ c).trans hcounting
  obtain ⟨d, hd, hstep⟩ := Part.finish_callout?_of (Part.callout?_escalate hc) (by rw [hstate]; nofun)
  obtain ⟨hstill, -, -, hwindow⟩ := hstep.still (by rw [hstate]; nofun)
  have hcore := hstep.1
  have hconf : SameConfiguration s.toPart (s.toPart.escalate i c).finish :=
    Moves.configuration (g := .unedited none False) id ((Part.escalate_moves _ hc).trans (Part.finish_moves _ _))
  have hprimary := Callout.core_primary hcore
  obtain ⟨hsecondary, hlevel, hexhausted, hrepaged, hflags⟩ := Callout.core_ladder hcore
  have homitted : d.flags.groupsOmitted = (s.toPart.escalated c).flags.groupsOmitted :=
    (congrArg CalloutFlags.groupsOmitted hflags : _)
  have haid : d.flags.aidRequested = (s.toPart.escalated c).flags.aidRequested :=
    (congrArg CalloutFlags.aidRequested hflags : _)
  refine ⟨d, hd, hstill.trans hstate, hconf, fun hl => ?_, fun hl => ?_, fun hl => ?_, fun hl => ?_, fun hl => ?_, fun hl => ?_,
    Part.escalate_siren s.toPart i c (Part.finish_run _)⟩
  · obtain ⟨hrise, hstart, hstays⟩ := s.toPart.escalated_rises hl
    exact ⟨(congrArg Fin.val hlevel).trans hrise, hwindow.trans hstart, hexhausted.trans hstays⟩
  · rw [Part.escalated_one hl] at hrepaged
    have hselected : d.repaged = s.toPart.repageSelection c := hrepaged
    refine ⟨hselected.trans (s.toPart.repageSelection_eq c), fun hquiet hne => ?_⟩
    rw [hselected] at hne ⊢
    exact (Part.escalate_repages hl hne).handed hquiet
  · rw [Part.escalated_two hl] at hprimary hsecondary homitted
    exact ⟨hprimary, hsecondary, homitted, fun hquiet hne => (Part.escalate_pagesGroups hl hne).handed hquiet⟩
  · obtain ⟨hp, hsec⟩ := s.toPart.escalated_groups hl
    exact ⟨hprimary.trans hp, hsecondary.trans hsec⟩
  · rw [Part.escalated_three hl] at haid
    exact ⟨haid, (Part.escalate_aid hl).finish⟩
  · rw [Part.escalated_exhaust hl] at hlevel hexhausted hwindow
    exact ⟨hlevel.trans hl, hexhausted, hwindow, (Part.escalate_exhausts hl).finish⟩

end Sys2Proof.Machine

/-! A callout made by an ALERT (R2 to R4, R9, R102 to R104). -/

namespace Sys2Proof.Machine
open Sys2Proof

variable {p q s t : Part} {i : SlotId} {c d : Callout}

/-! ### Numbers and tokens -/

/-- Every value stepped over is in use. -/
theorem firstUnused_least {w : Nat} (used : BitVec w → Bool) (next : BitVec w → BitVec w) (k : Nat) (x : BitVec w) :
    ∃ j, firstUnused used next k x = next^[j] x ∧ ∀ h, h < j → used (next^[h] x) = true := by
  induction k generalizing x with
  | zero => exact ⟨0, rfl, fun h hh => absurd hh (Nat.not_lt_zero h)⟩
  | succ k ih =>
    unfold firstUnused
    by_cases hx : used x = true
    · rw [if_pos hx]
      obtain ⟨j, hj, hall⟩ := ih (next x)
      refine ⟨j + 1, hj, fun h hh => ?_⟩
      cases h with
      | zero => exact hx
      | succ h => exact hall h (Nat.lt_of_succ_lt_succ hh)
    · rw [if_neg hx]
      exact ⟨0, rfl, fun h hh => absurd hh (Nat.not_lt_zero h)⟩

/-- The new number is the first after the last-assigned one that no callout holds (R2). -/
theorem Part.newNumber_first (p : Part) : ∃ k, nextNumber^[k + 1] p.table.lastNumber = p.newNumber
    ∧ (∀ j d, p.callout? j = some d → d.number ≠ p.newNumber)
    ∧ ∀ h, h < k → ∃ j d, p.callout? j = some d ∧ d.number = nextNumber^[h + 1] p.table.lastNumber := by
  obtain ⟨k, hk, hall⟩ := firstUnused_least (fun n => p.live.any fun ic => ic.2.number == n) nextNumber 16
    (nextNumber p.table.lastNumber)
  refine ⟨k, hk.symm, p.newNumber_fresh.2, fun h hh => ?_⟩
  obtain ⟨j, d, hd, hn⟩ := (Part.any_live (q := fun c => c.number == _)).mp (hall h hh)
  exact ⟨j, d, hd, beq_iff_eq.mp hn⟩

theorem nextToken_iterate_eq (k : Nat) (x : Token) : nextToken^[k] x = x + 1237#12 * BitVec.ofNat 12 k := by
  induction k with
  | zero => simp
  | succ k ih =>
    rw [Function.iterate_succ_apply', ih, nextToken, BitVec.ofNat_add, BitVec.mul_add, ← BitVec.add_assoc]
    rfl

/-- The new token is the first after the last-issued one that is not 0 and that no callout holds (R3). -/
theorem Part.newToken_first (p : Part) : ∃ k, p.table.lastToken + 1237#12 * BitVec.ofNat 12 (k + 1) = p.newToken
    ∧ p.newToken ≠ 0#12 ∧ (∀ j d, p.callout? j = some d → d.token ≠ p.newToken)
    ∧ ∀ h, h < k → let y := p.table.lastToken + 1237#12 * BitVec.ofNat 12 (h + 1)
        y = 0#12 ∨ ∃ j d, p.callout? j = some d ∧ d.token = y := by
  obtain ⟨k, hk, hall⟩ := firstUnused_least (fun t => t == 0#12 || p.live.any fun ic => ic.2.token == t) nextToken 16
    (nextToken p.table.lastToken)
  refine ⟨k, ?_, p.newToken_fresh.1, p.newToken_fresh.2, fun h hh => ?_⟩
  · rw [← nextToken_iterate_eq]
    exact hk.symm
  · have hused := hall h hh
    rw [← Function.iterate_succ_apply, nextToken_iterate_eq] at hused
    rcases Bool.or_eq_true_iff.mp hused with hz | hl
    · exact .inl (beq_iff_eq.mp hz)
    · obtain ⟨j, d, hd, hn⟩ := (Part.any_live (q := fun c => c.token == _)).mp hl
      exact .inr ⟨j, d, hd, beq_iff_eq.mp hn⟩

/-! ### The first assessment -/

/-- Without a response nobody is seated, and an entry that requires somebody is short. -/
theorem assess_unanswered (seats : Appliance → Nat) (quals : MemberId → Qualifications) (hr : c.responses = [])
    (hd : ∀ e ∈ c.appliances, e.departed = false) (hneed : ∀ e ∈ c.appliances, e.need.sum ≠ 0) (hsome : c.appliances ≠ []) :
    (assess seats quals c).candidates = [] ∧ (assess seats quals c).outcome = .short := by
  have hcandidates : c.candidates = [] := by
    rw [Callout.candidates, hr]
    rfl
  have hempty : (assess seats quals c).candidates = [] := by
    rw [assess, hcandidates]
    rfl
  refine ⟨hempty, ?_⟩
  have hentry : ∀ x ∈ (assess seats quals c).entries, x.inTime = false := by
    intro x hx
    rw [assess, hcandidates] at hx
    obtain ⟨e, he, rfl⟩ := List.mem_map.mp hx
    rw [hd e he]
    obtain ⟨hshort, hfilled, -⟩ := appliancePart_spec c.turnout (seats e.letter) e []
    refine Bool.eq_false_iff.mpr fun hin => ?_
    have hzero := hfilled.mp (Bool.and_eq_true_iff.mp hin).1
    refine hneed e he (e.need.sum_eq_zero.mpr fun r => ?_)
    rw [← (RoleCounts.sum_eq_zero _).mp hzero r, hshort r]
    rfl
  obtain ⟨e, rest, he⟩ := List.exists_cons_of_ne_nil hsome
  refine (outcomeOf_eq_short _).mpr ⟨?_, hentry⟩
  refine ⟨_, List.mem_map.mpr ⟨e, he ▸ List.mem_cons_self, rfl⟩, hentry _ (List.mem_map.mpr ⟨e, he ▸ List.mem_cons_self, rfl⟩)⟩

/-- The callout placed at the head of the free order, its appliances and its assessment still to come. -/
def Part.placed (i : SlotId) (c : Callout) (p : Part) : Part :=
  p.onTable fun t =>
    { slots := (t.slots.map (Slot.forget c.number)).set i (.live c), freeOrder := t.freeOrder.tail,
      lastNumber := c.number, lastToken := c.token }

theorem Part.createCallout_eq (p : Part) (i : SlotId) (c : Callout) : p.createCallout i c
    = (((p.placed i c).commitAll c.number (c.appliances.map fun e => (e.letter, e.need))).modify i fun d =>
        { d with assessment := (p.placed i c).assessment d }).raise .callout := rfl

theorem Part.callout?_placed (p : Part) (i : SlotId) (c : Callout) : (p.placed i c).callout? i = some c := by
  simp only [Part.placed, Part.callout?, Part.slot, Part.onTable_table, Table.get_set_self]
  rfl

theorem Part.callout?_createCallout (p : Part) (i : SlotId) (c : Callout) :
    (p.createCallout i c).callout? i = some { c with assessment := (p.placed i c).assessment c } := by
  have hplaced : ((p.placed i c).commitAll c.number (c.appliances.map fun e => (e.letter, e.need))).callout? i = some c := by
    rw [Part.commitAll_frame]
    exact p.callout?_placed i c
  rw [Part.createCallout_eq, Part.callout?_raise, Part.callout?_modify_self, hplaced]
  rfl

/-! ### An ALERT that creates -/

section
variable {l : Line} {x : AlertArgs} {n : PlanId} {pl : Plan} {rest : List SlotId}

/-- The part with the callout an ALERT makes in the slot at the head of the free order. -/
def Part.created (p : Part) (l : Line) (x : AlertArgs) (i : SlotId) (n : PlanId) (pl : Plan) : Part :=
  p.createCallout i (p.newCallout l x n pl (p.attempt (fun _ => false) pl))

/-- The record of the callout an ALERT makes. -/
def Part.createdCallout (p : Part) (l : Line) (x : AlertArgs) (n : PlanId) (pl : Plan) (a : Assessment) : Callout :=
  { p.newCallout l x n pl (p.attempt (fun _ => false) pl) with assessment := a }

theorem Part.createdCallout_number (p : Part) (l : Line) (x : AlertArgs) (n : PlanId) (pl : Plan) (a : Assessment) :
    (p.createdCallout l x n pl a).number = p.newNumber := by
  simp only [Part.createdCallout, Part.newCallout]

theorem Part.createdCallout_token (p : Part) (l : Line) (x : AlertArgs) (n : PlanId) (pl : Plan) (a : Assessment) :
    (p.createdCallout l x n pl a).token = p.newToken := by
  simp only [Part.createdCallout, Part.newCallout]

theorem Part.created_creates (hfree : p.table.freeOrder = i :: rest)
    (hnew : ∀ j d, p.callout? j = some d → d.reference ≠ x.reference)
    (hsome : (p.attempt (fun _ => false) pl).committed ≠ []) (hneed : ∀ e ∈ pl.entries, e.need.sum ≠ 0) :
    ∃ a, Creates False i (p.createdCallout l x n pl a) p (p.created l x i n pl) ∧ a.outcome = .short ∧ a.candidates = [] := by
  obtain ⟨a, ha⟩ := Part.createCallout_creates (plans := False) (l := l) (n := n) (x := x) hfree False.elim hnew hsome
  refine ⟨a, ha, ?_⟩
  generalize hc : p.newCallout l x n pl (p.attempt (fun _ => false) pl) = c at ha
  have happliances : c.appliances = (p.attempt (fun _ => false) pl).committed.map fun y => ⟨y.1, y.2, false, []⟩ := hc ▸ rfl
  have hassessed := ha.callout? i
  rw [if_pos rfl] at hassessed
  have heq : a = (p.placed i c).assessment c :=
    congrArg Callout.assessment (Option.some.inj (hassessed.symm.trans (p.callout?_createCallout i c)))
  have hnone : ∀ e ∈ c.appliances, e.departed = false := by
    rw [happliances]
    intro e he
    obtain ⟨y, -, rfl⟩ := List.mem_map.mp he
    rfl
  have hrequired : ∀ e ∈ c.appliances, e.need.sum ≠ 0 := by
    rw [happliances]
    intro e he
    obtain ⟨y, hy, rfl⟩ := List.mem_map.mp he
    obtain ⟨-, -, b, hb, hbneed⟩ := (p.attempt_takes (fun _ => false) pl).each y hy
    exact hbneed ▸ hneed b hb
  obtain ⟨hcandidates, houtcome⟩ := assess_unanswered (c := c) (fun ap => ((p.placed i c).appliance ap).seats)
    (p.placed i c).quals (hc ▸ rfl) hnone hrequired (by simpa [happliances] using hsome)
  rw [heq]
  exact ⟨houtcome, hcandidates⟩

/-- A part without work left over has none once a callout is made. -/
theorem Creates.pages {plans : Prop} (h : Creates plans i c p q) : SamePages p q := by
  rw [h.after]
  exact ⟨rfl, rfl⟩

theorem freshAlert_creates {ops : List Operand} (hlen : ops.length ≤ 6) (hx : alertArgs ops = some x)
    (hnew : ∀ j d, p.callout? j = some d → d.reference ≠ x.reference) (hfree : p.table.freeOrder = i :: rest)
    (hplan : p.resolvePlan x.override x.cls x.zone = some (n, pl)) (hsome : (p.attempt (fun _ => false) pl).committed ≠ []) :
    alertOrder l ops.length ops p = .taken (if x.atOnce then (p.created l x i n pl).leaveOpen i else p.created l x i n pl).finish
      ((if x.atOnce then (p.created l x i n pl).leaveOpen i else p.created l x i n pl).finish.alertResults 0 i) := by
  have hrep : p.repeated x = none := by
    rw [Part.repeated, Part.findLive_eq_none.mpr fun j d hd => beq_eq_false_iff_ne.mpr (hnew j d hd)]
    rfl
  rw [alertOrder_of_fresh hlen hx hrep, Part.freshAlert, hfree, hplan]
  exact if_neg hsome

end

/-- What an order raised, told by the flags it left. -/
theorem OrderAnswered.raising {l : Line} {results : List Operand} {b : Set16} (h : OrderAnswered l results s q t)
    (hq : ∀ k, (q.ctl k).flags = (s.ctl k).flags ||| b) : Answered l none results b s t := by
  obtain ⟨raised, ha⟩ := h.answered
  exact ⟨ha.replying, ha.reply, fun k => (h.flags k).trans (hq k), ha.masks, ha.others, ha.lines⟩

theorem Part.finish_quiet_table (h : q.Quiet) : q.finish.table = q.table := by
  rw [Part.finish_quiet h]
  rfl

/-- What an order leaves of the blocks when no work follows it. -/
theorem OrderAnswered.settled {l : Line} {results : List Operand} (h : OrderAnswered l results s q.finish t) (hq : q.Quiet) :
    t.table = q.table ∧ t.resolver = q.resolver ∧ t.pages = q.pages ∧ t.roster = q.roster := by
  rw [Part.finish_quiet hq] at h
  exact ⟨(congrArg Part.table h.after :), (congrArg Part.resolver h.after :), (congrArg Part.pages h.after :),
    (congrArg Part.roster h.after :)⟩

theorem Part.alertResults_of (h : p.callout? i = some c) (k : Nat) :
    p.alertResults k i = [num k, num c.number.toNat, num c.token.toNat, num c.state.code] := by
  unfold Part.alertResults
  rw [h]

/-- Settles O47. -/
theorem alertCreates : Obligations.AlertCreates := by
  unfold Obligations.AlertCreates
  intro s l ops x i rest n pl hs hquiet _ hlen hx honce hnew hfree hplan hsome hneed t'
  generalize hp : s.toPart.working l 1#8 ops = p
  have hcallout (j : SlotId) : p.callout? j = s.callout? j := by rw [← hp, Part.working_callout?]
  have htable : p.table = s.table := by rw [← hp, Part.working_table]
  have hsettings : p.settings = s.settings := by rw [← hp, Part.working_settings]
  have hattempt : p.attempt = s.toPart.attempt := by rw [← hp, Part.working_attempt]
  obtain ⟨a, hcreates, hshort, hcandidates⟩ := Part.created_creates (p := p) (l := l) (x := x) (i := i) (n := n) (pl := pl)
    (htable ▸ hfree) (fun j d hd => hnew j d (hcallout j ▸ hd)) (hattempt ▸ hsome) hneed
  have hv : alertOrder l ops.length ops p
      = .taken (p.created l x i n pl).finish ((p.created l x i n pl).finish.alertResults 0 i) := by
    refine (freshAlert_creates (n := n) (pl := pl) hlen hx (fun j d hd => hnew j d (hcallout j ▸ hd)) (htable ▸ hfree) ?_ (hattempt ▸ hsome)).trans ?_
    · rw [← hp, Part.working_resolvePlan, hplan]
    · rw [honce]
      rfl
  have hmoves : Moves (.unedited none True) p (p.created l x i n pl) := .one (.create trivial i _ hcreates)
  have hquiet' : (p.created l x i n pl).Quiet :=
    hcreates.pages.workStep.mpr (hp ▸ (s.toPart.working_pages l 1#8 ops).workStep.mpr hquiet)
  have hfound : (p.created l x i n pl).finish.callout? i = some (p.createdCallout l x n pl a) :=
    (Part.callout?_congr (Part.finish_quiet_table hquiet') i).trans ((hcreates.callout? i).trans (if_pos rfl))
  have hresults := Part.alertResults_of hfound 0
  refine (leads_of_taken (c := .alert l ops) (code := 1#8) (ops := ops) (g := .unedited none True) hs rfl (hp ▸ hv)
    (hp ▸ hmoves.trans (Part.finish_moves _ _)) id).imp fun t ht => ?_
  rw [hp, hresults] at ht
  obtain ⟨htable', hresolver, hpages, hroster⟩ := ht.settled hquiet'
  rw [hcreates.after] at htable' hpages hroster
  have hn := p.newNumber_first
  have hk := p.newToken_first
  rw [← p.createdCallout_number l x n pl a] at hn
  rw [← p.createdCallout_token l x n pl a] at hk
  simp only [hcallout, htable] at hn hk
  refine ⟨p.createdCallout l x n pl a, a, ?_, ?_, hshort, hcandidates, ?_, ?_, ?_, ?_, ?_, ?_, ?_, ?_, ?_, ?_, ht.configuration⟩
  · rw [Part.slot, htable']
    exact Table.get_set_self _ _ _
  · simp only [Part.createdCallout, Part.newCallout, hattempt, hsettings, noFlags, t']
  · rw [htable', htable, hfree]
    rfl
  · rw [htable']
  · rw [htable']
  · exact hn
  · exact hk
  · intro j hj
    rw [Part.slot, htable', Table.get_set, if_neg (Ne.symm hj), Table.get_map, htable]
    show Slot.forget _ (s.slot j) = _
    cases s.slot j with
    | live d => rfl
    | free y => cases y <;> rfl
  · intro ap
    have hletters : ap ∈ (p.createdCallout l x n pl a).appliances.map ApplianceEntry.letter
        ↔ t'.committed.any (fun y => y.1 == ap) = true := by
      rw [Part.createdCallout, Part.newCallout_letters, hattempt, List.any_eq_true, List.mem_map]
      simp only [beq_iff_eq, t']
    have hbefore : p.appliance ap = s.appliance ap := by
      rw [← hp, s.toPart.working_frame l 1#8 ops]
      rfl
    rw [Part.appliance, hresolver, ← Part.appliance, hcreates.commits, hbefore]
    exact if_congr hletters rfl rfl
  · refine ht.raising fun k => ?_
    have hlines : (p.created l x i n pl).finish.lines = (p.raise .callout).lines := by
      rw [Part.finish_quiet hquiet', Part.refreshLamps_frame, hcreates.after]
      rfl
    rw [Part.ctl, hlines, ← Part.ctl, Part.ctl_raise, LineController.raise, ← (s.toPart.working_ctl l 1#8 ops k).1, hp]
    rfl
  · rw [hpages, ← hp]
    exact (s.toPart.working_pages l 1#8 ops).1
  · rw [hroster, ← hp, Part.working_roster]

end Sys2Proof.Machine

/-! What follows a demand within a command: other demands behind it (R131 to R134). -/

namespace Sys2Proof.Machine
open Sys2Proof

variable {p q r s t : Part} {i : SlotId} {c : Callout} {d : Demand}

/-- The later part has the page queue of the earlier with more behind it, and reports that move nothing of it. -/
structure Trails (p q : Part) : Prop where
  queue     : ∃ l, q.pages.queue = p.pages.queue ++ l
  demands   : ∃ l, q.pages.demands = p.pages.demands ++ l
  reports   : ∃ l, q.pages.reports = p.pages.reports ++ l ∧ ∀ x ∈ l, x.light
  sequencer : q.sites.sequencer = p.sites.sequencer
  records   : q.sites.records = p.sites.records
  pins      : q.pins = p.pins
  supply    : q.supply = p.supply
  waits     : p.pages.demands ≠ [] → q.pages.queue = p.pages.queue

namespace Trails

theorem of_same (h : SamePages p q) (hpins : q.pins = p.pins) (hsupply : q.supply = p.supply) : Trails p q where
  queue := ⟨[], by rw [h.1, List.append_nil]⟩
  demands := ⟨[], by rw [h.1, List.append_nil]⟩
  reports := ⟨[], by rw [h.1, List.append_nil], fun _ hx => absurd hx List.not_mem_nil⟩
  sequencer := by rw [h.2]
  records := by rw [h.2]
  pins := hpins
  supply := hsupply
  waits := fun _ => by rw [h.1]

theorem refl (p : Part) : Trails p p := .of_same (.refl p) rfl rfl

theorem of_paging (h : Paging p q) : Trails p q := .of_same h.same h.pins h.supply

theorem trans (h : Trails p q) (k : Trails q r) : Trails p r := by
  obtain ⟨a, ha⟩ := h.queue
  obtain ⟨a', ha'⟩ := k.queue
  obtain ⟨b, hb⟩ := h.demands
  obtain ⟨b', hb'⟩ := k.demands
  obtain ⟨x, hx, hxl⟩ := h.reports
  obtain ⟨x', hx', hxl'⟩ := k.reports
  exact
    { queue := ⟨a ++ a', by rw [ha', ha, List.append_assoc]⟩
      demands := ⟨b ++ b', by rw [hb', hb, List.append_assoc]⟩
      reports := ⟨x ++ x', by rw [hx', hx, List.append_assoc], fun y hy =>
        (List.mem_append.mp hy).elim (hxl y) (hxl' y)⟩
      sequencer := k.sequencer.trans h.sequencer
      records := k.records.trans h.records
      pins := k.pins.trans h.pins
      supply := k.supply.trans h.supply
      waits := fun hd => (k.waits (by rw [hb]; simp [hd])).trans (h.waits hd) }

theorem ite {b : Prop} [Decidable b] (hq : Trails p q) (hr : Trails p r) : Trails p (if b then q else r) := by
  split
  · exact hq
  · exact hr

theorem light (h : Light p q) : Trails p q := .of_same h.samePages h.pins h.supply

/-- A demand of a kind whose end sets nothing off. -/
theorem demand (hk : d.kind ≠ .alert ∧ d.kind ≠ .standDown) (p : Part) : Trails p (p.demand d) := by
  have hlight (form : EndForm) (b : Bool) : ∀ x ∈ [Report.ended d.owner d.kind form b], x.light := fun x hx => by
    rw [List.mem_singleton.mp hx]
    exact .inr hk
  unfold Part.demand
  split
  next hroom =>
    have hnone : p.pages.demands = [] := by simpa using (Bool.and_eq_true_iff.mp hroom).1
    rw [Part.admission_eq]
    split
    · exact ⟨⟨[], (List.append_nil _).symm⟩, ⟨[], (List.append_nil _).symm⟩, ⟨_, rfl, hlight _ _⟩, rfl, rfl, rfl, rfl, fun _ => rfl⟩
    · split
      · exact ⟨⟨[], (List.append_nil _).symm⟩, ⟨[], (List.append_nil _).symm⟩, ⟨_, rfl, hlight _ _⟩, rfl, rfl, rfl, rfl, fun _ => rfl⟩
      · exact ⟨⟨_, rfl⟩, ⟨[], (List.append_nil _).symm⟩, ⟨[], (List.append_nil _).symm, by simp⟩, rfl, rfl, rfl, rfl,
          fun h => absurd hnone h⟩
  next =>
    split
    · exact ⟨⟨[], (List.append_nil _).symm⟩, ⟨_, rfl⟩, ⟨[], (List.append_nil _).symm, by simp⟩, rfl, rfl, rfl, rfl, fun _ => rfl⟩
    · exact ⟨⟨[], (List.append_nil _).symm⟩, ⟨[], (List.append_nil _).symm⟩, ⟨_, rfl, hlight _ _⟩, rfl, rfl, rfl, rfl, fun _ => rfl⟩

theorem release (o : Owner) (ms : List MemberId) (p : Part) : Trails p (p.demandMembers .release o ms) :=
  demand (d := { kind := .release, owner := o, content := .members ms, restrict := .all }) ⟨nofun, nofun⟩ p

theorem demandReleases (o : Owner) (ms : List MemberId) (p : Part) : Trails p (p.demandReleases o ms) :=
  .trans (.ite (.refl _) (.release _ _ _)) (.ite (.refl _) (.release _ _ _))

theorem of_work {ex : Option SlotId} (h : SamePages p q) (hw : WorkFrame ex p q) : Trails p q := .of_same h hw.pins hw.supply

theorem releaseMembers (i : SlotId) (ms : List MemberId) (p : Part) : Trails p (p.releaseMembers i ms) :=
  .of_work (p.releaseMembers_pages i ms) (p.releaseMembers_work i ms)

theorem recompute (i : SlotId) (p : Part) : Trails p (p.recompute i) := .of_work (p.recompute_pages i) (p.recompute_work i)

theorem enter (i : SlotId) (st : CalloutState) (p : Part) : Trails p (p.enter i st) :=
  light ((Light.modify i _ p).trans (.raise _ _))

theorem enterCrewed (i : SlotId) (p : Part) : Trails p (p.enterCrewed i) := by
  have h : Trails p ((p.enter i .crewed).modify i Callout.stopWindow) := (enter i .crewed p).trans (light (.modify i _ _))
  unfold Part.enterCrewed
  dsimp only
  split
  · exact h
  · exact .ite h (((h.trans (.releaseMembers i _ _)).trans (.demandReleases _ _ _)).trans (.recompute i _))

theorem enterCounting (i : SlotId) (p : Part) : Trails p (p.enterCounting i) :=
  (enter i .counting p).trans (light (.modify i _ _))

theorem takeOutcome (i : SlotId) (p : Part) : Trails p (p.takeOutcome i) := by
  unfold Part.takeOutcome
  split
  · exact .refl p
  · split
    · exact .ite (.enterCrewed i p) (.refl p)
    · exact .ite (.enterCrewed i p) (.refl p)
    · exact .ite (.refl p) (.enterCounting i p)
    all_goals exact .refl p

theorem reassess (i : SlotId) (p : Part) : Trails p (p.reassess i) := by
  unfold Part.reassess
  split
  · exact .refl p
  · exact .ite (.refl p) ((recompute i p).trans (.takeOutcome i _))

end Trails

/-- A command that hands over demand `d`, with more behind it. -/
theorem Trails.handed (hquiet : s.Quiet) (h : Trails (s.demand d) p) : Handed d s p.finish := by
  have hpins : p.pins = s.pins := h.pins.trans (s.demand_onlyPages d).pins
  have hsupply : p.supply = s.supply := h.supply.trans (s.demand_onlyPages d).supply
  obtain ⟨queue, hqueue⟩ := h.queue
  obtain ⟨demands, hdemands⟩ := h.demands
  obtain ⟨reports, hreports, hlight⟩ := h.reports
  unfold Handed
  intro b hpages hsites
  have hlight' (hr : (s.demand d).pages.reports = []) : ∃ q, p.work = q.work ∧ Light p.withoutReports q :=
    Part.work_light fun x hx => hlight x (by rw [hreports, hr] at hx; exact hx)
  have settled {q : Part} (hwork : p.work = q.work) (hq : Light p.withoutReports q)
      (hseq : p.sites.sequencer = s.sites.sequencer)
      (hhead : ∀ b rest, p.pages.queue = b :: rest → ∃ rest', s.pages.queue = b :: rest') :
      p.finish.pages.queue = p.pages.queue ∧ p.finish.pages.demands = p.pages.demands := by
    have hquiet' : q.Quiet := hquiet.of_head (congrArg PageQueue.reports hq.pages)
      ((congrArg SiteUnit.sequencer hq.sites).trans hseq) fun b rest hb =>
        hhead b rest ((congrArg PageQueue.queue hq.pages).symm.trans hb)
    have hfinish : p.finish.pages = q.pages := by
      unfold Part.finish
      rw [hwork, Part.work_of_quiet hquiet']
      rfl
    rw [hfinish, hq.pages]
    exact ⟨rfl, rfl⟩
  refine ⟨fun hq hd hroom => ⟨queue, ?_⟩, fun hq hwait hlen => ⟨demands, ?_⟩, fun hq hd hroom hidle k rest hk hcost hcredit => ?_⟩
  · rw [Part.demand_of_room hd hroom, Part.admission_enters hpages hsites] at hlight' hqueue h
    obtain ⟨q, hwork, hl⟩ := hlight' hquiet.reports
    obtain ⟨x, more, hx⟩ := List.exists_cons_of_ne_nil hq
    rw [(settled hwork hl h.sequencer fun y rest hy => ?_).1, hqueue, List.append_assoc]
    · rfl
    · rw [hqueue] at hy
      simp only [hx, List.cons_append, List.cons.injEq] at hy
      exact ⟨more, by rw [hx, hy.1]⟩
  · rw [Part.demand_of_wait hwait hlen] at hlight' hqueue hdemands h
    obtain ⟨q, hwork, hl⟩ := hlight' hquiet.reports
    obtain ⟨x, more, hx⟩ := List.exists_cons_of_ne_nil hq
    rw [(settled hwork hl h.sequencer fun y rest hy => ?_).2, hdemands]
    · exact (List.append_assoc _ _ _)
    · rw [hqueue] at hy
      change s.pages.queue ++ queue = y :: rest at hy
      simp only [hx, List.cons_append, List.cons.injEq] at hy
      exact ⟨more, by rw [hx, hy.1]⟩
  · rw [Part.demand_of_room hd hroom, Part.admission_enters hpages hsites] at hlight' hqueue h
    obtain ⟨q, hwork, hl⟩ := hlight' hquiet.reports
    have hsites' : q.sites = p.sites := hl.sites
    have hrecords : q.sites.records = s.sites.records := by
      rw [hsites']
      exact h.records
    have hqueue' : q.pages.queue = b :: queue := by
      refine (congrArg PageQueue.queue hl.pages).trans (hqueue.trans ?_)
      show (s.pages.queue ++ [b]) ++ queue = _
      rw [hq]
      rfl
    have hrem : b.remaining = { site := k, condition := .toServe } :: rest.map fun k => { site := k, condition := .toServe } := by
      rw [Part.batchFor_remaining, hk]
      rfl
    have hin : q.inhibited k = false := by
      rw [← Part.not_inhibited_of_nextSites (s := s) (d := d) (hk ▸ List.mem_cons_self), Part.inhibited, Part.inhibited, hl.supply,
        hrecords]
      exact congrArg (fun x : Supply => x.state == .reserve && (s.sites.records.get k).stationPowered) hsupply
    have hturn := Part.work_turn (congrArg PageQueue.reports hl.pages) (by rw [hsites']; exact h.sequencer.trans hidle) hqueue' hrem
      rfl hin (by unfold Part.turnCost at hcost ⊢; rw [hrecords]; exact hcost) (by rw [hrecords]; exact hcredit)
    have hbegun := q.clearCheck_turnBegun (s := s) hqueue' (k := k) hrecords (by rw [hl.pins]; exact congrArg Pins.channelClear hpins)
    unfold Part.finish
    rw [hwork, hturn]
    exact ⟨hbegun.1, queue, hbegun.2⟩

/-! ### A callout through the work -/

/-- A callout after the work of an event: what a WorkStep leaves, its PAGED marks and its alert status. -/
theorem Part.finish_kept (hc : p.callout? i = some c) (hn : c.state ≠ .closing) :
    ∃ d, p.finish.callout? i = some d ∧ c.WorkStep d ∧ c.WorkKept d := by
  obtain ⟨d, hd, hstep⟩ := Part.finish_callout?_of hc hn
  obtain ⟨e, he, hkept⟩ := Part.work_keeps (I := PagedGrows p) (fun _ _ h hp => hp.trans (Part.workStep_paged h)) (.refl p) i d hd
  obtain rfl := Option.some.inj (hc.symm.trans he)
  exact ⟨d, hd, hstep, hkept⟩

end Sys2Proof.Machine

/-! Work that ends no ALERT and no STAND_DOWN: it writes no more of the callouts than PAGED marks and TX_DEGRADED
(R15, R136, R137). -/

namespace Sys2Proof.Machine
open Sys2Proof

variable {p q r s t : Part} {i : SlotId} {c : Callout} {d : Demand} {x : Report}

/-- The end of a batch of this kind sets nothing off. -/
def BatchKind.Mute (k : BatchKind) : Prop := k ≠ .alert ∧ k ≠ .standDown

theorem Report.light_ended {o : Owner} {k : BatchKind} (h : k.Mute) (form : EndForm) (b : Bool) :
    (Report.ended o k form b).light := .inr h

/-! ### What such work leaves of the blocks -/

/-- A callout less its PAGED marks and TX_DEGRADED. -/
def Callout.calm (c : Callout) : Callout :=
  { c with
    paged := 0#16
    flags := { c.flags with txDegraded := false } }

/-- Of callouts, roster and resolver, only PAGED marks and TX_DEGRADED have changed. -/
structure Calm (p q : Part) : Prop where
  resolver : q.resolver = p.resolver
  roster   : q.roster = p.roster
  callouts : ∀ i, (q.callout? i).map Callout.calm = (p.callout? i).map Callout.calm

namespace Calm

theorem refl (p : Part) : Calm p p := ⟨rfl, rfl, fun _ => rfl⟩

theorem trans (h : Calm p q) (k : Calm q r) : Calm p r :=
  ⟨k.resolver.trans h.resolver, k.roster.trans h.roster, fun i => (k.callouts i).trans (h.callouts i)⟩

theorem of_pages (h : OnlyPages p q) : Calm p q := ⟨h.resolver, h.roster, fun i => by rw [h.callout?]⟩

theorem modify (i : SlotId) {f : Callout → Callout} (hf : ∀ c, (f c).calm = c.calm) (p : Part) : Calm p (p.modify i f) where
  resolver := by rw [Part.modify_eq]
  roster := Part.roster_modify ..
  callouts := fun j => by
    rw [Part.callout?_modify]
    split
    · rw [Option.map_map]
      exact congrArg (fun g => (p.callout? j).map g) (funext hf)
    · rfl

theorem degradeIf (b : Bool) (i : SlotId) (p : Part) : Calm p (if b = true then p.degrade i else p) := by
  split
  · exact (modify (f := Callout.withFlags fun f => { f with txDegraded := true }) i (fun _ => rfl) p).trans
      ⟨rfl, rfl, fun _ => rfl⟩
  · exact .refl p

theorem takeReport (hx : x.light) (p : Part) : Calm p (p.takeReport x) := by
  cases x with
  | pass o outcome groups =>
    cases hi : p.findOwner o with
    | none =>
      rw [(Part.takeReport_unowned hi outcome groups .alert .complete true).1]
      exact .refl p
    | some i =>
      rw [Part.takeReport_pass hi]
      split
      · exact modify (f := Callout.markPaged groups) i (fun _ => rfl) p
      · exact .refl p
  | ended o kind form failed =>
    cases hi : p.findOwner o with
    | none =>
      rw [(Part.takeReport_unowned hi .done 0#16 kind form failed).2]
      exact .refl p
    | some i =>
      rw [Part.takeReport_ended hi]
      split
      · exact degradeIf failed i p
      · next hform =>
        rw [Part.batchEnded_light i (hx.resolve_left hform)]
        exact degradeIf failed i p

/-- What a callout keeps. -/
theorem callout? (h : Calm p q) (hc : p.callout? i = some c) : ∃ d, q.callout? i = some d ∧ d.calm = c.calm := by
  have := h.callouts i
  rw [hc] at this
  exact Option.map_eq_some_iff.mp this

end Calm

/-! ### A page queue of such kinds -/

/-- Every report is light, and every batch and demand of a kind whose end sets nothing off. -/
structure Part.AllMute (p : Part) : Prop where
  reports : ∀ x ∈ p.pages.reports, x.light
  queue   : ∀ b ∈ p.pages.queue, b.kind.Mute
  demands : ∀ d ∈ p.pages.demands, d.kind.Mute

namespace Part.AllMute

theorem report (h : p.AllMute) (hx : x.light) : (p.report x).AllMute where
  reports := fun y hy => (List.mem_append.mp hy).elim (h.reports y) fun hy => List.mem_singleton.mp hy ▸ hx
  queue := h.queue
  demands := h.demands

theorem admission (h : p.AllMute) (hd : d.kind.Mute) : (p.admission d).AllMute := by
  have hflip : ({ p with sites := { p.sites with direction := p.sites.direction.flip } } : Part).AllMute :=
    ⟨h.reports, h.queue, h.demands⟩
  rw [Part.admission_eq]
  split
  · exact hflip.report (Report.light_ended hd _ _)
  · split
    · exact hflip.report (Report.light_ended hd _ _)
    · exact ⟨h.reports, fun b hb => (List.mem_append.mp hb).elim (h.queue b) fun hb => List.mem_singleton.mp hb ▸ hd, h.demands⟩

theorem setDemands (h : p.AllMute) {l : List Demand} (hl : ∀ d ∈ l, d.kind.Mute) : (p.setDemands l).AllMute :=
  ⟨h.reports, h.queue, hl⟩

theorem admitFrom {l : List Demand} (hl : ∀ d ∈ l, d.kind.Mute) (h : p.AllMute) : (Part.admitFrom l p).AllMute := by
  induction l generalizing p with
  | nil => exact h.setDemands hl
  | cons d rest ih =>
    have hrest : ∀ d ∈ rest, d.kind.Mute := fun e he => hl e (List.mem_cons_of_mem _ he)
    unfold Part.admitFrom
    split
    · exact ih hrest (h.admission (hl d List.mem_cons_self))
    · exact h.setDemands hl

theorem withQueue (h : p.AllMute) {l : List Batch} (hl : ∀ b ∈ l, b.kind.Mute) : (p.withQueue l).AllMute :=
  ⟨h.reports, hl, h.demands⟩

theorem demand (h : p.AllMute) (hd : d.kind.Mute) : (p.demand d).AllMute := by
  unfold Part.demand
  split
  · exact h.admission hd
  · split
    · exact h.setDemands fun e he => (List.mem_append.mp he).elim (h.demands e) fun he => List.mem_singleton.mp he ▸ hd
    · exact h.report (Report.light_ended hd _ _)

theorem settle (h : p.AllMute) (k : SiteId) (o : PassOutcome) : (p.settle k o).AllMute := by
  cases hq : p.pages.queue with
  | nil =>
    unfold Part.settle Part.current?
    rw [hq]
    exact h
  | cons b rest =>
    have hb : b.kind.Mute := h.queue b (by rw [hq]; exact List.mem_cons_self)
    have hrest : ∀ b ∈ rest, b.kind.Mute := fun y hy => h.queue y (by rw [hq]; exact List.mem_cons_of_mem _ hy)
    rw [Part.settle_cons hq]
    refine ⟨fun x hx => ?_, fun y hy => ?_, h.demands⟩
    · rcases List.mem_append.mp hx with hx | hx
      · exact h.reports x hx
      · rcases List.mem_cons.mp hx with rfl | hx
        · exact trivial
        · split at hx
          · rw [List.mem_singleton.mp hx]
            exact Report.light_ended hb _ _
          · exact absurd hx List.not_mem_nil
    · rcases List.mem_cons.mp hy with rfl | hy
      · exact hb
      · exact hrest y hy

theorem onCurrent (h : p.AllMute) {f : Batch → Batch} (hf : ∀ b, (f b).kind = b.kind) : (p.onCurrent f).AllMute := by
  cases hq : p.pages.queue with
  | nil =>
    have hsame : p.onCurrent f = p := by
      unfold Part.onCurrent Part.onPages
      simp only [hq]
    rw [hsame]
    exact h
  | cons b rest =>
    rw [Part.onCurrent_withQueue hq]
    refine h.withQueue fun y hy => ?_
    rcases List.mem_cons.mp hy with rfl | hy
    · rw [hf]
      exact h.queue b (by rw [hq]; exact List.mem_cons_self)
    · exact h.queue y (by rw [hq]; exact List.mem_cons_of_mem _ hy)

theorem clearCheck (h : p.AllMute) (k : SiteId) : (p.clearCheck k).AllMute := by
  have hsite (x : Sequencer) {q : Part} (hq : q.AllMute) : (q.setSequencer x).AllMute := ⟨hq.reports, hq.queue, hq.demands⟩
  unfold Part.clearCheck
  split
  · unfold Part.keySite
    split
    · exact h
    · refine hsite _ (onCurrent ?_ fun _ => rfl)
      exact ⟨h.reports, h.queue, h.demands⟩
  · exact hsite _ h

theorem turn (h : p.AllMute) : p.turn.AllMute := by
  unfold Part.turn
  split
  · exact h
  · split
    · exact h
    · split
      · exact h.settle _ _
      · exact h.settle _ _
      · exact h.onCurrent fun _ => rfl
      · exact h.clearCheck _

theorem leaveQueue (h : p.AllMute) : p.leaveQueue.AllMute :=
  admitFrom (p := p.onPages fun q => { q with queue := q.queue.tail }) h.demands
    ⟨h.reports, fun b hb => h.queue b (List.mem_of_mem_tail hb), h.demands⟩

end Part.AllMute

/-! ### Such work as it goes on -/

/-- What work there is ends no ALERT and no STAND_DOWN: its reports are light, and either none comes from the queue, or the page
queue holds such kinds alone. -/
def Part.Muted (p : Part) : Prop :=
  (∀ x ∈ p.pages.reports, x.light) ∧ (p.withoutReports.Quiet ∨ p.AllMute)

namespace Part.Muted

theorem of_quiet (h : p.Quiet) : p.Muted := by
  have hr := h.reports
  refine ⟨fun x hx => by rw [hr] at hx; exact absurd hx List.not_mem_nil, .inl ?_⟩
  have hsame : p.withoutReports = p := by
    unfold Part.withoutReports
    rw [← hr]
  rw [hsame]
  exact h

theorem congr (h : p.Muted) (hp : SamePages p q) : q.Muted := by
  have hq : SamePages p.withoutReports q.withoutReports := by
    refine ⟨?_, hp.2⟩
    unfold Part.withoutReports
    rw [hp.1]
  refine ⟨by rw [hp.1]; exact h.1, h.2.imp hq.workStep.mpr fun k => ?_⟩
  exact ⟨by rw [hp.1]; exact k.reports, by rw [hp.1]; exact k.queue, by rw [hp.1]; exact k.demands⟩

theorem workStep (hp : p.Muted) (h : p.workStep = some q) : q.Muted ∧ Calm p q := by
  cases hr : p.pages.reports with
  | cons x rest =>
    rw [Part.workStep_reports hr] at h
    cases h
    have hx : x.light := hp.1 x (by rw [hr]; exact List.mem_cons_self)
    have hlight := Part.takeReport_light hx { p with pages := { p.pages with reports := rest } }
    refine ⟨congr (p := { p with pages := { p.pages with reports := rest } }) ⟨fun y hy => ?_, hp.2.imp id fun k => ?_⟩
      hlight.samePages, Calm.trans (q := { p with pages := { p.pages with reports := rest } }) ⟨rfl, rfl, fun _ => rfl⟩
        (.takeReport hx _)⟩
    · exact hp.1 y (by rw [hr]; exact List.mem_cons_of_mem _ hy)
    · exact ⟨fun y hy => k.reports y (by rw [hr]; exact List.mem_cons_of_mem _ hy), k.queue, k.demands⟩
  | nil =>
    have hmute : p.AllMute := hp.2.resolve_left fun hquiet => by
      have hsame : p.withoutReports = p := by
        unfold Part.withoutReports
        rw [← hr]
      rw [hsame] at hquiet
      exact absurd (h.symm.trans hquiet) (by nofun)
    unfold Part.workStep at h
    rw [hr] at h
    dsimp only at h
    split at h
    · split at h
      · cases h
      · split at h
        · cases h
          exact ⟨⟨hmute.leaveQueue.reports, .inr hmute.leaveQueue⟩, .of_pages p.leaveQueue_onlyPages⟩
        · split at h
          · cases h
          · cases h
            exact ⟨⟨hmute.turn.reports, .inr hmute.turn⟩, .of_pages p.turn_onlyPages⟩
    · cases h

theorem finish (hp : p.Muted) : Calm p p.finish := by
  have hwork : p.work.Muted ∧ Calm p p.work :=
    Part.work_keeps (I := fun q => q.Muted ∧ Calm p q) (fun _ _ h hq => ⟨(hq.1.workStep h).1, hq.2.trans (hq.1.workStep h).2⟩)
      ⟨hp, .refl p⟩
  exact hwork.2.trans ⟨rfl, rfl, fun _ => rfl⟩

/-- Another demand of such a kind. -/
theorem demand (hp : p.Muted) (hd : d.kind.Mute) : (p.demand d).Muted := by
  have hreports : ∀ x ∈ (p.demand d).pages.reports, x.light := by
    obtain ⟨l, hl, hlight⟩ := (Trails.demand hd p).reports
    intro x hx
    rw [hl] at hx
    exact (List.mem_append.mp hx).elim (hp.1 x) (hlight x)
  refine ⟨hreports, hp.2.elim (fun hquiet => ?_) fun h => .inr (h.demand hd)⟩
  have stays (l : List Batch) (hq : (p.demand d).pages.queue = p.pages.queue ++ l) (hne : p.pages.queue ≠ [] ∨ l = []) :
      (p.demand d).withoutReports.Quiet := by
    refine hquiet.of_head rfl (Trails.demand hd p).sequencer fun b rest hb => ?_
    have hb' : p.pages.queue ++ l = b :: rest := hq.symm.trans hb
    rcases hne with hne | rfl
    · obtain ⟨y, more, hy⟩ := List.exists_cons_of_ne_nil hne
      rw [hy, List.cons_append, List.cons.injEq] at hb'
      exact ⟨more, by rw [← hb'.1]; exact hy⟩
    · exact ⟨rest, by rw [← hb', List.append_nil]; rfl⟩
  obtain ⟨l, hl⟩ := (Trails.demand hd p).queue
  by_cases hnil : p.pages.queue ≠ [] ∨ l = []
  · exact .inl (stays l hl hnil)
  · have hempty : p.pages.queue = [] := not_not.mp fun h => hnil (.inl h)
    by_cases hroom : p.pages.demands = [] ∧ p.pages.room d = true
    · have hmute : p.AllMute := ⟨hp.1, by rw [hempty]; simp, by rw [hroom.1]; simp⟩
      exact .inr (hmute.demand hd)
    · refine absurd (.inr ?_) hnil
      unfold Part.demand at hl
      rw [if_neg (by simpa using hroom)] at hl
      split at hl <;> exact List.append_cancel_left ((List.append_nil _).trans hl).symm

theorem demandReleases (hp : p.Muted) (o : Owner) (ms : List MemberId) : (p.demandReleases o ms).Muted := by
  have one {q : Part} (hq : q.Muted) (l : List MemberId) : (if l = [] then q else q.demandMembers .release o l).Muted := by
    split
    · exact hq
    · exact hq.demand (d := { kind := .release, owner := o, content := .members l, restrict := .all }) ⟨nofun, nofun⟩
  exact one (one hp _) _

theorem enterCrewed (hp : p.Muted) (i : SlotId) : (p.enterCrewed i).Muted := by
  have h : ((p.enter i .crewed).modify i Callout.stopWindow).Muted :=
    hp.congr ((p.enter_pages i .crewed).trans (Part.modify_pages i _ _))
  unfold Part.enterCrewed
  dsimp only
  split
  · exact h
  · split
    · exact h
    · exact ((h.congr (Part.releaseMembers_pages i _ _)).demandReleases _ _).congr (Part.recompute_pages i _)

theorem takeOutcome (hp : p.Muted) (i : SlotId) : (p.takeOutcome i).Muted := by
  cases hc : p.callout? i with
  | none =>
    unfold Part.takeOutcome
    rw [hc]
    exact hp
  | some c =>
    by_cases he : c.Enters
    · rw [Part.takeOutcome_of_enters hc he]
      exact hp.enterCrewed i
    · exact hp.congr (Part.takeOutcome_samePages hc he)

theorem reassess (hp : p.Muted) (i : SlotId) : (p.reassess i).Muted := by
  unfold Part.reassess
  split
  · exact hp
  · split
    · exact hp
    · exact (hp.congr (p.recompute_pages i)).takeOutcome i

end Part.Muted

end Sys2Proof.Machine


/-! A callout reassessed when its list has grown, and the groups that join it: ADD and a merged ALERT (R10 to R12, R17). -/

namespace Sys2Proof.Machine
open Sys2Proof

variable {p q r s t : Part} {i : SlotId} {c d e : Callout} {l : List (Appliance × RoleCounts)}

/-! ### A reassessment when the list has grown (R97) -/

theorem Part.modify_resolver (i : SlotId) (f : Callout → Callout) (p : Part) : (p.modify i f).resolver = p.resolver := by
  rw [Part.modify_eq]

theorem Part.modifyMember_resolver (m : MemberId) (f : Member → Member) (p : Part) :
    (p.modifyMember m f).resolver = p.resolver := by
  unfold Part.modifyMember
  split <;> rfl

theorem Part.releaseMembers_resolver (i : SlotId) (ms : List MemberId) (p : Part) :
    (p.releaseMembers i ms).resolver = p.resolver := by
  have hfold (n : CalloutNo) (l : List MemberId) (q : Part) :
      (l.foldl (fun p m => p.disengage m n) q).resolver = q.resolver := by
    induction l generalizing q with
    | nil => rfl
    | cons m rest ih => exact (ih _).trans (q.modifyMember_resolver m _)
  unfold Part.releaseMembers
  split
  · rfl
  · dsimp only
    unfold Part.raiseIf
    split
    · exact (hfold _ _ _).trans (Part.modify_resolver _ _ _)
    · exact (hfold _ _ _).trans (Part.modify_resolver _ _ _)

theorem Part.recompute_resolver (i : SlotId) (p : Part) : (p.recompute i).resolver = p.resolver := by
  unfold Part.recompute
  split
  · rfl
  · dsimp only
    unfold Part.raiseIf
    split
    · exact Part.modify_resolver _ _ _
    · exact Part.modify_resolver _ _ _

theorem Part.enterCrewed_resolver (i : SlotId) (p : Part) : (p.enterCrewed i).resolver = p.resolver := by
  have h : ((p.enter i .crewed).modify i Callout.stopWindow).resolver = p.resolver :=
    (Part.modify_resolver _ _ _).trans (p.modify_resolver i _)
  unfold Part.enterCrewed
  dsimp only
  split
  · exact h
  · split
    · exact h
    · rw [Part.recompute_resolver, (Part.demandReleases_onlyPages _ _ _).resolver, Part.releaseMembers_resolver, h]

theorem Part.takeOutcome_resolver (i : SlotId) (p : Part) : (p.takeOutcome i).resolver = p.resolver := by
  have hcounting : (p.enterCounting i).resolver = p.resolver := (Part.modify_resolver _ _ _).trans (p.modify_resolver i _)
  unfold Part.takeOutcome
  split
  · rfl
  · split
    · split
      · exact p.enterCrewed_resolver i
      · rfl
    · split
      · exact p.enterCrewed_resolver i
      · rfl
    · split
      · rfl
      · exact hcounting
    all_goals rfl

/-- A reassessment commits nothing and frees nothing. -/
theorem Part.reassess_resolver (i : SlotId) (p : Part) : (p.reassess i).resolver = p.resolver := by
  unfold Part.reassess
  split
  · rfl
  · split
    · rfl
    · rw [Part.takeOutcome_resolver, Part.recompute_resolver]

theorem Calm.reassessed {a : Assessment} (h : e.calm = d.calm) (hr : Reassessed a c d) : Reassessed a c e := by
  unfold Reassessed at hr ⊢
  have hstate : e.state = d.state := (congrArg Callout.state h : e.calm.state = d.calm.state)
  have hresponses : e.responses = d.responses := (congrArg Callout.responses h : e.calm.responses = d.calm.responses)
  have hwindow : e.responseWindow = d.responseWindow :=
    (congrArg Callout.responseWindow h : e.calm.responseWindow = d.calm.responseWindow)
  have hassessment : e.assessment = d.assessment := (congrArg Callout.assessment h : e.calm.assessment = d.calm.assessment)
  have hlevel : e.level = d.level := (congrArg Callout.level h : e.calm.level = d.calm.level)
  have happliances : e.appliances = d.appliances := (congrArg Callout.appliances h : e.calm.appliances = d.calm.appliances)
  rw [hstate, hresponses, hwindow, hassessment, hlevel, happliances]
  exact hr

/-- A callout reassessed, after work that ends no ALERT and no STAND_DOWN. -/
theorem Part.Muted.finish_reassessed (hp : p.Muted) (hc : p.callout? i = some c) (hn : c.state ≠ .closing) :
    ∃ d, (p.reassess i).finish.callout? i = some d ∧ Reassessed (p.assessment c) c d := by
  obtain ⟨a, ha⟩ := Part.callout?_reassess hc hn
  obtain ⟨d, hd, hcalm⟩ := (hp.reassess i).finish.callout? ha
  exact ⟨d, hd, Calm.reassessed hcalm (Callout.outcomeTaken_reassessed (p.assessment c) a c)⟩

/-- What a reassessment of a grown list, and the work that follows, leave of the callout. -/
structure Grown (q : Part) (before e d : Callout) (t : Part) : Prop where
  core  : d.core = e.core
  state : e.state = .inOpen → d.state = .inOpen
  live  : e.state = .alerting ∨ e.state = .counting ∨ e.state = .crewed →
    d.state = .alerting ∨ d.state = .counting ∨ d.state = .crewed
  quiet : q.Muted → if e.appliances = before.appliances
    then d.state = e.state ∧ d.responses = e.responses ∧ d.responseWindow = e.responseWindow ∧ d.assessment = e.assessment
    else Reassessed (q.assessment e) e d ∧ ((q.assessment e).outcome ≠ e.assessment.outcome → t.Noticed 2)
  committed : q.Muted → ∀ ap, (t.appliance ap).committed = (q.appliance ap).committed

theorem Callout.outcomeTaken_core (a : Assessment) (c : Callout) : (c.outcomeTaken a).core = c.core := by
  rw [Callout.outcomeTaken_frame]
  rfl

theorem Callout.outcomeTaken_open {a : Assessment} (h : c.state = .inOpen) : c.outcomeTaken a = c := by
  unfold Callout.outcomeTaken
  rw [if_neg (by rintro ⟨hs | hs, -⟩ <;> simp [h] at hs), if_neg (by rintro ⟨hs, -⟩; simp [h] at hs)]

theorem Callout.outcomeTaken_live {a : Assessment} (h : c.state = .alerting ∨ c.state = .counting ∨ c.state = .crewed) :
    (c.outcomeTaken a).state = .alerting ∨ (c.outcomeTaken a).state = .counting ∨ (c.outcomeTaken a).state = .crewed := by
  unfold Callout.outcomeTaken
  split
  · exact .inr (.inr rfl)
  · split
    · exact .inr (.inl rfl)
    · exact h

theorem Callout.WorkStep.live {c d : Callout} (h : c.WorkStep d)
    (hc : c.state = .alerting ∨ c.state = .counting ∨ c.state = .crewed) :
    d.state = .alerting ∨ d.state = .counting ∨ d.state = .crewed := by
  rcases h.2 with hs | ⟨-, hs⟩
  · rw [hs.1]
    exact hc
  · exact .inr hs

theorem Part.reassessIfGrown_finish (hq : q.callout? i = some e) (hn : e.state ≠ .closing) (before : Callout) :
    ∃ d, (q.reassessIfGrown i before).finish.callout? i = some d ∧ Grown q before e d (q.reassessIfGrown i before).finish := by
  by_cases hsame : e.appliances = before.appliances
  · have heq : q.reassessIfGrown i before = q := by
      unfold Part.reassessIfGrown
      simp only [hq]
      exact if_pos hsame
    rw [heq]
    obtain ⟨d, hd, hstep⟩ := Part.finish_callout?_of hq hn
    refine ⟨d, hd, hstep.1, fun ho => (hstep.still (by rw [ho]; nofun)).1.trans ho, hstep.live, fun hm => ?_, fun hm ap => ?_⟩
    · rw [if_pos hsame]
      obtain ⟨d', hd', hcalm⟩ := hm.finish.callout? hq
      obtain rfl := Option.some.inj (hd.symm.trans hd')
      exact ⟨(congrArg Callout.state hcalm : d.calm.state = e.calm.state),
        (congrArg Callout.responses hcalm : d.calm.responses = e.calm.responses),
        (congrArg Callout.responseWindow hcalm : d.calm.responseWindow = e.calm.responseWindow),
        (congrArg Callout.assessment hcalm : d.calm.assessment = e.calm.assessment)⟩
    · rw [Part.appliance, hm.finish.resolver]
      rfl
  · have heq : q.reassessIfGrown i before = q.reassess i := by
      unfold Part.reassessIfGrown
      simp only [hq]
      exact if_neg hsame
    rw [heq]
    obtain ⟨a, ha⟩ := Part.callout?_reassess hq hn
    have hcore : (({ e with assessment := q.assessment e } : Callout).outcomeTaken a).core = e.core :=
      (Callout.outcomeTaken_core a _).trans rfl
    have hn' : (({ e with assessment := q.assessment e } : Callout).outcomeTaken a).state ≠ .closing := by
      unfold Callout.outcomeTaken
      split
      · exact nofun
      · split
        · exact nofun
        · exact hn
    obtain ⟨d, hd, hstep⟩ := Part.finish_callout?_of ha hn'
    refine ⟨d, hd, hstep.1.trans hcore, fun ho => ?_, fun hl => hstep.live (Callout.outcomeTaken_live hl), fun hm => ?_,
      fun hm ap => ?_⟩
    · rw [Callout.outcomeTaken_open (c := { e with assessment := q.assessment e }) ho] at hstep
      exact (hstep.still (fun h => by rw [ho] at h; cases h)).1.trans ho
    · rw [if_neg hsame]
      obtain ⟨d', hd', hre⟩ := hm.finish_reassessed hq hn
      obtain rfl := Option.some.inj (hd.symm.trans hd')
      exact ⟨hre, fun hout => (Part.reassess_crew hq hn hout).finish⟩
    · rw [Part.appliance, (hm.reassess i).finish.resolver, Part.reassess_resolver]
      rfl

/-! ### A part that stands as another does -/

/-- The part differs from `s` in its lines, in a restart on its way and in its lamps alone. -/
def Stands (s p : Part) : Prop :=
  p = { s with
    lines := p.lines
    restart := p.restart
    station := { s.station with lamps := p.station.lamps } }

namespace Stands

theorem working (s : Part) (l : Line) (code : Byte) (ops : List Operand) : Stands s (s.working l code ops) := by
  have h := s.working_frame l code ops
  generalize s.working l code ops = p at h
  unfold Stands
  rw [h]

theorem refl (s : Part) : Stands s s := rfl

variable (h : Stands s p)
include h

theorem resolver : p.resolver = s.resolver := by rw [h]
theorem roster : p.roster = s.roster := by rw [h]
theorem table : p.table = s.table := by rw [h]
theorem settings : p.settings = s.settings := by rw [h]
theorem supply : p.supply = s.supply := by rw [h]
theorem pins : p.pins = s.pins := by rw [h]
theorem samePages : SamePages s p := ⟨by rw [h], by rw [h]⟩
theorem run : p.station.run = s.station.run := by rw [h]
theorem patterns : p.station.patterns = s.station.patterns := by rw [h]

theorem callout? (i : SlotId) : p.callout? i = s.callout? i := Part.callout?_congr h.table i

theorem attempted (c : Callout) (pl : Option Plan) : p.attempted c pl = s.attempted c pl := by
  rw [h]
  cases pl <;> rfl

theorem appliance (ap : Appliance) : p.appliance ap = s.appliance ap := by rw [Part.appliance, h.resolver, ← Part.appliance]

theorem assessment (c : Callout) : p.assessment c = s.assessment c :=
  Part.assessment_congr (fun ap => by rw [h.appliance]) (fun m => by rw [Part.member?, h.roster]; rfl) c

theorem quiet (hq : s.Quiet) : p.Quiet := h.samePages.workStep.mpr hq

theorem paging : Paging s p :=
  ⟨h.samePages, h.supply, h.pins, Part.formPages_congr (by rw [h.roster]) (fun m => by rw [Part.member?, h.roster]; rfl)
    fun j => by rw [h.callout?]⟩

end Stands

theorem Part.judgedYes_congr (h : q.roster = p.roster) (gs : GroupSet) : q.judgedYes gs = p.judgedYes gs := by
  unfold Part.judgedYes Part.judge Part.groupMembers Part.inUse Part.member?
  rw [h]

/-- The plan's appliances change nothing of what pages are formed from. -/
theorem Paging.addPlan (hc : p.callout? i = some c) (pl : Option Plan) : Paging p (p.addPlan i c pl) := by
  obtain ⟨hcallout, -, hothers, table, resolver, hframe⟩ := Part.addPlan_spec hc pl
  refine ⟨⟨by rw [hframe], by rw [hframe]⟩, by rw [hframe], by rw [hframe], Part.formPages_congr (by rw [hframe])
    (fun m => by rw [hframe]; rfl) fun j => ?_⟩
  by_cases hj : i = j
  · subst hj
    rw [hcallout, hc]
    rfl
  · rw [hothers j hj]

/-! ### What an ADD leaves -/

/-- The later callout is the earlier with groups joined and its accumulation timer anew. -/
def Callout.Joins (c e : Callout) : Prop :=
  e = { c with
    primary := e.primary
    paged := e.paged
    secondary := e.secondary
    accumulation := e.accumulation
    flags := { c.flags with groupsOmitted := e.flags.groupsOmitted } }

/-- The appliances an order appended to callout `c`, and the reassessment they bring (R12, R97). -/
def Part.GrownBy (s : Part) (c : Callout) (pl : Option Plan) (c' : Callout) (t : Part) : Prop :=
  c'.appliances = c.appliances ++ (s.appendedBy c pl).map newEntry
    ∧ c'.flags.substituted = (c.flags.substituted || (s.attempted c pl).substituted)
    ∧ c'.flags.applianceOmitted = (c.flags.applianceOmitted || (s.attempted c pl).omitted
        || decide (3 - c.appliances.length < (s.attempted c pl).committed.length))
    ∧ (s.Quiet → s.pages.demands = [] → ∀ ap, (t.appliance ap).committed =
        if (s.appendedBy c pl).any (fun x => x.1 == ap) then some c.number else (s.appliance ap).committed)
    ∧ (let d : Callout := { c with appliances := c'.appliances }
      let a := s.assessment d
      s.Quiet → if s.appendedBy c pl = []
        then c'.state = c.state ∧ c'.responses = c.responses ∧ c'.responseWindow = c.responseWindow
          ∧ c'.assessment = c.assessment
        else Reassessed a d c' ∧ (a.outcome ≠ c.assessment.outcome → t.Noticed 2))

theorem Grown.grownBy {pl : Option Plan} (h : Grown q c e d t) (hj : (s.withPlan pl c).Joins e)
    (hcommit : ∀ ap, (q.appliance ap).committed
      = if (s.appendedBy c pl).any (fun x => x.1 == ap) then some c.number else (s.appliance ap).committed)
    (hmuted : s.Quiet → q.Muted) (hassess : ∀ c, q.assessment c = s.assessment c) : s.GrownBy c pl d t := by
  have happliances : d.appliances = c.appliances ++ (s.appendedBy c pl).map newEntry := by
    have hcore : d.appliances = e.appliances := (congrArg Callout.appliances h.core : d.core.appliances = e.core.appliances)
    rw [hcore, hj]
    rfl
  have hflags : ({ d.flags with txDegraded := false } : CalloutFlags) = { e.flags with txDegraded := false } :=
    (congrArg Callout.flags h.core : d.core.flags = e.core.flags)
  have hgrown : e.appliances = c.appliances ↔ s.appendedBy c pl = [] := by
    rw [hj]
    show c.appliances ++ (s.appendedBy c pl).map newEntry = c.appliances ↔ _
    rw [List.append_right_eq_self, List.map_eq_nil_iff]
  have hassessed : q.assessment e = s.assessment { c with appliances := d.appliances } := by
    rw [hassess, happliances, hj]
    rfl
  refine ⟨happliances, ?_, ?_, fun hquiet _ ap => (h.committed (hmuted hquiet) ap).trans (hcommit ap), fun hquiet => ?_⟩
  · have hsub : d.flags.substituted = e.flags.substituted := (congrArg CalloutFlags.substituted hflags :)
    rw [hsub, hj]
    rfl
  · have homitted : d.flags.applianceOmitted = e.flags.applianceOmitted := (congrArg CalloutFlags.applianceOmitted hflags :)
    rw [homitted, hj]
    exact Bool.or_right_comm _ _ _
  · have hquiet := h.quiet (hmuted hquiet)
    split
    next hnil =>
      rw [if_pos (hgrown.mpr hnil)] at hquiet
      have hstays : e.state = c.state ∧ e.responses = c.responses ∧ e.responseWindow = c.responseWindow
          ∧ e.assessment = c.assessment := by
        rw [hj]
        exact ⟨rfl, rfl, rfl, rfl⟩
      exact ⟨hquiet.1.trans hstays.1, hquiet.2.1.trans hstays.2.1, hquiet.2.2.1.trans hstays.2.2.1,
        hquiet.2.2.2.trans hstays.2.2.2⟩
    next hsome =>
      rw [if_neg (fun heq => hsome (hgrown.mp heq)), hassessed] at hquiet
      have hbefore : e.assessment = c.assessment := by
        rw [hj]
        rfl
      refine ⟨?_, fun hout => hquiet.2 (by rw [hbefore]; exact hout)⟩
      have hre := hquiet.1
      rw [hj] at hre
      unfold Reassessed at hre ⊢
      obtain ⟨hstate, hresponses, hwindow, hassessment, hlevel, -⟩ := hre
      exact ⟨hstate, hresponses, hwindow, hassessment, hlevel, rfl⟩

/-- What an ADD, or a merged ALERT, leaves in OPEN (R10 to R12). -/
def Part.Gathered (s : Part) (i : SlotId) (c : Callout) (pl : Option Plan) (given : GroupSet) (c' : Callout) (t : Part) : Prop :=
  t.callout? i = some c'
  ∧ c'.state = .inOpen ∧ c'.accumulation = .start s.settings.window
  ∧ c'.primary = c.primary ||| (pl.map Plan.primary).getD 0#16 ||| given
  ∧ c'.secondary = c.secondary ||| ((pl.map Plan.secondary).getD 0#16 &&& ~~~c'.primary)
  ∧ s.GrownBy c pl c' t ∧ c'.token = c.token ∧ c'.number = c.number

/-- The callout as an ADD in OPEN leaves it, its reassessment apart. -/
def Part.gathering (s : Part) (pl : Option Plan) (given : GroupSet) (c : Callout) : Callout :=
  { ((s.withPlan pl c).addPrimary ((pl.map Plan.primary).getD 0#16 ||| given)).addSecondary ((pl.map Plan.secondary).getD 0#16) with
    accumulation := .start s.settings.window }

theorem Part.joinPlan_spec (hc : p.callout? i = some c) (pl : Option Plan) (given : GroupSet) :
    ((p.joinPlan i c pl given).restartAccumulation i).callout? i = some (p.gathering pl given c)
    ∧ Paging p ((p.joinPlan i c pl given).restartAccumulation i)
    ∧ ((p.joinPlan i c pl given).restartAccumulation i).resolver = (p.addPlan i c pl).resolver := by
  have hrestart (q : Part) : Paging q (q.restartAccumulation i) := .modify i q fun _ _ => rfl
  have hprimary (gs : GroupSet) (q : Part) : Paging q (q.modify i (Callout.addPrimary gs)) :=
    .modify (f := Callout.addPrimary gs) i q fun _ _ => rfl
  have hsecondary (gs : GroupSet) (q : Part) : Paging q (q.modify i (Callout.addSecondary gs)) :=
    .modify (f := Callout.addSecondary gs) i q fun _ _ => rfl
  cases pl with
  | none =>
    refine ⟨?_, ?_, ?_⟩
    · rw [Part.restartAccumulation, Part.callout?_modify_self, Part.joinPlan, Part.callout?_modify_self, hc, Part.gathering,
        Part.withPlan_none, Part.modify_eq]
      unfold Callout.addPrimary Callout.addSecondary
      simp
    · exact (hprimary given p).trans (hrestart _)
    · rw [Part.restartAccumulation, Part.modify_resolver]
      exact p.modify_resolver i _
  | some pl =>
    obtain ⟨hcallout, -, -, table, resolver, hframe⟩ := Part.addPlan_spec hc (some pl)
    have hjoined : p.joinPlan i c (some pl) given = ((p.addPlan i c (some pl)).modify i
        (Callout.addPrimary (pl.primary ||| given))).modify i (Callout.addSecondary pl.secondary) := rfl
    have hsettings : (p.joinPlan i c (some pl) given).settings = p.settings := by
      rw [hjoined, Part.modify_eq, Part.modify_eq, hframe]
    refine ⟨?_, ?_, ?_⟩
    · rw [Part.restartAccumulation, Part.callout?_modify_self, hsettings, hjoined, Part.callout?_modify_self,
        Part.callout?_modify_self, hcallout]
      rfl
    · rw [hjoined]
      exact (((Paging.addPlan hc (some pl)).trans (hprimary _ _)).trans (hsecondary _ _)).trans (hrestart _)
    · rw [Part.restartAccumulation, Part.modify_resolver, hjoined, Part.modify_resolver, Part.modify_resolver]

/-- An ADD or a merged ALERT in OPEN. -/
theorem Part.addInOpen_gathers {pl : Option Plan} (hst : Stands s p) (hc : s.callout? i = some c) (hopen : c.state = .inOpen)
    (given : GroupSet) :
    ∃ d, s.Gathered i c pl given d (p.addInOpen i c pl given).finish := by
  have hcp : p.callout? i = some c := (hst.callout? i).trans hc
  obtain ⟨hq, hpaging, hresolver⟩ := Part.joinPlan_spec hcp pl given
  have hgathering : p.gathering pl given c = s.gathering pl given c := by
    unfold Part.gathering Part.withPlan Part.appendedBy
    rw [hst.attempted, hst.settings]
  rw [hgathering] at hq
  have hmoves : Moves (.unedited none False) p ((p.joinPlan i c pl given).restartAccumulation i) :=
    (p.joinPlan_moves _ i c pl given False.elim).trans (.modify fun _ _ => ⟨.of_same, rfl⟩)
  rw [Part.addInOpen_eq]
  generalize (p.joinPlan i c pl given).restartAccumulation i = q at hq hpaging hresolver hmoves
  have hstate : (s.gathering pl given c).state = .inOpen := hopen
  obtain ⟨d, hd, hgrown⟩ := Part.reassessIfGrown_finish hq (by rw [hstate]; nofun) c
  have hcore := hgrown.core
  have hprimary : d.primary = (s.gathering pl given c).primary := Callout.core_primary hcore
  have hsecondary : d.secondary = (s.gathering pl given c).secondary :=
    (congrArg Callout.secondary hcore : d.core.secondary = (s.gathering pl given c).core.secondary)
  have haccumulation : d.accumulation = (s.gathering pl given c).accumulation :=
    (congrArg Callout.accumulation hcore : d.core.accumulation = (s.gathering pl given c).core.accumulation)
  have howner := Callout.core_owner hcore
  refine ⟨d, hd, hgrown.state hstate, haccumulation, ?_, ?_, hgrown.grownBy rfl ?_ ?_ ?_, howner.2, howner.1⟩
  · rw [hprimary, BitVec.or_assoc]
    rfl
  · rw [hprimary, hsecondary]
    rfl
  · intro ap
    obtain ⟨-, hcommitted, -⟩ := Part.addPlan_spec hcp pl
    rw [Part.appliance, hresolver, ← Part.appliance, hcommitted, hst.appliance]
    unfold Part.appendedBy
    rw [hst.attempted]
  · exact fun hquiet => .of_quiet (hpaging.same.workStep.mpr (hst.quiet hquiet))
  · exact fun e => (hmoves.configuration id).assessment e |>.trans (hst.assessment e)

/-! ### A supplement (R17) -/

/-- The groups a supplement asks for: those named that are not yet primary. -/
def Callout.supplementAsked (pl : Option Plan) (given : GroupSet) (c : Callout) : GroupSet :=
  ((pl.map Plan.primary).getD 0#16 ||| given) &&& ~~~c.primary

/-- What a supplement leaves, by an ADD in ALERTING, COUNTING or CREWED. -/
def Part.Supplemented (s : Part) (i : SlotId) (c : Callout) (pl : Option Plan) (given : GroupSet) (c' : Callout) (t : Part) :
    Prop :=
  let asked := c.supplementAsked pl given
  let kept := s.judgedYes asked
  t.callout? i = some c'
  ∧ (c'.state = .alerting ∨ c'.state = .counting ∨ c'.state = .crewed)
  ∧ c'.primary = c.primary ||| kept
  ∧ c'.secondary = c.secondary ||| ((pl.map Plan.secondary).getD 0#16 &&& ~~~c'.primary)
  ∧ c'.flags.groupsOmitted = (c.flags.groupsOmitted || kept != asked)
  ∧ (s.Quiet → kept ≠ 0#16 → Handed
      { kind := .supplement, owner := c.owner, content := .groups (membersOf 16 kept), restrict := .all } s t)
  ∧ s.GrownBy c pl c' t

/-- The callout as a supplement leaves it, its reassessment apart. -/
def Part.supplementing (s : Part) (pl : Option Plan) (given : GroupSet) (c : Callout) : Callout :=
  (s.withPlan pl c).supplemented (s.judgedYes (c.supplementAsked pl given)) (c.supplementAsked pl given)
    ((pl.map Plan.secondary).getD 0#16)

/-- The part as a supplement leaves it before its demand. -/
def Part.joinedBy (p : Part) (i : SlotId) (c : Callout) (pl : Option Plan) (given : GroupSet) : Part :=
  (p.addPlan i c pl).modify i (Callout.supplemented (p.judgedYes (c.supplementAsked pl given)) (c.supplementAsked pl given)
    ((pl.map Plan.secondary).getD 0#16))

/-- The part as a supplement leaves it before the reassessment. -/
def Part.supplementing' (p : Part) (i : SlotId) (c : Callout) (pl : Option Plan) (given : GroupSet) : Part :=
  if p.judgedYes (c.supplementAsked pl given) = 0#16 then p.joinedBy i c pl given
  else (p.joinedBy i c pl given).demandGroups .supplement c.owner (p.judgedYes (c.supplementAsked pl given))

theorem Part.supplement_of (hc : p.callout? i = some c) (pl : Option Plan) (given : GroupSet) :
    p.supplement i c pl given = (p.supplementing' i c pl given).reassessIfGrown i c := by
  obtain ⟨-, -, -, table, resolver, hframe⟩ := Part.addPlan_spec hc pl
  have hjudged (gs : GroupSet) : (p.addPlan i c pl).judgedYes gs = p.judgedYes gs :=
    Part.judgedYes_congr (by rw [hframe]) gs
  rw [Part.supplement_eq]
  dsimp only
  rw [hjudged]
  rfl

theorem Paging.joinedBy (hc : p.callout? i = some c) (pl : Option Plan) (given : GroupSet) :
    Paging p (p.joinedBy i c pl given) :=
  (Paging.addPlan hc pl).trans (.modify (f := Callout.supplemented _ _ _) i _ fun _ _ => rfl)

theorem Part.supplementing'_configuration (p : Part) (i : SlotId) (c : Callout) (pl : Option Plan) (given : GroupSet) :
    SameConfiguration p (p.supplementing' i c pl given) := by
  have hadd : Moves (.unedited none False) p (p.addPlan i c pl) := by
    cases pl with
    | none => exact .refl
    | some pl => exact p.addPlanAppliances_moves _ i c False.elim
  have hjoin : Moves (.unedited none False) p (p.joinedBy i c pl given) :=
    hadd.trans (.modify fun d _ => ⟨.of_same (hg := ⟨id, id, fun h => by simp [Callout.supplemented, h], id, id, id⟩), rfl⟩)
  have hall : Moves (.unedited none False) p (p.supplementing' i c pl given) := by
    unfold Part.supplementing'
    split
    · exact hjoin
    · exact hjoin.trans (.demand _ _)
  exact hall.configuration id

theorem Part.callout?_joinedBy (hst : Stands s p) (hc : s.callout? i = some c) (pl : Option Plan) (given : GroupSet) :
    (p.joinedBy i c pl given).callout? i = some (s.supplementing pl given c) := by
  obtain ⟨hcallout, -⟩ := Part.addPlan_spec ((hst.callout? i).trans hc) pl
  rw [Part.joinedBy, Part.callout?_modify_self, hcallout, Part.judgedYes_congr hst.roster]
  unfold Part.supplementing Part.withPlan Part.appendedBy
  rw [hst.attempted]
  rfl

theorem Part.supplement_supplements {pl : Option Plan} (hst : Stands s p) (hc : s.callout? i = some c)
    (hlive : c.state = .alerting ∨ c.state = .counting ∨ c.state = .crewed) (given : GroupSet) :
    ∃ d, s.Supplemented i c pl given d (p.supplement i c pl given).finish := by
  have hcp : p.callout? i = some c := (hst.callout? i).trans hc
  have hjoined := Part.callout?_joinedBy hst hc pl given
  have hpaging : Paging s (p.joinedBy i c pl given) := hst.paging.trans (Paging.joinedBy hcp pl given)
  have hjudged := Part.judgedYes_congr hst.roster (c.supplementAsked pl given)
  have hq : (p.supplementing' i c pl given).callout? i = some (s.supplementing pl given c) := by
    unfold Part.supplementing'
    split
    · exact hjoined
    · rw [Part.demandGroups, Part.callout?_demand, hjoined]
  have hresolver : (p.supplementing' i c pl given).resolver = (p.addPlan i c pl).resolver := by
    unfold Part.supplementing'
    split
    · exact Part.modify_resolver _ _ _
    · exact ((Part.joinedBy p i c pl given).demandGroups_onlyPages _ _ _).resolver.trans (Part.modify_resolver _ _ _)
  have hstate : (s.supplementing pl given c).state = c.state := rfl
  obtain ⟨d, hd, hgrown⟩ := Part.reassessIfGrown_finish hq
    (by rw [hstate]; rcases hlive with h | h | h <;> rw [h] <;> nofun) c
  rw [← Part.supplement_of hcp] at hd hgrown
  have hcore := hgrown.core
  have hprimary : d.primary = (s.supplementing pl given c).primary := Callout.core_primary hcore
  obtain ⟨hsecondary, -, -, -, hflags⟩ := Callout.core_ladder hcore
  refine ⟨d, hd, hgrown.live (hstate ▸ hlive), hprimary, ?_, (congrArg CalloutFlags.groupsOmitted hflags :), fun hquiet hkept => ?_,
    hgrown.grownBy rfl ?_ ?_ ?_⟩
  · rw [hprimary]
    exact hsecondary
  · have hsup : p.supplementing' i c pl given = (p.joinedBy i c pl given).demandGroups .supplement c.owner
        (s.judgedYes (c.supplementAsked pl given)) := by
      unfold Part.supplementing'
      rw [hjudged, if_neg hkept]
    have htrails := Trails.of_paging (hpaging.demand { kind := .supplement, owner := c.owner, restrict := .all
                                                       content := .groups (membersOf 16 (s.judgedYes (c.supplementAsked pl given))) })
    rw [Part.supplement_of hcp, hsup]
    refine (htrails.trans ?_).handed hquiet
    unfold Part.reassessIfGrown
    split
    · exact .refl _
    · exact .ite (.refl _) (.reassess i _)
  · intro ap
    obtain ⟨-, hcommitted, -⟩ := Part.addPlan_spec hcp pl
    rw [Part.appliance, hresolver, ← Part.appliance, hcommitted, hst.appliance]
    unfold Part.appendedBy
    rw [hst.attempted]
  · intro hquiet
    have hm : (p.joinedBy i c pl given).Muted := .of_quiet (hpaging.same.workStep.mpr hquiet)
    unfold Part.supplementing'
    split
    · exact hm
    · exact hm.demand (d := { kind := .supplement, owner := c.owner, restrict := .all, content := .groups _ }) ⟨nofun, nofun⟩
  · exact fun e => ((p.supplementing'_configuration i c pl given).assessment e).trans (hst.assessment e)

/-! ### The orders -/

section
variable {l : Line} {results : List Operand}

theorem Part.GrownBy.answered {pl : Option Plan} (h : s.GrownBy c pl d q) (ht : OrderTaken l results s q t) :
    s.GrownBy c pl d t := by
  obtain ⟨happliances, hsub, homitted, hcommitted, hquiet⟩ := h
  refine ⟨happliances, hsub, homitted, fun hq hd ap => ?_, fun hq => ?_⟩
  · have hsame : t.appliance ap = q.appliance ap := by
      rw [ht.after]
      rfl
    rw [hsame]
    exact hcommitted hq hd ap
  · have hquiet := hquiet hq
    split at hquiet
    next hnil =>
      rw [if_pos hnil]
      exact hquiet
    next hsome =>
      rw [if_neg hsome]
      exact ⟨hquiet.1, fun hout k => by rw [ht.flags k]; exact hquiet.2 hout k⟩

theorem OrderTaken.callout? (ht : OrderTaken l results s q t) (i : SlotId) : t.callout? i = q.callout? i :=
  Part.callout?_congr (by rw [ht.after]) i

theorem Handed.answered {dm : Demand} (h : Handed dm s q) (ht : OrderTaken l results s q t) : Handed dm s t := by
  rw [ht.after]
  exact h

end

/-- What an ADD that names callout `c` is answered. -/
theorem addOrder_named {l : Line} {ops : List Operand} {plan : Option PlanId} {given : Option GroupSet}
    (hlookup : p.lookup c.number.toNat = some (i, c))
    (hsp : Spells [num c.number.toNat, optNum (plan.map fun n => n.val + 1), optionalSet given] ops) :
    addOrder l ops.length ops p
      = if plan = none ∧ given = none then badOperand else p.addTo i c plan (given.getD 0#16) := by
  have h0 : needNumber ops 0 = some (c.number.toNat : Int) :=
    (needNumber_of_number (hsp.at 0)).trans (congrArg some (toInt_ofNat_of_lt (by omega)))
  rw [addOrder_of_read hsp.length_le h0 ((optIndex_eq_some (by omega)).mpr (hsp.at 1)) (optSet_of_optional (hsp.at 2)), hlookup]

/-- What an ALERT leaves that repeats the reference of an OPEN callout, and is not at once. -/
theorem alertOrder_merges {l : Line} {ops : List Operand} {x : AlertArgs} (hlen : ops.length ≤ 6)
    (hx : alertArgs ops = some x) (hfound : (p.findLive fun d => d.reference == x.reference) = some i)
    (hc : p.callout? i = some c) (hopen : c.state = .inOpen) : alertOrder l ops.length ops p
      = .taken (if x.atOnce then (p.addInOpen i c ((p.resolvePlan x.override x.cls x.zone).map Prod.snd) 0#16).leaveOpen i
          else p.addInOpen i c ((p.resolvePlan x.override x.cls x.zone).map Prod.snd) 0#16).finish
        ((if x.atOnce then (p.addInOpen i c ((p.resolvePlan x.override x.cls x.zone).map Prod.snd) 0#16).leaveOpen i
          else p.addInOpen i c ((p.resolvePlan x.override x.cls x.zone).map Prod.snd) 0#16).finish.alertResults 1 i) := by
  rw [alertOrder_of_args hlen hx, hfound, Option.bind_some, hc]
  exact if_pos hopen

/-- Settles O49. -/
theorem addTaken : Obligations.AddTaken := by
  unfold Obligations.AddTaken
  intro s i c hs hc attempted appended grown gathered supplemented
  have hgathered {pl : Option Plan} {given : GroupSet} {l : Line} {results : List Operand} {d : Callout} {q t : Part}
      (h : s.toPart.Gathered i c pl given d q) (ht : OrderTaken l results s.toPart q t) : gathered pl given t := by
    obtain ⟨hd, hstate, hacc, hprimary, hsecondary, hgrown, htoken, -⟩ := h
    exact ⟨d, (ht.callout? i).trans hd, hstate, hacc, hprimary, hsecondary, hgrown.answered ht, htoken, ht.configuration⟩
  have hsupplemented {pl : Option Plan} {given : GroupSet} {l : Line} {results : List Operand} {d : Callout} {q t : Part}
      (h : s.toPart.Supplemented i c pl given d q) (ht : OrderTaken l results s.toPart q t) : supplemented pl given t := by
    obtain ⟨hd, hstate, hprimary, hsecondary, homitted, hhanded, hgrown⟩ := h
    exact ⟨d, (ht.callout? i).trans hd, hstate, hprimary, hsecondary, homitted,
      fun hq hk => (hhanded hq hk).answered ht, hgrown.answered ht, ht.configuration⟩
  refine ⟨fun l plan given ops hlookup hsp => ?_, fun l ops x hopen hlen hx honce hfound => ?_⟩
  · intro pl
    have hst := Stands.working s.toPart l 2#8 ops
    have hw := (s.toPart.working_lookup l 2#8 ops _).trans hlookup
    obtain ⟨hcw, -, hn⟩ := Part.lookup_spec hw
    have hrule := addOrder_named (l := l) hw hsp
    have hplan : (plan.bind (s.toPart.working l 2#8 ops).plan?) = pl := by
      unfold Part.plan?
      rw [hst.resolver]
      rfl
    unfold Part.addTo at hrule
    rw [hplan] at hrule
    dsimp only at hrule
    refine ⟨fun hp hg => refuses_of_rule hs rfl (hrule.trans (if_pos ⟨hp, hg⟩)), fun hp hnone hstate => ?_,
      fun hsome hdefined => ?_⟩
    · rw [if_neg (fun h => hp h.1)] at hrule
      have hundefined : (plan.isSome && pl.isNone) = true := by
        rw [hnone, Option.isSome_iff_ne_none.mpr hp]
        rfl
      rcases hstate with h | h | h | h <;> rw [h] at hrule <;> exact refuses_of_rule hs rfl (hrule.trans (if_pos hundefined))
    · rw [if_neg (fun h => hsome.elim (fun k => k h.1) fun k => k h.2)] at hrule
      have hundefined : ¬ (plan.isSome && pl.isNone) = true := fun h => by
        obtain ⟨h1, h2⟩ := Bool.and_eq_true_iff.mp h
        exact hdefined (Option.isSome_iff_ne_none.mp h1) (Option.isNone_iff_eq_none.mp h2)
      refine ⟨fun hopen => ?_, fun hlive => ?_⟩
      · rw [hopen] at hrule
        have hv := hrule.trans (if_neg hundefined)
        have hm : Moves (.unedited none False) _ _ :=
          Part.addInOpen_moves _ i c pl (given.getD 0#16) (s.toPart.working l 2#8 ops) False.elim
        obtain ⟨d, hgather⟩ := Part.addInOpen_gathers (pl := pl) hst hc hopen (given.getD 0#16)
        have hfound := (hm.trans (Part.finish_moves _ _)).findCallout id hn (by simp [hgather.1])
        refine (leads_of_takenFor (c := .add l ops) (code := 2#8) (ops := ops) hs rfl hv hm id).imp fun t ht => ⟨hgathered hgather ht, ?_⟩
        rw [Part.calloutResults_of hfound hgather.1, hgather.2.1] at ht
        exact ht.answered
      · have hv : addOrder l ops.length ops (s.toPart.working l 2#8 ops)
            = ((s.toPart.working l 2#8 ops).supplement i c pl (given.getD 0#16)).takenFor c.number := by
          rcases hlive with h | h | h <;> rw [h] at hrule <;> exact hrule.trans (if_neg hundefined)
        have hm : Moves (.unedited none False) _ _ :=
          Part.supplement_moves _ i c pl (given.getD 0#16) (s.toPart.working l 2#8 ops) False.elim
        obtain ⟨d, hsup⟩ := Part.supplement_supplements (pl := pl) hst hc hlive (given.getD 0#16)
        have hfound := (hm.trans (Part.finish_moves _ _)).findCallout id hn (by simp [hsup.1])
        refine (leads_of_takenFor (c := .add l ops) (code := 2#8) (ops := ops) hs rfl hv hm id).imp fun t ht => ⟨hsupplemented hsup ht, ?_⟩
        rw [Part.calloutResults_of hfound hsup.1] at ht
        have hslot : t.slot i = .live d := (t.callout?_eq i d).mp ((ht.callout? i).trans hsup.1)
        rw [hslot]
        exact ht.answered
  · have hst := Stands.working s.toPart l 1#8 ops
    have hcw : (s.toPart.working l 1#8 ops).callout? i = some c := (hst.callout? i).trans hc
    have hfoundw : ((s.toPart.working l 1#8 ops).findLive fun d => d.reference == x.reference) = some i := by
      rw [s.toPart.working_frame l 1#8 ops]
      exact hfound
    have hv := alertOrder_merges (l := l) hlen hx hfoundw hcw hopen
    rw [honce, Part.working_resolvePlan] at hv
    have hm : Moves (.unedited none False) _ _ := Part.addInOpen_moves _ i c
      ((s.toPart.resolvePlan x.override x.cls x.zone).map Prod.snd) 0#16 (s.toPart.working l 1#8 ops) False.elim
    obtain ⟨d, hgather⟩ := Part.addInOpen_gathers (pl := (s.toPart.resolvePlan x.override x.cls x.zone).map Prod.snd)
      hst hc hopen 0#16
    refine (leads_of_taken (c := .alert l ops) (code := 1#8) (ops := ops) hs rfl hv (hm.trans (Part.finish_moves _ _)) id).imp
      fun t ht => ⟨hgathered hgather ht, ?_⟩
    have hresults := Part.alertResults_of hgather.1 1
    obtain ⟨-, hstate, -, -, -, -, htoken, hnumber⟩ := hgather
    rw [hstate, htoken, hnumber] at hresults
    have hanswered := ht.answered
    rw [if_neg Bool.false_ne_true, hresults] at hanswered
    exact hanswered

end Sys2Proof.Machine

/-! A callout leaves OPEN: COMMIT, the accumulation timer's expiry, and an ALERT "at once" (R7, R9, R10, R13, R14, R68). -/

namespace Sys2Proof.Machine
open Sys2Proof

variable {p q r s t : Part} {i : SlotId} {c d e : Callout}

/-! ### The group judgement (R68) -/

theorem getLsbD_setOf (l : List Nat) (k : Nat) (hk : k < 16) : (setOf l).getLsbD k = true ↔ k ∈ l := by
  have fold (s : Set16) : (l.foldl (fun s k => s ||| (1#16 <<< k)) s).getLsbD k = true ↔ s.getLsbD k = true ∨ k ∈ l := by
    induction l generalizing s with
    | nil => simp
    | cons x rest ih =>
      have hbit : (1#16 <<< x : Set16).getLsbD k = true ↔ k = x := by
        simp only [BitVec.getLsbD_shiftLeft, BitVec.getLsbD_one, hk, decide_true, Bool.true_and, Bool.and_eq_true,
          decide_eq_true_eq, Bool.not_eq_true', decide_eq_false_iff_not]
        omega
      rw [List.foldl_cons, ih, BitVec.getLsbD_or, Bool.or_eq_true, hbit, List.mem_cons, or_assoc]
  unfold setOf
  rw [fold]
  simp

theorem Part.judge_iff (p : Part) (g : GroupId) : p.judge g = true ↔ (p.roster.groups.get g).enabled = true
    ∧ ∃ m x, p.member? m = some x ∧ x.availability = .available ∧ x.groups.getLsbD g.val = true := by
  unfold Part.judge Part.groupMembers
  rw [Bool.and_eq_true, List.any_eq_true]
  refine and_congr_right fun _ => ⟨?_, ?_⟩
  · rintro ⟨mx, hmx, hav⟩
    obtain ⟨hin, hbelongs⟩ := List.mem_filter.mp hmx
    exact ⟨mx.1, mx.2, mem_inUse.mp hin, beq_iff_eq.mp hav, hbelongs⟩
  · rintro ⟨m, x, hx, hav, hbelongs⟩
    exact ⟨(m, x), List.mem_filter.mpr ⟨mem_inUse.mpr hx, hbelongs⟩, beq_iff_eq.mpr hav⟩

theorem Part.judgedYes_iff (p : Part) (gs : GroupSet) (g : GroupId) : (p.judgedYes gs).getLsbD g.val = true ↔
    gs.getLsbD g.val = true ∧ (p.roster.groups.get g).enabled = true
      ∧ ∃ m x, p.member? m = some x ∧ x.availability = .available ∧ x.groups.getLsbD g.val = true := by
  unfold Part.judgedYes
  rw [getLsbD_setOf _ _ g.isLt, List.mem_map]
  constructor
  · rintro ⟨k, hk, hkg⟩
    obtain rfl := Fin.ext hkg
    obtain ⟨hmem, hjudge⟩ := List.mem_filter.mp hk
    exact ⟨(List.mem_filter.mp hmem).2, (p.judge_iff k).mp hjudge⟩
  · rintro ⟨hg, hjudge⟩
    exact ⟨g, List.mem_filter.mpr ⟨List.mem_filter.mpr ⟨mem_ascending g, hg⟩, (p.judge_iff g).mpr hjudge⟩, rfl⟩

/-! ### Leaving OPEN (R14) -/

/-- The callout as it leaves OPEN, before it takes its outcome. -/
def Callout.left (kept : GroupSet) (c : Callout) : Callout :=
  if kept = 0#16 then
    { c.leaving kept with alertStatus := .ended, state := .counting, responseWindow := .start c.window }
  else { c.leaving kept with alertGroups := kept, alertStatus := .outstanding, state := .alerting }

/-- The part as the callout leaves OPEN, before the siren request. -/
def Part.leftOpen (i : SlotId) (c : Callout) (kept : GroupSet) (p : Part) : Part :=
  if kept = 0#16 then ((p.modify i (Callout.leaving kept)).modify i fun c => { c with alertStatus := .ended }).enterCounting i
  else (((p.modify i (Callout.leaving kept)).modify i fun c => { c with alertGroups := kept, alertStatus := .outstanding }).demandGroups
    .alert c.owner kept).enter i .alerting

theorem Part.leaveOpen_eq (hc : p.callout? i = some c) : p.leaveOpen i =
    (if c.sirenPolicy = .atLevel0 then (p.leftOpen i c (p.judgedYes c.primary)).sirenOwnCycles c.sirenPattern
      else p.leftOpen i c (p.judgedYes c.primary)).takeOutcome i := by
  unfold Part.leaveOpen
  rw [hc]
  rfl

theorem Part.callout?_leftOpen (hc : p.callout? i = some c) (kept : GroupSet) :
    (p.leftOpen i c kept).callout? i = some (c.left kept) := by
  unfold Part.leftOpen Callout.left
  by_cases h : kept = 0#16
  · rw [if_pos h, if_pos h, Part.callout?_enterCounting, if_pos rfl, Part.callout?_modify_self, Part.callout?_modify_self, hc]
    rfl
  · rw [if_neg h, if_neg h, Part.callout?_enter, if_pos rfl, Part.demandGroups, Part.callout?_demand, Part.callout?_modify_self,
      Part.callout?_modify_self, hc]
    rfl

theorem Part.leftOpen_trails {kept : GroupSet} (h : kept ≠ 0#16) (p : Part) (i : SlotId) (c : Callout) :
    Trails (p.demand { kind := .alert, owner := c.owner, content := .groups (membersOf 16 kept), restrict := .all })
      (p.leftOpen i c kept) := by
  have hmarked : Paging p ((p.modify i (Callout.leaving kept)).modify i fun c =>
      { c with alertGroups := kept, alertStatus := .outstanding }) :=
    (Paging.modify (f := Callout.leaving kept) i p fun _ _ => rfl).trans (.modify i _ fun _ _ => rfl)
  unfold Part.leftOpen
  rw [if_neg h]
  exact (Trails.of_paging (hmarked.demand _)).trans (.enter i .alerting _)

theorem Part.leftOpen_station (i : SlotId) (c : Callout) (kept : GroupSet) (p : Part) :
    (p.leftOpen i c kept).station = p.station ∧ (p.leftOpen i c kept).supply = p.supply := by
  unfold Part.leftOpen
  split
  · unfold Part.enterCounting Part.enter
    simp only [Part.modify_station, Part.modify_supply, Part.raise_station, Part.raise_supply, and_self]
  · unfold Part.enter Part.demandGroups
    simp only [Part.modify_station, Part.modify_supply, Part.raise_station, Part.raise_supply, Part.demand_station,
      Part.demand_supply, and_self]

/-- What a callout that leaves OPEN has become. -/
def Part.Left (s : Part) (i : SlotId) (c c' : Callout) (t : Part) : Prop :=
  let kept := s.judgedYes c.primary
  t.callout? i = some c' ∧ c'.primary = kept
    ∧ c'.flags.groupsOmitted = (c.flags.groupsOmitted || kept != c.primary)
    ∧ c'.accumulation = .stopped
    ∧ (kept = 0#16 → c'.alertStatus = .ended ∧ (c'.state = .counting ∨ c'.state = .crewed))
    ∧ (kept ≠ 0#16 → c'.alertGroups = kept ∧ c'.alertStatus ≠ .none
        ∧ (c'.state = .alerting ∨ c'.state = .counting ∨ c'.state = .crewed)
        ∧ (s.Quiet → Handed
            { kind := .alert, owner := c.owner, content := .groups (membersOf 16 kept), restrict := .all } s t))
    ∧ (if c.sirenPolicy = .atLevel0 then SirenAsked c.sirenPattern s t else t.station.run = s.station.run)

/-- The part shows a command that leaves OPEN what `s` shows it. -/
structure Sees (s p : Part) : Prop where
  callouts : ∀ j, p.callout? j = s.callout? j
  roster   : p.roster = s.roster
  pages    : SamePages s p
  supply   : p.supply = s.supply
  pins     : p.pins = s.pins
  run      : p.station.run = s.station.run
  patterns : p.station.patterns = s.station.patterns

theorem Stands.sees (h : Stands s p) : Sees s p :=
  ⟨h.callout?, h.roster, h.samePages, h.supply, h.pins, h.run, h.patterns⟩

theorem Sees.paging (h : Sees s p) : Paging s p :=
  ⟨h.pages, h.supply, h.pins, Part.formPages_congr (by rw [h.roster]) (fun m => by rw [Part.member?, h.roster]; rfl)
    fun j => by rw [h.callouts]⟩

theorem SirenAsked.of_sees {pat : PatternId} (hst : Sees s p) (h : SirenAsked pat p t) : SirenAsked pat s t := by
  unfold SirenAsked at h ⊢
  rw [← hst.run, ← hst.patterns, ← hst.supply]
  exact h

theorem Callout.left_state (kept : GroupSet) (c : Callout) :
    (c.left kept).state = .alerting ∨ (c.left kept).state = .counting ∨ (c.left kept).state = .crewed := by
  unfold Callout.left
  split
  · exact .inr (.inl rfl)
  · exact .inl rfl

theorem Callout.left_fields (kept : GroupSet) (c : Callout) : (c.left kept).primary = kept
    ∧ (c.left kept).flags.groupsOmitted = (c.flags.groupsOmitted || kept != c.primary)
    ∧ (c.left kept).accumulation = .stopped ∧ (c.left kept).number = c.number ∧ (c.left kept).token = c.token := by
  unfold Callout.left
  split <;> exact ⟨rfl, rfl, rfl, rfl, rfl⟩

theorem Callout.left_without (c : Callout) :
    (c.left 0#16).alertStatus = .ended ∧ (c.left 0#16).state = .counting := by
  unfold Callout.left
  rw [if_pos rfl]
  exact ⟨rfl, rfl⟩

theorem Callout.left_with {kept : GroupSet} (h : kept ≠ 0#16) (c : Callout) :
    (c.left kept).alertStatus = .outstanding ∧ (c.left kept).alertGroups = kept := by
  unfold Callout.left
  rw [if_neg h]
  exact ⟨rfl, rfl⟩

/-- What the end of an event leaves of a callout that has just left OPEN. -/
theorem Part.takeOutcome_finish (hc : p.callout? i = some c)
    (hlive : c.state = .alerting ∨ c.state = .counting ∨ c.state = .crewed) :
    ∃ d, (p.takeOutcome i).finish.callout? i = some d ∧ d.core = c.core
      ∧ (d.state = .alerting ∨ d.state = .counting ∨ d.state = .crewed)
      ∧ (c.state ≠ .alerting → d.state ≠ .alerting) ∧ (d.alertStatus = c.alertStatus ∨ d.alertStatus = .ended) := by
  obtain ⟨a, ha⟩ := Part.callout?_takeOutcome hc
  have hlive' := Callout.outcomeTaken_live (a := a) hlive
  obtain ⟨d, hd, hstep, hkept⟩ := Part.finish_kept ha (by rcases hlive' with h | h | h <;> rw [h] <;> nofun)
  refine ⟨d, hd, hstep.1.trans (c.outcomeTaken_core a), hstep.live hlive', fun hn => ?_, ?_⟩
  · have hn' : (c.outcomeTaken a).state ≠ .alerting := by
      unfold Callout.outcomeTaken
      split
      · exact nofun
      · split
        · exact nofun
        · exact hn
    rw [(hstep.still hn').1]
    exact hn'
  · have hstatus := hkept.status
    rw [Callout.outcomeTaken_frame] at hstatus
    exact hstatus

theorem Part.leaveOpen_left (hst : Sees s p) (hc : s.callout? i = some c) :
    ∃ d, s.Left i c d (p.leaveOpen i).finish ∧ d.number = c.number ∧ d.token = c.token ∧ d.state ≠ .closing := by
  have hcp : p.callout? i = some c := (hst.callouts i).trans hc
  have hkept : p.judgedYes c.primary = s.judgedYes c.primary := Part.judgedYes_congr hst.roster _
  have hleft := Part.callout?_leftOpen hcp (s.judgedYes c.primary)
  have htrails (h : s.judgedYes c.primary ≠ 0#16) := (Trails.of_paging (hst.paging.demand _)).trans (p.leftOpen_trails h i c)
  obtain ⟨hstation, hsupply⟩ := p.leftOpen_station i c (s.judgedYes c.primary)
  rw [Part.leaveOpen_eq hcp, hkept]
  unfold Part.Left
  generalize s.judgedYes c.primary = kept at hleft hstation hsupply htrails ⊢
  generalize hq : (if c.sirenPolicy = .atLevel0 then (p.leftOpen i c kept).sirenOwnCycles c.sirenPattern
    else p.leftOpen i c kept) = q
  have hcallout : q.callout? i = some (c.left kept) := by
    rw [← hq]
    split
    · rw [Part.callout?_sirenOwnCycles, hleft]
    · exact hleft
  obtain ⟨d, hd, hcore, hlive, hcounting, hstatus⟩ := Part.takeOutcome_finish hcallout (c.left_state kept)
  have hrun : (q.takeOutcome i).finish.station.run = q.station.run :=
    (Part.finish_run _).trans (congrArg StationOutput.run (q.takeOutcome_work i).station)
  obtain ⟨-, -, -, -, hflags⟩ := Callout.core_ladder hcore
  obtain ⟨hnumber, htoken⟩ := Callout.core_owner hcore
  obtain ⟨hp, ho, ha, hn, ht⟩ := c.left_fields kept
  have haccumulation : d.accumulation = (c.left kept).accumulation :=
    (congrArg Callout.accumulation hcore : d.core.accumulation = (c.left kept).core.accumulation)
  have hgroups : d.alertGroups = (c.left kept).alertGroups :=
    (congrArg Callout.alertGroups hcore : d.core.alertGroups = (c.left kept).core.alertGroups)
  refine ⟨d, ⟨hd, (Callout.core_primary hcore).trans hp, (congrArg CalloutFlags.groupsOmitted hflags :).trans ho,
    haccumulation.trans ha, fun hnil => ?_, fun hsome => ⟨hgroups.trans (c.left_with hsome).2, ?_, hlive, fun hquiet => ?_⟩, ?_⟩,
    hnumber.trans hn, htoken.trans ht, by rcases hlive with h | h | h <;> rw [h] <;> nofun⟩
  · subst hnil
    obtain ⟨hended, hstate⟩ := c.left_without
    refine ⟨hstatus.elim (fun h => h.trans hended) id, hlive.resolve_left (hcounting ?_)⟩
    rw [hstate]
    exact nofun
  · rcases hstatus with h | h
    · rw [h, (c.left_with hsome).1]
      exact nofun
    · rw [h]
      exact nofun
  · refine ((htrails hsome).trans ?_).handed hquiet
    rw [← hq]
    split
    · exact (Trails.of_paging (.sirenOwnCycles _ _)).trans (.takeOutcome i _)
    · exact .takeOutcome i _
  · split
    next h => exact (sirenAsked_of hstation hsupply (hrun.trans (by rw [← hq, if_pos h]))).of_sees hst
    next h => rw [hrun, ← hq, if_neg h, hstation, hst.run]

/-! ### The ALERT "at once" (R9, R10) -/

/-- The part is `s` with this callout in slot `i`, as far as a command that leaves OPEN sees it. -/
structure SeesAt (s : Part) (i : SlotId) (c : Callout) (q : Part) : Prop where
  callouts : ∀ j, q.callout? j = if i = j then some c else s.callout? j
  roster   : q.roster = s.roster
  pages    : SamePages s q
  supply   : q.supply = s.supply
  pins     : q.pins = s.pins
  run      : q.station.run = s.station.run
  patterns : q.station.patterns = s.station.patterns

/-- The part an order has left, after no work. -/
theorem SeesAt.sees {l : Line} {results : List Operand} (hquiet : r.Quiet) (hq : SeesAt r i c q)
    (hs : OrderAnswered l results r q.finish s) (hp : SeesAt r i c p) : Sees s p := by
  have hquiet' : q.Quiet := hq.pages.workStep.mpr hquiet
  rw [Part.finish_quiet hquiet'] at hs
  have hs' := hs.after
  have hcallout (j : SlotId) : s.callout? j = q.callout? j := Part.callout?_congr (by rw [hs']; rfl) j
  refine ⟨fun j => ?_, ?_, ⟨?_, ?_⟩, ?_, ?_, ?_, ?_⟩
  · rw [hcallout, hq.callouts, hp.callouts]
  · rw [hp.roster, ← hq.roster, hs']
    rfl
  · rw [hp.pages.1, ← hq.pages.1, hs']
    rfl
  · rw [hp.pages.2, ← hq.pages.2, hs']
    rfl
  · rw [hp.supply, ← hq.supply, hs']
    rfl
  · rw [hp.pins, ← hq.pins, hs']
    rfl
  · rw [hp.run, ← hq.run, hs']
    rfl
  · rw [hp.patterns, ← hq.patterns, hs']
    rfl

theorem Part.newCallout_congr (h : Stands s p) (l : Line) (x : AlertArgs) (n : PlanId) (pl : Plan) (t : Attempt) :
    p.newCallout l x n pl t = s.newCallout l x n pl t := by
  have hlive : p.live = s.live := by
    unfold Part.live
    simp only [h.callout?]
  unfold Part.newCallout Part.newNumber Part.newToken
  rw [hlive, h.table, h.settings]

/-- The callout an ALERT makes, with its assessment. -/
def Part.assessedNew (s : Part) (l : Line) (x : AlertArgs) (n : PlanId) (pl : Plan) : Callout :=
  { s.newCallout l x n pl (s.attempt (fun _ => false) pl) with
    assessment := s.assessment (s.newCallout l x n pl (s.attempt (fun _ => false) pl)) }

theorem Part.created_seesAt {l : Line} {x : AlertArgs} {n : PlanId} {pl : Plan} {rest : List SlotId} (hst : Stands s p)
    (hfree : s.table.freeOrder = i :: rest) (hnew : ∀ j d, s.callout? j = some d → d.reference ≠ x.reference)
    (hsome : (s.attempt (fun _ => false) pl).committed ≠ []) :
    SeesAt s i (s.assessedNew l x n pl) (p.created l x i n pl)
      ∧ ∃ a, Creates False i (p.createdCallout l x n pl a) p (p.created l x i n pl) := by
  have hattempt : p.attempt (fun _ => false) pl = s.attempt (fun _ => false) pl := by
    rw [hst]
    rfl
  obtain ⟨a, ha⟩ := Part.createCallout_creates (plans := False) (p := p) (l := l) (n := n) (x := x) (pl := pl)
    (by rw [hst.table]; exact hfree) False.elim (fun j d hd => hnew j d (hst.callout? j ▸ hd)) (hattempt ▸ hsome)
  refine ⟨?_, a, ha⟩
  have hself : (p.created l x i n pl).callout? i = some (s.assessedNew l x n pl) := by
    rw [Part.created, Part.callout?_createCallout, Part.newCallout_congr hst, hattempt]
    have hassess (c : Callout) : (p.placed i c).assessment c = s.assessment c := hst.assessment c
    rw [hassess]
    rfl
  have hcallouts (j : SlotId) : (p.created l x i n pl).callout? j
      = if i = j then some (s.assessedNew l x n pl) else s.callout? j := by
    by_cases hj : i = j
    · subst hj
      rw [if_pos rfl, hself]
    · rw [if_neg hj, ← hst.callout? j]
      exact (ha.callout? j).trans (if_neg hj)
  have hafter := ha.after
  change p.created l x i n pl = _ at hafter
  generalize p.created l x i n pl = q at hcallouts hafter
  refine ⟨hcallouts, ?_, ⟨?_, ?_⟩, ?_, ?_, ?_, ?_⟩ <;> rw [hafter]
  · exact hst.roster
  · exact hst.samePages.1
  · exact hst.samePages.2
  · exact hst.supply
  · exact hst.pins
  · exact hst.run
  · exact hst.patterns

/-- The callout an ALERT merged into an OPEN one leaves, with its assessment. -/
def Part.assessedGathering (s : Part) (pl : Option Plan) (given : GroupSet) (c : Callout) : Callout :=
  if (s.gathering pl given c).appliances = c.appliances then s.gathering pl given c
  else { s.gathering pl given c with assessment := s.assessment (s.gathering pl given c) }

/-- A reassessment in OPEN computes the assessment alone. -/
theorem Part.reassess_open (hq : q.callout? i = some e) (ho : e.state = .inOpen) : q.reassess i = q.recompute i := by
  rw [Part.reassess_eq hq (by rw [ho]; nofun)]
  refine Part.stateAt_takeOutcome_of_open ?_
  rw [Part.stateAt, Part.callout?_recompute_self hq]
  exact congrArg some ho

theorem Part.recompute_roster (i : SlotId) (p : Part) : (p.recompute i).roster = p.roster := by
  unfold Part.recompute
  split
  · rfl
  · dsimp only
    unfold Part.raiseIf
    split
    · exact Part.roster_modify ..
    · exact Part.roster_modify ..

theorem Part.joinPlan_frame (hc : p.callout? i = some c) (pl : Option Plan) (given : GroupSet) :
    (∀ j, i ≠ j → ((p.joinPlan i c pl given).restartAccumulation i).callout? j = p.callout? j)
    ∧ ∃ table resolver, (p.joinPlan i c pl given).restartAccumulation i = { p with table := table, resolver := resolver } := by
  cases pl with
  | none =>
    refine ⟨fun j hj => ?_, ?_⟩
    · exact (Part.callout?_modify_ne _ hj _).trans (Part.callout?_modify_ne _ hj _)
    · unfold Part.joinPlan Part.restartAccumulation
      rw [Part.modify_eq, Part.modify_eq]
      exact ⟨_, _, rfl⟩
  | some pl =>
    obtain ⟨-, -, hothers, table, resolver, hframe⟩ := Part.addPlan_spec hc (some pl)
    have hjoined : p.joinPlan i c (some pl) given = ((p.addPlan i c (some pl)).modify i
        (Callout.addPrimary (pl.primary ||| given))).modify i (Callout.addSecondary pl.secondary) := rfl
    rw [hjoined]
    refine ⟨fun j hj => ?_, ?_⟩
    · rw [Part.restartAccumulation, Part.callout?_modify_ne _ hj, Part.callout?_modify_ne _ hj, Part.callout?_modify_ne _ hj,
        hothers j hj]
    · unfold Part.restartAccumulation
      rw [Part.modify_eq, Part.modify_eq, Part.modify_eq, hframe]
      exact ⟨_, _, rfl⟩

theorem Part.addInOpen_seesAt {pl : Option Plan} (hst : Stands s p) (hc : s.callout? i = some c) (hopen : c.state = .inOpen)
    (given : GroupSet) : SeesAt s i (s.assessedGathering pl given c) (p.addInOpen i c pl given) := by
  have hcp : p.callout? i = some c := (hst.callout? i).trans hc
  obtain ⟨hq, hpaging, -⟩ := Part.joinPlan_spec hcp pl given
  obtain ⟨hothers, table, resolver, hframe⟩ := Part.joinPlan_frame hcp pl given
  have hgathering : p.gathering pl given c = s.gathering pl given c := by
    unfold Part.gathering Part.withPlan Part.appendedBy
    rw [hst.attempted, hst.settings]
  rw [hgathering] at hq
  have hmoves : Moves (.unedited none False) p ((p.joinPlan i c pl given).restartAccumulation i) :=
    (p.joinPlan_moves _ i c pl given False.elim).trans (.modify fun _ _ => ⟨.of_same, rfl⟩)
  rw [Part.addInOpen_eq]
  generalize (p.joinPlan i c pl given).restartAccumulation i = q at hq hpaging hothers hframe hmoves
  have hassess : q.assessment (s.gathering pl given c) = s.assessment (s.gathering pl given c) :=
    (hmoves.configuration id).assessment _ |>.trans (hst.assessment _)
  have hstation : q.station = p.station := by rw [hframe]
  have hroster : q.roster = p.roster := by rw [hframe]
  have hbefore : SeesAt s i (s.gathering pl given c) q := by
    refine ⟨fun j => ?_, hroster.trans hst.roster, hst.samePages.trans hpaging.same, hpaging.supply.trans hst.supply,
      hpaging.pins.trans hst.pins, by rw [hstation, hst.run], by rw [hstation, hst.patterns]⟩
    by_cases hj : i = j
    · subst hj
      rw [if_pos rfl, hq]
    · rw [if_neg hj, hothers j hj, hst.callout?]
  have hgrown : q.reassessIfGrown i c
      = if (s.gathering pl given c).appliances = c.appliances then q else q.reassess i := by
    unfold Part.reassessIfGrown
    simp only [hq]
  rw [hgrown]
  unfold Part.assessedGathering
  split
  · exact hbefore
  · rw [Part.reassess_open hq hopen]
    have hwork := q.recompute_work i
    refine ⟨fun j => ?_, (q.recompute_roster i).trans hbefore.roster, hbefore.pages.trans (q.recompute_pages i),
      hwork.supply.trans hbefore.supply, hwork.pins.trans hbefore.pins, by rw [hwork.station, hbefore.run],
      by rw [hwork.station, hbefore.patterns]⟩
    rw [Part.callout?_recompute]
    by_cases hj : i = j
    · subst hj
      rw [if_pos rfl, if_pos rfl, hq, ← hassess]
      rfl
    · rw [if_neg hj, if_neg hj, hbefore.callouts, if_neg hj]

/-! ### An ALERT by its outcome -/

theorem alertOrder_outcomes {x : AlertArgs} {l : Line} {ops : List Operand} (hlen : ops.length ≤ 6)
    (hx : alertArgs ops = some x) :
    (∃ why results, alertOrder l ops.length ops p = .refused why results ∧ results.length ≤ 1)
    ∨ (∃ i c, (p.findLive fun d => d.reference == x.reference) = some i ∧ p.callout? i = some c ∧ c.state = .inOpen)
    ∨ ∃ i rest n pl, (∀ j d, p.callout? j = some d → d.reference ≠ x.reference) ∧ p.table.freeOrder = i :: rest
        ∧ p.resolvePlan x.override x.cls x.zone = some (n, pl) ∧ (p.attempt (fun _ => false) pl).committed ≠ [] := by
  cases hrep : p.repeated x with
  | some c =>
    obtain ⟨i, hi, hc, hv⟩ := alertOrder_of_repeated (l := l) hlen hx hrep
    by_cases hopen : c.state = .inOpen
    · exact .inr (.inl ⟨i, c, hi, hc, hopen⟩)
    · exact .inl ⟨_, _, hv.trans (if_neg hopen), le_rfl⟩
  | none =>
    have hv := alertOrder_of_fresh (l := l) hlen hx hrep
    unfold Part.freshAlert at hv
    have hnew : ∀ j d, p.callout? j = some d → d.reference ≠ x.reference := by
      have hnone : (p.findLive fun d => d.reference == x.reference) = none := by
        cases hf : p.findLive fun d => d.reference == x.reference with
        | none => rfl
        | some i =>
          obtain ⟨d, hd, -⟩ := Part.findLive_eq_some hf
          rw [Part.repeated, hf] at hrep
          exact absurd (hrep.symm.trans hd) (by nofun)
      exact fun j d hd h => absurd (Part.findLive_eq_none.mp hnone j d hd) (by simp [h])
    cases hfree : p.table.freeOrder with
    | nil =>
      rw [hfree] at hv
      exact .inl ⟨_, _, hv, Nat.zero_le _⟩
    | cons i rest =>
      rw [hfree] at hv
      cases hplan : p.resolvePlan x.override x.cls x.zone with
      | none =>
        rw [hplan] at hv
        exact .inl ⟨_, _, hv, Nat.zero_le _⟩
      | some y =>
        rw [hplan] at hv
        by_cases hsome : (p.attempt (fun _ => false) y.2).committed = []
        · exact .inl ⟨_, _, hv.trans (if_pos hsome), Nat.zero_le _⟩
        · exact .inr (.inr ⟨i, rest, y.1, y.2, hnew, rfl, rfl, hsome⟩)

/-- An ALERT that is taken has made or merged callout `e` in slot `i` and left it in OPEN at `q`, before the "at once" flag is
looked at. -/
structure Part.Opens (s p : Part) (l : Line) (x : AlertArgs) (ops : List Operand) (outcome : Nat) (i : SlotId) (e : Callout)
    (q : Part) : Prop where
  verdict : alertOrder l ops.length ops p = .taken (if x.atOnce then q.leaveOpen i else q).finish
    ((if x.atOnce then q.leaveOpen i else q).finish.alertResults outcome i)
  sees    : SeesAt s i e q
  opened  : e.state = .inOpen
  first   : (q.findLive fun d => d.reference == x.reference) = some i
  moves   : Moves (.unedited none True) p q

theorem Stands.findLive (h : Stands s p) (f : Callout → Bool) : p.findLive f = s.findLive f := by
  rw [Part.findLive_eq_find, Part.findLive_eq_find]
  simp only [h.callout?]

theorem merged_opens {l : Line} {x : AlertArgs} {ops : List Operand} (hst : Stands s p) (hlen : ops.length ≤ 6)
    (hx : alertArgs ops = some x) (hfound : (s.findLive fun d => d.reference == x.reference) = some i)
    (hc : s.callout? i = some c) (hopen : c.state = .inOpen) :
    s.Opens p l x ops 1 i (s.assessedGathering ((s.resolvePlan x.override x.cls x.zone).map Prod.snd) 0#16 c)
      (p.addInOpen i c ((s.resolvePlan x.override x.cls x.zone).map Prod.snd) 0#16) := by
  have hfound' := (hst.findLive _).trans hfound
  have hresolve : p.resolvePlan = s.resolvePlan := by
    rw [hst]
    rfl
  have hsees := Part.addInOpen_seesAt (pl := (s.resolvePlan x.override x.cls x.zone).map Prod.snd) hst hc hopen 0#16
  have hsame (pl : Option Plan) : (s.assessedGathering pl 0#16 c).state = c.state
      ∧ (s.assessedGathering pl 0#16 c).reference = c.reference := by
    unfold Part.assessedGathering
    split <;> exact ⟨rfl, rfl⟩
  obtain ⟨hstate, href⟩ := hsame ((s.resolvePlan x.override x.cls x.zone).map Prod.snd)
  refine ⟨?_, hsees, hstate.trans hopen, ?_, Part.addInOpen_moves _ i c _ 0#16 p False.elim⟩
  · rw [alertOrder_merges hlen hx hfound' ((hst.callout? i).trans hc) hopen, hresolve]
  · have hself := (hsees.callouts i).trans (if_pos rfl)
    refine Part.findLive_stays hfound (fun j d hd => ?_) (by simp [hself])
    rw [hsees.callouts] at hd
    split at hd
    next hj =>
      subst hj
      cases hd
      exact ⟨c, hc, by rw [href]⟩
    next => exact ⟨d, hd, rfl⟩

theorem fresh_opens {l : Line} {x : AlertArgs} {ops : List Operand} {n : PlanId} {pl : Plan} {rest : List SlotId}
    (hst : Stands s p) (hlen : ops.length ≤ 6) (hx : alertArgs ops = some x) (hfree : s.table.freeOrder = i :: rest)
    (hnew : ∀ j d, s.callout? j = some d → d.reference ≠ x.reference)
    (hplan : s.resolvePlan x.override x.cls x.zone = some (n, pl)) (hsome : (s.attempt (fun _ => false) pl).committed ≠ []) :
    s.Opens p l x ops 0 i (s.assessedNew l x n pl) (p.created l x i n pl) := by
  obtain ⟨hsees, _, hcreates⟩ := Part.created_seesAt (l := l) (n := n) hst hfree hnew hsome
  have hself := (hsees.callouts i).trans (if_pos rfl)
  refine ⟨freshAlert_creates hlen hx (fun j d hd => hnew j d (hst.callout? j ▸ hd)) (by rw [hst.table, hfree]) ?_ ?_, hsees, rfl,
    ?_, .one (.create trivial i _ hcreates)⟩
  · rw [← hplan, hst]
    rfl
  · rwa [hst]
  · cases hf : (p.created l x i n pl).findLive fun d => d.reference == x.reference with
    | none => exact absurd (Part.findLive_eq_none.mp hf i _ hself) (by simp [Part.assessedNew, Part.newCallout])
    | some j =>
      obtain ⟨d, hd, href⟩ := Part.findLive_eq_some hf
      by_cases hj : i = j
      · rw [hj]
      · rw [hsees.callouts, if_neg hj] at hd
        exact absurd (eq_of_beq href) (hnew j d hd)

/-- The callout an ALERT without the flag has left in OPEN is the one the same ALERT "at once" takes out of OPEN. -/
theorem Part.Opens.leaves {s0 s p p' : Part} {l : Line} {x y : AlertArgs} {ops plain : List Operand} {outcome : Nat} {q q' : Part}
    (hquiet : s0.Quiet) (h' : s0.Opens p' l y plain outcome i e q') (h : s0.Opens p l x ops outcome i e q)
    (hx : x.atOnce = true) {results : List Operand} (hs : OrderAnswered l results s0 q'.finish s) :
    s.callout? i = some e ∧ Sees s q
      ∧ ∃ d, s.Left i e d (q.leaveOpen i).finish ∧ alertOrder l ops.length ops p = .taken (q.leaveOpen i).finish
        [num outcome, num e.number.toNat, num e.token.toNat, num d.state.code]
      ∧ Moves (.unedited none True) p (q.leaveOpen i).finish := by
  have hsees := SeesAt.sees hquiet h'.sees hs h.sees
  have hself := (h.sees.callouts i).trans (if_pos rfl)
  have hc := (hsees.callouts i).symm.trans hself
  obtain ⟨d, hd, hnumber, htoken, -⟩ := Part.leaveOpen_left hsees hc
  have hv := h.verdict
  rw [hx, if_pos rfl, Part.alertResults_of hd.1, hnumber, htoken] at hv
  refine ⟨hc, hsees, d, hd, hv, (h.moves.trans (Part.leaveOpen_moves _ fun c hc => ?_)).trans (Part.finish_moves _ _)⟩
  obtain rfl := Option.some.inj (hself.symm.trans hc)
  rw [h.opened]
  rfl

theorem SameConfiguration.symm (h : SameConfiguration p q) : SameConfiguration q p :=
  ⟨⟨h.settings.1.symm, h.settings.2.symm⟩, ⟨h.plans.1.symm, h.plans.2.1.symm, h.plans.2.2.symm⟩,
    fun ap => ⟨(h.appliances ap).1.symm, (h.appliances ap).2.symm⟩, fun m => (h.members m).symm, h.groups.symm,
    fun k => (h.sites k).symm, h.patterns.symm, h.store.symm⟩

section
variable {l : Line} {results : List Operand}

theorem Part.Left.answered (h : s.Left i c d q) (ht : OrderAnswered l results r q t) : s.Left i c d t := by
  rw [ht.after]
  exact h

end

/-- What a command that leads somewhere is seen to lead to. -/
theorem Leads.at {c : Instr} {s t : State} {P : Part → Prop} (h : Leads c s P) (ht : exec c s = .next t) : P t.toPart := by
  obtain ⟨u, hu, -, hP⟩ := h
  cases hu.symm.trans ht
  exact hP

/-- What is told by the answer to an ALERT without the flag: the callout it left in OPEN, and whether it was made. -/
theorem Part.Opens.told {s0 s : State} {q' : Part} {l : Line} {y : AlertArgs} {plain : List Operand} {k outcome : Nat}
    {j : SlotId} (hs0 : s0.condition = .running) (hquiet : s0.Quiet)
    (h' : s0.toPart.Opens (s0.toPart.working l 1#8 plain) l y plain k j e q') (hy : y.atOnce = false)
    (hexec : exec (.alert l plain) s0 = .next s) (hfound : (s.findLive fun d => d.reference == y.reference) = some i)
    {rest : List Operand} (hreply : ((s.ctl l).reply.map Reply.results) = some (num outcome :: rest)) :
    j = i ∧ num k = num outcome ∧ ∃ results, OrderTaken l results s0.toPart q'.finish s.toPart := by
  have hv := h'.verdict
  have hplain (a b : Part) : (if y.atOnce then a else b) = b := if_neg (by simp [hy])
  rw [hplain] at hv
  have ht := (leads_of_taken (c := .alert l plain) (code := 1#8) (ops := plain) hs0 rfl hv
    (h'.moves.trans (Part.finish_moves _ _)) id).at hexec
  have hquiet' : q'.Quiet := h'.sees.pages.workStep.mpr hquiet
  have hself := (h'.sees.callouts j).trans (if_pos rfl)
  have hcallout (m : SlotId) : q'.finish.callout? m = q'.callout? m := Part.callout?_congr (Part.finish_quiet_table hquiet') m
  have hresults := Part.alertResults_of ((hcallout j).trans hself) k
  obtain ⟨raised, hanswered⟩ := ht.answered
  refine ⟨?_, ?_, _, ht⟩
  · have hsame : s.findLive (fun d => d.reference == y.reference) = q'.findLive fun d => d.reference == y.reference := by
      rw [Part.findLive_eq_find, Part.findLive_eq_find]
      simp only [ht.callout?, hcallout]
    exact Option.some.inj (h'.first.symm.trans (hsame.symm.trans hfound))
  · rw [hanswered.reply, hresults] at hreply
    exact (List.cons.inj (Option.some.inj hreply)).1

/-- Settles O50. -/
theorem leavesOpen : Obligations.LeavesOpen := by
  unfold Obligations.LeavesOpen
  refine ⟨Part.judgedYes_iff, fun s i c hs hc hopen => ?_⟩
  intro kept left
  have hplain {p : Part} (hp : p.callout? i = some c) : p.PlainAt i := fun d hd => by
    obtain rfl := Option.some.inj (hp.symm.trans hd)
    rw [hopen]
    rfl
  have hleft {d : Callout} {t : Part} (h : s.toPart.Left i c d t) (hconf : SameConfiguration s.toPart t) : left d t := by
    obtain ⟨h1, h2, h3, h4, h5, h6, h7⟩ := h
    exact ⟨h1, h2, h3, h4, h5, h6, h7, hconf⟩
  refine ⟨fun l hlookup => ?_, fun hrun => ?_, fun hrun => ?_, fun s0 l ops plain x outcome hs0 hquiet hlen hlen' hx honce hplainx hexec hfound hreply => ?_⟩
  · have hw := (s.toPart.working_lookup l 3#8 [num c.number.toNat] _).trans hlookup
    obtain ⟨hcw, -, hn⟩ := Part.lookup_spec hw
    have hv : orderRule (.commit l [num c.number.toNat]) (s.toPart.working l 3#8 [num c.number.toNat])
        = ((s.toPart.working l 3#8 [num c.number.toNat]).leaveOpen i).takenFor c.number := by
      refine commitOrder_of_named.trans ?_
      rw [toInt_ofNat_of_lt (by omega), hw]
      exact if_pos hopen
    have hm : Moves (.unedited none False) _ _ := Part.leaveOpen_moves _ (hplain hcw)
    obtain ⟨d, hd, hnumber, -, hclosing⟩ := Part.leaveOpen_left (Stands.working s.toPart l 3#8 [num c.number.toNat]).sees hc
    have hfound := (hm.trans (Part.finish_moves _ _)).findCallout id hn (by simp [hd.1])
    refine (leads_of_takenFor hs rfl hv hm id).imp fun t ht => ?_
    rw [Part.calloutResults_of hfound hd.1] at ht
    obtain ⟨raised, hanswered⟩ := ht.answered
    exact ⟨d, raised, hleft (hd.answered ht.toOrderAnswered) ht.configuration, hanswered⟩
  · obtain ⟨d, hd, -⟩ := Part.leaveOpen_left (Stands.refl s.toPart).sees hc
    have heq : s.toPart.accumulationExpires i = (s.toPart.leaveOpen i).finish := by
      unfold Part.accumulationExpires
      simp only [hc]
      exact if_pos ⟨hopen, hrun⟩
    refine leads_of_event hs rfl ⟨d, hleft ?_ ?_⟩
    · rw [heq]
      exact hd
    · exact Moves.configuration (g := .unedited none False) id (Part.accumulationExpires_moves _ i _)
  · refine exec_eq_self_of_event hs rfl ?_
    unfold Part.accumulationExpires
    simp only [hc]
    exact if_neg fun h => hrun h.2
  · have hst := Stands.working s0.toPart l 1#8 ops
    have hst' := Stands.working s0.toPart l 1#8 plain
    have concludes {k : Nat} {j : SlotId} {e : Callout} {q q' : Part}
        (h' : s0.toPart.Opens (s0.toPart.working l 1#8 plain) l { x with atOnce := false } plain k j e q')
        (h : s0.toPart.Opens (s0.toPart.working l 1#8 ops) l x ops k j e q) :
        Leads (.alert l ops) s0 fun t => ∃ c' raised, left c' t
          ∧ Answered l none [num outcome, num c.number.toNat, num c.token.toNat, num c'.state.code] raised s0.toPart t := by
      obtain ⟨rfl, hk, _, htaken⟩ := h'.told hs0 hquiet rfl hexec hfound hreply
      obtain ⟨hce, hsees, d, hd, hv, hm⟩ := h'.leaves hquiet h honce htaken.toOrderAnswered
      obtain rfl := Option.some.inj (hc.symm.trans hce)
      rw [hk] at hv
      refine (leads_of_taken (c := .alert l ops) (code := 1#8) (ops := ops) hs0 rfl hv hm id).imp fun t ht => ?_
      obtain ⟨raised, hraised⟩ := ht.answered
      exact ⟨d, raised, hleft (hd.answered ht.toOrderAnswered) (htaken.configuration.symm.trans ht.configuration), hraised⟩
    rcases alertOrder_outcomes hlen' hplainx (p := s0.toPart.working l 1#8 plain) (l := l) with
      ⟨why, results, hv, hshort⟩ | ⟨j, e, hfirst, hcj, hopenj⟩ | ⟨j, rest, n, pl, hnew, hfree, hplan, hsome⟩
    · have hrefused := (refuses_of_rule (c := .alert l plain) (code := 1#8) (ops := plain) hs0 rfl hv).at hexec
      rw [hrefused.1.reply] at hreply
      have hlength := congrArg List.length (Option.some.inj hreply)
      simp only [List.length_cons, List.length_nil] at hlength
      omega
    · have hfirst0 := (hst'.findLive _).symm.trans hfirst
      have hcj0 := (hst'.callout? j).symm.trans hcj
      exact concludes (merged_opens hst' hlen' hplainx hfirst0 hcj0 hopenj) (merged_opens hst hlen hx hfirst0 hcj0 hopenj)
    · have hnew0 : ∀ k d, s0.callout? k = some d → d.reference ≠ x.reference := fun k d hd =>
        hnew k d ((hst'.callout? k).trans hd)
      rw [hst'.table] at hfree
      rw [Part.working_resolvePlan] at hplan
      rw [Part.working_attempt] at hsome
      exact concludes (fresh_opens hst' hlen' hplainx hfree hnew0 hplan hsome) (fresh_opens hst hlen hx hfree hnew0 hplan hsome)

end Sys2Proof.Machine

/-! Withdrawal of a callout's batches and demands, and what the page queue holds after it (R138 to R140, R154). -/

namespace Sys2Proof.Machine
open Sys2Proof

variable {p q r s t : Part} {i : SlotId} {c : Callout} {d : Demand} {o : Owner} {ks : BatchKind → Bool}

/-! ### A withdrawal request -/

/-- The part with another page queue, but for its reports, and another state of the sequencer. -/
def Part.holding (queue : List Batch) (demands : List Demand) (x : Sequencer) (p : Part) : Part :=
  { p with
    pages := { p.pages with
      queue := queue
      demands := demands }
    sites := { p.sites with sequencer := x } }

theorem Part.without_holding (o : Owner) (ks : BatchKind → Bool) (p : Part) :
    p.without o ks = p.holding (p.without o ks).pages.queue (p.without o ks).pages.demands (p.without o ks).sites.sequencer
    ∧ (p.without o ks).pages.reports = p.pages.reports := by
  unfold Part.without Part.holding
  dsimp only
  split
  · exact ⟨rfl, rfl⟩
  · split
    · split <;> exact ⟨rfl, rfl⟩
    · exact ⟨rfl, rfl⟩

theorem SamePages.without (h : SamePages p q) (o : Owner) (ks : BatchKind → Bool) :
    SamePages (p.without o ks) (q.without o ks) := by
  unfold Part.without
  dsimp only
  rw [h.1, h.2]
  split
  · exact ⟨rfl, rfl⟩
  · split
    · split <;> exact ⟨rfl, rfl⟩
    · exact ⟨rfl, rfl⟩

theorem Paging.without (h : Paging s p) (o : Owner) (ks : BatchKind → Bool) : Paging (s.without o ks) (p.without o ks) := by
  have hs := (s.without_holding o ks).1
  have hp := (p.without_holding o ks).1
  refine ⟨h.same.without o ks, ?_, ?_, fun d => ?_⟩ <;> rw [hs, hp]
  · exact h.supply
  · exact h.pins
  · exact h.form d

/-- A withdrawal for a callout, where admission then changes nothing. -/
theorem Paging.withdrawFor (h : Paging s p) (hc : p.callout? i = some c) (hw : (s.without c.owner ks).HeadWaits) :
    Paging (s.without c.owner ks) (p.withdrawFor i ks).2 := by
  have hwithout := h.without c.owner ks
  have hwaits : (p.without c.owner ks).HeadWaits := fun d rest hd => by
    rw [hwithout.same.1] at hd ⊢
    exact hw d rest hd
  rw [Part.withdrawFor_eq hc, Part.withdraw_part, Part.tryAdmissions_of_headWaits _ hwaits]
  dsimp only
  split
  · exact hwithout.trans ((Paging.modify (f := Callout.withFlags fun f => { f with txDegraded := true }) i _ fun _ _ => rfl).trans
      (.raise _ _))
  · exact hwithout

/-! ### What the page queue holds -/

theorem Batch.remaining_settledAt {b : Batch} (h : b.remaining = []) (k : SiteId) (x : PassOutcome) :
    (b.settledAt k x).remaining = [] := by
  unfold Batch.remaining Batch.settledAt at *
  rw [List.filter_eq_nil_iff] at *
  intro e he
  obtain ⟨e, hmem, rfl⟩ := List.mem_map.mp he
  split
  · exact nofun
  · exact h e hmem

/-- What is asked of a batch, by what the page queue never changes of it. -/
abbrev BatchRule := BatchKind → Owner → List Page → Prop

/-- Demands waiting are of one sort, and so are the batches, but for those withdrawing or ended. -/
structure Part.Holds (P : Demand → Prop) (Q : BatchRule) (p : Part) : Prop where
  demands : ∀ d ∈ p.pages.demands, P d
  queue   : ∀ b ∈ p.pages.queue, Q b.kind b.owner b.pages ∨ b.withdrawing = true ∨ b.remaining = []

/-- A demand of the one sort makes a batch of the other, if any. -/
def Part.Yields (P : Demand → Prop) (Q : BatchRule) (p : Part) : Prop :=
  ∀ d, P d → p.formPages d = [] ∨ Q d.kind d.owner (p.formPages d)

section
variable {P : Demand → Prop} {Q : BatchRule} {b : Batch} {rest : List Batch}

theorem Part.Yields.paging (h : p.Yields P Q) (hp : ∀ d, q.formPages d = p.formPages d) : q.Yields P Q := fun d hd => by
  rw [hp]
  exact h d hd

namespace Part.Holds

theorem of_pages (h : p.Holds P Q) (hp : q.pages = p.pages) : q.Holds P Q :=
  ⟨by rw [hp]; exact h.demands, by rw [hp]; exact h.queue⟩

theorem report (h : p.Holds P Q) (x : Report) : (p.report x).Holds P Q := ⟨h.demands, h.queue⟩

theorem setDemands (h : p.Holds P Q) {l : List Demand} (hl : ∀ d ∈ l, P d) : (p.setDemands l).Holds P Q := ⟨hl, h.queue⟩

theorem withQueue (h : p.Holds P Q) {l : List Batch}
    (hl : ∀ b ∈ l, Q b.kind b.owner b.pages ∨ b.withdrawing = true ∨ b.remaining = []) : (p.withQueue l).Holds P Q :=
  ⟨h.demands, hl⟩

theorem admission (h : p.Holds P Q) (hy : p.Yields P Q) (hd : P d) : (p.admission d).Holds P Q := by
  have hflip : ({ p with sites := { p.sites with direction := p.sites.direction.flip } } : Part).Holds P Q := ⟨h.demands, h.queue⟩
  rw [Part.admission_eq]
  split
  · exact hflip.report _
  next hpages =>
    split
    · exact hflip.report _
    · exact ⟨h.demands, fun b hb => (List.mem_append.mp hb).elim (h.queue b) fun hb => by
        rw [List.mem_singleton.mp hb]
        exact .inl ((hy d hd).resolve_left hpages)⟩

theorem admission_yields (hy : p.Yields P Q) (d : Demand) : (p.admission d).Yields P Q := by
  rw [Part.admission_eq]
  exact hy

theorem admitFrom (hy : p.Yields P Q) {l : List Demand} (hl : ∀ d ∈ l, P d) (h : p.Holds P Q) :
    (Part.admitFrom l p).Holds P Q := by
  induction l generalizing p with
  | nil => exact h.setDemands hl
  | cons d rest ih =>
    have hrest : ∀ d ∈ rest, P d := fun e he => hl e (List.mem_cons_of_mem _ he)
    unfold Part.admitFrom
    split
    · exact ih (admission_yields hy d) hrest (h.admission hy (hl d List.mem_cons_self))
    · exact h.setDemands hl

theorem tryAdmissions (h : p.Holds P Q) (hy : p.Yields P Q) : p.tryAdmissions.Holds P Q := admitFrom hy h.demands h

theorem demand (h : p.Holds P Q) (hy : p.Yields P Q) (hd : P d) : (p.demand d).Holds P Q := by
  unfold Part.demand
  split
  · exact h.admission hy hd
  · split
    · exact h.setDemands fun e he => (List.mem_append.mp he).elim (h.demands e) fun he => List.mem_singleton.mp he ▸ hd
    · exact h.report _

theorem settle (h : p.Holds P Q) (k : SiteId) (x : PassOutcome) : (p.settle k x).Holds P Q := by
  cases hq : p.pages.queue with
  | nil =>
    unfold Part.settle Part.current?
    rw [hq]
    exact h
  | cons b rest =>
    rw [Part.settle_cons hq]
    refine ⟨h.demands, fun y hy => ?_⟩
    rcases List.mem_cons.mp hy with rfl | hy
    · refine (h.queue b (by rw [hq]; exact List.mem_cons_self)).imp id (.imp id fun hrem => ?_)
      exact Batch.remaining_settledAt hrem k x
    · exact h.queue y (by rw [hq]; exact List.mem_cons_of_mem _ hy)

theorem onCurrent (h : p.Holds P Q) (hq : p.pages.queue = b :: rest) (hrem : b.remaining ≠ []) {f : Batch → Batch}
    (hf : (f b).kind = b.kind ∧ (f b).owner = b.owner ∧ (f b).pages = b.pages ∧ (f b).withdrawing = b.withdrawing) :
    (p.onCurrent f).Holds P Q := by
  obtain ⟨hkind, howner, hpages, hwithdrawing⟩ := hf
  rw [Part.onCurrent_withQueue hq]
  refine h.withQueue fun y hy => ?_
  rcases List.mem_cons.mp hy with rfl | hy
  · rw [hkind, howner, hpages, hwithdrawing]
    exact (h.queue b (by rw [hq]; exact List.mem_cons_self)).imp id fun h => .inl (h.resolve_right hrem)
  · exact h.queue y (by rw [hq]; exact List.mem_cons_of_mem _ hy)

theorem clearCheck (h : p.Holds P Q) (hq : p.pages.queue = b :: rest) (hrem : b.remaining ≠ []) (k : SiteId) :
    (p.clearCheck k).Holds P Q := by
  rw [Part.clearCheck_eq hq]
  split
  · refine of_pages (p := p.onCurrent Batch.start) (h.onCurrent hq hrem ⟨rfl, rfl, rfl, rfl⟩) ?_
    rw [Part.onCurrent_withQueue hq]
    rfl
  · exact ⟨h.demands, h.queue⟩

theorem turn (h : p.Holds P Q) : p.turn.Holds P Q := by
  cases hq : p.pages.queue with
  | nil =>
    unfold Part.turn Part.current?
    rw [hq]
    exact h
  | cons b rest =>
    cases hrem : b.remaining with
    | nil =>
      unfold Part.turn Part.current?
      simp only [hq, List.head?_cons, hrem]
      exact h
    | cons e more =>
      have hne : b.remaining ≠ [] := by simp [hrem]
      unfold Part.turn Part.current?
      simp only [hq, List.head?_cons, hrem]
      split
      · exact h.settle _ _
      · exact h.settle _ _
      · exact h.onCurrent hq hne ⟨rfl, rfl, rfl, rfl⟩
      · exact h.clearCheck hq hne _

theorem leaveQueue (h : p.Holds P Q) (hy : p.Yields P Q) : p.leaveQueue.Holds P Q :=
  tryAdmissions (p := p.onPages fun q => { q with queue := q.queue.tail })
    ⟨h.demands, fun b hb => h.queue b (List.mem_of_mem_tail hb)⟩ hy

end Part.Holds

/-! ### A withdrawal leaves only the rest -/

theorem Part.Holds.mono {P' : Demand → Prop} {Q' : BatchRule} (h : p.Holds P Q) (hP : ∀ d, P d → P' d)
    (hQ : ∀ k o pages, Q k o pages → Q' k o pages) : p.Holds P' Q' :=
  ⟨fun d hd => hP d (h.demands d hd), fun b hb => (h.queue b hb).imp (hQ _ _ _) id⟩

theorem Part.Holds.ite {b : Prop} [Decidable b] (hp : p.Holds P Q) (hq : q.Holds P Q) : (if b then p else q).Holds P Q := by
  split
  · exact hp
  · exact hq

/-- Not one of the kinds of this owner. -/
def Spared (o : Owner) (ks : BatchKind → Bool) (owner : Owner) (k : BatchKind) : Prop := owner = o → ks k = false

theorem not_named_iff (o : Owner) (ks : BatchKind → Bool) (owner : Owner) (k : BatchKind) :
    (!(owner == o && ks k)) = true ↔ Spared o ks owner k := by
  unfold Spared
  by_cases h : owner = o <;> simp [h]

theorem Part.Holds.without (h : p.Holds P Q) (o : Owner) (ks : BatchKind → Bool) : (p.without o ks).Holds
    (fun d => P d ∧ Spared o ks d.owner d.kind) (fun k w pages => Q k w pages ∧ Spared o ks w k) := by
  have hdemands : ∀ d ∈ p.pages.demands.filter (fun d => !(d.owner == o && ks d.kind)), P d ∧ Spared o ks d.owner d.kind :=
    fun d hd => ⟨h.demands d (List.mem_filter.mp hd).1, (not_named_iff o ks d.owner d.kind).mp (List.mem_filter.mp hd).2⟩
  have hbehind : ∀ b ∈ p.pages.queue.tail.filter (fun b => !(b.owner == o && ks b.kind)),
      (Q b.kind b.owner b.pages ∧ Spared o ks b.owner b.kind) ∨ b.withdrawing = true ∨ b.remaining = [] := fun b hb =>
    (h.queue b (List.mem_of_mem_tail (List.mem_filter.mp hb).1)).imp
      (fun hQ => ⟨hQ, (not_named_iff o ks b.owner b.kind).mp (List.mem_filter.mp hb).2⟩) id
  unfold Part.without
  dsimp only
  split
  · exact ⟨hdemands, fun b hb => absurd hb List.not_mem_nil⟩
  next b rest hq =>
    have hb := h.queue b (by rw [hq]; exact List.mem_cons_self)
    split
    · refine .ite ⟨hdemands, fun y hy => ?_⟩ ⟨hdemands, hbehind⟩
      rcases List.mem_cons.mp hy with rfl | hy
      · exact .inr (.inl rfl)
      · exact hbehind y hy
    next hnamed =>
      refine ⟨hdemands, fun y hy => ?_⟩
      rcases List.mem_cons.mp hy with rfl | hy
      · by_cases hspared : Spared o ks y.owner y.kind
        · exact hb.imp (fun h => ⟨h, hspared⟩) id
        · refine .inr ?_
          have hmine : (y.owner == o && ks y.kind) = true := by
            simpa using mt (not_named_iff o ks y.owner y.kind).mp hspared
          rw [hmine, Bool.true_and] at hnamed
          by_cases hw : y.withdrawing = true
          · exact .inl hw
          · exact .inr (by simpa [hw] using hnamed)
      · exact hbehind y hy

theorem Part.Holds.withdraw (h : p.Holds P Q) (hy : p.Yields P Q) (o : Owner) (ks : BatchKind → Bool) :
    (p.withdraw o ks).2.Holds P Q := by
  have hform (d : Demand) : (p.without o ks).formPages d = p.formPages d := by
    rw [(p.without_holding o ks).1]
    rfl
  rw [Part.withdraw_part]
  exact ((h.without o ks).mono (fun _ h => h.1) fun _ _ _ h => h.1).tryAdmissions (hy.paging hform)

/-! ### What the page queue holds after a rule, and after the work -/

theorem Paging.of_roster (hsame : SamePages p q) (hsupply : q.supply = p.supply) (hpins : q.pins = p.pins)
    (hroster : q.roster.core = p.roster.core) (hc : ∀ j, (q.callout? j).map Callout.heading = (p.callout? j).map Callout.heading) :
    Paging p q := by
  refine ⟨hsame, hsupply, hpins, Part.formPages_congr (congrArg Roster.groups hroster :) (fun m => ?_) hc⟩
  have hm : (q.member? m).map (fun x => { x with engaged := none }) = (p.member? m).map fun x => { x with engaged := none } := by
    have := congrArg (fun r : Roster => r.members.get m) hroster
    simp only [Roster.core, Table.get_map] at this
    exact this
  have := congrArg (Option.map Member.address) hm
  rw [Option.map_map, Option.map_map] at this
  exact this

theorem Paging.releaseMembers (i : SlotId) (ms : List MemberId) (p : Part) : Paging p (p.releaseMembers i ms) := by
  have hwork := p.releaseMembers_work i ms
  refine .of_roster (p.releaseMembers_pages i ms) hwork.supply hwork.pins hwork.roster fun j => ?_
  by_cases hj : i = j
  · subst hj
    rw [Part.callout?_releaseMembers, Option.map_map]
    rfl
  · rw [Part.callout?_releaseMembers_ne hj]

theorem Paging.recompute (i : SlotId) (p : Part) : Paging p (p.recompute i) := by
  have hwork := p.recompute_work i
  refine .of_roster (p.recompute_pages i) hwork.supply hwork.pins hwork.roster fun j => ?_
  rw [Part.callout?_recompute]
  split
  · rw [Option.map_map]
    rfl
  · rfl

theorem Paging.enter (i : SlotId) (st : CalloutState) (p : Part) : Paging p (p.enter i st) :=
  (Paging.modify (f := fun c => { c with state := st }) i p fun _ _ => rfl).trans (.raise _ _)

theorem Paging.enterCounting (i : SlotId) (p : Part) : Paging p (p.enterCounting i) :=
  (Paging.enter i .counting p).trans (.modify (f := Callout.startWindow) i _ fun _ _ => rfl)

theorem Paging.degrade (i : SlotId) (p : Part) : Paging p (p.degrade i) :=
  (Paging.modify (f := Callout.withFlags fun f => { f with txDegraded := true }) i p fun _ _ => rfl).trans (.raise _ _)

theorem Part.Holds.paging (h : p.Holds P Q) (hp : Paging p q) : q.Holds P Q := h.of_pages hp.same.1

theorem Part.Yields.of_paging (h : p.Yields P Q) (hp : Paging p q) : q.Yields P Q := h.paging hp.form

theorem Part.Holds.demandReleases (h : p.Holds P Q) (hy : p.Yields P Q)
    (hr : ∀ ms, P { kind := .release, owner := o, content := .members ms, restrict := .all }) (ms : List MemberId) :
    (p.demandReleases o ms).Holds P Q := by
  have one {q : Part} (hq : q.Holds P Q ∧ q.Yields P Q) (l : List MemberId) :
      (if l = [] then q else q.demandMembers .release o l).Holds P Q
        ∧ (if l = [] then q else q.demandMembers .release o l).Yields P Q := by
    split
    · exact hq
    · refine ⟨hq.1.demand hq.2 (hr l), hq.2.paging fun d => ?_⟩
      exact Part.formPages_congr (by rw [Part.demandMembers, (Part.demand_onlyPages _ _).roster])
        (fun m => by rw [Part.demandMembers, Part.member?, (Part.demand_onlyPages _ _).roster]; rfl)
        (fun j => by rw [Part.demandMembers, (Part.demand_onlyPages _ _).callout?]) d
  exact (one (one ⟨h, hy⟩ _) _).1

theorem Part.Holds.enterCrewed (h : p.Holds P Q) (hy : p.Yields P Q) (hc : p.callout? i = some c)
    (hr : ∀ ms, P { kind := .release, owner := c.owner, content := .members ms, restrict := .all }) :
    (p.enterCrewed i).Holds P Q := by
  have hentered : Paging p ((p.enter i .crewed).modify i Callout.stopWindow) :=
    (Paging.enter i .crewed p).trans (.modify (f := Callout.stopWindow) i _ fun _ _ => rfl)
  have hcallout : ((p.enter i .crewed).modify i Callout.stopWindow).callout? i
      = some ({ c with state := .crewed } : Callout).stopWindow := by
    rw [Part.callout?_modify_self, Part.callout?_enter, if_pos rfl, hc]
    rfl
  unfold Part.enterCrewed
  simp only [hcallout]
  split
  · exact h.paging hentered
  · have hreleased := hentered.trans (.releaseMembers i (({ c with state := .crewed } : Callout).stopWindow).assessment.surplus _)
    exact ((h.paging hreleased).demandReleases (hy.of_paging hreleased) hr _).paging (.recompute i _)

theorem Part.Holds.takeOutcome (h : p.Holds P Q) (hy : p.Yields P Q) (hc : p.callout? i = some c)
    (hr : c.Enters → ∀ ms, P { kind := .release, owner := c.owner, content := .members ms, restrict := .all }) :
    (p.takeOutcome i).Holds P Q := by
  by_cases he : c.Enters
  · rw [Part.takeOutcome_of_enters hc he]
    exact h.enterCrewed hy hc (hr he)
  · exact h.of_pages (Part.takeOutcome_samePages hc he).1

theorem Part.Holds.becomeFree (h : p.Holds P Q) (hy : p.Yields P Q) (i : SlotId) (endCode : Nat) :
    (p.becomeFree i endCode).Holds P Q := by
  have hwithdrawn : (p.withdrawFor i everyKind).2.Holds P Q := by
    cases hc : p.callout? i with
    | none =>
      unfold Part.withdrawFor
      rw [hc]
      exact h
    | some c =>
      rw [Part.withdrawFor_eq hc]
      dsimp only
      split
      · exact (h.withdraw hy _ _).paging (.degrade i _)
      · exact h.withdraw hy _ _
  unfold Part.becomeFree
  dsimp only
  split
  · exact hwithdrawn
  · exact hwithdrawn.of_pages rfl

/-- The demands of that sort make batches of that sort, and so do the RELEASE demands of the callouts that work may release
members of. -/
structure Part.Fits (P : Demand → Prop) (Q : BatchRule) (p : Part) : Prop where
  yields   : p.Yields P Q
  releases : ∀ j e ms, p.callout? j = some e → e.state = .alerting →
    P { kind := .release, owner := e.owner, content := .members ms, restrict := .all }

theorem Part.Holds.takeReport (h : p.Holds P Q) (hf : p.Fits P Q) (x : Report) : (p.takeReport x).Holds P Q := by
  cases x with
  | pass o outcome groups =>
    cases hi : p.findOwner o with
    | none =>
      rw [(Part.takeReport_unowned hi outcome groups .alert .complete true).1]
      exact h
    | some i =>
      rw [Part.takeReport_pass hi]
      exact .ite (h.of_pages (p.modify_pages i _).1) h
  | ended o kind form failed =>
    cases hi : p.findOwner o with
    | none =>
      rw [(Part.takeReport_unowned hi .done 0#16 kind form failed).2]
      exact h
    | some i =>
      have hdegraded : Paging p (if failed = true then p.degrade i else p) := .ite (.degrade i p) (.refl p)
      obtain ⟨c, hc, -⟩ := Part.findLive_eq_some hi
      have hc' := Part.callout?_degradeIf failed p i i
      rw [if_pos rfl, hc, Option.map_some] at hc'
      rw [Part.takeReport_ended hi]
      generalize (if failed = true then p.degrade i else p) = q at hdegraded hc'
      have hq := h.paging hdegraded
      have hyields := hf.yields.of_paging hdegraded
      refine .ite hq ?_
      unfold Part.batchEnded
      rw [hc']
      cases kind with
      | alert =>
        have hended : Paging q (q.modify i fun c => { c with alertStatus := .ended }) := .modify i q fun _ _ => rfl
        have he : (q.modify i fun c => { c with alertStatus := .ended }).callout? i
            = some { c.degradedIf failed with alertStatus := .ended } := by
          rw [Part.callout?_modify_self, hc']
          rfl
        unfold Part.alertEnded
        simp only [he]
        split
        next halerting =>
          have hcounting := hended.trans (.enterCounting i _)
          have hentered := Part.callout?_enterCounting i i (q.modify i fun c => { c with alertStatus := .ended })
          rw [if_pos rfl, he, Option.map_some] at hentered
          exact (hq.paging hcounting).takeOutcome (hyields.of_paging hcounting) hentered
            fun _ ms => hf.releases i c ms hc halerting
        next => exact hq.paging hended
      | standDown => exact .ite (hq.becomeFree hyields i 3) hq
      | supplement | repage | escalate | release => exact hq

theorem Part.Holds.workStep (h : p.Holds P Q) (hf : p.Fits P Q) (hs : p.workStep = some q) : q.Holds P Q := by
  cases hr : p.pages.reports with
  | cons x rest =>
    rw [Part.workStep_reports hr] at hs
    cases hs
    exact Part.Holds.takeReport (p := { p with pages := { p.pages with reports := rest } }) ⟨h.demands, h.queue⟩
      ⟨hf.yields, hf.releases⟩ x
  | nil =>
    unfold Part.workStep at hs
    rw [hr] at hs
    dsimp only at hs
    split at hs
    · split at hs
      · cases hs
      · split at hs
        · cases hs
          exact h.leaveQueue hf.yields
        · split at hs
          · cases hs
          · cases hs
            exact h.turn
    · cases hs

/-- The work keeps what the page queue holds, when that fits whatever it may leave of the callouts. -/
theorem Part.Holds.finish (h : p.Holds P Q) (hf : ∀ q, WorkFrame none p q → q.Fits P Q) : p.finish.Holds P Q := by
  have hwork : p.work.Holds P Q ∧ WorkFrame none p p.work :=
    Part.work_keeps (I := fun q => q.Holds P Q ∧ WorkFrame none p q)
      (fun _ _ hs hq => ⟨hq.1.workStep (hf _ hq.2) hs, hq.2.trans (Part.workStep_work hs none)⟩) ⟨h, .refl none p⟩
  exact hwork.1.of_pages rfl

/-! ### Only what has been spared -/

/-- A demand that a withdrawal spares, and a batch. -/
def SparedDemand (o : Owner) (ks : BatchKind → Bool) (d : Demand) : Prop := Spared o ks d.owner d.kind
def SparedBatch (o : Owner) (ks : BatchKind → Bool) : BatchRule := fun k w _ => Spared o ks w k

theorem Part.spared_yields (o : Owner) (ks : BatchKind → Bool) (p : Part) : p.Yields (SparedDemand o ks) (SparedBatch o ks) :=
  fun _ hd => .inr hd

theorem Part.spared_fits (hk : ks .release = false) (o : Owner) (p : Part) : p.Fits (SparedDemand o ks) (SparedBatch o ks) :=
  ⟨p.spared_yields o ks, fun _ _ _ _ _ _ => hk⟩

theorem Part.withdrawFor_spared (hc : p.callout? i = some c) (ks : BatchKind → Bool) :
    (p.withdrawFor i ks).2.Holds (SparedDemand c.owner ks) (SparedBatch c.owner ks) := by
  have hall : p.Holds (fun _ => True) (fun _ _ _ => True) := ⟨fun _ _ => trivial, fun _ _ => .inl trivial⟩
  have hwithout : (p.without c.owner ks).Holds (SparedDemand c.owner ks) (SparedBatch c.owner ks) :=
    (hall.without c.owner ks).mono (fun _ h => h.2) fun _ _ _ h => h.2
  have hwithdrawn := hwithout.tryAdmissions (Part.spared_yields c.owner ks _)
  rw [Part.withdrawFor_eq hc, Part.withdraw_part]
  dsimp only
  exact .ite (hwithdrawn.paging (.degrade i _)) hwithdrawn

end

end Sys2Proof.Machine

/-! Several demands handed to the page queue one after the other (R131 to R134, R147 to R150). -/

namespace Sys2Proof.Machine
open Sys2Proof

variable {p q r s t : Part} {i : SlotId} {c : Callout} {d : Demand} {ds : List Demand}

/-- These demands, handed over in their order. -/
def Part.demandAll (ds : List Demand) (p : Part) : Part :=
  ds.foldl (fun p d => p.demand d) p

theorem Part.demandAll_cons (d : Demand) (ds : List Demand) (p : Part) :
    p.demandAll (d :: ds) = (p.demand d).demandAll ds := rfl

theorem Part.demandAll_append (ds es : List Demand) (p : Part) :
    p.demandAll (ds ++ es) = (p.demandAll ds).demandAll es := List.foldl_append

theorem Paging.demandAll (ds : List Demand) (h : Paging p q) : Paging (p.demandAll ds) (q.demandAll ds) := by
  induction ds generalizing p q with
  | nil => exact h
  | cons d ds ih => exact ih (h.demand d)

theorem Trails.demandAll (hk : ∀ d ∈ ds, d.kind ≠ .alert ∧ d.kind ≠ .standDown) (p : Part) : Trails p (p.demandAll ds) := by
  induction ds generalizing p with
  | nil => exact .refl p
  | cons d ds ih =>
    exact (Trails.demand (hk d List.mem_cons_self) p).trans (ih (fun e he => hk e (List.mem_cons_of_mem _ he)) _)

/-! ### What becomes of them -/

/-- Behind a demand that waits, all wait. -/
theorem Part.demandAll_of_waiting (hne : s.pages.demands ≠ []) (hlen : s.pages.demands.length + ds.length ≤ 16) :
    s.demandAll ds = s.setDemands (s.pages.demands ++ ds) := by
  induction ds generalizing s with
  | nil =>
    rw [List.append_nil]
    rfl
  | cons d ds ih =>
    rw [List.length_cons] at hlen
    rw [Part.demandAll_cons, Part.demand_of_wait (.inl hne) (by omega)]
    have hdemands : (s.setDemands (s.pages.demands ++ [d])).pages.demands = s.pages.demands ++ [d] := rfl
    rw [ih (by simp [hdemands]) (by rw [hdemands, List.length_append, List.length_singleton]; omega), hdemands, List.append_assoc]
    rfl

/-- The part once the first `n` of the demands are batches in its queue and the others wait. -/
def Part.taken (ds : List Demand) (n : Nat) (s : Part) : Part :=
  { s with
    sites := { s.sites with direction := Direction.flip^[n] s.sites.direction }
    pages := { s.pages with
      queue := s.pages.queue ++ (ds.take n).mapIdx fun j d => s.batchAt j d
      demands := ds.drop n } }

/-- The first of several demands is admitted. -/
def Part.admitted (d : Demand) (s : Part) : Part :=
  { s with
    sites := { s.sites with direction := s.sites.direction.flip }
    pages := { s.pages with queue := s.pages.queue ++ [s.batchFor d] } }

theorem Part.admitted_batchAt (d : Demand) (s : Part) (n : Nat) : (s.admitted d).batchAt n = s.batchAt (n + 1) := rfl

theorem Part.admitted_taken (d : Demand) (ds : List Demand) (n : Nat) (s : Part) :
    (s.admitted d).taken ds n = s.taken (d :: ds) (n + 1) := by
  unfold Part.taken
  rw [List.take_succ_cons, List.mapIdx_cons]
  unfold Part.admitted
  simp only [List.append_assoc, List.singleton_append]
  rfl

theorem Part.room_iff (s : Part) (d : Demand) :
    s.pages.room d = true ↔ (s.pages.queue.map fun b => 1 + b.pages.length).sum + d.size ≤ 64 := decide_eq_true_iff

theorem Part.usedAfter_cons (d : Demand) (ds : List Demand) (n : Nat) (s : Part) :
    (s.admitted d).usedAfter ds n = s.usedAfter (d :: ds) (n + 1) := by
  unfold Part.usedAfter Part.admitted
  simp only [List.map_append, List.sum_append, List.take_succ_cons, List.map_cons, List.sum_cons, List.map_nil, List.sum_nil]
  show _ + (1 + (s.formPages d).length + 0) + (List.map (fun d => 1 + (s.formPages d).length) _).sum = _
  omega

/-- With none waiting, the demands are admitted until one finds no room, and from that one on they wait. -/
theorem Part.demandAll_of_none (hnone : s.pages.demands = []) (hlen : ds.length ≤ 16)
    (hok : ∀ n d, ds[n]? = some d → (s.batchAt n d).pages ≠ [] ∧ (s.batchAt n d).sites ≠ []) :
    ∃ n ≤ ds.length, s.demandAll ds = s.taken ds n ∧ ∀ j d, ds[j]? = some d →
      (j < n → s.usedAfter ds j + d.size ≤ 64) ∧ (j = n → 64 < s.usedAfter ds j + d.size) := by
  induction ds generalizing s with
  | nil =>
    refine ⟨0, le_rfl, ?_, fun j d h => by simp at h⟩
    unfold Part.taken
    rw [List.take_nil, List.mapIdx_nil, List.append_nil, List.drop_nil]
    show s = _
    conv_lhs => rw [show s = s.setDemands [] by unfold Part.setDemands; rw [← hnone]]
    rfl
  | cons d ds ih =>
    obtain ⟨hpages, hsites⟩ := hok 0 d rfl
    by_cases hroom : s.pages.room d = true
    · have hadmitted : s.demand d = s.admitted d :=
        (Part.demand_of_room hnone hroom).trans (Part.admission_enters hpages hsites)
      obtain ⟨n, hn, htaken, hfit⟩ := ih (s := s.admitted d) hnone (by simp at hlen; omega) fun n e he => hok (n + 1) e he
      refine ⟨n + 1, Nat.succ_le_succ hn, ?_, fun j e he => ?_⟩
      · rw [Part.demandAll_cons, hadmitted, htaken, Part.admitted_taken]
      · cases j with
        | zero =>
          cases he
          exact ⟨fun _ => (s.room_iff d).mp hroom, fun h => absurd h (by omega)⟩
        | succ j =>
          obtain ⟨h1, h2⟩ := hfit j e he
          rw [Part.usedAfter_cons] at h1 h2
          exact ⟨fun h => h1 (by omega), fun h => h2 (by omega)⟩
    · refine ⟨0, Nat.zero_le _, ?_, fun j e he => ⟨fun h => absurd h (by omega), fun h => ?_⟩⟩
      · rw [Part.demandAll_cons, Part.demand_of_wait (.inr (Bool.eq_false_iff.mpr hroom)) (by rw [hnone]; exact Nat.zero_lt_succ 15)]
        rw [Part.demandAll_of_waiting (by show s.pages.demands ++ [d] ≠ []; simp)
          (by show (s.pages.demands ++ [d]).length + _ ≤ 16; simp [hnone] at hlen ⊢; omega)]
        unfold Part.taken
        simp only [List.take_zero, List.mapIdx_nil, List.append_nil, List.drop_zero]
        show s.setDemands ((s.pages.demands ++ [d]) ++ ds) = _
        rw [hnone]
        rfl
      · subst h
        cases he
        exact Nat.not_le.mp fun h => hroom ((s.room_iff d).mpr h)

/-! ### The work that follows them -/

/-- Light reports are taken, and no turn can be taken: the page queue stays. -/
theorem Part.settled_finish (hquiet : s.Quiet) (hlight : ∀ x ∈ p.pages.reports, x.light)
    (hseq : p.sites.sequencer = s.sites.sequencer)
    (hhead : ∀ b rest, p.pages.queue = b :: rest → ∃ rest', s.pages.queue = b :: rest') :
    p.finish.pages.queue = p.pages.queue ∧ p.finish.pages.demands = p.pages.demands := by
  obtain ⟨q, hwork, hq⟩ := Part.work_light hlight
  have hquiet' : q.Quiet := hquiet.of_head (congrArg PageQueue.reports hq.pages)
    ((congrArg SiteUnit.sequencer hq.sites).trans hseq) fun b rest hb =>
      hhead b rest ((congrArg PageQueue.queue hq.pages).symm.trans hb)
  have hfinish : p.finish.pages = q.pages := by
    unfold Part.finish
    rw [hwork, Part.work_of_quiet hquiet']
    rfl
  rw [hfinish, hq.pages]
  exact ⟨rfl, rfl⟩

/-- Light reports are taken, and the first batch has its first turn. -/
theorem Part.turned_finish {b : Batch} {rest : List Batch} {e : SiteEntry} {more : List SiteEntry}
    (hlight : ∀ x ∈ p.pages.reports, x.light) (hidle : p.sites.sequencer = .idle)
    (hrecords : p.sites.records = s.sites.records) (hpins : p.pins = s.pins) (hsupply : p.supply = s.supply)
    (hqueue : p.pages.queue = b :: rest) (hrem : b.remaining = e :: more) (hfresh : b.withdrawing = false ∧ b.started = false)
    (hin : s.inhibited e.site = false) (hcost : s.turnCost e.site b.pages ≤ (s.sites.records.get e.site).credit)
    (hcredit : (s.sites.records.get e.site).credit ≤ (s.sites.records.get e.site).ceiling) :
    TurnBegun e.site b.pages s p.finish
      ∧ p.finish.pages.queue = { b with started := s.pins.channelClear.get e.site } :: rest
      ∧ p.finish.pages.demands = p.pages.demands := by
  obtain ⟨q, hwork, hl⟩ := Part.work_light hlight
  have hsites : q.sites.records = s.sites.records := (congrArg SiteUnit.records hl.sites).trans hrecords
  have hqueue' : q.pages.queue = b :: rest := (congrArg PageQueue.queue hl.pages).trans hqueue
  have hin' : q.inhibited e.site = false := by
    have hsup : q.supply = s.supply := hl.supply.trans hsupply
    unfold Part.inhibited at hin ⊢
    rw [hsup, hsites]
    exact hin
  have hturn := Part.work_turn (congrArg PageQueue.reports hl.pages)
    ((congrArg SiteUnit.sequencer hl.sites).trans hidle) hqueue' hrem hfresh.1 hin'
    (by unfold Part.turnCost at hcost ⊢; rw [hsites]; exact hcost) (by rw [hsites]; exact hcredit)
  have hbegun := q.clearCheck_turnBegun (s := s) hqueue' (k := e.site) hsites
    (congrArg Pins.channelClear (hl.pins.trans hpins))
  have hdemands : (q.clearCheck e.site).pages.demands = q.pages.demands := by
    rw [Part.clearCheck_eq hqueue']
    split <;> rfl
  rw [hfresh.2, Bool.false_or] at hbegun
  unfold Part.finish
  rw [hwork, hturn]
  exact ⟨hbegun.1, hbegun.2, hdemands.trans (congrArg PageQueue.demands hl.pages :)⟩

theorem Part.batchAt_remaining (s : Part) (n : Nat) (d : Demand) : (s.batchAt n d).remaining = (s.batchAt n d).sites := by
  unfold Batch.remaining Part.batchAt
  rw [List.filter_eq_self]
  intro e he
  obtain ⟨k, -, rfl⟩ := List.mem_map.mp he
  rfl

theorem Part.batchAt_inhibited {n : Nat} {e : SiteEntry} (h : e ∈ (s.batchAt n d).sites) : s.inhibited e.site = false := by
  obtain ⟨k, hk, rfl⟩ := List.mem_map.mp h
  have := (List.mem_filter.mp (List.mem_filter.mp hk).1).2
  simp only [Bool.and_eq_true, Bool.not_eq_true'] at this
  exact this.2

/-- A command that hands over these demands, with more behind them. -/
theorem Trails.handedAll (hquiet : s.Quiet) (hcan : s.CanTake ds) (h : Trails (s.demandAll ds) p) :
    HandedAll ds s p.finish := by
  obtain ⟨hlen, hnone⟩ := hcan
  obtain ⟨queue, hqueue⟩ := h.queue
  obtain ⟨demands, hdemands⟩ := h.demands
  obtain ⟨reports, hreports, hlight⟩ := h.reports
  have hlight' (hr : (s.demandAll ds).pages.reports = []) : ∀ x ∈ p.pages.reports, x.light := fun x hx =>
    hlight x (by rw [hreports, hr] at hx; exact hx)
  have hwaits := h.waits
  refine ⟨fun hne => ⟨demands, ?_⟩, fun hd => ?_⟩
  · have heq := Part.demandAll_of_waiting (ds := ds) hne hlen
    rw [heq] at hlight' hdemands hwaits
    have hsame : p.pages.queue = s.pages.queue := hwaits (by show s.pages.demands ++ ds ≠ []; simp [hne])
    have hseq : p.sites.sequencer = s.sites.sequencer := by rw [h.sequencer, heq]; rfl
    rw [(Part.settled_finish hquiet (hlight' hquiet.reports) hseq fun b rest hb => ⟨rest, hsame ▸ hb⟩).2, hdemands]
    rfl
  · obtain ⟨hok, hfirst⟩ := hnone hd
    obtain ⟨n, hn, heq, hfit⟩ := Part.demandAll_of_none (ds := ds) hd (by rw [hd] at hlen; simpa using hlen) hok
    rw [heq] at hlight' hqueue hdemands hwaits
    have hl := hlight' hquiet.reports
    have hseq : p.sites.sequencer = s.sites.sequencer := by rw [h.sequencer, heq]; rfl
    have hqueue' : p.pages.queue = s.pages.queue ++ (((ds.take n).mapIdx fun j d => s.batchAt j d) ++ queue) := by
      rw [hqueue, ← List.append_assoc]
      rfl
    have hdemands' : p.pages.demands = ds.drop n ++ demands := hdemands
    have hlength : n ≤ (((ds.take n).mapIdx fun j d => s.batchAt j d) ++ queue).length := by
      rw [List.length_append, List.length_mapIdx, List.length_take]
      omega
    have hentry (j : Nat) (d : Demand) (b : Batch) (hj : j < n) (hdj : ds[j]? = some d)
        (hb : (((ds.take n).mapIdx fun j d => s.batchAt j d) ++ queue)[j]? = some b) : b = s.batchAt j d := by
      rw [List.getElem?_append_left (by rw [List.length_mapIdx, List.length_take]; omega), List.getElem?_mapIdx,
        List.getElem?_take, if_pos hj, hdj] at hb
      exact (Option.some.inj hb).symm
    have settled (hhead : ∀ b rest, p.pages.queue = b :: rest → ∃ rest', s.pages.queue = b :: rest') := 
      Part.settled_finish hquiet hl hseq hhead
    by_cases hq : s.pages.queue = []
    · cases ds with
      | nil =>
        refine ⟨0, p.finish.pages.demands, p.finish.pages.queue, le_rfl, fun j d h => by simp at h, rfl, by rw [hq]; rfl,
          Nat.zero_le _, fun j d b hj => absurd hj (Nat.not_lt_zero _), fun _ h => absurd h (Nat.not_lt_zero _)⟩
      | cons d rest =>
        cases n with
        | zero =>
          have hnil : p.pages.queue = [] := by
            rw [hwaits (by show List.drop 0 (d :: rest) ≠ []; simp)]
            show s.pages.queue ++ _ = []
            rw [hq]
            rfl
          obtain ⟨hqueue1, hdemands1⟩ := settled fun b rest hb => by rw [hnil] at hb; cases hb
          refine ⟨0, demands, [], hn, hfit, hdemands1.trans hdemands', by rw [hqueue1, hnil, hq]; rfl, le_rfl,
            fun j d b hj => absurd hj (Nat.not_lt_zero _), fun _ h => absurd h (Nat.not_lt_zero _)⟩
        | succ n =>
          obtain ⟨hidle, hcredits⟩ := hfirst hq d rest rfl
          obtain ⟨e, more, he⟩ := List.exists_cons_of_ne_nil (hok 0 d rfl).2
          obtain ⟨hcost, hcredit⟩ := hcredits e more he
          have hcons : p.pages.queue = s.batchAt 0 d :: ((rest.take n).mapIdx (fun j d => s.batchAt (j + 1) d) ++ queue) := by
            rw [hqueue', hq, List.take_succ_cons, List.mapIdx_cons]
            rfl
          have hrecords : p.sites.records = s.sites.records := by rw [h.records, heq]; rfl
          obtain ⟨hbegun, hqueue1, hdemands1⟩ := Part.turned_finish (s := s) hl (hseq.trans hidle) hrecords
            (by rw [h.pins, heq]; rfl) (by rw [h.supply, heq]; rfl) hcons ((s.batchAt_remaining 0 d).trans he) ⟨rfl, rfl⟩
            (Part.batchAt_inhibited (d := d) (n := 0) (he ▸ List.mem_cons_self)) hcost hcredit
          refine ⟨n + 1, demands, _, hn, hfit, hdemands1.trans hdemands', by rw [hqueue1, hq]; exact (List.nil_append _).symm, ?_,
            fun j f b hj hf hb => ?_, fun _ _ f rest' hf e' more' he' => ?_⟩
          · rw [List.length_cons, List.length_append, List.length_mapIdx, List.length_take]
            simp only [List.length_cons] at hn
            omega
          · cases j with
            | zero =>
              cases hf
              cases hb
              exact ⟨rfl, fun _ => ⟨rfl, hq⟩⟩
            | succ j =>
              have hb' : ((rest.take n).mapIdx (fun j d => s.batchAt (j + 1) d) ++ queue)[j]? = some b := hb
              have hf' : rest[j]? = some f := hf
              have hjl : j < rest.length := (List.getElem?_eq_some_iff.mp hf').1
              rw [List.getElem?_append_left (by rw [List.length_mapIdx, List.length_take]; omega), List.getElem?_mapIdx,
                List.getElem?_take, if_pos (by omega), hf'] at hb'
              cases hb'
              exact ⟨rfl, nofun⟩
          · cases hf
            rw [he] at he'
            cases he'
            exact hbegun
    · obtain ⟨x, more, hx⟩ := List.exists_cons_of_ne_nil hq
      obtain ⟨hqueue1, hdemands1⟩ := settled fun b rest hb => by
        rw [hqueue', hx, List.cons_append, List.cons.injEq] at hb
        exact ⟨more, by rw [hx, hb.1]⟩
      refine ⟨n, demands, _, hn, hfit, hdemands1.trans hdemands', hqueue1.trans hqueue', hlength, fun j d b hj hdj hb => ?_,
        fun h => absurd h hq⟩
      obtain rfl := hentry j d b hj hdj hb
      exact ⟨rfl, nofun⟩

end Sys2Proof.Machine

/-! Engagements and assessments that stay through a rule and the work that follows (R54, R56, R96). -/

namespace Sys2Proof.Machine
open Sys2Proof

variable {p q r : Part} {i j : SlotId} {c d e : Callout} {n : CalloutNo}

/-! ### Members engaged on one callout -/

/-- The members engaged on callout `n` are as before. -/
def KeepsEngaged (n : CalloutNo) (p q : Part) : Prop :=
  ∀ m x, p.member? m = some x → x.engaged = some n → q.member? m = some x

namespace KeepsEngaged

theorem of_roster (h : q.roster = p.roster) : KeepsEngaged n p q := fun m x hx _ => by
  rw [Part.member?, h]
  exact hx

theorem refl (p : Part) : KeepsEngaged n p p := of_roster rfl

theorem trans (h : KeepsEngaged n p q) (k : KeepsEngaged n q r) : KeepsEngaged n p r := fun m x hx he =>
  k m x (h m x hx he) he

theorem modify (i : SlotId) (f : Callout → Callout) (p : Part) : KeepsEngaged n p (p.modify i f) :=
  of_roster (Part.roster_modify ..)

theorem degradeIf (b : Bool) (i : SlotId) (p : Part) : KeepsEngaged n p (if b = true then p.degrade i else p) := by
  split
  · exact modify i _ p
  · exact refl p

theorem of_pages (h : OnlyPages p q) : KeepsEngaged n p q := of_roster h.roster

theorem leave {x : Member} {k : CalloutNo} (hk : k ≠ n) (he : x.engaged = some n) : x.leave k = x := by
  unfold Member.leave
  rw [if_neg]
  rw [he]
  exact fun h => hk (Option.some.inj h).symm

theorem disengageList {k : CalloutNo} (hk : k ≠ n) (l : List MemberId) (p : Part) :
    KeepsEngaged n p (l.foldl (fun p m => p.disengage m k) p) := by
  induction l generalizing p with
  | nil => exact refl p
  | cons m rest ih =>
    refine trans (fun j x hx he => ?_) (ih _)
    show ((p.disengage m k).member? j) = some x
    rw [show p.disengage m k = p.modifyMember m (Member.leave k) from rfl, Part.member?_modifyMember]
    split
    next h =>
      rw [← h, hx]
      exact congrArg some (leave hk he)
    next => exact hx

theorem releaseMembers (hc : p.callout? i = some c) (hn : c.number ≠ n) (ms : List MemberId) :
    KeepsEngaged n p (p.releaseMembers i ms) := by
  have hraise (b : Bool) (q : Part) : KeepsEngaged n q (q.raiseIf b .response) := by
    unfold Part.raiseIf
    split <;> exact of_roster rfl
  unfold Part.releaseMembers
  simp only [hc]
  exact ((modify i _ p).trans (disengageList hn ms _)).trans (hraise _ _)

theorem recompute (i : SlotId) (p : Part) : KeepsEngaged n p (p.recompute i) := by
  unfold Part.recompute Part.raiseIf
  split
  · exact refl p
  · dsimp only
    split
    · exact modify i _ p
    · exact modify i _ p

theorem enter (i : SlotId) (st : CalloutState) (p : Part) : KeepsEngaged n p (p.enter i st) := modify i _ p

theorem enterCounting (i : SlotId) (p : Part) : KeepsEngaged n p (p.enterCounting i) := (enter i _ p).trans (modify i _ _)

theorem enterCrewed (hc : p.callout? i = some c) (hn : c.number ≠ n) : KeepsEngaged n p (p.enterCrewed i) := by
  have hentered : KeepsEngaged n p ((p.enter i .crewed).modify i Callout.stopWindow) := (enter i _ p).trans (modify i _ _)
  have hcallout : ((p.enter i .crewed).modify i Callout.stopWindow).callout? i
      = some ({ c with state := .crewed } : Callout).stopWindow := by
    rw [Part.callout?_modify_self, Part.callout?_enter, if_pos rfl, hc]
    rfl
  unfold Part.enterCrewed
  simp only [hcallout]
  split
  · exact hentered
  · exact ((hentered.trans (releaseMembers hcallout hn _)).trans (of_pages (Part.demandReleases_onlyPages _ _ _))).trans
      (recompute i _)

theorem takeOutcome (hc : p.callout? i = some c) (hn : c.number ≠ n) : KeepsEngaged n p (p.takeOutcome i) := by
  by_cases he : c.Enters
  · rw [Part.takeOutcome_of_enters hc he]
    exact enterCrewed hc hn
  · by_cases hr : c.Returns
    · rw [Part.takeOutcome_of_returns hc hr]
      exact enterCounting i p
    · rw [Part.takeOutcome_of_stays hc he hr]
      exact refl p

theorem becomeFree (hc : p.callout? i = some c) (hn : c.number ≠ n) (endCode : Nat) :
    KeepsEngaged n p (p.becomeFree i endCode) := by
  have hwithdrawn : KeepsEngaged n p (p.withdrawFor i everyKind).2 := by
    rw [Part.withdrawFor_eq hc]
    exact (of_pages (p.withdraw_onlyPages _ _)).trans (degradeIf _ _ _)
  rw [Part.becomeFree_eq (Part.callout?_withdrawFor hc everyKind)]
  refine hwithdrawn.trans fun m x hx he => ?_
  show ((p.withdrawFor i everyKind).2.disengageAll c.number).member? m = some x
  rw [Part.member?_disengageAll, hx]
  exact congrArg some (leave hn he)

theorem alertEnded (hc : p.callout? i = some c) (hn : c.number ≠ n) : KeepsEngaged n p (p.alertEnded i) := by
  have hended : (p.modify i fun c => { c with alertStatus := .ended }).callout? i = some { c with alertStatus := .ended } := by
    rw [Part.callout?_modify_self, hc]
    rfl
  unfold Part.alertEnded
  simp only [hended]
  split
  · have hentered := Part.callout?_enterCounting i i (p.modify i fun c => { c with alertStatus := .ended })
    rw [if_pos rfl, hended, Option.map_some] at hentered
    exact ((modify i _ p).trans (enterCounting i _)).trans (takeOutcome hentered hn)
  · exact modify i _ p

end KeepsEngaged

theorem Part.member?_disengageList (n : CalloutNo) (l : List MemberId) (p : Part) (m : MemberId) :
    (l.foldl (fun p m => p.disengage m n) p).member? m
      = if m ∈ l then (p.member? m).map (Member.leave n) else p.member? m := by
  induction l generalizing p with
  | nil => rfl
  | cons k rest ih =>
    rw [List.foldl_cons, ih, show p.disengage k n = p.modifyMember k (Member.leave n) from rfl, Part.member?_modifyMember]
    by_cases hk : m = k
    · subst hk
      rw [if_pos rfl, if_pos List.mem_cons_self, Option.map_map]
      split
      · congr 1
        funext x
        exact x.leave_leave n
      · rfl
    · rw [if_neg hk]
      simp only [List.mem_cons, hk, false_or]

/-- Members released from a callout, and the others. -/
theorem Part.member?_releaseMembers (hc : p.callout? i = some c) (ms : List MemberId) (m : MemberId) :
    (p.releaseMembers i ms).member? m
      = if m ∈ ms then (p.member? m).map (Member.leave c.number) else p.member? m := by
  have hraise (b : Bool) (q : Part) : (q.raiseIf b .response).member? m = q.member? m := by
    unfold Part.raiseIf
    split <;> rfl
  unfold Part.releaseMembers
  simp only [hc]
  rw [hraise, Part.member?_disengageList, Part.member?, Part.roster_modify]
  rfl

/-- A release raises RESPONSE when a record changes. -/
theorem Part.releaseMembers_noticed (hc : p.callout? i = some c) {ms : List MemberId}
    (h : ∃ r ∈ c.responses, r.member ∈ ms ∧ r.kind ≠ .released) : (p.releaseMembers i ms).Noticed 1 := by
  obtain ⟨r, hr, hm, hk⟩ := h
  have hchanged : (c.responses.any fun r => ms.contains r.member && r.kind != .released) = true :=
    List.any_eq_true.mpr ⟨r, hr, by simp [hm, hk]⟩
  unfold Part.releaseMembers
  simp only [hc, hchanged]
  exact Part.raise_response_noticed _

/-- Callout `n` is in slot `i` and no report of the page queue ends an engagement on it. -/
structure Part.Holding (n : CalloutNo) (i : SlotId) (p : Part) : Prop where
  own    : ∀ d, p.callout? i = some d → d.state ≠ .alerting ∧ d.state ≠ .closing
  others : ∀ j d, i ≠ j → p.callout? j = some d → d.number ≠ n

theorem Part.Holding.of_work (h : p.Holding n i) (hw : WorkFrame none p q) : q.Holding n i := by
  refine ⟨fun d hd => ?_, fun j d hj hd => ?_⟩
  · obtain ⟨e, he, hstep⟩ := hw.callout?_back hd
    obtain ⟨halerting, hclosing⟩ := h.own e he
    have hstill := (hstep.still halerting).1
    rw [hstill]
    exact ⟨halerting, hclosing⟩
  · obtain ⟨e, he, hstep⟩ := hw.callout?_back hd
    rw [(Callout.core_owner hstep.1).1]
    exact h.others j e hj he

theorem Part.Holding.takeReport (h : p.Holding n i) (x : Report) : KeepsEngaged n p (p.takeReport x) := by
  cases x with
  | pass o outcome groups =>
    cases hj : p.findOwner o with
    | none =>
      rw [(Part.takeReport_unowned hj outcome groups .alert .complete true).1]
      exact .refl p
    | some j =>
      rw [Part.takeReport_pass hj]
      split
      · exact .modify j _ p
      · exact .refl p
  | ended o kind form failed =>
    cases hj : p.findOwner o with
    | none =>
      rw [(Part.takeReport_unowned hj .done 0#16 kind form failed).2]
      exact .refl p
    | some j =>
      obtain ⟨d, hd, -⟩ := Part.findLive_eq_some hj
      have hd' := Part.callout?_degradeIf failed p j j
      rw [if_pos rfl, hd, Option.map_some] at hd'
      rw [Part.takeReport_ended hj]
      have hdegraded : KeepsEngaged n p (if failed = true then p.degrade j else p) := .degradeIf failed j p
      generalize (if failed = true then p.degrade j else p) = q at hdegraded hd'
      split
      · exact hdegraded
      refine hdegraded.trans ?_
      unfold Part.batchEnded
      rw [hd']
      by_cases hij : i = j
      · subst hij
        obtain ⟨halerting, hclosing⟩ := h.own d hd
        cases kind with
        | alert =>
          have hended : (q.modify i fun c => { c with alertStatus := .ended }).callout? i
              = some { d.degradedIf failed with alertStatus := .ended } := by
            rw [Part.callout?_modify_self, hd']
            rfl
          unfold Part.alertEnded
          simp only [hended]
          split
          next hs => exact absurd hs halerting
          next => exact .modify i _ q
        | standDown =>
          dsimp only
          split
          next hs => exact absurd hs hclosing
          next => exact .refl q
        | supplement | repage | escalate | release => exact .refl q
      · have hnumber := h.others j d hij hd
        cases kind with
        | alert => exact .alertEnded hd' hnumber
        | standDown =>
          dsimp only
          split
          · exact .becomeFree hd' hnumber 3
          · exact .refl q
        | supplement | repage | escalate | release => exact .refl q

theorem Part.Holding.workStep (h : p.Holding n i) (hs : p.workStep = some q) : KeepsEngaged n p q := by
  cases hr : p.pages.reports with
  | cons x rest =>
    rw [Part.workStep_reports hr] at hs
    cases hs
    exact KeepsEngaged.trans (q := { p with pages := { p.pages with reports := rest } }) (.of_roster rfl)
      (Part.Holding.takeReport (i := i) (p := { p with pages := { p.pages with reports := rest } }) ⟨h.own, h.others⟩ x)
  | nil =>
    unfold Part.workStep at hs
    rw [hr] at hs
    dsimp only at hs
    split at hs
    · split at hs
      · cases hs
      · split at hs
        · cases hs
          exact .of_pages p.leaveQueue_onlyPages
        · split at hs
          · cases hs
          · cases hs
            exact .of_pages p.turn_onlyPages
    · cases hs

theorem Part.Holding.finish (h : p.Holding n i) : KeepsEngaged n p p.finish := by
  have hwork : KeepsEngaged n p p.work ∧ WorkFrame none p p.work :=
    Part.work_keeps (I := fun q => KeepsEngaged n p q ∧ WorkFrame none p q)
      (fun _ _ hs hq => ⟨hq.1.trans ((h.of_work hq.2).workStep hs), hq.2.trans (Part.workStep_work hs none)⟩)
      ⟨.refl p, .refl none p⟩
  exact hwork.1

/-! ### A callout whose assessment is up to date -/

theorem Part.assessment_of (p : Part) (happliances : d.appliances = c.appliances) (hresponses : d.responses = c.responses)
    (hturnout : d.turnout = c.turnout) : p.assessment d = p.assessment c := by
  unfold Part.assessment assess Callout.candidates Callout.onFrozenCrew
  rw [happliances, hresponses, hturnout]

/-- The assessment of the callout in slot `i` is the one its record gives with these seats and qualifications. -/
def Part.AssessedAt (s : Part) (i : SlotId) (p : Part) : Prop :=
  ∀ c, p.callout? i = some c → c.assessment = s.assessment c

theorem WorkFrame.assessment {ex : Option SlotId} (h : WorkFrame ex p q) (c : Callout) : q.assessment c = p.assessment c := by
  refine Part.assessment_congr (fun ap => ?_) (fun m => ?_) c
  · have := congrArg (fun r : Resolver => (r.appliances.get ap.index).seats) h.resolver
    simp only [Resolver.core, Table.get_map] at this
    exact this
  · have := congrArg (fun r : Roster => (r.members.get m).map Member.quals) h.roster
    simp only [Roster.core, Table.get_map, Option.map_map] at this
    exact this

theorem Part.callout?_enterCrewed_assessed (hc : p.callout? i = some c) (ha : c.assessment = p.assessment c) :
    ∃ d, (p.enterCrewed i).callout? i = some d ∧ d.assessment = p.assessment d := by
  have hentered : ((p.enter i .crewed).modify i Callout.stopWindow).callout? i
      = some { c with state := .crewed, responseWindow := .stopped } := by
    rw [Part.callout?_modify_self, Part.callout?_enter, if_pos rfl, hc]
    rfl
  have hframe : WorkFrame (some i) p ((p.enter i .crewed).modify i Callout.stopWindow) :=
    (Part.enter_work i .crewed p).trans (Part.modify_work_loose i _ _ fun _ => rfl)
  unfold Part.enterCrewed
  simp only [hentered]
  split
  · exact ⟨_, hentered, ha.trans (p.assessment_of rfl rfl rfl).symm⟩
  · have hreleased := hframe.trans (Part.releaseMembers_work i c.assessment.surplus _)
    have hpages := Part.demandReleases_onlyPages c.owner c.assessment.surplus
      (((p.enter i .crewed).modify i Callout.stopWindow).releaseMembers i c.assessment.surplus)
    have hcallout := hpages.callout? i
    rw [Part.callout?_releaseMembers, hentered, Option.map_some] at hcallout
    have hassessment (d : Callout) : ((((p.enter i .crewed).modify i Callout.stopWindow).releaseMembers i
        c.assessment.surplus).demandReleases c.owner c.assessment.surplus).assessment d = p.assessment d := by
      refine Eq.trans (Part.assessment_congr (fun ap => ?_) (fun m => ?_) d) (hreleased.assessment d)
      · rw [Part.appliance, hpages.resolver]
        rfl
      · rw [Part.member?, hpages.roster]
        rfl
    refine ⟨_, Part.callout?_recompute_self hcallout, ?_⟩
    exact (hassessment _).trans (p.assessment_of rfl rfl rfl)

theorem Part.callout?_takeOutcome_assessed (hc : p.callout? i = some c) (ha : c.assessment = p.assessment c) :
    ∃ d, (p.takeOutcome i).callout? i = some d ∧ d.assessment = p.assessment d := by
  by_cases he : c.Enters
  · rw [Part.takeOutcome_of_enters hc he]
    exact Part.callout?_enterCrewed_assessed hc ha
  · by_cases hr : c.Returns
    · rw [Part.takeOutcome_of_returns hc hr, Part.callout?_enterCounting, if_pos rfl, hc]
      exact ⟨_, rfl, ha.trans (p.assessment_of rfl rfl rfl).symm⟩
    · rw [Part.takeOutcome_of_stays hc he hr]
      exact ⟨c, hc, ha⟩

theorem Part.alertEnded_assessed (h : p.AssessedAt i p) : p.AssessedAt i (p.alertEnded j) := by
  by_cases hij : j = i
  · subst hij
    cases hc : p.callout? j with
    | none =>
      have hended : (p.modify j fun c => { c with alertStatus := .ended }).callout? j = none := by
        rw [Part.callout?_modify_self, hc]
        rfl
      unfold Part.alertEnded
      simp only [hended]
      intro c h
      exact absurd (hended.symm.trans h) (by nofun)
    | some c =>
      have hassessed := h c hc
      have hended : (p.modify j fun c => { c with alertStatus := .ended }).callout? j
          = some { c with alertStatus := .ended } := by
        rw [Part.callout?_modify_self, hc]
        rfl
      unfold Part.alertEnded
      simp only [hended]
      split
      · have hentered := Part.callout?_enterCounting j j (p.modify j fun c => { c with alertStatus := .ended })
        rw [if_pos rfl, hended, Option.map_some] at hentered
        have hframe : WorkFrame (some j) p ((p.modify j fun c => { c with alertStatus := .ended }).enterCounting j) :=
          (Part.modify_work_loose j (fun c => { c with alertStatus := .ended }) p fun _ => rfl).trans (Part.enterCounting_work j _)
        obtain ⟨d, hd, ha⟩ := Part.callout?_takeOutcome_assessed hentered
          (hassessed.trans ((hframe.assessment _).trans (p.assessment_of rfl rfl rfl)).symm)
        intro e he
        obtain rfl := Option.some.inj (hd.symm.trans he)
        exact ha.trans (hframe.assessment d)
      · intro e he
        obtain rfl := Option.some.inj (hended.symm.trans he)
        exact hassessed.trans (p.assessment_of rfl rfl rfl).symm
  · intro e he
    rw [Part.callout?_alertEnded_ne hij] at he
    exact h e he

theorem Part.takeReport_assessed (h : p.AssessedAt i p) (x : Report) : p.AssessedAt i (p.takeReport x) := by
  have hmodify {f : Callout → Callout} (hf : ∀ c, (f c).assessment = c.assessment ∧ (f c).appliances = c.appliances
      ∧ (f c).responses = c.responses ∧ (f c).turnout = c.turnout) (j : SlotId) : p.AssessedAt i (p.modify j f) := fun e he => by
    rw [Part.callout?_modify] at he
    split at he
    · obtain ⟨c, hc, rfl⟩ := Option.map_eq_some_iff.mp he
      obtain ⟨hassessment, happliances, hresponses, hturnout⟩ := hf c
      rw [hassessment, p.assessment_of happliances hresponses hturnout]
      exact h c hc
    · exact h e he
  cases x with
  | pass o outcome groups =>
    cases hj : p.findOwner o with
    | none =>
      rw [(Part.takeReport_unowned hj outcome groups .alert .complete true).1]
      exact h
    | some j =>
      rw [Part.takeReport_pass hj]
      split
      · exact hmodify (f := Callout.markPaged groups) (fun _ => ⟨rfl, rfl, rfl, rfl⟩) j
      · exact h
  | ended o kind form failed =>
    cases hj : p.findOwner o with
    | none =>
      rw [(Part.takeReport_unowned hj .done 0#16 kind form failed).2]
      exact h
    | some j =>
      have hdegraded : p.AssessedAt i (if failed = true then p.degrade j else p) := by
        split
        · exact hmodify (f := Callout.withFlags fun f => { f with txDegraded := true }) (fun _ => ⟨rfl, rfl, rfl, rfl⟩) j
        · exact h
      have hframe : WorkFrame none p (if failed = true then p.degrade j else p) := by
        split
        · exact p.degrade_work none j
        · exact .refl none p
      rw [Part.takeReport_ended hj]
      generalize (if failed = true then p.degrade j else p) = q at hdegraded hframe
      have hq : q.AssessedAt i q := fun c hc => (hdegraded c hc).trans (hframe.assessment c).symm
      split
      · exact hdegraded
      unfold Part.batchEnded
      split
      · exact hdegraded
      · cases kind with
        | alert => exact fun c hc => (Part.alertEnded_assessed (j := j) hq c hc).trans (hframe.assessment c)
        | standDown =>
          dsimp only
          split
          · intro e he
            by_cases hji : j = i
            · subst hji
              rw [q.callout?_becomeFree j 3] at he
              cases he
            · rw [Part.callout?_becomeFree_ne hji] at he
              exact hdegraded e he
          · exact hdegraded
        | supplement | repage | escalate | release => exact hdegraded

theorem Part.workStep_assessed (h : p.AssessedAt i p) (hs : p.workStep = some q) : p.AssessedAt i q := by
  have of_pages {r : Part} (hr : OnlyPages p r) : p.AssessedAt i r := fun c hc => h c (hr.callout? i ▸ hc)
  cases hr : p.pages.reports with
  | cons x rest =>
    rw [Part.workStep_reports hr] at hs
    cases hs
    exact Part.takeReport_assessed (p := { p with pages := { p.pages with reports := rest } }) h x
  | nil =>
    unfold Part.workStep at hs
    rw [hr] at hs
    dsimp only at hs
    split at hs
    · split at hs
      · cases hs
      · split at hs
        · cases hs
          exact of_pages p.leaveQueue_onlyPages
        · split at hs
          · cases hs
          · cases hs
            exact of_pages p.turn_onlyPages
    · cases hs

/-- Work leaves an assessment that is up to date so. -/
theorem Part.finish_assessed (h : p.AssessedAt i p) : p.AssessedAt i p.finish := by
  have hwork : p.AssessedAt i p.work ∧ WorkFrame none p p.work :=
    Part.work_keeps (I := fun q => p.AssessedAt i q ∧ WorkFrame none p q) (fun q r hs hq => by
      obtain ⟨hassessed, hframe⟩ := hq
      have hq : q.AssessedAt i q := fun c hc => (hassessed c hc).trans (hframe.assessment c).symm
      exact ⟨fun c hc => (Part.workStep_assessed hq hs c hc).trans (hframe.assessment c),
        hframe.trans (Part.workStep_work hs none)⟩) ⟨h, .refl none p⟩
  exact hwork.1

end Sys2Proof.Machine

/-! DEPART: the crew frozen, the entry into MOBILE, and what follows (R25, R26). -/

namespace Sys2Proof.Machine
open Sys2Proof

variable {p q r s t : Part} {i : SlotId} {c d : Callout} {ap : Appliance}

/-! ### Entry into MOBILE (R26) -/

/-- The callout in MOBILE, before anyone is released, when a batch that had failed left its queue if `b`. -/
def Callout.mobile (b : Bool) (c : Callout) : Callout :=
  { c.degradedIf b with state := .mobile, responseWindow := .stopped, alertStatus := .ended }

/-- The part in which the callout has entered MOBILE and its calls have been withdrawn. -/
def Part.withdrawnMobile (i : SlotId) (p : Part) : Part :=
  ((((p.enter i .mobile).modify i Callout.stopWindow).withdrawFor i BatchKind.callOut).2.modify i
    fun c => { c with alertStatus := .ended })

theorem Part.callout?_mobileEntered (hc : p.callout? i = some c) :
    ((p.enter i .mobile).modify i Callout.stopWindow).callout? i
      = some { c with state := .mobile, responseWindow := .stopped } := by
  rw [Part.callout?_modify_self, Part.callout?_enter, if_pos rfl, hc]
  rfl

theorem Part.callout?_withdrawnMobile (hc : p.callout? i = some c) :
    ∃ b, (p.withdrawnMobile i).callout? i = some (c.mobile b) := by
  unfold Part.withdrawnMobile
  rw [Part.callout?_modify_self, Part.callout?_withdrawFor (Part.callout?_mobileEntered hc)]
  exact ⟨_, rfl⟩

theorem Callout.unusedAttending_mobile (b : Bool) (c : Callout) : (c.mobile b).unusedAttending = c.unusedAttending := rfl

theorem Part.enterMobile_eq (hc : p.callout? i = some c) : p.enterMobile i =
    if c.unusedAttending = [] then p.withdrawnMobile i
    else (((p.withdrawnMobile i).releaseMembers i c.unusedAttending).demandReleases c.owner c.unusedAttending).recompute i := by
  obtain ⟨b, hb⟩ := Part.callout?_withdrawnMobile hc
  unfold Part.enterMobile
  show (match (p.withdrawnMobile i).callout? i with
    | none => p.withdrawnMobile i
    | some c => if c.unusedAttending = [] then p.withdrawnMobile i
        else (((p.withdrawnMobile i).releaseMembers i c.unusedAttending).demandReleases c.owner c.unusedAttending).recompute i) = _
  rw [hb]
  rfl

theorem Part.withdrawnMobile_work (i : SlotId) (p : Part) : WorkFrame (some i) p (p.withdrawnMobile i) :=
  (((p.enter_work i .mobile).trans (Part.modify_work_loose i Callout.stopWindow _ fun _ => rfl)).trans
    (Part.withdrawFor_work _ i _ _)).trans (Part.modify_work_loose i (fun c => { c with alertStatus := .ended }) _ fun _ => rfl)

/-- What an entry into MOBILE leaves of the callout. -/
theorem Part.callout?_enterMobile (hc : p.callout? i = some c) (ha : c.assessment = p.assessment c) :
    ∃ d b, (p.enterMobile i).callout? i = some d ∧ d.core = c.core ∧ d.state = .mobile ∧ d.responseWindow = .stopped
      ∧ d.alertStatus = .ended ∧ d.assessment = p.assessment d
      ∧ d.responses = ((c.mobile b).mapRecords c.unusedAttending.contains (Response.release c.elapsed)).responses := by
  obtain ⟨b, hb⟩ := Part.callout?_withdrawnMobile hc
  rw [Part.enterMobile_eq hc]
  split
  next hnone =>
    refine ⟨_, b, hb, rfl, rfl, rfl, rfl, ha.trans (p.assessment_of rfl rfl rfl).symm, ?_⟩
    rw [hnone]
    simp [Callout.mapRecords]
  next =>
    have hpages := Part.demandReleases_onlyPages c.owner c.unusedAttending
      ((p.withdrawnMobile i).releaseMembers i c.unusedAttending)
    have hcallout := hpages.callout? i
    rw [Part.callout?_releaseMembers, hb, Option.map_some] at hcallout
    have hassessment (d : Callout) : (((p.withdrawnMobile i).releaseMembers i
        c.unusedAttending).demandReleases c.owner c.unusedAttending).assessment d = p.assessment d := by
      refine Eq.trans (Part.assessment_congr (fun ap => ?_) (fun m => ?_) d)
        (((p.withdrawnMobile_work i).trans (Part.releaseMembers_work i c.unusedAttending _)).assessment d)
      · rw [Part.appliance, hpages.resolver]
        rfl
      · rw [Part.member?, hpages.roster]
        rfl
    refine ⟨_, b, Part.callout?_recompute_self hcallout, rfl, rfl, rfl, rfl, ?_, rfl⟩
    exact (hassessment _).trans (p.assessment_of rfl rfl rfl)

theorem Part.withdrawnMobile_paging (hpg : Paging s p) (hc : p.callout? i = some c)
    (hw : (s.without c.owner BatchKind.callOut).HeadWaits) :
    Paging (s.without c.owner BatchKind.callOut) (p.withdrawnMobile i) := by
  have hentered : Paging s ((p.enter i .mobile).modify i Callout.stopWindow) :=
    (hpg.trans (.enter i .mobile p)).trans (.modify (f := Callout.stopWindow) i _ fun _ _ => rfl)
  exact (hentered.withdrawFor (Part.callout?_mobileEntered hc) hw).trans
    (.modify (f := fun c => { c with alertStatus := .ended }) i _ fun _ _ => rfl)

/-- The RELEASE demands of an entry into MOBILE follow its withdrawal. -/
theorem Part.enterMobile_trails (hpg : Paging s p) (hc : p.callout? i = some c)
    (hw : (s.without c.owner BatchKind.callOut).HeadWaits) :
    Trails ((s.without c.owner BatchKind.callOut).demandAll (releasesFor c.owner c.unusedAttending)) (p.enterMobile i) := by
  have hwithdrawn := Part.withdrawnMobile_paging hpg hc hw
  rw [Part.enterMobile_eq hc]
  split
  next hnone =>
    rw [hnone]
    exact .of_paging hwithdrawn
  next =>
    rw [Part.demandReleases_eq]
    exact (Trails.of_paging ((hwithdrawn.trans (.releaseMembers i _ _)).demandAll _)).trans (.recompute i _)

theorem Part.enterMobile_spared (hc : p.callout? i = some c) :
    (p.enterMobile i).Holds (SparedDemand c.owner BatchKind.callOut) (SparedBatch c.owner BatchKind.callOut) := by
  have hwithdrawn : (p.withdrawnMobile i).Holds (SparedDemand c.owner BatchKind.callOut) (SparedBatch c.owner BatchKind.callOut) :=
    have hspared := Part.withdrawFor_spared (Part.callout?_mobileEntered hc) BatchKind.callOut
    hspared.paging (.modify (f := fun c => { c with alertStatus := .ended }) i _ fun _ _ => rfl)
  rw [Part.enterMobile_eq hc]
  refine .ite hwithdrawn ?_
  refine Part.Holds.paging ?_ (.recompute i _)
  exact (hwithdrawn.paging (.releaseMembers i c.unusedAttending _)).demandReleases
    (Part.spared_fits rfl c.owner _).yields (fun _ _ => rfl) _

theorem Part.member?_withdrawnMobile (i : SlotId) (p : Part) (m : MemberId) :
    (p.withdrawnMobile i).member? m = p.member? m := by
  have hwithdraw (q : Part) : (q.withdrawFor i BatchKind.callOut).2.roster = q.roster := by
    unfold Part.withdrawFor
    split
    · rfl
    · dsimp only
      split
      · exact (Part.roster_modify ..).trans (q.withdraw_onlyPages _ _).roster
      · exact (q.withdraw_onlyPages _ _).roster
  have hroster : (p.withdrawnMobile i).roster = p.roster := by
    unfold Part.withdrawnMobile
    rw [Part.roster_modify, hwithdraw, Part.roster_modify]
    exact Part.roster_modify ..
  rw [Part.member?, hroster]
  rfl

theorem Part.member?_recompute (i : SlotId) (p : Part) (m : MemberId) : (p.recompute i).member? m = p.member? m := by
  rw [Part.member?, Part.recompute_roster]
  rfl

/-- The members an entry into MOBILE disengages, and those it leaves. -/
theorem Part.member?_enterMobile (hc : p.callout? i = some c) (m : MemberId) : (p.enterMobile i).member? m =
    if m ∈ c.unusedAttending then (p.member? m).map (Member.leave c.number) else p.member? m := by
  obtain ⟨b, hb⟩ := Part.callout?_withdrawnMobile hc
  rw [Part.enterMobile_eq hc]
  split
  next hnone => rw [hnone, if_neg List.not_mem_nil, Part.member?_withdrawnMobile]
  next =>
    rw [Part.member?_recompute, Part.member?, (Part.demandReleases_onlyPages _ _ _).roster, ← Part.member?,
      Part.member?_releaseMembers hb, Part.member?_withdrawnMobile]
    rfl

theorem Part.callout?_enterMobile_ne {j : SlotId} (hj : i ≠ j) (hc : p.callout? i = some c) :
    (p.enterMobile i).callout? j = p.callout? j := by
  have hwithdrawn : (p.withdrawnMobile i).callout? j = p.callout? j := by
    unfold Part.withdrawnMobile
    rw [Part.callout?_modify_ne _ hj, Part.callout?_withdrawFor_ne hj, Part.callout?_modify_ne _ hj, Part.callout?_enter, if_neg hj]
  rw [Part.enterMobile_eq hc]
  split
  · exact hwithdrawn
  · rw [Part.callout?_recompute, if_neg hj, Part.callout?_demandReleases, Part.callout?_releaseMembers_ne hj, hwithdrawn]

/-- An entry into MOBILE that releases anyone raises RESPONSE. -/
theorem Part.enterMobile_noticed (hc : p.callout? i = some c) (h : c.unusedAttending ≠ []) : (p.enterMobile i).Noticed 1 := by
  obtain ⟨b, hb⟩ := Part.callout?_withdrawnMobile hc
  obtain ⟨m, rest, hm⟩ := List.exists_cons_of_ne_nil h
  obtain ⟨r, hr, hrm⟩ := List.mem_map.mp (show m ∈ c.unusedAttending by rw [hm]; exact List.mem_cons_self)
  obtain ⟨hmem, hkind⟩ := List.mem_filter.mp hr
  have hattending : r.kind = .attending := by
    have := (Bool.and_eq_true_iff.mp hkind).1
    exact eq_of_beq this
  have hreleased : ((p.withdrawnMobile i).releaseMembers i c.unusedAttending).Noticed 1 :=
    Part.releaseMembers_noticed hb ⟨r, hmem, by rw [hrm, hm]; exact List.mem_cons_self, by rw [hattending]; nofun⟩
  rw [Part.enterMobile_eq hc, if_neg h]
  exact ((Moves.demandReleases (g := .unedited none False) c.owner c.unusedAttending _).trans
    (Part.recompute_moves _ i _)).frame.lines.noticed hreleased

/-! ### The departure (R25) -/

/-- The callout with its crew frozen and its assessment computed afresh. -/
def Part.departed (p : Part) (ap : Appliance) (c : Callout) : Callout :=
  { c.freeze ap with assessment := p.assessment (c.freeze ap) }

theorem Part.callout?_departed (hc : p.callout? i = some c) (ap : Appliance) :
    ((p.modify i (Callout.freeze ap)).recompute i).callout? i = some (p.departed ap c) := by
  have hfrozen : (p.modify i (Callout.freeze ap)).callout? i = some (c.freeze ap) := by
    rw [Part.callout?_modify_self, hc]
    rfl
  have hconf : SameConfiguration p (p.modify i (Callout.freeze ap)) :=
    Moves.configuration (g := .unedited none False) id (.modify fun d _ => d.freeze_moves _ ap i)
  rw [Part.callout?_recompute_self hfrozen, hconf.assessment]
  rfl

theorem Part.departed_paging (i : SlotId) (ap : Appliance) (p : Part) :
    Paging p ((p.modify i (Callout.freeze ap)).recompute i) :=
  (Paging.modify (f := Callout.freeze ap) i p fun _ _ => rfl).trans (.recompute i _)

theorem Part.departed_assessment (i : SlotId) (ap : Appliance) (p : Part) (d : Callout) :
    ((p.modify i (Callout.freeze ap)).recompute i).assessment d = p.assessment d :=
  ((Moves.modify (g := .unedited none False) fun d _ => d.freeze_moves _ ap i).trans
    (Part.recompute_moves _ i _)).configuration id |>.assessment d

theorem Part.depart_eq (hc : p.callout? i = some c) (ap : Appliance) : p.depart i ap =
    if (c.freeze ap).appliances.all ApplianceEntry.departed then ((p.modify i (Callout.freeze ap)).recompute i).enterMobile i
    else ((p.modify i (Callout.freeze ap)).recompute i).takeOutcome i := by
  unfold Part.depart
  simp only [Part.callout?_departed hc ap]
  rfl

/-- An appliance departs and another is left: the callout takes its outcome. -/
theorem Part.depart_left (hc : p.callout? i = some c) (hlive : c.state = .alerting ∨ c.state = .counting ∨ c.state = .crewed)
    (hleft : (c.freeze ap).appliances.all ApplianceEntry.departed = false) :
    ∃ d, (p.depart i ap).finish.callout? i = some d ∧ d.core = (c.freeze ap).core ∧ d.assessment = p.assessment d
      ∧ (d.state = .alerting ∨ d.state = .counting ∨ d.state = .crewed)
      ∧ (p.Quiet → Reassessed (p.assessment (c.freeze ap)) (c.freeze ap) d) := by
  have hdeparted := Part.callout?_departed hc ap
  have hassessment := p.departed_assessment i ap
  have hpages := (p.departed_paging i ap).same
  rw [Part.depart_eq hc, if_neg (by simp [hleft])]
  generalize (p.modify i (Callout.freeze ap)).recompute i = q at hdeparted hassessment hpages
  obtain ⟨d, hd, hcore, hlive', -, -⟩ := Part.takeOutcome_finish hdeparted hlive
  obtain ⟨e, he, hassessed⟩ := Part.callout?_takeOutcome_assessed hdeparted
    ((hassessment _).trans (p.assessment_of rfl rfl rfl)).symm
  have hframe := (q.takeOutcome_work i).assessment
  have hfinish : (q.takeOutcome i).AssessedAt i (q.takeOutcome i).finish := Part.finish_assessed fun x hx => by
    obtain rfl := Option.some.inj (he.symm.trans hx)
    exact hassessed.trans (hframe _).symm
  refine ⟨d, hd, hcore, ((hfinish d hd).trans (hframe d)).trans (hassessment d), hlive', fun hquiet => ?_⟩
  obtain ⟨a, ha⟩ := Part.callout?_takeOutcome hdeparted
  obtain ⟨d', hd', hcalm⟩ := (((Part.Muted.of_quiet hquiet).congr hpages).takeOutcome i).finish.callout? ha
  obtain rfl := Option.some.inj (hd.symm.trans hd')
  exact Calm.reassessed hcalm (Callout.outcomeTaken_reassessed _ a (c.freeze ap))

/-- What the departure of the last appliance leaves of the callout. -/
theorem Part.depart_gone (hc : p.callout? i = some c) (hgone : (c.freeze ap).appliances.all ApplianceEntry.departed = true) :
    ∃ d, (p.depart i ap).finish.callout? i = some d ∧ d.core = (c.freeze ap).core ∧ d.assessment = p.assessment d
      ∧ d.state = .mobile ∧ d.responseWindow = .stopped ∧ d.alertStatus = .ended
      ∧ d.responses = c.responses.map fun r =>
        if (c.freeze ap).unusedAttending.contains r.member then r.release c.elapsed else r := by
  have hdeparted := Part.callout?_departed hc ap
  have hassessment := p.departed_assessment i ap
  rw [Part.depart_eq hc, if_pos hgone]
  generalize (p.modify i (Callout.freeze ap)).recompute i = q at hdeparted hassessment
  obtain ⟨e, b, he, hcore, hstate, hwindow, hstatus, hassessed, hresponses⟩ := Part.callout?_enterMobile hdeparted
    ((hassessment _).trans (p.assessment_of rfl rfl rfl)).symm
  obtain ⟨d, hd, hstep, hkept⟩ := Part.finish_kept he (by rw [hstate]; nofun)
  obtain ⟨kstate, kresponses, kassessment, kwindow⟩ := hstep.still (by rw [hstate]; nofun)
  have hturnout : d.turnout = e.turnout := (congrArg Callout.turnout hstep.1 : d.core.turnout = e.core.turnout)
  have happliances : d.appliances = e.appliances := (congrArg Callout.appliances hstep.1 : d.core.appliances = e.core.appliances)
  refine ⟨d, hd, hstep.1.trans hcore, ?_, kstate.trans hstate, kwindow.trans hwindow,
    hkept.status.elim (fun h => h.trans hstatus) id, kresponses.trans hresponses⟩
  rw [kassessment, hassessed, hassessment, p.assessment_of happliances kresponses hturnout]

theorem HandedAll.answered {l : Line} {results : List Operand} {ds : List Demand} (h : HandedAll ds s q)
    (ht : OrderAnswered l results r q t) : HandedAll ds s t := by
  rw [ht.after]
  exact h

/-- The records of a released list, where each member has one record. -/
theorem release_unused (hd : (c.responses.map Response.member).Nodup) (r : Response) (hr : r ∈ c.responses) :
    (if c.unusedAttending.contains r.member then r.release c.elapsed else r)
      = if r.member ∈ c.unusedAttending
        then { r with kind := .released, eta := none, estimate := none, lastChange := c.elapsed } else r := by
  by_cases hm : r.member ∈ c.unusedAttending
  · obtain ⟨y, hy, hym⟩ := List.mem_map.mp hm
    obtain ⟨hmem, hkind⟩ := List.mem_filter.mp hy
    obtain rfl := List.inj_on_of_nodup_map hd hmem hr hym
    have hattending : y.kind = .attending := eq_of_beq (Bool.and_eq_true_iff.mp hkind).1
    rw [if_pos (by simpa using hm), if_pos hm, Response.release, if_neg (by rw [hattending]; nofun)]
  · rw [if_neg (by simpa using hm), if_neg hm]

/-- The members of a callout all of whose appliances have departed (R26). -/
theorem Part.depart_members (hc : p.callout? i = some c) (hgone : (c.freeze ap).appliances.all ApplianceEntry.departed = true)
    (hdistinct : p.NumbersDistinct) {m : MemberId} {x : Member} (hx : p.member? m = some x) :
    ∃ y, (p.depart i ap).finish.member? m = some y ∧ (m ∈ (c.freeze ap).unusedAttending → y.engaged ≠ some c.number)
      ∧ (m ∉ (c.freeze ap).unusedAttending → x.engaged = some c.number → y.engaged = some c.number) := by
  have hdeparted := Part.callout?_departed hc ap
  have hmember : ((p.modify i (Callout.freeze ap)).recompute i).member? m = p.member? m := by
    rw [Part.member?_recompute, Part.member?, Part.roster_modify]
    rfl
  have hothers (j : SlotId) (hj : i ≠ j) : ((p.modify i (Callout.freeze ap)).recompute i).callout? j = p.callout? j := by
    rw [Part.callout?_recompute, if_neg hj, Part.callout?_modify_ne _ hj]
  have hstate : ∀ d, (((p.modify i (Callout.freeze ap)).recompute i).enterMobile i).callout? i = some d → d.state = .mobile := by
    obtain ⟨e, -, he, -, hstate, -⟩ := Part.callout?_enterMobile hdeparted
      ((p.departed_assessment i ap _).trans (p.assessment_of rfl rfl rfl)).symm
    intro d hd
    obtain rfl := Option.some.inj (he.symm.trans hd)
    exact hstate
  rw [Part.depart_eq hc, if_pos hgone]
  generalize (p.modify i (Callout.freeze ap)).recompute i = q at hdeparted hmember hothers hstate
  have hmobile : (q.enterMobile i).member? m
      = if m ∈ (c.freeze ap).unusedAttending then some (x.leave c.number) else some x := by
    have h := Part.member?_enterMobile hdeparted m
    rw [hmember, hx] at h
    exact h
  have hholding : (q.enterMobile i).Holding c.number i := by
    refine ⟨fun d hd => ?_, fun j d hj hd => ?_⟩
    · rw [hstate d hd]
      exact ⟨nofun, nofun⟩
    · rw [Part.callout?_enterMobile_ne hj hdeparted, hothers j hj] at hd
      exact (hdistinct.2 j i d c hd hc (Ne.symm hj)).1
  by_cases hm : m ∈ (c.freeze ap).unusedAttending
  · rw [if_pos hm] at hmobile
    rcases Part.finish_eases (q.enterMobile i) m with h | ⟨z, hz, h⟩
    · exact ⟨_, h.trans hmobile, fun _ => x.leave_engaged c.number, fun h => absurd hm h⟩
    · exact ⟨_, h, fun _ => nofun, fun h => absurd hm h⟩
  · rw [if_neg hm] at hmobile
    by_cases he : x.engaged = some c.number
    · exact ⟨x, hholding.finish m x hmobile he, fun h => absurd h hm, fun _ h => h⟩
    · rcases Part.finish_eases (q.enterMobile i) m with h | ⟨z, hz, h⟩
      · exact ⟨_, h.trans hmobile, fun h => absurd h hm, fun _ h => h⟩
      · exact ⟨_, h, fun h => absurd h hm, fun _ h => absurd h he⟩

theorem callOut_eq : (fun k : BatchKind => k != .release && k != .standDown) = BatchKind.callOut := by
  funext k
  cases k <;> rfl

theorem BatchKind.callOut_eq_false {k : BatchKind} : k.callOut = false ↔ k = .release ∨ k = .standDown := by
  cases k <;> simp [BatchKind.callOut]

/-- The page queue and the notices once all of a callout's appliances have departed (R26). -/
theorem Part.depart_pages (hpg : Paging s p) (hc : p.callout? i = some c)
    (hgone : (c.freeze ap).appliances.all ApplianceEntry.departed = true) :
    (p.depart i ap).finish.Holds (SparedDemand c.owner BatchKind.callOut) (SparedBatch c.owner BatchKind.callOut)
    ∧ ((c.freeze ap).unusedAttending ≠ [] → (p.depart i ap).Noticed 1)
    ∧ ((s.without c.owner BatchKind.callOut).HeadWaits →
        Trails ((s.without c.owner BatchKind.callOut).demandAll (releasesFor c.owner (c.freeze ap).unusedAttending)) (p.depart i ap)) := by
  have hdeparted := Part.callout?_departed hc ap
  rw [Part.depart_eq hc, if_pos hgone]
  exact ⟨(Part.enterMobile_spared hdeparted).finish fun q _ => Part.spared_fits rfl _ q,
    Part.enterMobile_noticed (c := p.departed ap c) hdeparted,
    Part.enterMobile_trails (hpg.trans (p.departed_paging i ap)) hdeparted⟩

/-- Settles O53. -/
theorem departTaken : Obligations.DepartTaken := by
  unfold Obligations.DepartTaken
  intro s i c ap e hs hlookup hlive hnodup hmem hletter hpresent after gone onCrew unused cleared releases
  have hst := Stands.working s.toPart .console 20#8 [num c.number.toNat, .text [ap.letter]]
  have hw := (s.toPart.working_lookup .console 20#8 [num c.number.toNat, .text [ap.letter]] _).trans hlookup
  obtain ⟨hcw, -, hn⟩ := Part.lookup_spec hw
  have hc := (hst.callout? i).symm.trans hcw
  generalize hp : s.toPart.working .console 20#8 [num c.number.toNat, .text [ap.letter]] = p at hst hw hcw hn
  have hv : orderRule (.depart .console [num c.number.toNat, .text [ap.letter]]) p = (p.depart i ap).takenFor c.number := by
    have hx : needNumber [num c.number.toNat, .text [ap.letter]] 0 = some (c.number.toNat : Int) := by
      refine congrArg some (toInt_ofNat_of_lt ?_)
      omega
    refine (departOrder_of_read (ops := [num c.number.toNat, .text [ap.letter]]) le_rfl hx (needLetter_eq_some.mpr rfl)).trans ?_
    rw [hw]
    show p.departFrom i c ap = _
    unfold Part.departFrom
    cases hfind : c.appliances.find? fun e => e.letter == ap with
    | none => exact absurd hletter (by simpa using List.find?_eq_none.mp hfind e hmem)
    | some y =>
      have hy : y.letter = ap := by simpa using List.find?_some hfind
      obtain rfl := List.inj_on_of_nodup_map hnodup (List.mem_of_find?_eq_some hfind) hmem (hy.trans hletter.symm)
      dsimp only
      rcases hlive with h | h | h <;> rw [h] <;> exact if_neg (by simp [hpresent])
  have hplain : p.PlainAt i := fun d hd => by
    obtain rfl := Option.some.inj (hcw.symm.trans hd)
    rcases hlive with h | h | h <;> rw [h] <;> rfl
  have hm : Moves (.unedited none False) p (p.depart i ap) := Part.depart_moves _ hplain
  have hgone : gone ↔ (c.freeze ap).appliances.all ApplianceEntry.departed = true := List.all_eq_true.symm
  have hunused : (c.freeze ap).unusedAttending = unused := by
    refine congrArg (List.map Response.member) (List.filter_congr fun r _ => ?_)
    rw [Bool.eq_iff_iff, Bool.and_eq_true, decide_eq_true_eq, beq_iff_eq, Bool.not_eq_true']
    refine and_congr_right fun _ => ?_
    rw [← Bool.not_eq_true, not_iff_not]
    show ((c.freeze ap).appliances.any _) = true ↔ _
    rw [List.any_eq_true]
    refine exists_congr fun e => and_congr_right fun _ => ?_
    rw [Bool.and_eq_true, List.any_eq_true]
    simp only [beq_iff_eq]
  have hassessment (d : Callout) : p.assessment d = s.assessment d := hst.assessment d
  by_cases hall : (c.freeze ap).appliances.all ApplianceEntry.departed = true
  · have hg : gone := hgone.mpr hall
    obtain ⟨d, hd, hcore, hassessed, hstate, hwindow, hstatus, hresponses⟩ := Part.depart_gone hcw hall
    have hfound := (hm.trans (Part.finish_moves _ _)).findCallout id hn (by simp [hd])
    refine (leads_of_takenFor (c := .depart .console [num c.number.toNat, .text [ap.letter]]) (code := 20#8) hs rfl (hp ▸ hv)
      (hp ▸ hm) id).imp fun t ht => ?_
    rw [hp, Part.calloutResults_of hfound hd] at ht
    obtain ⟨raised, hanswered⟩ := ht.answered
    have hpages : t.pages = (p.depart i ap).finish.pages := by rw [ht.after]
    obtain ⟨hspared, hnoticed, htrails⟩ := Part.depart_pages hst.paging hcw hall
    refine ⟨d, raised, (ht.callout? i).trans hd, ?_, ?_, ?_, fun h => absurd hg h, fun _ => ⟨?_, ?_, ?_, ?_, ?_, ?_⟩, ?_,
      ht.configuration, hanswered⟩
    · exact (congrArg Callout.appliances hcore : d.core.appliances = (c.freeze ap).core.appliances)
    · exact hassessed.trans (hassessment d)
    · rw [if_pos hg]
      exact ⟨hstate, hwindow, hstatus⟩
    · intro x hx howner
      exact BatchKind.callOut_eq_false.mp (hspared.demands x (hpages ▸ hx) howner)
    · intro b hb howner
      rcases hspared.queue b (hpages ▸ hb) with h | h | h
      · exact (BatchKind.callOut_eq_false.mp (h howner)).imp id .inl
      · exact .inr (.inr (.inl h))
      · exact .inr (.inr (.inr h))
    · intro hnodup
      rw [hresponses, ← hunused]
      exact List.map_congr_left fun r hr => release_unused (c := c.freeze ap) hnodup r hr
    · intro hne k
      rw [ht.flags]
      exact (hnoticed (hunused.symm ▸ hne)).finish k
    · intro hdistinct m x hx
      have hdistinct' : p.NumbersDistinct := by
        unfold Part.NumbersDistinct
        simp only [hst.callout?]
        exact hdistinct
      have hxp : p.member? m = some x := by
        rw [Part.member?, hst.roster]
        exact hx
      obtain ⟨y, hy, hreleased, hkept⟩ := Part.depart_members hcw hall hdistinct' hxp
      rw [← hunused]
      refine ⟨y, ?_, hreleased, hkept⟩
      rw [← hy, ht.after]
      rfl
    · rw [show cleared = s.without c.owner BatchKind.callOut from congrArg (s.without c.owner) callOut_eq]
      intro hquiet hwaits hcan
      show HandedAll (releasesFor c.owner unused) _ _
      have hcan : (s.without c.owner BatchKind.callOut).CanTake (releasesFor c.owner unused) := hcan
      rw [← hunused] at hcan ⊢
      exact ((htrails hwaits).handedAll hquiet hcan).answered ht.toOrderAnswered
    · exact (Callout.core_ladder hcore).2.1
  · have hg : ¬ gone := fun h => hall (hgone.mp h)
    obtain ⟨d, hd, hcore, hassessed, hlive', hreassessed⟩ := Part.depart_left (ap := ap) hcw hlive (by simpa using hall)
    have hfound := (hm.trans (Part.finish_moves _ _)).findCallout id hn (by simp [hd])
    refine (leads_of_takenFor (c := .depart .console [num c.number.toNat, .text [ap.letter]]) (code := 20#8) hs rfl (hp ▸ hv)
      (hp ▸ hm) id).imp fun t ht => ?_
    rw [hp, Part.calloutResults_of hfound hd] at ht
    obtain ⟨raised, hanswered⟩ := ht.answered
    refine ⟨d, raised, (ht.callout? i).trans hd, ?_, hassessed.trans (hassessment d), ?_, fun _ hquiet => ?_, fun h => absurd h hg, ?_,
      ht.configuration, hanswered⟩
    · exact (congrArg Callout.appliances hcore : d.core.appliances = (c.freeze ap).core.appliances)
    · rw [if_neg hg]
      exact hlive'
    · rw [← hassessment]
      exact hreassessed (hst.quiet hquiet)
    · exact (Callout.core_ladder hcore).2.1

end Sys2Proof.Machine

/-! STAND-DOWN: the callout made FREE at once or in CLOSING, and what the work that follows makes of it (R29 to R32, R35). -/

namespace Sys2Proof.Machine
open Sys2Proof

variable {p q r s t : Part} {i j : SlotId} {c d e : Callout} {n : CalloutNo}

/-! ### Commitments let go, and the free order -/

/-- Every appliance is committed as before, or no longer. -/
def Uncommits (p q : Part) : Prop :=
  ∀ ap, (q.appliance ap).committed = (p.appliance ap).committed ∨ (q.appliance ap).committed = none

theorem Part.committed_uncommitAll (n : CalloutNo) (p : Part) (ap : Appliance) : ((p.uncommitAll n).appliance ap).committed
    = if (p.appliance ap).committed = some n then none else (p.appliance ap).committed := by
  have h : (p.uncommitAll n).appliance ap
      = if (p.appliance ap).committed = some n then { p.appliance ap with committed := none } else p.appliance ap :=
    Table.get_map _ _ _
  rw [h]
  split <;> rfl

namespace Uncommits

theorem of_resolver (h : q.resolver = p.resolver) : Uncommits p q := fun ap => .inl (by rw [Part.appliance, h]; rfl)

theorem refl (p : Part) : Uncommits p p := of_resolver rfl

theorem trans (h : Uncommits p q) (k : Uncommits q r) : Uncommits p r := fun ap =>
  (k ap).elim (fun e => (h ap).imp e.trans e.trans) .inr

theorem uncommitAll (n : CalloutNo) (p : Part) : Uncommits p (p.uncommitAll n) := fun ap => by
  rw [Part.committed_uncommitAll]
  split
  · exact .inr rfl
  · exact .inl rfl

theorem degradeIf (b : Bool) (i : SlotId) (p : Part) : Uncommits p (if b = true then p.degrade i else p) := by
  split
  · exact of_resolver (Part.modify_resolver ..)
  · exact refl p

theorem withdrawFor (i : SlotId) (ks : BatchKind → Bool) (p : Part) : Uncommits p (p.withdrawFor i ks).2 := by
  cases hc : p.callout? i with
  | none =>
    unfold Part.withdrawFor
    rw [hc]
    exact refl p
  | some c =>
    rw [Part.withdrawFor_eq hc]
    exact (of_resolver (p.withdraw_onlyPages _ _).resolver).trans (degradeIf _ i _)

theorem becomeFree (i : SlotId) (endCode : Nat) (p : Part) : Uncommits p (p.becomeFree i endCode) := by
  refine (withdrawFor i everyKind p).trans ?_
  unfold Part.becomeFree
  dsimp only
  split
  · exact refl _
  · exact (of_resolver rfl).trans ((uncommitAll _ _).trans (of_resolver rfl))

theorem takeReport (x : Report) (p : Part) : Uncommits p (p.takeReport x) := by
  cases x with
  | pass o outcome groups =>
    cases hi : p.findOwner o with
    | none =>
      rw [(Part.takeReport_unowned hi outcome groups .alert .complete true).1]
      exact refl p
    | some i =>
      rw [Part.takeReport_pass hi]
      split
      · exact of_resolver (Part.modify_resolver ..)
      · exact refl p
  | ended o kind form failed =>
    cases hi : p.findOwner o with
    | none =>
      rw [(Part.takeReport_unowned hi .done 0#16 kind form failed).2]
      exact refl p
    | some i =>
      rw [Part.takeReport_ended hi]
      split
      · exact degradeIf failed i p
      · refine (degradeIf failed i p).trans ?_
        generalize (if failed = true then p.degrade i else p) = q
        unfold Part.batchEnded
        split
        · exact refl q
        · cases kind with
          | alert =>
            have hended : (q.modify i fun c => { c with alertStatus := .ended }).resolver = q.resolver := Part.modify_resolver ..
            unfold Part.alertEnded
            dsimp only
            split
            · exact of_resolver hended
            · split
              · refine of_resolver ?_
                rw [Part.takeOutcome_resolver, Part.enterCounting, Part.modify_resolver]
                exact (Part.modify_resolver ..).trans hended
              · exact of_resolver hended
          | standDown =>
            dsimp only
            split
            · exact becomeFree i 3 q
            · exact refl q
          | supplement | repage | escalate | release => exact refl q

theorem workStep (h : p.workStep = some q) : Uncommits p q := by
  cases hr : p.pages.reports with
  | cons x rest =>
    rw [Part.workStep_reports hr] at h
    cases h
    exact takeReport x { p with pages := { p.pages with reports := rest } }
  | nil =>
    unfold Part.workStep at h
    rw [hr] at h
    dsimp only at h
    split at h
    · split at h
      · cases h
      · split at h
        · cases h
          exact of_resolver p.leaveQueue_onlyPages.resolver
        · split at h
          · cases h
          · cases h
            exact of_resolver p.turn_onlyPages.resolver
    · cases h

theorem finish (p : Part) : Uncommits p p.finish :=
  (Part.work_keeps (I := Uncommits p) (fun _ _ h hp => hp.trans (workStep h)) (refl p) : Uncommits p p.work)

end Uncommits

/-- A slot once in the free order stays in it while nothing is made. -/
theorem Moves.freeOrder {g : Grants} (hg : ¬ g.makes) (h : Moves g p q) (hi : i ∈ p.table.freeOrder) : i ∈ q.table.freeOrder := by
  refine h.lift (R := fun p q => i ∈ p.table.freeOrder → i ∈ q.table.freeOrder) (fun _ h => h) (fun h k hp => k (h hp)) ?_ hi
  intro p q m hi
  cases m with
  | pages h k => rw [h.table]; exact hi
  | raise n => exact hi
  | modify i f h => rw [Part.modify_eq]; exact hi
  | enter i f h =>
    rw [Part.modify_eq]
    exact hi
  | roster r h => exact hi
  | resolver r h => exact hi
  | free i x c h => exact List.mem_append_left _ hi
  | run r h => exact hi
  | lamps => exact hi
  | create granted i c h => exact absurd granted hg
  | edit granted h => rw [h.table]; exact hi
  | supply st r h => exact hi
  | each f h => exact hi

/-! ### No pass is completed by the work -/

/-- No report of a completed pass waits. -/
def Part.NoPass (p : Part) : Prop :=
  ∀ x ∈ p.pages.reports, x.passed = false

theorem ReportsGrow.noPass (h : ReportsGrow p q) (hp : p.NoPass) : q.NoPass := fun x hx => by
  obtain ⟨more, hm, hpassed⟩ := h.reports
  rw [hm] at hx
  exact (List.mem_append.mp hx).elim (hp x) (hpassed x)

/-- A site settled without a pass. -/
theorem Part.settle_noPass (hp : p.NoPass) (k : SiteId) {o : PassOutcome} (ho : o.completed = false) : (p.settle k o).NoPass := by
  cases hq : p.pages.queue with
  | nil =>
    unfold Part.settle Part.current?
    rw [hq]
    exact hp
  | cons b rest =>
    rw [Part.settle_cons hq]
    intro x hx
    rcases List.mem_append.mp hx with hx | hx
    · exact hp x hx
    · rcases List.mem_cons.mp hx with rfl | hx
      · exact ho
      · split at hx
        · rw [List.mem_singleton.mp hx]
          rfl
        · exact absurd hx List.not_mem_nil

theorem Part.turn_noPass (hp : p.NoPass) : p.turn.NoPass := by
  have hcurrent (f : Batch → Batch) : (p.onCurrent f).pages.reports = p.pages.reports := by
    cases hq : p.pages.queue with
    | nil =>
      unfold Part.onCurrent Part.onPages
      simp only [hq]
    | cons b rest =>
      rw [Part.onCurrent_withQueue hq]
      rfl
  unfold Part.turn
  split
  · exact hp
  next b hb =>
    split
    · exact hp
    · split
      · exact Part.settle_noPass hp _ rfl
      · exact Part.settle_noPass hp _ rfl
      · exact fun x hx => hp x (hcurrent _ ▸ hx)
      · unfold Part.current? at hb
        cases hq : p.pages.queue with
        | nil => rw [hq] at hb; cases hb
        | cons y rest =>
          rw [Part.clearCheck_eq hq]
          split
          · exact hp
          · exact hp

theorem Part.workStep_noPass (hp : p.NoPass) (h : p.workStep = some q) : q.NoPass := by
  cases hr : p.pages.reports with
  | cons x rest =>
    rw [Part.workStep_reports hr] at h
    cases h
    refine (Part.takeReport_reports x _).noPass fun y hy => hp y ?_
    rw [hr]
    exact List.mem_cons_of_mem _ hy
  | nil =>
    unfold Part.workStep at h
    rw [hr] at h
    dsimp only at h
    split at h
    · split at h
      · cases h
      · split at h
        · cases h
          exact (Part.admitFrom_reports _ _).noPass hp
        · split at h
          · cases h
          · cases h
            exact Part.turn_noPass hp
    · cases h

/-! ### A callout in CLOSING through the work -/

/-- What work leaves of a callout in CLOSING; where no pass is completed, its PAGED marks too. -/
structure Callout.Closes (pg : Prop) (c d : Callout) : Prop where
  core  : d.core = c.core
  still : c.Still d
  paged : pg → d.paged = c.paged

theorem Callout.Closes.refl (pg : Prop) (c : Callout) : c.Closes pg c := ⟨rfl, ⟨rfl, rfl, rfl, rfl⟩, fun _ => rfl⟩

theorem Callout.Closes.degradedIf {pg : Prop} (h : c.Closes pg d) (b : Bool) : c.Closes pg (d.degradedIf b) := ⟨h.core, h.still, h.paged⟩

/-- The slot holds the callout in CLOSING, or its summary once it is FREE. -/
def Part.ClosesAt (pg : Prop) (i : SlotId) (c : Callout) (q : Part) : Prop :=
  (∃ d, q.callout? i = some d ∧ c.Closes pg d)
  ∨ ∃ d, q.slot i = .free (some (d.summarise 3)) ∧ c.Closes pg d ∧ i ∈ q.table.freeOrder

variable {pg : Prop}

theorem Part.ClosesAt.of_table (h : p.ClosesAt pg i c) (ht : q.table = p.table) : q.ClosesAt pg i c := by
  have hslot : q.slot i = p.slot i := by rw [Part.slot, ht]; rfl
  unfold Part.ClosesAt at h ⊢
  rw [Part.callout?_congr ht, hslot, ht]
  exact h

theorem Part.batchEnded_closes (hc : p.callout? i = some d) (hd : c.Closes pg d) (hclosing : c.state = .closing)
    (kind : BatchKind) : (p.batchEnded i kind).ClosesAt pg i c := by
  have hstate : d.state = .closing := hd.still.1.trans hclosing
  unfold Part.batchEnded
  rw [hc]
  cases kind with
  | alert =>
    have hended : (p.modify i fun c => { c with alertStatus := .ended }).callout? i = some { d with alertStatus := .ended } := by
      rw [Part.callout?_modify_self, hc]
      rfl
    unfold Part.alertEnded
    simp only [hended]
    rw [if_neg (by rw [hstate]; nofun)]
    exact .inl ⟨_, hended, hd.core, hd.still, hd.paged⟩
  | standDown =>
    dsimp only
    rw [if_pos hstate]
    exact .inr ⟨_, Part.slot_becomeFree hc 3, hd.degradedIf _, Part.mem_freeOrder_becomeFree hc 3⟩
  | supplement | repage | escalate | release => exact .inl ⟨d, hc, hd⟩

theorem Part.takeReport_closes (hc : p.callout? i = some d) (hd : c.Closes pg d) (hclosing : c.state = .closing) {x : Report}
    (hx : pg → x.passed = false) : (p.takeReport x).ClosesAt pg i c := by
  cases x with
  | pass o outcome groups =>
    cases hi : p.findOwner o with
    | none =>
      rw [(Part.takeReport_unowned hi outcome groups .alert .complete true).1]
      exact .inl ⟨d, hc, hd⟩
    | some j =>
      rw [Part.takeReport_pass hi]
      split
      next hcompleted =>
        left
        by_cases hj : j = i
        · subst hj
          rw [Part.callout?_modify_self, hc]
          exact ⟨_, rfl, hd.core, hd.still, fun h => absurd ((hx h).symm.trans hcompleted) (by nofun)⟩
        · rw [Part.callout?_modify_ne _ hj]
          exact ⟨d, hc, hd⟩
      next => exact .inl ⟨d, hc, hd⟩
  | ended o kind form failed =>
    cases hi : p.findOwner o with
    | none =>
      rw [(Part.takeReport_unowned hi .done 0#16 kind form failed).2]
      exact .inl ⟨d, hc, hd⟩
    | some j =>
      have hc' : ∃ e, (if failed = true then p.degrade j else p).callout? i = some e ∧ c.Closes pg e := by
        rw [Part.callout?_degradeIf, hc]
        split
        · exact ⟨_, rfl, hd.degradedIf _⟩
        · exact ⟨d, rfl, hd⟩
      obtain ⟨e, he, hce⟩ := hc'
      rw [Part.takeReport_ended hi]
      split
      · exact .inl ⟨e, he, hce⟩
      · by_cases hj : j = i
        · subst hj
          exact Part.batchEnded_closes he hce hclosing kind
        · exact .inl ⟨e, (Part.callout?_batchEnded_ne hj kind _).trans he, hce⟩

theorem Part.workStep_closes (hp : p.ClosesAt pg i c) (hclosing : c.state = .closing) (hpg : pg → p.NoPass)
    (h : p.workStep = some q) : q.ClosesAt pg i c := by
  rcases hp with ⟨d, hc, hd⟩ | ⟨d, hslot, hd, hfree⟩
  · cases hr : p.pages.reports with
    | cons x rest =>
      rw [Part.workStep_reports hr] at h
      cases h
      exact Part.takeReport_closes (p := { p with pages := { p.pages with reports := rest } }) hc hd hclosing
        fun h => hpg h x (by rw [hr]; exact List.mem_cons_self)
    | nil =>
      refine .inl ⟨d, ?_, hd⟩
      unfold Part.workStep at h
      rw [hr] at h
      dsimp only at h
      split at h
      · split at h
        · cases h
        · split at h
          · cases h
            rw [p.leaveQueue_onlyPages.callout?, hc]
          · split at h
            · cases h
            · cases h
              rw [p.turn_onlyPages.callout?, hc]
      · cases h
  · have hstep := (Part.workStep_work h none).slots i
    rw [hslot] at hstep
    exact .inr ⟨d, hstep, hd, (Part.workStep_moves (.unedited none False) h).freeOrder id hfree⟩

theorem Part.finish_closes (hc : p.callout? i = some c) (hclosing : c.state = .closing) (hpg : pg → p.NoPass) :
    p.finish.ClosesAt pg i c := by
  have hwork : p.work.ClosesAt pg i c ∧ (pg → p.work.NoPass) :=
    Part.work_keeps (I := fun q => q.ClosesAt pg i c ∧ (pg → q.NoPass))
      (fun _ _ h hq => ⟨Part.workStep_closes hq.1 hclosing hq.2 h, fun hp => Part.workStep_noPass (hq.2 hp) h⟩)
      ⟨.inl ⟨c, hc, .refl pg c⟩, hpg⟩
  exact hwork.1.of_table rfl

/-- A FREE slot through the work. -/
theorem Part.finish_free {x : Option Summary} (h : p.slot i = .free x) : p.finish.slot i = .free x := by
  have hstep := p.finish_work.1.slots i
  rw [h] at hstep
  exact hstep

/-! ### The summary (R35) -/

/-- What a summary holds of a callout, less PAGED marks, TX_DEGRADED and the end code. -/
def Callout.gist (c : Callout) : Summary :=
  { c.summarise 0 with
    paged := 0#16
    repaged := []
    flags := { c.flags with txDegraded := false } }

theorem Callout.Closes.gist (h : c.Closes pg d) : d.gist = c.gist := by
  obtain ⟨-, hresponses, hassessment, -⟩ := h.still
  have hcore : d.core.gist = c.core.gist := congrArg Callout.gist h.core
  have hgist (x : Callout) : x.gist
      = { x.core.gist with outcome := x.assessment.outcome, responses := x.responses.length } := rfl
  rw [hgist d, hgist c, hcore, hassessment, hresponses]

/-- The summary tells of this callout, of its PAGED marks as they are here if `pg`. -/
structure Callout.Summed (pg : Prop) (c : Callout) (y : Summary) : Prop where
  identity : y.number = c.number ∧ y.reference = c.reference ∧ y.origin = c.origin ∧ y.cls = c.cls ∧ y.zone = c.zone
    ∧ y.plan = c.plan ∧ y.token = c.token
  progress : y.elapsed = c.elapsed ∧ y.level = c.level ∧ y.exhausted = c.exhausted ∧ y.outcome = c.assessment.outcome
  listed   : y.letters = c.appliances.map ApplianceEntry.letter
    ∧ y.departed = (c.appliances.filter fun e => e.departed).map ApplianceEntry.letter
  groups   : y.primary = c.primary ∧ (pg → y.paged = c.paged)
  flags    : y.flags = { c.flags with txDegraded := y.flags.txDegraded }
  count    : y.responses = c.responses.length

theorem Callout.summed (h : d.gist = c.gist) (hp : pg → d.paged = c.paged) (endCode : Nat) : c.Summed pg (d.summarise endCode) where
  identity := ⟨(congrArg Summary.number h :), (congrArg Summary.reference h :), (congrArg Summary.origin h :),
    (congrArg Summary.cls h :), (congrArg Summary.zone h :), (congrArg Summary.plan h :), (congrArg Summary.token h :)⟩
  progress := ⟨(congrArg Summary.elapsed h :), (congrArg Summary.level h :), (congrArg Summary.exhausted h :),
    (congrArg Summary.outcome h :)⟩
  listed := ⟨(congrArg Summary.letters h :), (congrArg Summary.departed h :)⟩
  groups := ⟨(congrArg Summary.primary h :), hp⟩
  flags := by
    have hf : ({ d.flags with txDegraded := false } : CalloutFlags) = { c.flags with txDegraded := false } :=
      congrArg Summary.flags h
    exact (congrArg (fun f : CalloutFlags => { f with txDegraded := d.flags.txDegraded }) hf :)
  count := (congrArg Summary.responses h :)

end Sys2Proof.Machine

/-! STAND-DOWN as the page queue and the callout table take it (R29, R30, R32, R35). -/

namespace Sys2Proof.Machine
open Sys2Proof

variable {p q r s t : Part} {i j : SlotId} {c d e : Callout} {o : Owner} {ks : BatchKind → Bool}

/-! ### The groups on the air (R30) -/

theorem Part.admitFrom_behind (l : List Demand) (p : Part) : (∃ more, (Part.admitFrom l p).pages.queue = p.pages.queue ++ more
    ∧ ∀ b ∈ more, ∃ d ∈ l, b.owner = d.owner) ∧ (Part.admitFrom l p).sites.sequencer = p.sites.sequencer := by
  induction l generalizing p with
  | nil => exact ⟨⟨[], (List.append_nil _).symm, by simp⟩, rfl⟩
  | cons d rest ih =>
    have hadmission : (∃ more, (p.admission d).pages.queue = p.pages.queue ++ more ∧ ∀ b ∈ more, b.owner = d.owner)
        ∧ (p.admission d).sites.sequencer = p.sites.sequencer := by
      rw [Part.admission_eq]
      split
      · exact ⟨⟨[], (List.append_nil _).symm, by simp⟩, rfl⟩
      · split
        · exact ⟨⟨[], (List.append_nil _).symm, by simp⟩, rfl⟩
        · exact ⟨⟨_, rfl, fun b hb => by rw [List.mem_singleton.mp hb]; rfl⟩, rfl⟩
    unfold Part.admitFrom
    split
    · obtain ⟨⟨x, hx, hox⟩, hsx⟩ := hadmission
      obtain ⟨⟨y, hy, hoy⟩, hsy⟩ := ih (p.admission d)
      refine ⟨⟨x ++ y, by rw [hy, hx, List.append_assoc], fun b hb => ?_⟩, hsy.trans hsx⟩
      rcases List.mem_append.mp hb with hb | hb
      · exact ⟨d, List.mem_cons_self, hox b hb⟩
      · obtain ⟨f, hf, hbf⟩ := hoy b hb
        exact ⟨f, List.mem_cons_of_mem _ hf, hbf⟩
    · exact ⟨⟨[], (List.append_nil _).symm, by simp⟩, rfl⟩

theorem Part.groupsOnAir_of_head (hs : q.sites.sequencer.keyed? = p.sites.sequencer.keyed?)
    (hq : (q.pages.queue.head?.map fun b => (b.owner, b.groups)) = p.pages.queue.head?.map fun b => (b.owner, b.groups)) :
    q.groupsOnAir o = p.groupsOnAir o := by
  unfold Part.groupsOnAir Part.current?
  rw [hs]
  cases p.sites.sequencer.keyed? with
  | none => rfl
  | some k =>
    cases hp : p.pages.queue.head? with
    | none =>
      rw [hp] at hq
      rw [Option.map_eq_none_iff.mp hq]
    | some b =>
      rw [hp] at hq
      obtain ⟨x, hx, he⟩ := Option.map_eq_some_iff.mp hq
      rw [hx]
      simp only [Prod.mk.injEq] at he
      simp only [he.1, he.2]

theorem Part.groupsOnAir_unkeyed (h : p.sites.sequencer.keyed? = none) : p.groupsOnAir o = 0#16 := by
  unfold Part.groupsOnAir
  rw [h]

theorem Part.groupsOnAir_without (o : Owner) (ks : BatchKind → Bool) (p : Part) :
    (p.without o ks).groupsOnAir o = p.groupsOnAir o := by
  cases hk : p.sites.sequencer.keyed? with
  | none =>
    have either {b : Prop} [Decidable b] {x y : Part} (hx : x.sites.sequencer.keyed? = none)
        (hy : y.sites.sequencer.keyed? = none) : (if b then x else y).sites.sequencer.keyed? = none := by
      split
      · exact hx
      · exact hy
    rw [Part.groupsOnAir_unkeyed hk, Part.groupsOnAir_unkeyed]
    unfold Part.without
    dsimp only
    split
    · exact hk
    · exact either (either hk rfl) hk
  | some k =>
    unfold Part.without
    dsimp only
    split
    next hq => exact Part.groupsOnAir_of_head rfl (by rw [hq])
    next b rest hq =>
      split
      · refine Eq.trans (congrArg (Part.groupsOnAir o) (if_pos ?_)) (Part.groupsOnAir_of_head rfl ?_)
        · cases hs : p.sites.sequencer with
          | idle | clearWait _ _ =>
            rw [hs] at hk
            cases hk
          | leadIn _ _ _ | burst _ _ _ => rfl
        · rw [hq]
          rfl
      · exact Part.groupsOnAir_of_head rfl (by rw [hq]; rfl)

theorem Part.groupsOnAir_tryAdmissions (h : ∀ d ∈ p.pages.demands, d.owner ≠ o) :
    p.tryAdmissions.groupsOnAir o = p.groupsOnAir o := by
  obtain ⟨⟨more, hq, ho⟩, hs⟩ := Part.admitFrom_behind p.pages.demands p
  change p.tryAdmissions.pages.queue = _ at hq
  change p.tryAdmissions.sites.sequencer = _ at hs
  cases hp : p.pages.queue with
  | cons b rest => exact Part.groupsOnAir_of_head (by rw [hs]) (by rw [hq, hp]; rfl)
  | nil =>
    rw [hp, List.nil_append] at hq
    have hnone : p.groupsOnAir o = 0#16 := by
      unfold Part.groupsOnAir Part.current?
      rw [hp]
      split
      next h => cases h
      next => rfl
    rw [hnone]
    unfold Part.groupsOnAir Part.current?
    rw [hq]
    cases more with
    | nil =>
      split
      next h => cases h
      next => rfl
    | cons b rest =>
      obtain ⟨d, hd, hbd⟩ := ho b List.mem_cons_self
      split
      next hb =>
        cases hb
        exact if_neg (by rw [hbd]; exact h d hd)
      next => rfl

/-- A withdrawal of everything leaves what a callout has on the air. -/
theorem Part.groupsOnAir_withdrawFor (hc : p.callout? i = some c) :
    (p.withdrawFor i everyKind).2.groupsOnAir c.owner = p.groupsOnAir c.owner := by
  have hwithdraw : (p.withdraw c.owner everyKind).2.groupsOnAir c.owner = p.groupsOnAir c.owner := by
    rw [Part.withdraw_part, Part.groupsOnAir_tryAdmissions, Part.groupsOnAir_without]
    intro d hd ho
    have hall : p.Holds (fun _ => True) (fun _ _ _ => True) := ⟨fun _ _ => trivial, fun _ _ => .inl trivial⟩
    exact absurd (((hall.without c.owner everyKind).demands d hd).2 ho) (by nofun)
  rw [Part.withdrawFor_eq hc]
  dsimp only
  split
  · refine (Part.groupsOnAir_of_head ?_ ?_).trans hwithdraw
    · rw [(Part.degrade_pages i _).2]
    · rw [(Part.degrade_pages i _).1]
  · exact hwithdraw

/-! ### The two forms of a STAND-DOWN -/

theorem Part.callout?_letGo (n : CalloutNo) (p : Part) (j : SlotId) :
    ((p.disengageAll n).uncommitAll n).callout? j = p.callout? j := rfl

theorem Part.letGo_paging (n : CalloutNo) (p : Part) : Paging p ((p.disengageAll n).uncommitAll n) :=
  .of_roster ⟨rfl, rfl⟩ rfl rfl (p.disengageAll_work none n).roster fun _ => rfl

theorem Part.disband_pages (i : SlotId) (c : Callout) (p : Part) : SamePages (p.withdrawFor i everyKind).2 (p.disband i c) := by
  unfold Part.disband
  exact ((Part.modify_pages i Callout.cleared _).trans (Part.releaseMembers_pages i c.activeMembers _)).trans
    (Part.letGo_paging c.number _).same

theorem Part.groupsOnAir_disband (hc : p.callout? i = some c) : (p.disband i c).groupsOnAir c.owner = p.groupsOnAir c.owner := by
  have hpages := p.disband_pages i c
  refine (Part.groupsOnAir_of_head ?_ ?_).trans (Part.groupsOnAir_withdrawFor hc)
  · rw [hpages.2]
  · rw [hpages.1]

theorem Part.callout?_disbanded (hc : p.callout? i = some c) : ∃ b, (p.disband i c).callout? i
    = some ((c.degradedIf b).cleared.mapRecords c.activeMembers.contains (Response.release c.elapsed)) := by
  unfold Part.disband
  rw [Part.callout?_letGo, Part.callout?_releaseMembers, Part.callout?_modify_self, Part.callout?_withdrawFor hc]
  exact ⟨_, rfl⟩

theorem Part.callout?_disband_ne (hj : i ≠ j) (c : Callout) (p : Part) : (p.disband i c).callout? j = p.callout? j := by
  unfold Part.disband
  rw [Part.callout?_letGo, Part.callout?_releaseMembers_ne hj, Part.callout?_modify_ne _ hj, Part.callout?_withdrawFor_ne hj]

theorem Part.disband_paging (hpg : Paging s p) (hc : p.callout? i = some c) (hw : (s.without c.owner everyKind).HeadWaits) :
    Paging (s.without c.owner everyKind) (p.disband i c) := by
  have hreleased := ((hpg.withdrawFor hc hw).trans (.modify (f := Callout.cleared) i _ fun _ _ => rfl)).trans
    (.releaseMembers i c.activeMembers _)
  unfold Part.disband
  exact hreleased.trans (Part.letGo_paging c.number _)

/-- The part a STAND-DOWN with groups to stand down leaves. -/
def Part.closing (i : SlotId) (c : Callout) (groups : GroupSet) (p : Part) : Part :=
  (((p.disband i c).modify i fun c => { c with standDownGroups := some groups }).demandGroups
    .standDown c.owner groups).enter i .closing

theorem Part.standDownPaged_of_groups (hc : p.callout? i = some c) : p.standDownPaged i c =
    if c.pagedPrimary ||| p.groupsOnAir c.owner = 0#16 then (p.disband i c).becomeFree i 4
    else p.closing i c (c.pagedPrimary ||| p.groupsOnAir c.owner) := by
  rw [Part.standDownPaged_eq, Part.groupsOnAir_disband hc]
  rfl

/-- The callout in CLOSING, when a batch that had failed left its queue if `b`. -/
def Callout.inClosing (b : Bool) (groups : GroupSet) (c : Callout) : Callout :=
  ((c.degradedIf b).cleared.mapRecords c.activeMembers.contains (Response.release c.elapsed)).closing groups

theorem Part.callout?_closing (hc : p.callout? i = some c) (groups : GroupSet) :
    ∃ b, (p.closing i c groups).callout? i = some (c.inClosing b groups) := by
  obtain ⟨b, hb⟩ := Part.callout?_disbanded hc
  refine ⟨b, ?_⟩
  rw [Part.closing, Part.callout?_enter, if_pos rfl, Part.demandGroups, Part.callout?_demand, Part.callout?_modify_self, hb]
  rfl

theorem Part.callout?_closing_ne (hj : i ≠ j) (c : Callout) (groups : GroupSet) (p : Part) :
    (p.closing i c groups).callout? j = p.callout? j := by
  rw [Part.closing, Part.callout?_enter, if_neg hj, Part.demandGroups, Part.callout?_demand, Part.callout?_modify_ne _ hj,
    Part.callout?_disband_ne hj]

theorem Part.closing_reports (i : SlotId) (c : Callout) (groups : GroupSet) (p : Part) :
    ReportsGrow p (p.closing i c groups) := by
  have hdisband : ReportsGrow p (p.disband i c) := (p.withdrawFor_reports i everyKind).trans (.of_same (p.disband_pages i c))
  unfold Part.closing
  exact ((hdisband.trans (.of_same (Part.modify_pages i _ _))).trans (Part.demand_reports _ _)).trans
    (.of_same (Part.enter_pages i .closing _))

/-- The STAND_DOWN demand is handed over behind what the withdrawal leaves. -/
theorem Part.closing_paging (hpg : Paging s p) (hc : p.callout? i = some c) (hw : (s.without c.owner everyKind).HeadWaits)
    (groups : GroupSet) : Paging ((s.without c.owner everyKind).demand
      { kind := .standDown, owner := c.owner, content := .groups (membersOf 16 groups), restrict := .all })
      (p.closing i c groups) :=
  (((Part.disband_paging hpg hc hw).trans
    (.modify (f := fun c => { c with standDownGroups := some groups }) i _ fun _ _ => rfl)).demand _).trans (.enter i .closing _)

/-! ### Members and appliances let go -/

/-- No member is engaged on callout `n`, and no appliance committed to it. -/
structure Part.Deserted (n : CalloutNo) (p : Part) : Prop where
  members    : ∀ m x, p.member? m = some x → x.engaged ≠ some n
  appliances : ∀ ap, (p.appliance ap).committed ≠ some n

theorem Part.Deserted.of_eases {n : CalloutNo} (h : p.Deserted n) (he : Eases p q) (hu : Uncommits p q) : q.Deserted n where
  members m x hx := by
    rcases he m with e | ⟨y, hy, e⟩
    · exact h.members m x (e ▸ hx)
    · rw [e] at hx
      cases hx
      exact nofun
  appliances ap := by
    rcases hu ap with e | e
    · rw [e]
      exact h.appliances ap
    · rw [e]
      exact nofun

theorem Part.Deserted.finish {n : CalloutNo} (h : p.Deserted n) : p.finish.Deserted n := h.of_eases p.finish_eases (.finish p)

theorem Part.Deserted.of_let_go (n : CalloutNo) (p : Part) : ((p.disengageAll n).uncommitAll n).Deserted n where
  members m x hx := by
    have hx : (p.disengageAll n).member? m = some x := hx
    rw [Part.member?_disengageAll, Option.map_eq_some_iff] at hx
    obtain ⟨y, -, rfl⟩ := hx
    exact y.leave_engaged n
  appliances ap := by
    rw [Part.committed_uncommitAll]
    split
    next => exact nofun
    next h => exact h

theorem Part.Deserted.disband (i : SlotId) (c : Callout) (p : Part) : (p.disband i c).Deserted c.number := by
  unfold Part.disband
  exact .of_let_go _ _

theorem Part.Deserted.closing (i : SlotId) (c : Callout) (groups : GroupSet) (p : Part) :
    (p.closing i c groups).Deserted c.number := by
  unfold Part.closing
  refine (Part.Deserted.disband i c p).of_eases ?_ ?_
  · exact ((Part.modify_eases i _ _).trans (Part.demandGroups_onlyPages _ _ _ _).eases).trans (Part.enter_eases i .closing _)
  · refine .of_resolver ?_
    rw [Part.enter, Part.raise_resolver, Part.modify_resolver, (Part.demandGroups_onlyPages _ _ _ _).resolver,
      Part.modify_resolver]

theorem Part.Deserted.becomeFree (hc : p.callout? i = some c) (endCode : Nat) : (p.becomeFree i endCode).Deserted c.number := by
  rw [Part.becomeFree_eq (Part.callout?_withdrawFor hc everyKind)]
  exact ⟨(Part.Deserted.of_let_go c.number _).members, (Part.Deserted.of_let_go c.number _).appliances⟩

/-! ### A callout made FREE at once (R29) -/

theorem Part.becomeFree_pages (i : SlotId) (endCode : Nat) (p : Part) :
    (p.becomeFree i endCode).pages = (p.withdrawFor i everyKind).2.pages := by
  unfold Part.becomeFree
  dsimp only
  generalize (p.withdrawFor i everyKind).2 = q
  split <;> rfl

theorem Part.everyKind_fits (hn : ∀ j e, p.callout? j = some e → e.number ≠ o.number) :
    p.Fits (SparedDemand o everyKind) (SparedBatch o everyKind) :=
  ⟨p.spared_yields o everyKind, fun j e _ he _ ho => absurd (congrArg Owner.number ho) (hn j e he)⟩

theorem WorkFrame.numbers {n : CalloutNo} (h : WorkFrame none p q) (hn : ∀ j e, p.callout? j = some e → e.number ≠ n) (j : SlotId)
    (e : Callout) (he : q.callout? j = some e) : e.number ≠ n := by
  obtain ⟨d, hd, hstep⟩ := h.callout?_back he
  rw [(Callout.core_owner hstep.1).1]
  exact hn j d hd

/-- What is left once a callout has been made FREE and the work that follows is done. -/
structure Part.Freed (pg : Prop) (i : SlotId) (c : Callout) (endCode : Nat) (t : Part) : Prop where
  deserted : t.Deserted c.number
  spared   : t.Holds (SparedDemand c.owner everyKind) (SparedBatch c.owner everyKind)
  summary  : ∃ y, t.slot i = .free (some y) ∧ c.Summed pg y ∧ y.endCode = endCode ∧ i ∈ t.table.freeOrder

theorem Part.becomeFree_freed (hd : p.callout? i = some d) (howner : d.owner = c.owner) (hgist : d.gist = c.gist)
    (hpaged : d.paged = c.paged) (hn : ∀ j e, i ≠ j → p.callout? j = some e → e.number ≠ c.number) (endCode : Nat) :
    (p.becomeFree i endCode).finish.Freed True i c endCode := by
  have hslot := Part.slot_becomeFree hd endCode
  have hnumbers : ∀ j e, (p.becomeFree i endCode).callout? j = some e → e.number ≠ c.owner.number := fun j e he => by
    by_cases hj : i = j
    · subst hj
      rw [p.callout?_becomeFree i endCode] at he
      cases he
    · rw [Part.callout?_becomeFree_ne hj] at he
      exact hn j e hj he
  have hdeserted := Part.Deserted.becomeFree hd endCode
  have hspared : (p.becomeFree i endCode).Holds (SparedDemand c.owner everyKind) (SparedBatch c.owner everyKind) := by
    rw [← howner]
    exact (Part.withdrawFor_spared hd everyKind).of_pages (p.becomeFree_pages i endCode)
  refine ⟨?_, hspared.finish fun q hq => Part.everyKind_fits (hq.numbers hnumbers), _, Part.finish_free hslot,
    Callout.summed (c := c) (d := d.degradedIf _) hgist (fun _ => hpaged) endCode, rfl,
    (Part.finish_moves (.unedited none False) _).freeOrder id (Part.mem_freeOrder_becomeFree hd endCode)⟩
  rw [show c.number = d.number from (congrArg Owner.number howner).symm]
  exact hdeserted.finish

/-- The records a silent STAND-DOWN releases (R29). -/
theorem Part.standDownSilent_freed (hc : p.callout? i = some c) (hn : ∀ j e, i ≠ j → p.callout? j = some e → e.number ≠ c.number)
    (who : List MemberId) (endCode : Nat) : (p.standDownSilent i who endCode).finish.Freed True i c endCode := by
  have hreleased : ((p.withdrawFor i everyKind).2.releaseMembers i who).callout? i
      = some ((c.degradedIf ((p.withdraw c.owner everyKind).1.any Returned.failed)).mapRecords who.contains
        (Response.release c.elapsed)) := by
    rw [Part.callout?_releaseMembers, Part.callout?_withdrawFor hc]
    rfl
  refine Part.becomeFree_freed (c := c) hreleased rfl ?_ rfl (fun j e hj he => ?_) endCode
  · simp only [Callout.gist, Callout.summarise, Callout.mapRecords, List.length_map]
    rfl
  · rw [Part.callout?_releaseMembers_ne hj, Part.callout?_withdrawFor_ne hj] at he
    exact hn j e hj he

theorem Part.disband_freed (hc : p.callout? i = some c) (hn : ∀ j e, i ≠ j → p.callout? j = some e → e.number ≠ c.number)
    (endCode : Nat) : ((p.disband i c).becomeFree i endCode).finish.Freed True i c endCode := by
  obtain ⟨b, hb⟩ := Part.callout?_disbanded hc
  refine Part.becomeFree_freed (c := c) hb rfl ?_ rfl (fun j e hj he => ?_) endCode
  · simp only [Callout.gist, Callout.summarise, Callout.mapRecords, List.length_map]
    rfl
  · rw [Part.callout?_disband_ne hj] at he
    exact hn j e hj he

/-! ### A callout that closes (R30) -/

section
variable {page : Demand}

/-- Nothing but the demand `page` of this owner. -/
def OnlyPage (o : Owner) (page d : Demand) : Prop := d.owner = o → d = page

/-- Nothing but batches of the demand `page` of this owner, as `s` forms them. -/
def OnlyBatch (s : Part) (o : Owner) (page : Demand) : BatchRule := fun k w pages =>
  w = o → k = page.kind ∧ pages = s.formPages page

/-- Every callout of this owner heads its pages as `c` does, and the groups have their addresses. -/
structure Part.Headed (s : Part) (c : Callout) (q : Part) : Prop where
  callouts : ∀ j e, q.callout? j = some e → e.owner = c.owner → e.heading = c.heading
  groups   : q.roster.groups = s.roster.groups

theorem Part.Headed.formPages (h : s.Headed c q) {gs : List GroupId} {k : BatchKind} {x : Restriction} {demand : Demand}
    (hd : demand = { kind := k, owner := c.owner, content := .groups gs, restrict := x }) :
    q.formPages demand = [] ∨ q.formPages demand = gs.map fun g => pageFor k c (.group g) (s.roster.groups.get g).address := by
  subst hd
  unfold Part.formPages
  dsimp only
  cases hj : q.findOwner c.owner with
  | none => exact .inl rfl
  | some j =>
    obtain ⟨e, he, howner⟩ := Part.findLive_eq_some hj
    have howner : e.owner = c.owner := by
      obtain ⟨hn, ht⟩ := Bool.and_eq_true_iff.mp howner
      unfold Callout.owner
      rw [show e.number = c.number from eq_of_beq hn, show e.token = c.token from eq_of_beq ht]
    right
    simp only [Option.bind_some, he, Part.pagesFor, h.groups, pageFor_congr (h.callouts j e he howner)]

theorem Part.Headed.yields (h : s.Headed c q) (hs : s.Headed c s) (hc : s.callout? i = some c) {gs : List GroupId}
    {k : BatchKind} {x : Restriction} (hpage : page = { kind := k, owner := c.owner, content := .groups gs, restrict := x }) :
    q.Yields (OnlyPage c.owner page) (OnlyBatch s c.owner page) := by
  intro d hd
  by_cases ho : d.owner = c.owner
  · obtain rfl := hd ho
    refine (h.formPages hpage).imp id fun hq _ => ⟨rfl, hq.trans ?_⟩
    have hfound : s.findOwner c.owner ≠ none := fun hnone => by
      have := Part.findLive_eq_none.mp hnone i c hc
      simp [Callout.owner] at this
    obtain ⟨j, hj⟩ := Option.ne_none_iff_exists'.mp hfound
    obtain ⟨e, he, howner⟩ := Part.findLive_eq_some hj
    have howner : e.owner = c.owner := by
      obtain ⟨hn, ht⟩ := Bool.and_eq_true_iff.mp howner
      unfold Callout.owner
      rw [show e.number = c.number from eq_of_beq hn, show e.token = c.token from eq_of_beq ht]
    rw [hpage]
    unfold Part.formPages
    simp only [hj, Option.bind_some, he, Part.pagesFor, pageFor_congr (hs.callouts j e he howner)]
  · exact .inr fun h => absurd h ho

end

theorem Callout.inClosing_heading (b : Bool) (groups : GroupSet) (c : Callout) :
    (c.inClosing b groups).heading = c.heading := by
  cases c
  rfl

theorem Callout.disbanded_heading (b : Bool) (groups : GroupSet) (l : List MemberId) (c : Callout) :
    ({ (c.degradedIf b).cleared.mapRecords l.contains (Response.release c.elapsed) with
      standDownGroups := some groups } : Callout).heading = c.heading := by
  cases c
  rfl

theorem Callout.core_heading {c d : Callout} (h : d.core = c.core) : d.heading = c.heading := by
  have hcore (x : Callout) : x.core.heading = x.heading := by
    cases x
    rfl
  rw [← hcore, h, hcore]

theorem Part.letGo_groups (n : CalloutNo) (p : Part) : ((p.disengageAll n).uncommitAll n).roster.groups = p.roster.groups := rfl

theorem Part.releaseMembers_groups (i : SlotId) (ms : List MemberId) (p : Part) :
    (p.releaseMembers i ms).roster.groups = p.roster.groups :=
  (congrArg Roster.groups (p.releaseMembers_work i ms).roster :)

theorem Part.withdrawFor_groups (i : SlotId) (ks : BatchKind → Bool) (p : Part) :
    (p.withdrawFor i ks).2.roster.groups = p.roster.groups :=
  (congrArg Roster.groups (p.withdrawFor_work none i ks).roster :)

theorem Part.disband_groups (i : SlotId) (c : Callout) (p : Part) : (p.disband i c).roster.groups = p.roster.groups := by
  unfold Part.disband
  rw [Part.letGo_groups, Part.releaseMembers_groups, Part.roster_modify, Part.withdrawFor_groups]

theorem Part.closing_groups (i : SlotId) (c : Callout) (groups : GroupSet) (p : Part) :
    (p.closing i c groups).roster.groups = p.roster.groups := by
  unfold Part.closing Part.enter
  rw [Part.raise_roster, Part.roster_modify, (Part.demandGroups_onlyPages _ _ _ _).roster, Part.roster_modify, Part.disband_groups]

/-- The other callouts have other numbers. -/
def Part.Alone (i : SlotId) (c : Callout) (p : Part) : Prop :=
  ∀ j e, i ≠ j → p.callout? j = some e → e.number ≠ c.number

/-- What is the callout's own. -/
theorem Part.Alone.own (h : p.Alone i c) (he : p.callout? j = some e) (ho : e.owner = c.owner) : i = j := by
  by_contra hj
  exact h j e hj he (congrArg Owner.number ho)

theorem Part.closing_own (hc : p.callout? i = some c) (ha : p.Alone i c) {groups : GroupSet}
    (he : (p.closing i c groups).callout? j = some e) (ho : e.owner = c.owner) :
    e.heading = c.heading ∧ e.state = .closing := by
  have halone : (p.closing i c groups).Alone i c := fun k d hk hd => ha k d hk (Part.callout?_closing_ne hk c groups p ▸ hd)
  obtain ⟨b, hb⟩ := Part.callout?_closing hc groups
  obtain rfl := halone.own he ho
  obtain rfl := Option.some.inj (hb.symm.trans he)
  exact ⟨c.inClosing_heading b groups, rfl⟩

theorem Part.Alone.headed (ha : s.Alone i c) (hc : s.callout? i = some c) : s.Headed c s := by
  refine ⟨fun j e he ho => ?_, rfl⟩
  obtain rfl := ha.own he ho
  rw [Option.some.inj (hc.symm.trans he)]

/-- The part before the STAND_DOWN demand, seen by the pages it would form. -/
theorem Part.disband_headed (hc : p.callout? i = some c) (ha : p.Alone i c) (hg : p.roster.groups = s.roster.groups)
    (groups : GroupSet) : s.Headed c ((p.disband i c).modify i fun c => { c with standDownGroups := some groups }) := by
  have hcallout (j : SlotId) : ((p.disband i c).modify i fun c => { c with standDownGroups := some groups }).callout? j
      = if i = j then ((p.disband i c).callout? j).map fun c => { c with standDownGroups := some groups } else p.callout? j := by
    rw [Part.callout?_modify]
    split
    next => rfl
    next hj => exact Part.callout?_disband_ne hj c p
  refine ⟨fun j e he ho => ?_, by rw [Part.roster_modify, Part.disband_groups, hg]⟩
  rw [hcallout] at he
  split at he
  next hj =>
    subst hj
    obtain ⟨b, hb⟩ := Part.callout?_disbanded hc
    rw [hb] at he
    obtain rfl := Option.some.inj he
    exact c.disbanded_heading b groups _
  next hj => exact absurd (congrArg Owner.number ho) (ha j e hj he)

/-- What the page queue holds of a callout that a STAND-DOWN has closed. -/
theorem Part.closing_holds (hc : p.callout? i = some c) (ha : p.Alone i c) (hg : p.roster.groups = s.roster.groups)
    (hcs : s.callout? i = some c) (has : s.Alone i c) (groups : GroupSet) {page : Demand}
    (hpage : page = { kind := .standDown, owner := c.owner, content := .groups (membersOf 16 groups), restrict := .all }) :
    (p.closing i c groups).finish.Holds (OnlyPage c.owner page) (OnlyBatch s c.owner page) := by
  have hheaded := has.headed hcs
  have hheld : (p.closing i c groups).Holds (OnlyPage c.owner page) (OnlyBatch s c.owner page) := by
    have hspared := (Part.withdrawFor_spared hc everyKind).of_pages (p.disband_pages i c).1
    have hmono := hspared.mono (P' := OnlyPage c.owner page) (Q' := OnlyBatch s c.owner page)
      (fun d hd ho => absurd (hd ho) (by nofun)) fun k o pages hd ho => absurd (hd ho) (by nofun)
    have hyields := (Part.disband_headed hc ha hg groups).yields hheaded hcs hpage
    unfold Part.closing Part.demandGroups
    exact ((hmono.of_pages (Part.modify_pages i _ _).1).demand hyields fun _ => hpage.symm).paging (.enter i .closing _)
  refine hheld.finish fun q hq => ⟨Part.Headed.yields ⟨fun j e he ho => ?_, ?_⟩ hheaded hcs hpage, fun j e ms he halerting ho => ?_⟩
  · obtain ⟨d, hd, hstep⟩ := hq.callout?_back he
    have hheading := Callout.core_heading hstep.1
    rw [hheading]
    exact (Part.closing_own hc ha hd ((Callout.heading_owner hheading).symm.trans ho)).1
  · exact ((congrArg Roster.groups hq.roster :).trans (p.closing_groups i c groups)).trans hg
  · obtain ⟨d, hd, hstep⟩ := hq.callout?_back he
    have hheading := Callout.core_heading hstep.1
    have hclosing := (Part.closing_own hc ha hd ((Callout.heading_owner hheading).symm.trans ho)).2
    rw [(hstep.still (by rw [hclosing]; nofun)).1, hclosing] at halerting
    cases halerting

end Sys2Proof.Machine

/-! STAND-DOWN, the order (R29 to R32, R35, R182). -/

namespace Sys2Proof.Machine
open Sys2Proof

variable {p q r s t : Part} {i j : SlotId} {c d e : Callout}

theorem Part.lookup_self (hn : p.NumbersDistinct) (hc : p.callout? i = some c) : p.lookup c.number.toNat = some (i, c) := by
  unfold Part.lookup
  rw [Part.findNumber_eq, Part.findCallout_self hn hc, Option.bind_some, hc]
  rfl

theorem Part.alone_of (hn : p.NumbersDistinct) (hc : p.callout? i = some c) : p.Alone i c := fun j e hj he =>
  (hn.2 j i e c he hc (Ne.symm hj)).1

/-- The answer to an order on callout `c`, in slot `i` or made FREE by it. -/
theorem Part.calloutResults_at (ha : p.Alone i c) (hown : ∀ d, p.callout? i = some d → d.number = c.number) :
    p.calloutResults c.number = [num c.number.toNat, num (p.slot i).stateCode] := by
  unfold Part.calloutResults
  cases hf : p.findCallout c.number with
  | none =>
    have hfree : (p.slot i).stateCode = 0 := by
      cases hslot : p.slot i with
      | free x => rfl
      | live d =>
        have hd := (p.callout?_eq i d).mpr hslot
        exact absurd (Part.findLive_eq_none.mp hf i d hd) (by simp [hown d hd])
    rw [hfree]
  | some j =>
    obtain ⟨e, he, hnumber⟩ := Part.findLive_eq_some hf
    obtain rfl : i = j := by
      by_contra hj
      exact ha j e hj he (eq_of_beq hnumber)
    rfl

theorem Moves.alone {g : Grants} (hg : ¬ g.makes) (h : Moves g p q) (hc : p.callout? i = some c) (ha : p.Alone i c) :
    q.Alone i c ∧ ∀ d, q.callout? i = some d → d.number = c.number := by
  refine ⟨fun j e hj he => ?_, fun d hd => ?_⟩
  · obtain ⟨x, hx, hgrow⟩ := h.grows hg j e he
    rw [show e.number = x.number from congrArg Prod.fst hgrow.identity]
    exact ha j x hj hx
  · obtain ⟨x, hx, hgrow⟩ := h.grows hg i d hd
    obtain rfl := Option.some.inj (hc.symm.trans hx)
    exact congrArg Prod.fst hgrow.identity

/-- The groups a STAND-DOWN stands down (R30). -/
theorem Part.groupsOnAir_iff (p : Part) (o : Owner) (g : GroupId) : (p.groupsOnAir o).getLsbD g.val = true ↔
    (∃ k n, (∃ forced, p.sites.sequencer = .leadIn k forced n) ∨ ∃ forced, p.sites.sequencer = .burst k forced n)
    ∧ ∃ b rest, p.pages.queue = b :: rest ∧ b.owner = o ∧ ∃ x ∈ b.pages, x.addressee = .group g := by
  have hgroups (b : Batch) : b.groups.getLsbD g.val = true ↔ ∃ x ∈ b.pages, x.addressee = .group g := by
    unfold Batch.groups
    rw [getLsbD_setOf _ _ g.isLt, List.mem_map]
    have haddressee (x : Page) : x.addressee.group? = some g ↔ x.addressee = .group g := by
      cases x.addressee <;> simp [Addressee.group?]
    constructor
    · rintro ⟨k, hk, hkg⟩
      obtain rfl := Fin.ext hkg
      obtain ⟨x, hx, hxk⟩ := List.mem_filterMap.mp hk
      exact ⟨x, hx, (haddressee x).mp hxk⟩
    · rintro ⟨x, hx, hxg⟩
      exact ⟨g, List.mem_filterMap.mpr ⟨x, hx, (haddressee x).mpr hxg⟩, rfl⟩
  have hzero : (0#16 : GroupSet).getLsbD g.val ≠ true := by simp
  unfold Part.groupsOnAir Part.current?
  cases hs : p.sites.sequencer with
  | idle | clearWait _ _ =>
    refine iff_of_false (by simp [Sequencer.keyed?]) ?_
    rintro ⟨⟨k, n, ⟨forced, h⟩ | ⟨forced, h⟩⟩, -⟩ <;> cases h
  | leadIn k forced n | burst k forced n =>
    have hkeyed : ∃ k' n', (∃ f, (p.sites.sequencer) = .leadIn k' f n') ∨ ∃ f, p.sites.sequencer = .burst k' f n' := by
      rw [hs]
      simp
    rw [hs] at hkeyed
    cases hq : p.pages.queue with
    | nil =>
      refine iff_of_false (by simp [Sequencer.keyed?]) ?_
      rintro ⟨-, b, rest, h, -⟩
      cases h
    | cons b rest =>
      simp only [Sequencer.keyed?, List.head?_cons]
      refine Iff.trans ?_ (and_iff_right hkeyed).symm
      split
      next ho =>
        rw [hgroups]
        refine ⟨fun h => ⟨b, rest, rfl, ho, h⟩, ?_⟩
        rintro ⟨_, _, h, -, hx⟩
        cases h
        exact hx
      next ho =>
        refine iff_of_false hzero ?_
        rintro ⟨_, _, h, ho', -⟩
        cases h
        exact ho ho'

/-! ### The notice of a release (R93) -/

theorem Part.Noticed.modify {k : Nat} (h : p.Noticed k) (i : SlotId) (f : Callout → Callout) : (p.modify i f).Noticed k := by
  rw [Part.modify_eq]
  exact h

theorem Part.Noticed.enter {k : Nat} (h : p.Noticed k) (i : SlotId) (state : CalloutState) : (p.enter i state).Noticed k := by
  unfold Part.enter
  exact (h.modify i _).raise .callout

theorem Part.Noticed.demand {k : Nat} (h : p.Noticed k) (d : Demand) : (p.demand d).Noticed k :=
  (Moves.demand (g := .unedited none False) d p).frame.lines.noticed h

theorem Part.standDownSilent_noticed (hc : p.callout? i = some c) {who : List MemberId}
    (h : ∃ r ∈ c.responses, r.member ∈ who ∧ r.kind ≠ .released) (endCode : Nat) : (p.standDownSilent i who endCode).Noticed 1 := by
  have hreleased : ((p.withdrawFor i everyKind).2.releaseMembers i who).Noticed 1 :=
    Part.releaseMembers_noticed (Part.callout?_withdrawFor hc everyKind) h
  exact (Part.becomeFree_moves (.unedited none False) i endCode _).frame.lines.noticed hreleased

theorem Part.disband_noticed (hc : p.callout? i = some c) (h : ∃ r ∈ c.responses, r.active = true) : (p.disband i c).Noticed 1 := by
  obtain ⟨r, hr, hactive⟩ := h
  have hcleared : ((p.withdrawFor i everyKind).2.modify i Callout.cleared).callout? i
      = some (c.degradedIf ((p.withdraw c.owner everyKind).1.any Returned.failed)).cleared := by
    rw [Part.callout?_modify_self, Part.callout?_withdrawFor hc]
    rfl
  have hreleased := Part.releaseMembers_noticed hcleared (ms := c.activeMembers)
    ⟨r, hr, List.mem_map_of_mem (List.mem_filter.mpr ⟨hr, hactive⟩), fun hk => by
      unfold Response.active at hactive
      rw [hk] at hactive
      cases hactive⟩
  unfold Part.disband
  exact hreleased

theorem Part.closing_noticed (hc : p.callout? i = some c) (h : ∃ r ∈ c.responses, r.active = true) (groups : GroupSet) :
    (p.closing i c groups).Noticed 1 := by
  unfold Part.closing Part.demandGroups
  exact (((Part.disband_noticed hc h).modify i _).demand _).enter i .closing

/-! ### The callout in CLOSING, or FREE by it (R30, R35) -/

theorem Callout.inClosing_gist (b : Bool) (groups : GroupSet) (c : Callout) : (c.inClosing b groups).gist = c.gist := by
  unfold Callout.inClosing
  simp only [Callout.gist, Callout.summarise, Callout.closing, Callout.mapRecords, List.length_map]
  rfl

/-- The active records are RELEASED and the others stay. -/
theorem Callout.inClosing_responses (hnodup : (c.responses.map Response.member).Nodup) (b : Bool) (groups : GroupSet) :
    (c.inClosing b groups).responses = c.responses.map fun r => if r.kind = .attending ∨ r.kind = .arrived
      then { r with kind := .released, eta := none, estimate := none, lastChange := c.elapsed } else r := by
  refine List.map_congr_left fun r hr => ?_
  have hactive : c.activeMembers.contains r.member = true ↔ r.kind = .attending ∨ r.kind = .arrived := by
    rw [← r.active_iff, List.contains_iff_mem]
    refine ⟨fun hm => ?_, fun ha => List.mem_map_of_mem (List.mem_filter.mpr ⟨hr, ha⟩)⟩
    obtain ⟨x, hx, hxr⟩ := List.mem_map.mp hm
    obtain ⟨hx, ha⟩ := List.mem_filter.mp hx
    rwa [← List.inj_on_of_nodup_map hnodup hx hr hxr]
  show (if c.activeMembers.contains r.member then r.release c.elapsed else r) = _
  rw [if_congr hactive rfl rfl]
  split
  next h =>
    unfold Response.release
    exact if_neg fun hk => by simp [hk] at h
  next => rfl

/-- The slot of a STAND-DOWN with groups: in CLOSING, or FREE already by its batch's end. -/
theorem Part.closing_slot (hc : p.callout? i = some c) (groups : GroupSet) :
    ∃ b, (p.closing i c groups).finish.ClosesAt p.Quiet i (c.inClosing b groups) := by
  obtain ⟨b, hb⟩ := Part.callout?_closing hc groups
  refine ⟨b, Part.finish_closes hb rfl fun hquiet => (Part.closing_reports i c groups p).noPass fun x hx => ?_⟩
  rw [hquiet.reports] at hx
  cases hx

/-- A STAND-DOWN as taken: the callout FREE at once, or CLOSING with groups to stand down. -/
structure Part.StandsDown (i : SlotId) (c : Callout) (groups : GroupSet) (p q : Part) : Prop where
  moves   : Moves (.unedited (some i) False) p q
  noticed : (∃ r ∈ c.responses, r.active = true) → q.Noticed 1
  outcome : (c.state = .inOpen ∨ c.state = .mobile ∨ groups = 0#16)
      ∧ q.finish.Freed True i c (if c.state = .inOpen then 1 else if c.state = .mobile then 2 else 4)
    ∨ (c.state ≠ .inOpen ∧ c.state ≠ .mobile ∧ groups ≠ 0#16) ∧ q = p.closing i c groups

theorem Part.standDownSilent_standsDown (hc : p.callout? i = some c) (ha : p.Alone i c) (groups : GroupSet) {who : List MemberId}
    (hwho : ∀ r ∈ c.responses, r.active = true → r.member ∈ who) (h : c.state = .inOpen ∨ c.state = .mobile) {endCode : Nat}
    (hend : endCode = if c.state = .inOpen then 1 else if c.state = .mobile then 2 else 4) :
    p.StandsDown i c groups (p.standDownSilent i who endCode) where
  moves := Part.standDownSilent_moves _ i who _ p
  noticed := by
    rintro ⟨r, hr, hactive⟩
    refine Part.standDownSilent_noticed hc ⟨r, hr, hwho r hr hactive, fun hk => ?_⟩ _
    unfold Response.active at hactive
    rw [hk] at hactive
    cases hactive
  outcome := .inl ⟨h.imp_right .inl, hend ▸ Part.standDownSilent_freed hc ha who endCode⟩

theorem Part.standDownPaged_standsDown (hc : p.callout? i = some c) (ha : p.Alone i c) {groups : GroupSet}
    (hgroups : groups = c.pagedPrimary ||| p.groupsOnAir c.owner) (hopen : c.state ≠ .inOpen) (hmobile : c.state ≠ .mobile) :
    p.StandsDown i c groups (p.standDownPaged i c) := by
  have hmoves : Moves (.unedited (some i) False) p (p.standDownPaged i c) := Part.standDownPaged_moves rfl c p
  rw [Part.standDownPaged_of_groups hc, ← hgroups] at hmoves ⊢
  by_cases hnone : groups = 0#16
  · rw [if_pos hnone] at hmoves ⊢
    refine ⟨hmoves, fun h => ?_, .inl ⟨.inr (.inr hnone), ?_⟩⟩
    · exact (Part.becomeFree_moves (.unedited none False) i 4 _).frame.lines.noticed (Part.disband_noticed hc h)
    · rw [if_neg hopen, if_neg hmobile]
      exact Part.disband_freed hc ha 4
  · rw [if_neg hnone] at hmoves ⊢
    exact ⟨hmoves, fun h => Part.closing_noticed hc h groups, .inr ⟨⟨hopen, hmobile, hnone⟩, rfl⟩⟩

theorem Part.Deserted.answered {l : Line} {results : List Operand} {n : CalloutNo} (h : q.Deserted n)
    (ht : OrderAnswered l results s q t) : t.Deserted n := by
  rw [ht.after]
  exact ⟨h.members, h.appliances⟩

theorem Handed.after_order {l : Line} {results : List Operand} {d : Demand} (h : Handed d r q)
    (ht : OrderAnswered l results s q t) : Handed d r t := by
  rw [ht.after]
  exact h

/-- Settles O52. -/
theorem standDownTaken : Obligations.StandDownTaken := by
  unfold Obligations.StandDownTaken
  intro s l i c groups hs hdistinct hc hnc keyed hgroups paged page comes cleared
  have hst := Stands.working s.toPart l 6#8 [num c.number.toNat]
  have hw := (s.toPart.working_lookup l 6#8 [num c.number.toNat] _).trans (Part.lookup_self hdistinct hc)
  have hcw := (hst.callout? i).trans hc
  have hrule : orderRule (.standDown l [num c.number.toNat]) (s.toPart.working l 6#8 [num c.number.toNat])
      = match c.state with
        | .inOpen => ((s.toPart.working l 6#8 [num c.number.toNat]).standDownSilent i (c.responses.map Response.member) 1).takenFor
          c.number
        | .mobile => ((s.toPart.working l 6#8 [num c.number.toNat]).standDownSilent i c.activeMembers 2).takenFor c.number
        | .alerting | .counting | .crewed | .held =>
          ((s.toPart.working l 6#8 [num c.number.toNat]).standDownPaged i c).takenFor c.number
        | .closing => refuse .wrongState := by
    refine standDownOrder_of_named.trans ?_
    rw [toInt_ofNat_of_lt (by omega), hw] <;> rfl
  generalize hp : s.toPart.working l 6#8 [num c.number.toNat] = p at hst hw hcw hrule
  have halone := Part.alone_of hdistinct hc
  have halonep : p.Alone i c := fun j e hj he => halone j e hj (hst.callout? j ▸ he)
  have hgr : groups = c.pagedPrimary ||| p.groupsOnAir c.owner := by
    refine BitVec.eq_of_getLsbD_eq fun k hk => Bool.eq_iff_iff.mpr ((hgroups ⟨k, hk⟩).trans ?_)
    rw [BitVec.getLsbD_or, Bool.or_eq_true, Callout.pagedPrimary, BitVec.getLsbD_and, Bool.and_eq_true]
    refine or_congr Iff.rfl ?_
    rw [Part.groupsOnAir_iff p c.owner ⟨k, hk⟩, hst.samePages.1, hst.samePages.2]
  obtain ⟨q, hv, hq⟩ : ∃ q, orderRule (.standDown l [num c.number.toNat]) p = q.takenFor c.number ∧ p.StandsDown i c groups q := by
    rw [hrule]
    have hactive : ∀ r ∈ c.responses, r.active = true → r.member ∈ c.activeMembers := fun r hr h =>
      List.mem_map_of_mem (List.mem_filter.mpr ⟨hr, h⟩)
    have hpaged (hopen : c.state ≠ .inOpen) (hmobile : c.state ≠ .mobile) :=
      Part.standDownPaged_standsDown hcw halonep hgr hopen hmobile
    cases hstate : c.state with
    | inOpen =>
      have h := Part.standDownSilent_standsDown hcw halonep groups (fun r hr _ => List.mem_map_of_mem hr) (.inl hstate)
        (if_pos hstate).symm
      exact ⟨_, rfl, h⟩
    | mobile =>
      have h := Part.standDownSilent_standsDown hcw halonep groups hactive (.inr hstate)
        ((if_neg (by rw [hstate]; nofun)).trans (if_pos hstate)).symm
      exact ⟨_, rfl, h⟩
    | alerting | counting | crewed | held => exact ⟨_, rfl, hpaged (by rw [hstate]; nofun) (by rw [hstate]; nofun)⟩
    | closing => exact absurd hstate hnc
  obtain ⟨ha, hown⟩ := (hq.moves.trans (Part.finish_moves _ _)).alone id hcw halonep
  refine (leads_of_takenFor (c := .standDown l [num c.number.toNat]) (code := 6#8) hs rfl (hp ▸ hv) (hp ▸ hq.moves) id).imp
    fun t ht => ?_
  rw [Part.calloutResults_at ha hown] at ht
  have hslot : t.slot i = q.finish.slot i := by rw [ht.after]; rfl
  have htable : t.table = q.finish.table := by rw [ht.after]
  have hpages : t.pages = q.finish.pages := by rw [ht.after]
  rw [hslot]
  have hdeserted : t.Deserted c.number := by
    have hleft : q.finish.Deserted c.number := by
      rcases hq.outcome with ⟨-, hf⟩ | ⟨-, hclosing⟩
      · exact hf.deserted
      · rw [hclosing]
        exact (Part.Deserted.closing i c groups p).finish
    exact hleft.answered ht.toOrderAnswered
  refine ⟨hdeserted.members, hdeserted.appliances, ht.configuration, ht.answered, fun ⟨r, hr, hcomes⟩ k => ?_, ?_⟩
  · rw [ht.flags]
    exact (hq.noticed ⟨r, hr, r.active_iff.mpr hcomes⟩).finish k
  rw [hpages]
  rcases hq.outcome with ⟨hnot, hf⟩ | ⟨hpaged, hclosing⟩
  · have hnotPaged : ¬ paged := fun ⟨ho, hm, hg⟩ => hnot.elim ho (·.elim hm hg)
    obtain ⟨-, hspared, y, hy, hsum, hcode, hfree⟩ := hf
    refine ⟨fun d hd ho => absurd (hspared.demands d hd ho) (by nofun), fun b hb ho => ?_, fun h => absurd h hnotPaged, ?_⟩
    · rcases hspared.queue b hb with h | h | h
      · exact absurd (h ho) (by nofun)
      · exact .inl h
      · exact .inr (.inl h)
    · rw [hy]
      obtain ⟨⟨h1, h2, h3, h4, h5, h6, h7⟩, ⟨h8, h9, h10, h11⟩, ⟨h12, h13⟩, ⟨h14, h15⟩, h16, h17⟩ := hsum
      refine ⟨y, rfl, h1, h2, h3, h4, h5, h6, h7, h8, h9, h10, h11, h12, h13, h14, fun _ => h15 trivial, h16, h17, ?_, ?_⟩
      · rw [htable]
        exact hfree
      · rw [hcode]
        by_cases hopen : c.state = .inOpen
        · rw [if_pos hopen, if_pos hopen]
        by_cases hmobile : c.state = .mobile
        · rw [if_neg hopen, if_neg hopen, if_pos hmobile, if_pos hmobile]
        · rw [if_neg hopen, if_neg hopen, if_neg hmobile, if_neg hmobile,
            if_pos ((hnot.resolve_left hopen).resolve_left hmobile)]
  · have hholds := Part.closing_holds (s := s.toPart) hcw halonep (congrArg Roster.groups hst.roster) hc halone groups (page := page) rfl
    have hpaging := Part.closing_paging hst.paging hcw (groups := groups)
    obtain ⟨b, hcloses⟩ := Part.closing_slot hcw groups
    rw [← hclosing] at hholds hpaging hcloses
    refine ⟨fun d hd ho => ⟨hpaged, hholds.demands d hd ho⟩, fun b hb ho => ?_, fun _ hquiet hwaits => ?_, ?_⟩
    · rcases hholds.queue b hb with h | h | h
      · exact .inr (.inr ⟨hpaged, h ho⟩)
      · exact .inl h
      · exact .inr (.inl h)
    · exact ((hpaging hwaits).handed hquiet).after_order ht.toOrderAnswered
    · rcases hcloses with ⟨d, hd, hcd⟩ | ⟨d, hfree, hcd, hlisted⟩
      · rw [(Part.callout?_eq _ _ _).mp hd]
        obtain ⟨hstate, hresponses, -, hwindow⟩ := hcd.still
        have hcore := hcd.core
        refine ⟨hpaged, hstate, (congrArg Callout.standDownGroups hcore :), (congrArg Callout.heldBack hcore :),
          (congrArg Callout.prior hcore :), (congrArg Callout.accumulation hcore :), hwindow, fun hnodup => ?_⟩
        rw [hresponses, Callout.inClosing_responses hnodup]
      · rw [hfree]
        have hgist : d.gist = c.gist := hcd.gist.trans (c.inClosing_gist b groups)
        obtain ⟨⟨h1, h2, h3, h4, h5, h6, h7⟩, ⟨h8, h9, h10, h11⟩, ⟨h12, h13⟩, ⟨h14, h15⟩, h16, h17⟩ :=
          Callout.summed (pg := p.Quiet) hgist hcd.paged 3
        refine ⟨_, rfl, h1, h2, h3, h4, h5, h6, h7, h8, h9, h10, h11, h12, h13, h14, fun hquiet => h15 (hst.quiet hquiet), h16, h17,
          ?_, ?_⟩
        · rw [htable]
          exact hlisted
        obtain ⟨hopen, hmobile, hsome⟩ := hpaged
        rw [if_neg hopen, if_neg hmobile, if_neg hsome]
        rfl

end Sys2Proof.Machine

/-! The commands that bring a member's response, and what they leave (R77 to R83). -/

namespace Sys2Proof.Machine
open Sys2Proof

variable {p q r s t : Part} {i j : SlotId} {c d : Callout} {m : MemberId} {x y : Member} {kind : ResponseKind} {eta : Option Nat}
  {source : Source} {f : ResponseForm} {l : Line}

/-! ### The form of a response -/

theorem ResponseForm.attends_iff (f : ResponseForm) : f.attends = true ↔ f.kind = .attending := by
  cases f <;> simp [attends, ResponseForm.kind]

theorem ResponseForm.engages_iff (f : ResponseForm) : f.engages = true ↔ f.kind ≠ .unavailable := by
  cases f <;> simp [engages, ResponseForm.kind]

theorem ResponseForm.repeats_iff (f : ResponseForm) (r : Response) : f.repeats r = true ↔
    f.kind = .attending ∧ r.kind = .attending ∧ r.eta = f.eta ∨ f.kind = .unavailable ∧ r.kind = .unavailable := by
  cases f with
  | attend e => simp [repeats, ResponseForm.kind, ResponseForm.eta]
  | unavailable => simp [repeats, ResponseForm.kind]
  | bookOn => simp [repeats, ResponseForm.kind]

/-! ### The part that takes it -/

/-- The part a response is applied to: as it stands, or with its line at work on the order that brings it. -/
def Part.Hears (source : Source) (s p : Part) : Prop :=
  match source with
  | .site _ => p = s
  | .line l => ∃ code ops, p = s.working l code ops

theorem Part.Hears.stands (h : Part.Hears source s p) : Stands s p := by
  cases source with
  | site k =>
    obtain rfl : p = s := h
    exact .refl p
  | line l =>
    obtain ⟨code, ops, rfl⟩ := h
    exact .working s l code ops

/-- A response has been applied with the result `applied`, the work that follows done, and an order answered. -/
structure ResponseTaken (i : SlotId) (c : Callout) (m : MemberId) (source : Source) (applied : Part × Applied) (s t : Part) :
    Prop where
  configuration : SameConfiguration s t
  after         : t = { applied.1.finish with lines := t.lines }
  flags         : ∀ k, (t.ctl k).flags = (applied.1.finish.ctl k).flags
  framed        : ∀ k, source = .site k → t = applied.1.finish
  answered      : ∀ l, source = .line l →
    ∃ raised, Answered l none (applied.1.finish.responseResults i m c.number applied.2) raised s t

theorem ResponseTaken.callout? {applied : Part × Applied} (h : ResponseTaken i c m source applied s t) (j : SlotId) :
    t.callout? j = applied.1.finish.callout? j :=
  Part.callout?_congr (congrArg Part.table h.after) j

theorem ResponseTaken.member? {applied : Part × Applied} (h : ResponseTaken i c m source applied s t) (n : MemberId) :
    t.member? n = applied.1.finish.member? n := by
  rw [h.after]
  rfl

/-- The answer tells of the record that stands in the end (R80). -/
theorem ResponseTaken.responseAnswered {applied : Part × Applied} (h : ResponseTaken i c m source applied s t) {code : Nat}
    {record : Option Response} (hcode : applied.2.code = code)
    (hrecord : (applied.1.finish.callout? i).bind (Callout.record? m) = record) : ResponseAnswered m c source code record s t := by
  unfold ResponseAnswered
  cases source with
  | site k => exact trivial
  | line l =>
    obtain ⟨raised, hanswered⟩ := h.answered l rfl
    refine ⟨raised, ?_⟩
    unfold Part.responseResults at hanswered
    rw [hrecord, hcode] at hanswered
    have hactive (g : Response → Option Nat) : (record.bind fun r => if r.active then some r else none).bind g
        = record.bind fun r => if r.kind = .attending ∨ r.kind = .arrived then g r else none := by
      cases record with
      | none => rfl
      | some r =>
        simp only [Option.bind_some, ← r.active_iff]
        split <;> rfl
    simp only [hactive] at hanswered
    exact hanswered

/-! ### The commands -/

/-- A frame from the member's pager that answers the callout's page is applied (R77, R78). -/
theorem Part.receiveFrame_response (h : HeardAt k i c m x p) (hc : p.callout? i = some c) (hn : c.state ≠ .closing)
    {code : BitVec 3} (hcode : code = 0#3 ∨ code = 1#3) (eta : BitVec 6) :
    p.receiveFrame k (returnFrameBits x.address c.token code eta) false
      = (p.applyResponse i c m (if code = 0#3 then .attend (normaliseEta eta.toNat) else .unavailable) (.site k)).1.finish := by
  obtain ⟨ha, ht, hco, he, hcheck⟩ := returnFrame_ofBits x.address c.token code eta
  obtain ⟨hk, hm, htoken, hfound⟩ := h
  unfold Part.receiveFrame
  generalize ReturnFrame.ofBits (returnFrameBits x.address c.token code eta) = fr at ha ht hco he hcheck
  have hsmall : ¬ 4 ≤ fr.code.toNat := by
    rw [hco]
    rcases hcode with rfl | rfl <;> decide
  have hmatch : p.matchFrame k fr = p.frameResponse k m fr := by
    unfold Part.matchFrame
    rw [if_neg hsmall, ha, hm]
    exact (if_neg (by rw [ht]; exact htoken)).trans (if_pos (by rw [hco]; exact hcode))
  rw [if_neg (by simp [hk, hcheck]), hmatch]
  unfold Part.frameResponse
  rw [ht, hfound]
  dsimp only
  rw [hc]
  dsimp only
  rw [if_neg hn, hco, he]

theorem etaOf_normalise (v : Option (BitVec 32)) (h : ∀ w ∈ v, 0 ≤ w.toInt) :
    normaliseEta (((v.map BitVec.toInt).getD 0).toNat) = etaOf ((v.map BitVec.toNat).getD 0) := by
  cases v with
  | none => rfl
  | some w =>
    have hw : w.toInt.toNat = w.toNat := by
      have h0 : 0 ≤ w.toInt := h w rfl
      have := w.isLt
      rw [BitVec.toInt_eq_toNat_cond] at h0 ⊢
      split at h0
      next hlt => rw [if_pos hlt, Int.toNat_natCast]
      next => omega
    show normaliseEta w.toInt.toNat = etaOf w.toNat
    rw [hw]
    rfl

/-- The booking finds its callout (R81). -/
theorem Part.bookOnTo_taken (hn : c.state ≠ .closing) (hmobile : c.state ≠ .mobile) (hx : x.availability ≠ .withheld)
    (ha : p.arrivedElsewhere i m = false) : p.bookOnTo m x l (i, c) = p.orderedResponse i c m .bookOn l := by
  unfold Part.bookOnTo
  exact if_neg (by simp [hn, hmobile, hx, ha])

theorem bookOnOrder_unnamed {ops : List Operand} (hsp : Spells [num (m.val + 1), .absent] ops)
    (hchosen : p.chooseBooking m = some (i, c)) (hx : p.member? m = some x) :
    bookOnOrder .console ops.length ops p = p.bookOnTo m x .console (i, c) := by
  have hm := m.isLt
  have hlen : ops.length ≤ 2 := hsp.length_le
  unfold bookOnOrder
  rw [checked_of_le (by omega) hlen, (needIndex_eq_some (by omega)).mpr (hsp.at 0),
    (optWithin_eq_some (x := none) (by omega)).mpr ⟨hsp.at 1, nofun⟩]
  dsimp only
  rw [hchosen]
  dsimp only
  rw [hx]

/-- The only callout that can be booked on is chosen for a member engaged on none (R81). -/
theorem Part.chooseBooking_only (hx : p.member? m = some x) (hfree : ∀ n ∈ x.engaged, p.findCallout n = none)
    (hc : p.callout? i = some c) (hb : c.state.bookable = true)
    (honly : ∀ j d, p.callout? j = some d → d.state.bookable = true → j = i) : p.chooseBooking m = some (i, c) := by
  have hbook (st : CalloutState) :
      st.bookable = true ↔ st = .alerting ∨ st = .counting ∨ st = .crewed ∨ st = .held := by
    cases st <;> simp [CalloutState.bookable]
  have hsome : p.chooseBooking m ≠ none := (chooseBooking_ne_none p m).mpr
    (.inr ⟨i, ⟨c, hc, (hbook _).mp hb⟩, fun k ⟨d, hd, hdb⟩ => honly k d hd ((hbook _).mpr hdb)⟩)
  obtain ⟨⟨j, d⟩, hjd⟩ := Option.ne_none_iff_exists'.mp hsome
  have hnone : ((p.member? m).bind Member.engaged).bind p.findCallout = none := by
    rw [hx, Option.bind_some]
    cases he : x.engaged with
    | none => rfl
    | some n => exact hfree n he
  have hd := Part.chooseBooking_eq_some hjd
  have hchosen := hjd
  unfold Part.chooseBooking at hjd
  rw [hnone] at hjd
  dsimp only at hjd
  split at hjd
  next hl =>
    cases hjd
    have hmem : (j, d) ∈ p.live.filter fun ic => ic.2.state.bookable := by
      rw [hl]
      exact List.mem_singleton_self _
    obtain rfl := honly j d hd (List.mem_filter.mp hmem).2
    have hcd : c = d := Option.some.inj (hc.symm.trans hd)
    rw [hchosen, hcd]
  next => cases hjd

theorem Part.arrivedElsewhere_own (hx : p.member? m = some x) (hn : p.NumbersDistinct) (hc : p.callout? i = some c)
    (h : x.engaged = some c.number) : p.arrivedElsewhere i m = false := by
  unfold Part.arrivedElsewhere Part.engagedElsewhere
  rw [hx, Option.bind_some, h, Option.bind_some, Part.findCallout_self hn hc, Option.bind_some, if_pos rfl]
  rfl

theorem Part.arrivedElsewhere_free (hx : p.member? m = some x) (h : ∀ n ∈ x.engaged, p.findCallout n = none) (i : SlotId) :
    p.arrivedElsewhere i m = false := by
  unfold Part.arrivedElsewhere Part.engagedElsewhere
  rw [hx, Option.bind_some]
  cases he : x.engaged with
  | none => rfl
  | some n =>
    rw [Option.bind_some, h n he]
    rfl

theorem Stands.arrivedElsewhere (h : Stands s p) (i : SlotId) (m : MemberId) : p.arrivedElsewhere i m = s.arrivedElsewhere i m := by
  rw [h]
  rfl

theorem Stands.chooseBooking (h : Stands s p) (m : MemberId) : p.chooseBooking m = s.chooseBooking m := by
  rw [h]
  rfl

/-- Every command that brings a response applies it. -/
theorem Brings.leads {s : State} {e : Instr} (h : Brings s.toPart i c m x e kind eta source) (hs : s.condition = .running)
    (hn : s.NumbersDistinct) (hc : s.callout? i = some c) (hclosing : c.state ≠ .closing) (hx : s.member? m = some x) :
    ∃ f p, f.kind = kind ∧ f.eta = eta ∧ Part.Hears source s.toPart p
      ∧ Leads e s (ResponseTaken i c m source (p.applyResponse i c m f source) s.toPart) := by
  have hm := m.isLt
  have hnumber : 1 ≤ c.number.toNat ∧ c.number.toNat ≤ 255 := by
    have hne : c.number.toNat ≠ 0 := fun h0 => (hn.1 i c hc).1 (BitVec.eq_of_toNat_eq h0)
    have := c.number.isLt
    omega
  have framed {k : SiteId} {b : BitVec 58} {f : ResponseForm} {e : Instr}
      (he : effect e = Part.whenRunning fun p => (p.receiveFrame k b false))
      (hf : s.toPart.receiveFrame k b false = (s.toPart.applyResponse i c m f (.site k)).1.finish) :
      Leads e s (ResponseTaken i c m (.site k) (s.toPart.applyResponse i c m f (.site k)) s.toPart) :=
    leads_of_event hs he (hf ▸ ⟨((Part.applyResponse_moves (.unedited none False) m f (.site k) hc).trans
      (Part.finish_moves _ _)).configuration id, rfl, fun _ => rfl, fun _ _ => rfl, nofun⟩)
  have ordered {l : Line} {f : ResponseForm} {e : Instr} {code : Byte} {ops : List Operand}
      (he : e.exchange? = some (l, code, ops))
      (hv : orderRule e (s.toPart.working l code ops) = (s.toPart.working l code ops).orderedResponse i c m f l) :
      Leads e s (ResponseTaken i c m (.line l) ((s.toPart.working l code ops).applyResponse i c m f (.line l)) s.toPart) :=
    (leads_of_taken (g := .unedited none False) hs he hv ((Part.applyResponse_moves _ m f (.line l)
      ((s.toPart.working_callout? l code ops i).trans hc)).trans (Part.finish_moves _ _)) id).imp fun t ht =>
      ⟨ht.configuration, ht.after, ht.flags, nofun, fun k hk => by cases hk; exact ht.answered⟩
  have stands (l : Line) (code : Byte) (ops : List Operand) : (s.toPart.working l code ops).member? m = some x
      ∧ (s.toPart.working l code ops).callout? i = some c := ⟨(s.toPart.working_member? l code ops m).trans hx,
    (s.toPart.working_callout? l code ops i).trans hc⟩
  have hlookup (l : Line) (code : Byte) (ops : List Operand) : (s.toPart.working l code ops).lookup c.number.toNat = some (i, c) :=
    (s.toPart.working_lookup l code ops _).trans (Part.lookup_self hn hc)
  have relayed {l : Line} {given : List Operand} {code : Nat} {eta : Option (BitVec 32)} (hl : l ≠ .console) (hcode : code ≤ 1)
      (heta : ∀ v ∈ eta, 0 ≤ v.toInt)
      (hsp : Spells [num (m.val + 1), num c.number.toNat, num code, optionalNumber eta] given) (p : Part)
      (hp : p = s.toPart.working l 18#8 given) : orderRule (.relayResponse l given) p = p.orderedResponse i c m
        (if code = 0 then .attend (etaOf ((eta.map BitVec.toNat).getD 0)) else .unavailable) l := by
    subst hp
    have hpos : ¬ (eta.map BitVec.toInt).getD 0 < 0 := by
      cases eta with
      | none => simp
      | some v => simpa using heta v rfl
    refine (relayOrder_of_read hl hsp.length_le ((needIndex_eq_some (by omega)).mpr (hsp.at 0))
      ((needWithin_eq_some (by omega)).mpr ⟨hsp.at 1, hnumber⟩) ((needWithin_eq_some (by omega)).mpr ⟨hsp.at 2, by omega, hcode⟩)
      (optNumber_of_optional (hsp.at 3))).trans ?_
    rw [if_neg hpos, (stands l 18#8 given).1, hlookup, if_neg (by simp)]
    dsimp only
    rw [if_neg hclosing, etaOf_normalise eta heta]
  cases h with
  | frameAttend k eta hheard => exact ⟨.attend (etaOf eta.toNat), _, rfl, rfl, rfl,
      framed rfl (Part.receiveFrame_response hheard hc hclosing (.inl rfl) eta)⟩
  | frameUnavailable k eta hheard => exact ⟨.unavailable, _, rfl, rfl, rfl,
      framed rfl (Part.receiveFrame_response hheard hc hclosing (.inr rfl) eta)⟩
  | relayAttend l given eta hl heta hsp => exact ⟨.attend (etaOf ((eta.map BitVec.toNat).getD 0)), _, rfl, rfl, ⟨_, _, rfl⟩,
      ordered (e := .relayResponse l given) rfl (relayed hl (Nat.zero_le 1) heta hsp _ rfl)⟩
  | relayUnavailable l given eta hl heta hsp => exact ⟨.unavailable, _, rfl, rfl, ⟨_, _, rfl⟩,
      ordered (e := .relayResponse l given) rfl (relayed hl le_rfl heta hsp _ rfl)⟩
  | bookOn hmobile hwithheld helsewhere =>
    refine ⟨.bookOn, _, rfl, rfl, ⟨_, _, rfl⟩,
      ordered (e := .bookOn .console [num (m.val + 1), num c.number.toNat]) rfl ?_⟩
    refine (bookOnOrder_of_named le_rfl ((needIndex_eq_some (by omega)).mpr rfl)
      ((optWithin_eq_some (x := some c.number.toNat) (by omega)).mpr ⟨rfl, fun y hy => by cases hy; exact hnumber⟩)).trans ?_
    rw [(stands _ _ _).1, hlookup]
    exact Part.bookOnTo_taken hclosing hmobile hwithheld (((Stands.working ..).arrivedElsewhere i m).trans helsewhere)
  | bookOnEngaged given hmobile hwithheld hengaged hsp =>
    refine ⟨.bookOn, _, rfl, rfl, ⟨_, _, rfl⟩, ordered (e := .bookOn .console given) rfl ?_⟩
    have hchosen : s.toPart.chooseBooking m = some (i, c) := by
      unfold Part.chooseBooking
      rw [hx, Option.bind_some, hengaged, Option.bind_some, Part.findCallout_self hn hc]
      dsimp only
      rw [hc]
      rfl
    exact (bookOnOrder_unnamed hsp (((Stands.working ..).chooseBooking m).trans hchosen) (stands _ _ _).1).trans
      (Part.bookOnTo_taken hclosing hmobile hwithheld
        (((Stands.working ..).arrivedElsewhere i m).trans (Part.arrivedElsewhere_own hx hn hc hengaged)))
  | bookOnOnly given hwithheld hfree hb honly hsp =>
    refine ⟨.bookOn, _, rfl, rfl, ⟨_, _, rfl⟩, ordered (e := .bookOn .console given) rfl ?_⟩
    have hchosen := Part.chooseBooking_only hx hfree hc hb honly
    exact (bookOnOrder_unnamed hsp (((Stands.working ..).chooseBooking m).trans hchosen) (stands _ _ _).1).trans
      (Part.bookOnTo_taken hclosing (fun hmobile => by rw [hmobile] at hb; cases hb) hwithheld
        (((Stands.working ..).arrivedElsewhere i m).trans (Part.arrivedElsewhere_free hx hfree i)))

end Sys2Proof.Machine

/-! A response that is not taken: it finds a MOBILE callout or a WITHHELD member, is ignored, or is lost (R82, R87 to R92). -/

namespace Sys2Proof.Machine
open Sys2Proof

variable {p q r s t : Part} {i j : SlotId} {c d : Callout} {m : MemberId} {x y : Member} {source : Source} {f : ResponseForm}

/-! ### Callouts through work that completes no pass -/

theorem Part.takeReport_samePaged {x : Report} (hx : x.light) (hpass : x.passed = false) (p : Part) (i : SlotId) :
    ((p.takeReport x).callout? i).map Callout.paged = (p.callout? i).map Callout.paged := by
  have hdegrade (b : Bool) (j : SlotId) : ((if b = true then p.degrade j else p).callout? i).map Callout.paged
      = (p.callout? i).map Callout.paged := by
    split
    · rw [Part.callout?_degrade]
      split
      · rw [Option.map_map]
        rfl
      · rfl
    · rfl
  cases x with
  | pass o outcome groups =>
    cases hi : p.findOwner o with
    | none => rw [(Part.takeReport_unowned hi outcome groups .alert .complete true).1]
    | some j =>
      rw [Part.takeReport_pass hi, if_neg]
      rw [show outcome.completed = false from hpass]
      nofun
  | ended o kind form failed =>
    cases hi : p.findOwner o with
    | none => rw [(Part.takeReport_unowned hi .done 0#16 kind form failed).2]
    | some j =>
      rw [Part.takeReport_ended hi]
      split
      · exact hdegrade failed j
      next hform =>
        rw [Part.batchEnded_light j (hx.resolve_left hform)]
        exact hdegrade failed j

namespace Part.Muted

theorem workStep_paged (hp : p.Muted) (hn : p.NoPass) (h : p.workStep = some q) (i : SlotId) :
    (q.callout? i).map Callout.paged = (p.callout? i).map Callout.paged := by
  cases hr : p.pages.reports with
  | cons x rest =>
    rw [Part.workStep_reports hr] at h
    cases h
    have hmem : x ∈ p.pages.reports := by rw [hr]; exact List.mem_cons_self
    exact Part.takeReport_samePaged (hp.1 x hmem) (hn x hmem) _ i
  | nil =>
    unfold Part.workStep at h
    rw [hr] at h
    dsimp only at h
    split at h
    · split at h
      · cases h
      · split at h
        · cases h
          rw [p.leaveQueue_onlyPages.callout?]
        · split at h
          · cases h
          · cases h
            rw [p.turn_onlyPages.callout?]
    · cases h

theorem finish_paged (hp : p.Muted) (hn : p.NoPass) (i : SlotId) :
    (p.finish.callout? i).map Callout.paged = (p.callout? i).map Callout.paged := by
  have hwork := Part.work_keeps (p := p) (I := fun q => q.Muted ∧ q.NoPass
      ∧ (q.callout? i).map Callout.paged = (p.callout? i).map Callout.paged)
    (fun _ _ h hq => ⟨(hq.1.workStep h).1, Part.workStep_noPass hq.2.1 h, (hq.1.workStep_paged hq.2.1 h i).trans hq.2.2⟩)
    ⟨hp, hn, rfl⟩
  exact hwork.2.2

/-- Such work leaves of a callout all but TX_DEGRADED. -/
theorem callout?_finish (hp : p.Muted) (hn : p.NoPass) (hc : p.callout? i = some c) :
    ∃ b, p.finish.callout? i = some { c with flags := { c.flags with txDegraded := b } } := by
  obtain ⟨d, hd, hcalm⟩ := hp.finish.callout? hc
  have hpaged : d.paged = c.paged := by
    have := hp.finish_paged hn i
    rw [hc, hd] at this
    exact Option.some.inj this
  refine ⟨d.flags.txDegraded, hd.trans (congrArg some ?_)⟩
  have hmarked (e : Callout) : e = { e.calm with
      paged := e.paged
      flags := { e.calm.flags with txDegraded := e.flags.txDegraded } } := by
    cases e
    rfl
  exact (hmarked d).trans (by rw [hcalm, hpaged]; rfl)

theorem noPass_of_quiet (h : p.Quiet) : p.NoPass := fun x hx => by
  rw [h.reports] at hx
  cases hx

end Part.Muted

/-- A demand handed to a page queue with no work left over ends no ALERT and completes no pass. -/
theorem Part.Quiet.demand_muted (h : p.Quiet) {d : Demand} (hd : d.kind.Mute) : (p.demand d).Muted ∧ (p.demand d).NoPass :=
  ⟨(Part.Muted.of_quiet h).demand hd, (Part.demand_reports d p).noPass (Part.Muted.noPass_of_quiet h)⟩

/-! ### The response list (R73, R92) -/

theorem Response.inactive_eq (r : Response) : r.inactive = !r.active := by
  unfold Response.inactive Response.active
  cases r.kind <;> rfl

theorem evictOne_eq (l : List Response) : evictOne l = l.eraseP Response.inactive := by
  induction l with
  | nil => rfl
  | cons r rest ih =>
    unfold evictOne
    rw [List.eraseP_cons, ih, r.inactive_eq]
    cases r.active <;> rfl

theorem Callout.hasRoom_iff (c : Callout) :
    c.hasRoom = true ↔ c.responses.length < 32 ∨ ∃ r ∈ c.responses, r.inactive = true := by
  unfold Callout.hasRoom
  rw [Bool.or_eq_true, decide_eq_true_eq, List.any_eq_true]
  simp only [Response.inactive_eq]
  rfl

theorem Callout.record?_replaceRecord {r record : Response} (hr : c.record? m = some r) (hm : record.member = m) :
    (c.replaceRecord record).record? m = some record := by
  unfold Callout.record? Callout.replaceRecord at *
  dsimp only
  generalize c.responses = l at hr
  induction l with
  | nil => cases hr
  | cons y rest ih =>
    rw [List.map_cons, List.find?_cons]
    rw [List.find?_cons] at hr
    by_cases hy : y.member = m
    · simp [hy, hm]
    · have hy' : (y.member == m) = false := by simp [hy]
      rw [if_neg (by rw [hm]; exact hy), hy']
      rw [hy'] at hr
      exact ih hr

theorem Callout.record?_addRecord {record : Response} (hnone : c.record? m = none) (hm : record.member = m) :
    (c.addRecord record).record? m = some record := by
  have hkept : (if c.responses.length < Config.responsePlaces then c.responses else evictOne c.responses).find?
      (fun r => r.member == m) = none := by
    refine List.find?_eq_none.mpr fun r hr => List.find?_eq_none.mp hnone r ?_
    split at hr
    · exact hr
    · exact (evictOne_sublist _).subset hr
  unfold Callout.record? Callout.addRecord
  rw [List.find?_append, hkept]
  simp [hm]

/-! ### A response to a MOBILE callout (R90) -/

/-- What an ATTEND to the MOBILE callout makes of it. -/
def Callout.mobileAnswered (m : MemberId) (source : Source) (c : Callout) : Callout :=
  match c.record? m with
  | some r => if r.kind = .released then c else c.replaceRecord (c.releasedRecord m source (some r))
  | none => if c.hasRoom then c.addRecord (c.releasedRecord m source none) else { c with flags := { c.flags with responseLost := true } }

/-- The member who attends a MOBILE callout: on duty again unless the response is lost. -/
def Callout.mobileMember (m : MemberId) (c : Callout) (x : Member) : Member :=
  let x' : Member := if c.record? m = none ∧ c.hasRoom = false then x
    else if x.availability = .offDuty then { x with availability := .available } else x
  if ∃ r ∈ c.record? m, r.active = true then x'.leave c.number else x'

theorem Paging.modifyMember (m : MemberId) {f : Member → Member} (hf : ∀ x, (f x).address = x.address) (p : Part) :
    Paging p (p.modifyMember m f) := by
  refine ⟨Part.modifyMember_pages m f p, ?_, ?_, Part.formPages_congr ?_ (fun n => ?_) fun j => ?_⟩
  · unfold Part.modifyMember
    split <;> rfl
  · unfold Part.modifyMember
    split <;> rfl
  · unfold Part.modifyMember
    split <;> rfl
  · rw [Part.member?_modifyMember]
    split
    next h =>
      subst h
      rw [Option.map_map]
      exact congrArg (fun g => (p.member? _).map g) (funext hf)
    next => rfl
  · rw [Part.callout?_modifyMember]

theorem Paging.setOnDuty (m : MemberId) (p : Part) : Paging p (p.setOnDuty m) :=
  .modifyMember m (fun x => by split <;> rfl) p

theorem Paging.disengage (m : MemberId) (n : CalloutNo) (p : Part) : Paging p (p.disengage m n) :=
  .modifyMember m (fun x => by rw [x.leave_frame n]) p

theorem Part.member?_setOnDuty (hx : p.member? m = some x) : (p.setOnDuty m).member? m
    = some (if x.availability = .offDuty then { x with availability := .available } else x) := by
  rw [Part.setOnDuty, Part.member?_modifyMember, if_pos rfl, hx]
  rfl

theorem Part.callout?_setOnDuty (m : MemberId) (p : Part) (i : SlotId) : (p.setOnDuty m).callout? i = p.callout? i :=
  p.callout?_modifyMember m _ i

/-- A MOBILE callout stays so when it is reassessed. -/
theorem Part.reassess_mobile (hc : p.callout? i = some c) (h : c.state = .mobile) : p.reassess i = p.recompute i := by
  rw [Part.reassess_eq hc (by rw [h]; nofun)]
  refine Part.takeOutcome_of_stays (Part.callout?_recompute_self hc) (fun he => ?_) fun hr => ?_
  · rcases he.1 with he | he <;> exact absurd (h.symm.trans he) (by nofun)
  · exact absurd (h.symm.trans hr.1) (by nofun)

/-- An ATTEND to a MOBILE callout up to its NOT_REQUIRED page: `q` is the part that demands it. -/
structure Part.MobileAnswered (i : SlotId) (c : Callout) (m : MemberId) (x : Member) (source : Source) (p q : Part) : Prop where
  paging  : Paging p q
  callout : ∃ a, q.callout? i = some { c.mobileAnswered m source with assessment := a }
  member  : q.member? m = some (c.mobileMember m x)
  noticed : (∀ r ∈ c.record? m, r.kind ≠ .released) → q.Noticed 1

variable {record : Response}

theorem Part.mobileAnswered_new (hc : p.callout? i = some c) (hx : p.member? m = some x) (hnone : c.record? m = none)
    (hroom : c.hasRoom = true) : Part.MobileAnswered i c m x source p
      (((p.setOnDuty m).modify i (Callout.addRecord (c.releasedRecord m source none))).raise .response) where
  paging := ((Paging.setOnDuty m p).trans (.modify (f := Callout.addRecord _) i _ fun _ _ => rfl)).trans (.raise _ _)
  callout := by
    refine ⟨(c.mobileAnswered m source).assessment, ?_⟩
    unfold Callout.mobileAnswered
    rw [hnone]
    dsimp only
    rw [if_pos hroom]
    show (Part.modify i _ _).callout? i = _
    rw [Part.callout?_modify_self, Part.callout?_setOnDuty, hc]
    rfl
  member := by
    show (Part.modify i _ _).member? m = _
    rw [Part.member?, Part.roster_modify, ← Part.member?, Part.member?_setOnDuty hx]
    unfold Callout.mobileMember
    simp [hnone, hroom]
  noticed := fun _ => Part.raise_response_noticed _

theorem Part.mobileAnswered_lost (hc : p.callout? i = some c) (hx : p.member? m = some x) (hnone : c.record? m = none)
    (hroom : c.hasRoom = false) : Part.MobileAnswered i c m x source p (p.loseResponse i) where
  paging := (Paging.modify (f := Callout.withFlags fun f => { f with responseLost := true }) i p fun _ _ => rfl).trans (.raise _ _)
  callout := by
    refine ⟨(c.mobileAnswered m source).assessment, ?_⟩
    unfold Callout.mobileAnswered
    rw [hnone]
    dsimp only
    rw [if_neg (by simp [hroom])]
    show (Part.modify i _ _).callout? i = _
    rw [Part.callout?_modify_self, hc]
    rfl
  member := by
    show (Part.modify i _ _).member? m = _
    rw [Part.member?, Part.roster_modify, ← Part.member?, hx]
    unfold Callout.mobileMember
    simp [hnone, hroom]
  noticed := fun _ => Part.raise_response_noticed _

theorem Part.mobileAnswered_released (hc : p.callout? i = some c) (hx : p.member? m = some x) (hr : c.record? m = some record)
    (hk : record.kind = .released) : Part.MobileAnswered i c m x source p (p.setOnDuty m) where
  paging := .setOnDuty m p
  callout := by
    refine ⟨(c.mobileAnswered m source).assessment, ?_⟩
    unfold Callout.mobileAnswered
    rw [hr]
    dsimp only
    rw [if_pos hk, Part.callout?_setOnDuty, hc]
  member := by
    have hactive : record.active = false := by
      unfold Response.active
      rw [hk]
      rfl
    rw [Part.member?_setOnDuty hx]
    unfold Callout.mobileMember
    simp [hr, hactive]
  noticed := fun h => absurd hk (h record hr)

theorem Part.mobileAnswered_replaced (hc : p.callout? i = some c) (hx : p.member? m = some x) (hmobile : c.state = .mobile)
    (hr : c.record? m = some record) (hk : record.kind ≠ .released) :
    let q := ((p.setOnDuty m).modify i (Callout.replaceRecord (c.releasedRecord m source (some record)))).raise .response
    Part.MobileAnswered i c m x source p (if record.active then (q.disengage m c.number).reassess i else q) := by
  intro q
  have hanswered : c.mobileAnswered m source = c.replaceRecord (c.releasedRecord m source (some record)) := by
    unfold Callout.mobileAnswered
    rw [hr]
    exact if_neg hk
  have hcallout : q.callout? i = some (c.mobileAnswered m source) := by
    rw [hanswered]
    show (Part.modify i _ _).callout? i = _
    rw [Part.callout?_modify_self, Part.callout?_setOnDuty, hc]
    rfl
  have hmember : q.member? m = some (if x.availability = .offDuty then { x with availability := .available } else x) := by
    show (Part.modify i _ _).member? m = _
    rw [Part.member?, Part.roster_modify, ← Part.member?, Part.member?_setOnDuty hx]
  have hpaging : Paging p q := ((Paging.setOnDuty m p).trans (.modify (f := Callout.replaceRecord _) i _ fun _ _ => rfl)).trans (.raise _ _)
  have hnoticed : q.Noticed 1 := Part.raise_response_noticed _
  generalize q = q at hcallout hmember hpaging hnoticed
  cases hactive : record.active with
  | false =>
    refine ⟨hpaging, ⟨_, hcallout⟩, hmember.trans ?_, fun _ => hnoticed⟩
    unfold Callout.mobileMember
    simp [hr, hactive]
  | true =>
    have hd : (q.disengage m c.number).callout? i = some (c.mobileAnswered m source) := by
      rw [Part.callout?_disengage]
      exact hcallout
    have hstate : (c.mobileAnswered m source).state = .mobile := by
      rw [hanswered]
      exact hmobile
    rw [if_pos rfl, Part.reassess_mobile hd hstate]
    refine ⟨(hpaging.trans (.disengage m _ q)).trans (.recompute i _), ⟨_, Part.callout?_recompute_self hd⟩, ?_, fun _ => ?_⟩
    · rw [Part.member?_recompute, Part.disengage, Part.member?_modifyMember, if_pos rfl, hmember]
      unfold Callout.mobileMember
      simp [hr, hactive]
    · exact ((Part.disengage_moves (.unedited none False) m _ q).trans (Part.recompute_moves _ i _)).frame.lines.noticed hnoticed

theorem Part.attendMobile_answered (hc : p.callout? i = some c) (hx : p.member? m = some x) (hmobile : c.state = .mobile)
    (source : Source) : ∃ q, Part.MobileAnswered i c m x source p q ∧ p.attendMobile i c m source
      = (q.notRequired c m, if c.record? m = none ∧ c.hasRoom = false then .lost else .notRequired) := by
  unfold Part.attendMobile
  cases hr : c.record? m with
  | none =>
    cases hroom : c.hasRoom with
    | true => exact ⟨_, Part.mobileAnswered_new hc hx hr hroom, by simp⟩
    | false => exact ⟨_, Part.mobileAnswered_lost hc hx hr hroom, by simp⟩
  | some record =>
    dsimp only
    by_cases hk : record.kind = .released
    · exact ⟨_, Part.mobileAnswered_released hc hx hr hk, by simp [hk]⟩
    · exact ⟨_, Part.mobileAnswered_replaced hc hx hmobile hr hk, by simp [hk]⟩

end Sys2Proof.Machine

/-! What becomes of a response that is not taken (R83, R87 to R92). -/

namespace Sys2Proof.Machine
open Sys2Proof

variable {p q r s t : Part} {i j : SlotId} {c d : Callout} {m : MemberId} {x y : Member} {source : Source} {f : ResponseForm}

/-! ### The callout a member is engaged on elsewhere -/

theorem Part.engagedElsewhere_iff (hn : p.NumbersDistinct) (hx : p.member? m = some x) :
    p.engagedElsewhere i m = some (j, d) ↔ j ≠ i ∧ p.callout? j = some d ∧ x.engaged = some d.number := by
  unfold Part.engagedElsewhere
  rw [hx, Option.bind_some]
  cases he : x.engaged with
  | none => simp
  | some n =>
    rw [Option.bind_some]
    constructor
    · intro h
      obtain ⟨k, hk, h⟩ := Option.bind_eq_some_iff.mp h
      split at h
      next => cases h
      next hki =>
        obtain ⟨e, he, hpair⟩ := Option.map_eq_some_iff.mp h
        cases hpair
        exact ⟨hki, he, congrArg some (Part.findCallout_number hk he).symm⟩
    · rintro ⟨hj, hd, hnumber⟩
      rw [show n = d.number from Option.some.inj hnumber, Part.findCallout_self hn hd, Option.bind_some, if_neg hj, hd]
      rfl

theorem Callout.hasArrived_iff : c.hasArrived m = true ↔ ∃ r ∈ c.record? m, r.kind = .arrived := by
  unfold Callout.hasArrived
  cases c.record? m <;> simp

theorem Part.arrivedElsewhere_iff (hn : p.NumbersDistinct) (hx : p.member? m = some x) : p.arrivedElsewhere i m = true ↔
    ∃ j d r, j ≠ i ∧ p.callout? j = some d ∧ x.engaged = some d.number ∧ d.record? m = some r ∧ r.kind = .arrived := by
  unfold Part.arrivedElsewhere
  constructor
  · intro h
    cases he : p.engagedElsewhere i m with
    | none =>
      rw [he] at h
      cases h
    | some jd =>
      rw [he] at h
      obtain ⟨r, hr, hk⟩ := Callout.hasArrived_iff.mp h
      obtain ⟨hj, hd, hengaged⟩ := (Part.engagedElsewhere_iff hn hx).mp he
      exact ⟨jd.1, jd.2, r, hj, hd, hengaged, hr, hk⟩
  · rintro ⟨j, d, r, hj, hd, hengaged, hr, hk⟩
    rw [(Part.engagedElsewhere_iff hn hx).mpr ⟨hj, hd, hengaged⟩]
    exact Callout.hasArrived_iff.mpr ⟨r, hr, hk⟩

/-! ### The branches of R83 -/

section
variable (hx : p.member? m = some x)
include hx

theorem Part.isWithheld_eq : ((p.member? m).map fun x => x.availability == .withheld).getD false = true ↔
    x.availability = .withheld := by
  rw [hx]
  simp

theorem Part.applyResponse_withheld (hf : f.kind = .attending) (hw : x.availability = .withheld) :
    p.applyResponse i c m f source = (p.notRequired c m, .notRequired) := by
  unfold Part.applyResponse
  exact if_pos (Bool.and_eq_true_iff.mpr ⟨f.attends_iff.mpr hf, (Part.isWithheld_eq hx).mpr hw⟩)

theorem Part.applyResponse_heard (h : ¬ (f.kind = .attending ∧ x.availability = .withheld)) :
    p.applyResponse i c m f source = if c.hasArrived m then (p, .ignored)
      else if f.attends && c.state == .mobile then p.attendMobile i c m source
      else if ((c.record? m).map f.repeats).getD false then (p, .ignored)
      else if f.attends && p.arrivedElsewhere i m then (p, .ignored)
      else if (c.record? m).isNone && !c.hasRoom then (p.loseResponse i, .lost)
      else (p.takeResponse i c m f source, .taken) := by
  unfold Part.applyResponse
  refine if_neg fun hw => h ?_
  obtain ⟨ha, hw⟩ := Bool.and_eq_true_iff.mp hw
  exact ⟨f.attends_iff.mp ha, (Part.isWithheld_eq hx).mp hw⟩

theorem Part.applyResponse_mobile (h : ¬ (f.kind = .attending ∧ x.availability = .withheld)) (ha : ¬ ∃ r ∈ c.record? m, r.kind = .arrived)
    (hf : f.kind = .attending) (hm : c.state = .mobile) : p.applyResponse i c m f source = p.attendMobile i c m source := by
  rw [Part.applyResponse_heard hx h, if_neg (fun k => ha (Callout.hasArrived_iff.mp k)),
    if_pos (Bool.and_eq_true_iff.mpr ⟨f.attends_iff.mpr hf, beq_iff_eq.mpr hm⟩)]

/-- A response that comes to step 4 of R83 or beyond. -/
theorem Part.applyResponse_beyond (h : ¬ (f.kind = .attending ∧ x.availability = .withheld)) (ha : ¬ ∃ r ∈ c.record? m, r.kind = .arrived)
    (hm : ¬ (f.kind = .attending ∧ c.state = .mobile)) : p.applyResponse i c m f source =
      if ((c.record? m).map f.repeats).getD false then (p, .ignored)
      else if f.attends && p.arrivedElsewhere i m then (p, .ignored)
      else if (c.record? m).isNone && !c.hasRoom then (p.loseResponse i, .lost)
      else (p.takeResponse i c m f source, .taken) := by
  rw [Part.applyResponse_heard hx h, if_neg (fun k => ha (Callout.hasArrived_iff.mp k)), if_neg]
  rw [Bool.and_eq_true, beq_iff_eq, f.attends_iff]
  exact hm

/-- A repeat of the record, or an ATTEND from a member ARRIVED elsewhere, is ignored. -/
theorem Part.applyResponse_ignored (h : ¬ (f.kind = .attending ∧ x.availability = .withheld))
    (hi : (∃ r ∈ c.record? m, r.kind = .arrived) ∨ ¬ (f.kind = .attending ∧ c.state = .mobile)
      ∧ ((∃ r ∈ c.record? m, f.repeats r = true) ∨ f.kind = .attending ∧ p.arrivedElsewhere i m = true)) :
    p.applyResponse i c m f source = (p, .ignored) := by
  by_cases ha : ∃ r ∈ c.record? m, r.kind = .arrived
  · rw [Part.applyResponse_heard hx h, if_pos (Callout.hasArrived_iff.mpr ha)]
  · obtain ⟨hm, hi⟩ := hi.resolve_left ha
    rw [Part.applyResponse_beyond hx h ha hm]
    split
    · rfl
    next hrepeats =>
      have hrep : ¬ ∃ r ∈ c.record? m, f.repeats r = true := by
        rintro ⟨r, hr, hfr⟩
        rw [show c.record? m = some r from hr] at hrepeats
        exact hrepeats hfr
      obtain ⟨hf, he⟩ := hi.resolve_left hrep
      exact if_pos (Bool.and_eq_true_iff.mpr ⟨f.attends_iff.mpr hf, he⟩)

/-- A response that needs a record and finds no room is lost. -/
theorem Part.applyResponse_lost (h : ¬ (f.kind = .attending ∧ x.availability = .withheld))
    (hm : ¬ (f.kind = .attending ∧ c.state = .mobile)) (he : ¬ (f.kind = .attending ∧ p.arrivedElsewhere i m = true))
    (hr : c.record? m = none) (hroom : c.hasRoom = false) : p.applyResponse i c m f source = (p.loseResponse i, .lost) := by
  rw [Part.applyResponse_beyond hx h (by rw [hr]; rintro ⟨r, hr', -⟩; cases hr') hm, hr, if_neg (by simp), if_neg, if_pos (by simp [hroom])]
  rw [Bool.and_eq_true, f.attends_iff]
  exact he

end

/-! ### The page to a member who is not required (R89, R90) -/

/-- The page to a member who is not required. -/
abbrev releasePage (c : Callout) (m : MemberId) : Demand :=
  { kind := .release, owner := c.owner, content := .members [m], restrict := .all }

theorem Part.Quiet.notRequired_muted (h : p.Quiet) (c : Callout) (m : MemberId) :
    (p.notRequired c m).Muted ∧ (p.notRequired c m).NoPass :=
  h.demand_muted (d := releasePage c m) ⟨nofun, nofun⟩

theorem Part.notRequired_callout? (h : q.Quiet) (hc : q.callout? i = some d) (c : Callout) (m : MemberId) :
    ∃ b, (q.notRequired c m).finish.callout? i = some { d with flags := { d.flags with txDegraded := b } } := by
  obtain ⟨hmuted, hpass⟩ := h.notRequired_muted c m
  exact hmuted.callout?_finish hpass ((Part.callout?_demand _ _ _).trans hc)

theorem Part.notRequired_roster (h : q.Quiet) (c : Callout) (m : MemberId) : (q.notRequired c m).finish.roster = q.roster :=
  (h.notRequired_muted c m).1.finish.roster.trans (Part.demand_onlyPages _ _).roster

theorem ResponseTaken.handed {applied : Part × Applied} (h : ResponseTaken i c m source applied s t) {dm : Demand}
    (hd : Handed dm s applied.1.finish) : Handed dm s t := by
  rw [h.after]
  exact hd

theorem ResponseTaken.roster {applied : Part × Applied} (h : ResponseTaken i c m source applied s t) :
    t.roster = applied.1.finish.roster := by
  rw [h.after]

/-- The page is handed over behind what changes nothing of the page queue. -/
theorem Stands.notRequired_handed (hst : Stands s p) (hpg : Paging p q) (hquiet : s.Quiet) (c : Callout) (m : MemberId) :
    Handed (releasePage c m) s (q.notRequired c m).finish :=
  ((hst.paging.trans hpg).demand (releasePage c m)).handed hquiet

theorem Part.Hears.lampsRight (h : Part.Hears source s p) (hl : s.LampsRight) : p.LampsRight := by
  cases source with
  | site k =>
    obtain rfl : p = s := h
    exact hl
  | line l =>
    obtain ⟨code, ops, rfl⟩ := h
    exact s.working_lampsRight l code ops hl

/-! ### The clauses of R89, R87, R90 and R92 -/

section
variable {e : Instr} {S : State} {kind : ResponseKind} {eta : Option Nat}

theorem responses_withheld (h : Brings S.toPart i c m x e kind eta source) (hs : S.condition = .running) (hquiet : S.Quiet)
    (hn : S.NumbersDistinct) (hc : S.callout? i = some c) (hclosing : c.state ≠ .closing) (hx : S.member? m = some x)
    (hattends : kind = .attending) (hw : x.availability = .withheld) :
    Leads e S fun t => Handed (releasePage c m) S.toPart t ∧ t.roster = S.roster
      ∧ (∃ c', t.callout? i = some c' ∧ c' = { c with flags := { c.flags with txDegraded := c'.flags.txDegraded } })
      ∧ ResponseAnswered m c source 2 (c.record? m) S.toPart t := by
  obtain ⟨f, p, rfl, rfl, hhears, hleads⟩ := h.leads hs hn hc hclosing hx
  have hst := hhears.stands
  have hxp : p.member? m = some x := by rw [Part.member?, hst.roster]; exact hx
  rw [Part.applyResponse_withheld hxp hattends hw] at hleads
  refine hleads.imp fun t ht => ?_
  obtain ⟨b, hb⟩ := Part.notRequired_callout? (hst.quiet hquiet) ((hst.callout? i).trans hc) c m
  refine ⟨ht.handed (hst.notRequired_handed (.refl p) hquiet c m),
    ht.roster.trans ((Part.notRequired_roster (hst.quiet hquiet) c m).trans hst.roster),
    ⟨_, (ht.callout? i).trans hb, rfl⟩, ht.responseAnswered rfl ?_⟩
  rw [hb]
  rfl

theorem responses_ignored (h : Brings S.toPart i c m x e kind eta source) (hs : S.condition = .running) (hquiet : S.Quiet)
    (hn : S.NumbersDistinct) (hc : S.callout? i = some c) (hclosing : c.state ≠ .closing) (hx : S.member? m = some x)
    (hl : S.LampsRight) (hw : ¬ (kind = .attending ∧ x.availability = .withheld))
    (hi : (∃ r ∈ c.record? m, r.kind = .arrived) ∨ ¬ (kind = .attending ∧ c.state = .mobile)
      ∧ ((∃ r ∈ c.record? m, kind = .attending ∧ r.kind = .attending ∧ r.eta = eta ∨ kind = .unavailable ∧ r.kind = .unavailable)
        ∨ kind = .attending ∧ S.toPart.arrivedElsewhere i m = true)) :
    Leads e S fun t => ResponseAnswered m c source 1 (c.record? m) S.toPart t ∧ (∀ k, source = .site k → t = S.toPart)
      ∧ ∀ l, source = .line l → SameBlocks l S.toPart t := by
  obtain ⟨f, p, rfl, rfl, hhears, hleads⟩ := h.leads hs hn hc hclosing hx
  have hst := hhears.stands
  have hxp : p.member? m = some x := by rw [Part.member?, hst.roster]; exact hx
  have hignored : p.applyResponse i c m f source = (p, .ignored) := by
    refine Part.applyResponse_ignored hxp hw (hi.imp id (And.imp id (Or.imp ?_ ?_)))
    · exact fun ⟨r, hr, hrep⟩ => ⟨r, hr, (f.repeats_iff r).mpr hrep⟩
    · exact And.imp id (hst.arrivedElsewhere i m).trans
  rw [hignored] at hleads
  refine hleads.imp fun t ht => ?_
  have hfinish : p.finish = p := Part.finish_of_settled (hst.quiet hquiet) (hhears.lampsRight hl)
  refine ⟨ht.responseAnswered rfl ?_, fun k hk => ?_, fun l hl => ?_⟩
  · rw [hfinish, hst.callout?]
    exact congrArg (Option.bind · (Callout.record? m)) hc
  · subst hk
    obtain rfl : p = S.toPart := hhears
    exact (ht.framed k rfl).trans hfinish
  · subst hl
    have hafter := ht.after
    obtain ⟨code, ops, rfl⟩ := hhears
    rw [hfinish] at hafter
    have hframe := S.toPart.working_frame l code ops
    generalize S.toPart.working l code ops = w at hafter hframe
    rw [hframe] at hafter
    exact hafter

theorem responses_lost (h : Brings S.toPart i c m x e kind eta source) (hs : S.condition = .running) (hquiet : S.Quiet)
    (hn : S.NumbersDistinct) (hc : S.callout? i = some c) (hclosing : c.state ≠ .closing) (hx : S.member? m = some x)
    (hw : ¬ (kind = .attending ∧ x.availability = .withheld)) (hm : ¬ (kind = .attending ∧ c.state = .mobile))
    (he : ¬ (kind = .attending ∧ S.toPart.arrivedElsewhere i m = true)) (hr : c.record? m = none) (hroom : c.hasRoom = false) :
    Leads e S fun t => t.roster = S.roster ∧ t.pages = S.pages ∧ (∀ l, (t.ctl l).flags.getLsbD 1 = true)
      ∧ t.callout? i = some { c with flags := { c.flags with responseLost := true } }
      ∧ ResponseAnswered m c source 3 none S.toPart t := by
  obtain ⟨f, p, rfl, rfl, hhears, hleads⟩ := h.leads hs hn hc hclosing hx
  have hst := hhears.stands
  have hxp : p.member? m = some x := by rw [Part.member?, hst.roster]; exact hx
  rw [Part.applyResponse_lost hxp hw hm (by rw [hst.arrivedElsewhere]; exact he) hr hroom] at hleads
  refine hleads.imp fun t ht => ?_
  have hlost : (p.loseResponse i).callout? i = some { c with flags := { c.flags with responseLost := true } } := by
    show (Part.modify i _ _).callout? i = _
    rw [Part.callout?_modify_self, hst.callout?, hc]
    rfl
  have hsame : SamePages p (p.loseResponse i) := Part.modify_pages i _ p
  have hwork : (p.loseResponse i).work = p.loseResponse i := Part.work_of_quiet (hsame.workStep.mpr (hst.quiet hquiet))
  have hfinish : (p.loseResponse i).finish.callout? i = some { c with flags := { c.flags with responseLost := true } } := by
    rw [Part.finish_callout?, hwork, hlost]
  refine ⟨ht.roster.trans ?_, ?_, fun l => ?_, (ht.callout? i).trans hfinish, ht.responseAnswered rfl ?_⟩
  · show (p.loseResponse i).work.roster = _
    rw [hwork]
    exact (Part.roster_modify ..).trans hst.roster
  · rw [ht.after]
    show (p.loseResponse i).work.pages = _
    rw [hwork, hsame.1, hst.samePages.1]
  · rw [ht.flags]
    exact (Part.raise_response_noticed _).finish l
  · rw [hfinish]
    exact hr

/-- The record an ATTEND to the MOBILE callout leaves. -/
theorem Callout.record?_mobileAnswered (c : Callout) (m : MemberId) (source : Source) : (c.mobileAnswered m source).record? m
      = if c.record? m = none ∧ c.hasRoom = false then none else match c.record? m with
        | some r => if r.kind = .released then some r else some (c.releasedRecord m source (some r))
        | none => some (c.releasedRecord m source none) := by
  unfold Callout.mobileAnswered
  cases hr : c.record? m with
  | none =>
    dsimp only
    cases hroom : c.hasRoom with
    | true =>
      rw [if_pos rfl, if_neg (by simp)]
      exact Callout.record?_addRecord hr rfl
    | false =>
      rw [if_neg (by simp), if_pos ⟨rfl, rfl⟩]
      exact hr
  | some r =>
    dsimp only
    rw [if_neg (c := some r = none ∧ c.hasRoom = false) (by simp)]
    by_cases hk : r.kind = .released
    · rw [if_pos hk, if_pos hk]
      exact hr
    · rw [if_neg hk, if_neg hk]
      exact Callout.record?_replaceRecord hr rfl

theorem responses_mobile (h : Brings S.toPart i c m x e kind eta source) (hs : S.condition = .running) (hquiet : S.Quiet)
    (hn : S.NumbersDistinct) (hc : S.callout? i = some c) (hx : S.member? m = some x)
    (hattends : kind = .attending) (hw : ¬ (kind = .attending ∧ x.availability = .withheld)) (hmobile : c.state = .mobile)
    (ha : ¬ ∃ r ∈ c.record? m, r.kind = .arrived) :
    Leads e S fun t => Handed (releasePage c m) S.toPart t
      ∧ (∃ a b, t.callout? i = some { c.mobileAnswered m source with
          assessment := a
          flags := { (c.mobileAnswered m source).flags with txDegraded := b } })
      ∧ t.member? m = some (c.mobileMember m x)
      ∧ ((∀ r ∈ c.record? m, r.kind ≠ .released) → ∀ l, (t.ctl l).flags.getLsbD 1 = true)
      ∧ ResponseAnswered m c source (if c.record? m = none ∧ c.hasRoom = false then 3 else 2)
        ((c.mobileAnswered m source).record? m) S.toPart t := by
  obtain ⟨f, p, rfl, rfl, hhears, hleads⟩ := h.leads hs hn hc (by rw [hmobile]; nofun) hx
  have hst := hhears.stands
  have hxp : p.member? m = some x := by rw [Part.member?, hst.roster]; exact hx
  obtain ⟨q, hq, heq⟩ := Part.attendMobile_answered ((hst.callout? i).trans hc) hxp hmobile source
  rw [Part.applyResponse_mobile hxp hw ha hattends hmobile, heq] at hleads
  refine hleads.imp fun t ht => ?_
  have hqquiet : q.Quiet := hq.paging.same.workStep.mpr (hst.quiet hquiet)
  obtain ⟨a, hcallout⟩ := hq.callout
  obtain ⟨b, hb⟩ := Part.notRequired_callout? hqquiet hcallout c m
  refine ⟨ht.handed (hst.notRequired_handed hq.paging hquiet c m), ⟨a, b, (ht.callout? i).trans hb⟩, ?_, fun hk l => ?_,
    ht.responseAnswered ?_ ?_⟩
  · rw [Part.member?, ht.roster, Part.notRequired_roster hqquiet c m]
    exact hq.member
  · rw [ht.flags]
    exact ((Part.notRequired_moves (.unedited none False) c m q).frame.lines.noticed (hq.noticed hk)).finish l
  · dsimp only
    split <;> rfl
  · rw [hb]
    rfl

end

theorem Callout.mobileAnswered_frame (c : Callout) (m : MemberId) (source : Source) :
    (c.mobileAnswered m source).state = c.state ∧ (c.mobileAnswered m source).sequence = c.sequence
    ∧ (c.mobileAnswered m source).flags.responseLost
      = (c.flags.responseLost || decide (c.record? m = none ∧ c.hasRoom = false)) := by
  unfold Callout.mobileAnswered
  cases hr : c.record? m with
  | none => cases hroom : c.hasRoom <;> simp [Callout.addRecord]
  | some r => by_cases hk : r.kind = .released <;> simp [hk, Callout.replaceRecord]

/-- The list after an ATTEND to the MOBILE callout (R90, R92). -/
theorem Callout.mobileAnswered_responses (c : Callout) (m : MemberId) (source : Source) :
    (c.mobileAnswered m source).responses = match c.record? m with
      | some r => if r.kind = .released then c.responses
          else c.responses.map fun y => if y.member = m then c.releasedRecord m source (c.record? m) else y
      | none => if c.responses.length < 32 then c.responses ++ [c.releasedRecord m source (c.record? m)]
          else if ∃ r ∈ c.responses, r.inactive = true
          then c.responses.eraseP Response.inactive ++ [c.releasedRecord m source (c.record? m)]
          else c.responses := by
  unfold Callout.mobileAnswered
  cases hr : c.record? m with
  | some r =>
    dsimp only
    by_cases hk : r.kind = .released
    · rw [if_pos hk, if_pos hk]
    · rw [if_neg hk, if_neg hk]
      rfl
  | none =>
    dsimp only
    by_cases hlen : c.responses.length < 32
    · rw [if_pos (c.hasRoom_iff.mpr (.inl hlen)), if_pos hlen]
      exact congrArg (· ++ _) (if_pos hlen)
    · rw [if_neg hlen]
      by_cases hinactive : ∃ r ∈ c.responses, r.inactive = true
      · rw [if_pos (c.hasRoom_iff.mpr (.inr hinactive)), if_pos hinactive, ← evictOne_eq]
        exact congrArg (· ++ _) (if_neg hlen)
      · rw [if_neg (fun h => (c.hasRoom_iff.mp h).elim hlen hinactive), if_neg hinactive]

theorem Callout.mobileMember_fields (c : Callout) (m : MemberId) (x : Member) :
    (c.mobileMember m x).availability
      = (if x.availability = .offDuty ∧ ¬ (c.record? m = none ∧ c.hasRoom = false) then .available else x.availability)
    ∧ (c.mobileMember m x).engaged
      = if x.engaged = some c.number ∧ (∃ r ∈ c.record? m, r.inactive = false) then none else x.engaged := by
  have hactive : (∃ r ∈ c.record? m, r.active = true) ↔ ∃ r ∈ c.record? m, r.inactive = false :=
    exists_congr fun r => and_congr_right fun _ => by rw [r.inactive_eq]; simp
  have hduty (b : Prop) [Decidable b] : (if b then x else if x.availability = .offDuty then { x with availability := .available } else x)
      = { x with availability := if x.availability = .offDuty ∧ ¬ b then .available else x.availability } := by
    by_cases hb : b
    · simp [hb]
    · by_cases ho : x.availability = .offDuty
      · simp [hb, ho]
      · simp [hb, ho]
  unfold Callout.mobileMember
  simp only [hduty, hactive]
  by_cases h : ∃ r ∈ c.record? m, r.inactive = false
  · rw [if_pos h]
    unfold Member.leave
    by_cases he : x.engaged = some c.number
    · simp only [he, if_true]
      exact ⟨trivial, (if_pos ⟨trivial, h⟩).symm⟩
    · simp only [if_neg he]
      exact ⟨trivial, (if_neg fun k => he k.1).symm⟩
  · rw [if_neg h]
    exact ⟨rfl, (if_neg fun k => h k.2).symm⟩

/-- Settles O58. -/
theorem responsesNotTaken : Obligations.ResponsesNotTaken := by
  unfold Obligations.ResponsesNotTaken
  intro s i c m x hs hquiet hdistinct hc hclosing hx old arrived elsewhere room page
  have helsewhere : elsewhere ↔ s.toPart.arrivedElsewhere i m = true := (Part.arrivedElsewhere_iff hdistinct hx).symm
  have hroom : room ↔ c.hasRoom = true := c.hasRoom_iff.symm
  have hroomNot : ¬ room ↔ c.hasRoom = false := (not_congr hroom).trans (by simp)
  refine ⟨fun e kind eta source hbrings => ?_, fun h => ?_⟩
  · intro repeats withheld answered
    refine ⟨fun h => responses_withheld hbrings hs hquiet hdistinct hc hclosing hx h.1 h.2, fun hw hi hl => ?_,
      fun hkind hw hmobile ha => ?_, fun hw hm he hr hno => ?_⟩
    · refine (responses_ignored hbrings hs hquiet hdistinct hc hclosing hx hl hw (hi.imp id (And.imp ?_ (Or.imp ?_ ?_)))).imp
        fun t ht => ⟨ht.1, ?_⟩
      · exact fun h k => h.elim (· k.1) (· k.2)
      · exact id
      · exact And.imp id helsewhere.mp
      · cases source with
        | site k => exact ht.2.1 k rfl
        | line l => exact ht.2.2 l rfl
    · refine (responses_mobile hbrings hs hquiet hdistinct hc hx hkind hw hmobile ha).imp fun t ht => ?_
      obtain ⟨hhanded, ⟨a, b, hcallout⟩, hmember, hnoticed, hanswered⟩ := ht
      obtain ⟨hstate, hsequence, hlost⟩ := c.mobileAnswered_frame m source
      obtain ⟨havailable, hengaged⟩ := c.mobileMember_fields m x
      refine ⟨hhanded, _, _, hcallout, hmember, hstate.trans hmobile, hsequence, ?_⟩
      intro lost record
      have hiff : lost ↔ c.record? m = none ∧ c.hasRoom = false := and_congr_right fun _ => hroomNot
      refine ⟨?_, hengaged, ?_, hnoticed, c.mobileAnswered_responses m source, ?_⟩
      · rw [havailable]
        exact if_congr (and_congr_right fun _ => not_congr hiff.symm) rfl rfl
      · refine hlost.trans (congrArg _ ?_)
        exact decide_eq_decide.mpr hiff.symm
      · have hcode : (if c.record? m = none ∧ c.hasRoom = false then 3 else 2) = if lost then 3 else 2 := if_congr hiff.symm rfl rfl
        rw [hcode] at hanswered
        refine Eq.mp (congrArg (ResponseAnswered m c source _ · _ _) ?_) hanswered
        rw [c.record?_mobileAnswered m source]
        refine (if_congr hiff.symm rfl rfl).trans (congrArg (ite lost none) ?_)
        generalize hold : c.record? m = o
        have hrecord : record = c.releasedRecord m source o := hold ▸ rfl
        rw [show old = o from hold, hrecord]
        cases o <;> rfl
    · exact responses_lost hbrings hs hquiet hdistinct hc hclosing hx hw (fun h => hm.elim (· h.1) (· h.2))
        (fun h => he ⟨h.1, helsewhere.mpr h.2⟩) hr (hroomNot.mp hno)
  · have hm := m.isLt
    have hnumber : 1 ≤ c.number.toNat ∧ c.number.toNat ≤ 255 := by
      have hne : c.number.toNat ≠ 0 := fun h0 => (hdistinct.1 i c hc).1 (BitVec.eq_of_toNat_eq h0)
      have := c.number.isLt
      omega
    refine refuses_of_rule hs rfl ?_
    refine (bookOnOrder_of_named le_rfl ((needIndex_eq_some (by omega)).mpr rfl)
      ((optWithin_eq_some (x := some c.number.toNat) (by omega)).mpr ⟨rfl, fun y hy => by cases hy; exact hnumber⟩)).trans ?_
    rw [Part.working_member?, hx, Part.working_lookup, Part.lookup_self hdistinct hc]
    refine if_pos (.inr (.inr (.inr ?_)))
    rw [(Stands.working ..).arrivedElsewhere]
    exact helsewhere.mp h

end Sys2Proof.Machine

/-! A response that is taken: record, member, engagement and the callouts reassessed (R83 to R92, R57, R97). -/

namespace Sys2Proof.Machine
open Sys2Proof

variable {p q r s t : Part} {i j : SlotId} {c d : Callout} {m : MemberId} {x y : Member} {source : Source} {f : ResponseForm}
  {n : CalloutNo}

/-! ### Who can be surplus (R98, R101) -/

theorem requiredStep_candidates (quals : MemberId → Qualifications) (cs : List Candidate) (es : List OpenEntry) :
    (requiredStep quals cs es).1.map Prod.fst = cs := by
  induction cs generalizing es with
  | nil => rfl
  | cons x rest ih =>
    unfold requiredStep
    exact congrArg (x :: ·) (ih _)

theorem spareStep_candidates (out : List (Candidate × Option (Appliance × Role))) (es : List OpenEntry) :
    (spareStep out es).map Prod.fst = out.map Prod.fst := by
  induction out generalizing es with
  | nil => rfl
  | cons x rest ih =>
    obtain ⟨x, slot⟩ := x
    cases slot with
    | some lr => exact congrArg (x :: ·) (ih es)
    | none =>
      unfold spareStep
      split <;> exact congrArg (x :: ·) (ih _)

/-- A SURPLUS member has an active record. -/
theorem Part.surplus_active (h : m ∈ (p.assessment c).surplus) : ∃ r ∈ c.responses, r.member = m ∧ r.active = true := by
  obtain ⟨part, hpart, rfl⟩ := List.mem_map.mp h
  have hcandidate : part ∈ (p.assessment c).candidates := (List.mem_filter.mp hpart).1
  unfold Part.assessment at hcandidate
  rw [assess_candidates, ranked_eq] at hcandidate
  obtain ⟨⟨⟨w, a⟩, k⟩, hw, rfl⟩ := List.mem_map.mp hcandidate
  have hseated : w ∈ (c.seated (fun ap => (p.appliance ap).seats) p.quals).map Prod.fst :=
    List.mem_map_of_mem (f := Prod.fst) (List.fst_mem_of_mem_zipIdx hw)
  unfold Callout.seated Callout.slotted at hseated
  rw [spareStep_candidates, requiredStep_candidates] at hseated
  obtain ⟨order, hperm, horder⟩ := exists_perm_rankOrder Response.asCandidate
    (c.responses.filter fun r => r.active && !c.onFrozenCrew r.member)
  have hw : w ∈ order.map Response.asCandidate := horder ▸ hseated
  obtain ⟨r, hr, rfl⟩ := List.mem_map.mp hw
  obtain ⟨hr, hactive⟩ := List.mem_filter.mp (hperm.mem_iff.mp hr)
  exact ⟨r, hr, rfl, (Bool.and_eq_true_iff.mp hactive).1⟩

/-- A member whose record is WITHDRAWN is not SURPLUS. -/
theorem Part.withdrawing_not_surplus (p : Part) (m : MemberId) (source : Source) (d : Callout) :
    m ∉ (p.assessment (d.withdrawing m source)).surplus := fun h => by
  obtain ⟨r, hr, hm, hactive⟩ := Part.surplus_active h
  obtain ⟨y, -, rfl⟩ := List.mem_map.mp hr
  by_cases hy : y.member = m
  · rw [if_pos hy] at hactive
    cases hactive
  · rw [if_neg hy] at hm
    exact hy hm

/-! ### A member when a callout takes its outcome (R19) -/

/-- An entry into CREWED lets its surplus go. -/
theorem Part.member?_enterCrewed (hc : p.callout? i = some c) (m : MemberId) : (p.enterCrewed i).member? m
    = if m ∈ c.assessment.surplus then (p.member? m).map (Member.leave c.number) else p.member? m := by
  have hcrewed : ((p.enter i .crewed).modify i Callout.stopWindow).callout? i
      = some { c with state := .crewed, responseWindow := .stopped } := by
    rw [Part.callout?_modify_self, Part.callout?_enter, if_pos rfl, hc]
    rfl
  have hmember : ((p.enter i .crewed).modify i Callout.stopWindow).member? m = p.member? m := by
    rw [Part.member?, Part.roster_modify, Part.enter, Part.raise_roster, Part.roster_modify]
    rfl
  unfold Part.enterCrewed
  simp only [hcrewed]
  split
  next hs => rw [hmember, if_neg (by simp [hs])]
  next =>
    rw [Part.member?_recompute, Part.member?, (Part.demandReleases_onlyPages _ _ _).roster, ← Part.member?,
      Part.member?_releaseMembers hcrewed, hmember]

theorem Part.member?_takeOutcome (hc : p.callout? i = some c) (m : MemberId) : (p.takeOutcome i).member? m
    = if c.Enters ∧ m ∈ c.assessment.surplus then (p.member? m).map (Member.leave c.number) else p.member? m := by
  by_cases he : c.Enters
  · rw [Part.takeOutcome_of_enters hc he, Part.member?_enterCrewed hc]
    exact if_congr (and_iff_right he).symm rfl rfl
  · rw [if_neg fun h => he h.1]
    by_cases hr : c.Returns
    · rw [Part.takeOutcome_of_returns hc hr, Part.enterCounting, Part.member?, Part.roster_modify, Part.enter, Part.raise_roster,
        Part.roster_modify]
      rfl
    · rw [Part.takeOutcome_of_stays hc he hr]

theorem Part.member?_reassess (hc : p.callout? i = some c) (hn : c.state ≠ .closing) (m : MemberId) : (p.reassess i).member? m
    = if (c.state = .alerting ∨ c.state = .counting) ∧ (p.assessment c).outcome = .crewed ∧ m ∈ (p.assessment c).surplus
      then (p.member? m).map (Member.leave c.number) else p.member? m := by
  rw [Part.reassess_eq hc hn, Part.member?_takeOutcome (Part.callout?_recompute_self hc), Part.member?_recompute]
  exact if_congr and_assoc rfl rfl

theorem KeepsEngaged.reassess (h : ∀ c, p.callout? i = some c → c.number ≠ n) : KeepsEngaged n p (p.reassess i) := by
  unfold Part.reassess
  split
  · exact .refl p
  next c hc =>
    split
    · exact .refl p
    · exact (KeepsEngaged.recompute i p).trans (.takeOutcome (Part.callout?_recompute_self hc) (h c hc))

/-! ### The record, the engagement and the callout left, before the reassessments (R83 to R88) -/

/-- The part with the response on record and the member engaged, or disengaged, by it. -/
def Part.answering (i : SlotId) (c : Callout) (m : MemberId) (f : ResponseForm) (source : Source) (p : Part) : Part :=
  let q := ((if f.engages then p.setOnDuty m else p).leave (p.leftBy i m f) m source).modify i (Callout.putResponse m f source)
  if f.engages then q.engage m c.number else q.disengage m c.number

theorem Part.takeResponse_answering (i : SlotId) (c : Callout) (m : MemberId) (f : ResponseForm) (source : Source) (p : Part) :
    p.takeResponse i c m f source
      = (((p.answering i c m f source).reassessLeft (p.leftBy i m f)).reassess i).raise .response :=
  p.takeResponse_eq i c m f source

theorem Part.callout?_onDuty (b : Bool) (m : MemberId) (p : Part) (k : SlotId) :
    (if b then p.setOnDuty m else p).callout? k = p.callout? k := by
  split
  · exact Part.callout?_setOnDuty m p k
  · rfl

theorem Part.callout?_engagement (b : Bool) (m : MemberId) (n : CalloutNo) (p : Part) (k : SlotId) :
    (if b then p.engage m n else p.disengage m n).callout? k = p.callout? k := by
  split
  · exact Part.callout?_modifyMember m _ p k
  · exact Part.callout?_modifyMember m _ p k

theorem Part.callout?_answering (hc : p.callout? i = some c) (m : MemberId) (f : ResponseForm) (source : Source) :
    (p.answering i c m f source).callout? i = some (c.putResponse m f source) := by
  unfold Part.answering
  dsimp only
  rw [Part.callout?_engagement, Part.callout?_modify_self, Part.callout?_leave fun j x h => (Part.leftBy_ne h).1, Part.callout?_onDuty,
    hc]
  rfl

theorem Part.callout?_answering_left (h : p.leftBy i m f = some (j, d)) (c : Callout) (source : Source) :
    (p.answering i c m f source).callout? j = some (d.withdrawing m source) := by
  obtain ⟨hj, hd⟩ := Part.leftBy_ne h
  unfold Part.answering
  dsimp only
  rw [Part.callout?_engagement, Part.callout?_modify_ne _ (Ne.symm hj), h]
  exact Part.callout?_withdrawMember ((Part.callout?_onDuty _ m p j).trans hd) m source

theorem Part.answering_pages (i : SlotId) (c : Callout) (m : MemberId) (f : ResponseForm) (source : Source) (p : Part) :
    SamePages p (p.answering i c m f source) := by
  have hduty : SamePages p (if f.engages then p.setOnDuty m else p) := by
    split
    · exact Part.modifyMember_pages m _ p
    · exact .refl p
  have hleave (q : Part) : SamePages q (q.leave (p.leftBy i m f) m source) := by
    unfold Part.leave
    split
    · exact Part.withdrawMember_pages _ _ _ _ _
    · exact .refl q
  unfold Part.answering
  dsimp only
  refine ((hduty.trans (hleave _)).trans (Part.modify_pages i (Callout.putResponse m f source) _)).trans ?_
  split
  · exact Part.modifyMember_pages m _ _
  · exact Part.modifyMember_pages m _ _

theorem Part.answering_moves {g : Grants} (hc : p.callout? i = some c) (hroom : c.record? m = none → c.hasRoom = true)
    (f : ResponseForm) (source : Source) : Moves g p (p.answering i c m f source) := by
  have hduty : Moves g p (if f.engages then p.setOnDuty m else p) := .ite (p.setOnDuty_moves g m) .refl
  unfold Part.answering
  dsimp only
  refine ((hduty.trans (Part.leave_moves g _ m source _)).trans (.modify fun e he => ?_)).trans
    (.ite (Part.engage_moves g m _ _) (Part.disengage_moves g m _ _))
  rw [Part.callout?_leave fun j x h => (Part.leftBy_ne h).1, Part.callout?_onDuty, hc] at he
  cases he
  exact Callout.putResponse_moves g hroom

/-- The member engaged, or disengaged, by the response. -/
def Member.answering (f : ResponseForm) (n : CalloutNo) (x : Member) : Member :=
  if f.engages then { x with
    availability := if x.availability = .offDuty then .available else x.availability
    engaged := some n }
  else x.leave n

theorem Part.member?_answering (hx : p.member? m = some x) (c : Callout) (source : Source) :
    (p.answering i c m f source).member? m = some (x.answering f c.number) := by
  have hmodify (g : Callout → Callout) (q : Part) : (q.modify i g).member? m = q.member? m := by
    rw [Part.member?, Part.roster_modify]
    rfl
  unfold Part.answering Member.answering
  dsimp only
  cases hf : f.engages with
  | false =>
    have hnone : p.leftBy i m f = none := by
      unfold Part.leftBy
      rw [hf]
      rfl
    simp only [hnone, Bool.false_eq_true, if_false]
    rw [Part.disengage, Part.member?_modifyMember, if_pos rfl, hmodify]
    show (p.member? m).map _ = _
    rw [hx]
    rfl
  | true =>
    simp only [if_true]
    have hleave (q : Part) : ((q.leave (p.leftBy i m f) m source).member? m).map (fun x => { x with engaged := some c.number })
        = (q.member? m).map fun x => { x with engaged := some c.number } := by
      unfold Part.leave
      split
      next j d _ =>
        rw [Part.withdrawMember, Part.disengage, Part.member?_modifyMember, if_pos rfl, Part.member?, Part.roster_modify, Option.map_map]
        refine congrArg (fun g => (q.member? m).map g) (funext fun y => ?_)
        rw [Function.comp_apply, y.leave_frame]
      next => rfl
    rw [Part.engage, Part.member?_modifyMember, if_pos rfl, hmodify, hleave, Part.member?_setOnDuty hx]
    by_cases ho : x.availability = .offDuty
    · simp [ho]
    · simp [ho]

/-! ### The record (R73 to R75, R92) -/

/-- The response list with a record in its place, or at the end. -/
def Callout.recorded (c : Callout) (m : MemberId) (record : Response) : List Response :=
  match c.record? m with
  | some _ => c.responses.map fun r => if r.member = m then record else r
  | none => (if c.responses.length < 32 then c.responses else c.responses.eraseP Response.inactive) ++ [record]

theorem needsSequence_iff (f : ResponseForm) (old : Option Response) : needsSequence f old = true ↔
    f.kind ≠ .unavailable ∧ ∀ r ∈ old, r.inactive = true := by
  unfold needsSequence
  rw [Bool.and_eq_true, f.engages_iff]
  refine and_congr_right fun _ => ?_
  cases old with
  | none => simp
  | some r => simp [r.inactive_eq]

theorem Callout.putResponse_frame (m : MemberId) (f : ResponseForm) (source : Source) (c : Callout) : c.putResponse m f source
    = { c with
      responses := c.recorded m (c.responseRecord m f source (c.record? m))
      sequence := if needsSequence f (c.record? m) then c.nextSequence else c.sequence } := by
  have hnumbered (b : Bool) : c.numbered b = { c with sequence := if b then c.nextSequence else c.sequence } := by
    unfold Callout.numbered
    split <;> rfl
  rw [Callout.putResponse_eq]
  unfold Callout.recorded
  cases hr : c.record? m with
  | some r =>
    dsimp only
    rw [hnumbered]
    rfl
  | none =>
    dsimp only
    rw [hnumbered]
    show (Callout.addRecord _ _) = _
    unfold Callout.addRecord
    rw [← evictOne_eq]
    rfl

theorem Callout.record?_putResponse (m : MemberId) (f : ResponseForm) (source : Source) (c : Callout) :
    (c.putResponse m f source).record? m = some (c.responseRecord m f source (c.record? m)) := by
  rw [Callout.putResponse_eq]
  have hnumbered (b : Bool) : (c.numbered b).record? m = c.record? m := by
    rw [c.numbered_frame]
    rfl
  cases hr : c.record? m with
  | some r => exact Callout.record?_replaceRecord ((hnumbered _).trans hr) rfl
  | none => exact Callout.record?_addRecord ((hnumbered _).trans hr) rfl

/-- A record is found behind a change that keeps members. -/
theorem find?_member_map (l : List Response) {g : Response → Response} (hg : ∀ r, (g r).member = r.member) (m : MemberId) :
    (l.map g).find? (fun r => r.member == m) = (l.find? fun r => r.member == m).map g := by
  rw [List.find?_map]
  exact congrArg (fun h => (l.find? h).map g) (funext fun r => by rw [Function.comp_apply, hg])

/-- The state the callout comes to, with the response on record, and its records then (R18, R19). -/
theorem Part.callout?_taken (hc : p.callout? i = some c) (hn : c.state ≠ .closing) (hp : p.Muted) :
    ∃ e, ((p.reassess i).raise .response).finish.callout? i = some e ∧ Reassessed (p.assessment c) c e ∧ e.sequence = c.sequence := by
  obtain ⟨a, ha⟩ := Part.callout?_reassess hc hn
  have hmuted : ((p.reassess i).raise .response).Muted := (hp.reassess i).congr ⟨rfl, rfl⟩
  obtain ⟨e, he, hcalm⟩ := hmuted.finish.callout? (c := ({ c with assessment := p.assessment c } : Callout).outcomeTaken a) ha
  refine ⟨e, he, Calm.reassessed hcalm (Callout.outcomeTaken_reassessed (p.assessment c) a c), ?_⟩
  have hsequence : e.sequence = (({ c with assessment := p.assessment c } : Callout).outcomeTaken a).sequence :=
    (congrArg Callout.sequence hcalm :)
  rw [hsequence, Callout.outcomeTaken_frame]

/-- Another callout, past the reassessment. -/
theorem Part.callout?_beside (hj : i ≠ j) (hd : p.callout? j = some d) (hp : p.Muted) :
    ∃ e, ((p.reassess i).raise .response).finish.callout? j = some e ∧ e.calm = d.calm := by
  have hmuted : ((p.reassess i).raise .response).Muted := (hp.reassess i).congr ⟨rfl, rfl⟩
  exact hmuted.finish.callout? (c := d) ((Part.callout?_reassess_ne hj p).trans hd)

theorem Part.member?_taken (hc : p.callout? i = some c) (hn : c.state ≠ .closing) (hp : p.Muted) (m : MemberId) :
    ((p.reassess i).raise .response).finish.member? m
      = if (c.state = .alerting ∨ c.state = .counting) ∧ (p.assessment c).outcome = .crewed ∧ m ∈ (p.assessment c).surplus
        then (p.member? m).map (Member.leave c.number) else p.member? m := by
  have hmuted : ((p.reassess i).raise .response).Muted := (hp.reassess i).congr ⟨rfl, rfl⟩
  rw [Part.member?, hmuted.finish.roster, ← Part.member?_reassess hc hn]
  rfl

theorem Part.applyResponse_taken (hx : p.member? m = some x) (h : ¬ (f.kind = .attending ∧ x.availability = .withheld))
    (ha : ¬ ∃ r ∈ c.record? m, r.kind = .arrived) (hm : ¬ (f.kind = .attending ∧ c.state = .mobile))
    (hrepeats : ∀ r ∈ c.record? m, ¬ f.repeats r = true) (he : ¬ (f.kind = .attending ∧ p.arrivedElsewhere i m = true))
    (hroom : c.record? m = none → c.hasRoom = true) : p.applyResponse i c m f source = (p.takeResponse i c m f source, .taken) := by
  rw [Part.applyResponse_beyond hx h ha hm, if_neg, if_neg, if_neg]
  · rw [Bool.and_eq_true, Option.isNone_iff_eq_none]
    exact fun k => by simp [hroom k.1] at k
  · rw [Bool.and_eq_true, f.attends_iff]
    exact he
  · cases hr : c.record? m with
    | none => nofun
    | some r => exact hrepeats r hr

theorem Callout.responseRecord_eq (c : Callout) (m : MemberId) (f : ResponseForm) (source : Source) (old : Option Response)
    (fresh : Prop) [Decidable fresh] (h : fresh ↔ needsSequence f old = true) : c.responseRecord m f source old =
      { member := m, kind := f.kind, eta := f.eta, minute := c.elapsed / 60
        estimate := match f.kind with
          | .attending => some (min (c.elapsed / 60 + f.eta.getD c.turnout) 99)
          | .arrived => some (min (c.elapsed / 60) 99)
          | _ => none
        sequence := if fresh then some (min (c.sequence + 1) 255) else old.bind Response.sequence
        source := source, lastChange := c.elapsed } := by
  have hsequence : (if fresh then some (min (c.sequence + 1) 255) else old.bind Response.sequence)
      = if needsSequence f old then some c.nextSequence else old.bind Response.sequence := if_congr h rfl rfl
  rw [hsequence]
  cases f with
  | attend e => cases e <;> rfl
  | unavailable => rfl
  | bookOn => rfl

/-- A record keeps its place when its callout is reassessed, if its member is not SURPLUS. -/
theorem Part.reassess_record (hd : p.callout? j = some d) (hm : m ∉ (p.assessment d).surplus) :
    ∃ e, (p.reassess j).callout? j = some e ∧ e.record? m = d.record? m := by
  by_cases hclosing : d.state = .closing
  · refine ⟨d, ?_, rfl⟩
    unfold Part.reassess
    rw [hd]
    dsimp only
    rw [if_pos hclosing, hd]
  · obtain ⟨a, ha⟩ := Part.callout?_reassess hd hclosing
    obtain ⟨-, hresponses, -⟩ := Callout.outcomeTaken_reassessed (p.assessment d) a d
    refine ⟨_, ha, ?_⟩
    unfold Callout.record?
    rw [hresponses]
    split
    next =>
      rw [find?_member_map _ (fun r => by split <;> rfl)]
      cases hr : d.responses.find? fun r => r.member == m with
      | none => rfl
      | some r =>
        have hmember : r.member = m := by simpa using List.find?_some hr
        rw [Option.map_some, if_neg fun h => hm (hmember ▸ h.1)]
    next => rfl

theorem Callout.record?_withdrawing {r : Response} (hr : d.record? m = some r) (source : Source) :
    (d.withdrawing m source).record? m
      = some { r with kind := .withdrawn, eta := none, estimate := none, source := source, lastChange := d.elapsed } := by
  have hmember : r.member = m := by simpa using List.find?_some hr
  unfold Callout.record? Callout.withdrawing at *
  dsimp only
  rw [find?_member_map _ (fun r => by split <;> rfl), hr, Option.map_some, if_pos hmember]

/-! ### The callout left, reassessed (R57) -/

/-- A part with the response on record and the callout left reassessed: the response's own callout is still to be. -/
structure Part.Recorded (i : SlotId) (c : Callout) (m : MemberId) (x : Member) (f : ResponseForm) (source : Source) (s q : Part) :
    Prop where
  muted    : q.Muted
  callout  : q.callout? i = some (c.putResponse m f source)
  assessed : ∀ e, q.assessment e = s.assessment e
  member   : q.member? m = some (x.answering f c.number)
  left     : f.kind ≠ .unavailable → ∀ j d, j ≠ i → s.callout? j = some d → x.engaged = some d.number →
    ∃ e, q.callout? j = some e ∧ e.record? m = (d.withdrawing m source).record? m
      ∧ (d.state ≠ .closing → Reassessed (s.assessment (d.withdrawing m source)) (d.withdrawing m source) e
        ∧ ((s.assessment (d.withdrawing m source)).outcome ≠ d.assessment.outcome → q.Noticed 2))

theorem Part.recorded (hst : Stands s p) (hquiet : s.Quiet) (hn : s.NumbersDistinct) (hc : s.callout? i = some c)
    (hx : s.member? m = some x) (hroom : c.record? m = none → c.hasRoom = true) (f : ResponseForm) (source : Source) :
    Part.Recorded i c m x f source s ((p.answering i c m f source).reassessLeft (p.leftBy i m f)) := by
  have hcp := (hst.callout? i).trans hc
  have hxp : p.member? m = some x := by rw [Part.member?, hst.roster]; exact hx
  have hnp : p.NumbersDistinct := by
    unfold Part.NumbersDistinct
    simp only [hst.callout?]
    exact hn
  have hmuted : (p.answering i c m f source).Muted := (Part.Muted.of_quiet (hst.quiet hquiet)).congr (p.answering_pages i c m f source)
  have hcallout := Part.callout?_answering hcp m f source
  have hassessed (e : Callout) : (p.answering i c m f source).assessment e = s.assessment e :=
    (SameConfiguration.assessment (Moves.configuration (g := .unedited none False) id (Part.answering_moves hcp hroom f source)) e).trans
      (hst.assessment e)
  have hmember := Part.member?_answering (i := i) (f := f) hxp c source
  cases hleft : p.leftBy i m f with
  | none =>
    refine ⟨hmuted, hcallout, hassessed, hmember, fun hcomes j d hj hd he => ?_⟩
    have hsome : p.leftBy i m f = some (j, d) := by
      unfold Part.leftBy
      rw [if_pos (f.engages_iff.mpr hcomes)]
      exact (Part.engagedElsewhere_iff hnp hxp).mpr ⟨hj, (hst.callout? j).trans hd, he⟩
    rw [hleft] at hsome
    cases hsome
  | some jd =>
    obtain ⟨j, d⟩ := jd
    obtain ⟨hj, hd⟩ := Part.leftBy_ne hleft
    have hleftCallout := Part.callout?_answering_left hleft c source
    have hengages : f.engages = true := by
      by_contra h
      unfold Part.leftBy at hleft
      rw [if_neg h] at hleft
      cases hleft
    have hnumber : d.number ≠ c.number := (hnp.2 j i d c hd hcp hj).1
    show Part.Recorded i c m x f source s ((p.answering i c m f source).reassess j)
    refine ⟨hmuted.reassess j, (Part.callout?_reassess_ne hj _).trans hcallout, fun e => ?_, ?_, fun _ k b hk hb he => ?_⟩
    · exact ((Part.reassess_moves (.unedited none False) j _).configuration id).assessment e |>.trans (hassessed e)
    · refine KeepsEngaged.reassess (n := c.number) (fun b hb => ?_) m _ hmember ?_
      · obtain rfl := Option.some.inj (hleftCallout.symm.trans hb)
        exact hnumber
      · unfold Member.answering
        rw [if_pos hengages]
    · obtain ⟨-, -, hengaged⟩ := (Part.engagedElsewhere_iff hnp hxp).mp (show p.engagedElsewhere i m = some (j, d) by
        unfold Part.leftBy at hleft
        rwa [if_pos hengages] at hleft)
      have hbp : p.callout? k = some b := (hst.callout? k).trans hb
      obtain rfl : k = j := by
        by_contra hkj
        exact (hnp.2 k j b d hbp hd hkj).1 (Option.some.inj (he.symm.trans hengaged))
      obtain rfl := Option.some.inj (hbp.symm.trans hd)
      obtain ⟨e, hee, hrecord⟩ := Part.reassess_record hleftCallout (m := m)
        (Part.withdrawing_not_surplus _ m source b)
      refine ⟨e, hee, hrecord, fun hopen => ⟨?_, fun hout => ?_⟩⟩
      · obtain ⟨a, ha⟩ := Part.callout?_reassess hleftCallout hopen
        obtain rfl := Option.some.inj (hee.symm.trans ha)
        rw [← hassessed]
        exact Callout.outcomeTaken_reassessed _ a _
      · rw [← hassessed] at hout
        exact Part.reassess_crew hleftCallout hopen hout

/-- What a response that is taken leaves of its member. -/
theorem Member.answering_fields (f : ResponseForm) (n : CalloutNo) (x : Member) (b : Prop) [Decidable b] :
    (if b then (x.answering f n).leave n else x.answering f n).availability
      = (if f.kind ≠ .unavailable ∧ x.availability = .offDuty then .available else x.availability)
    ∧ (if b then (x.answering f n).leave n else x.answering f n).engaged
      = if f.kind ≠ .unavailable then (if b then none else some n) else if x.engaged = some n then none else x.engaged := by
  by_cases hf : f.kind = .unavailable
  · have hanswering : x.answering f n = x.leave n := if_neg (by rw [f.engages_iff]; exact not_not.mpr hf)
    rw [hanswering, x.leave_leave, ite_self, if_neg (fun h => h.1 hf), if_neg (not_not.mpr hf)]
    unfold Member.leave
    split <;> exact ⟨rfl, rfl⟩
  · have hanswering : x.answering f n = { x with
        availability := if x.availability = .offDuty then .available else x.availability
        engaged := some n } := if_pos (f.engages_iff.mpr hf)
    rw [hanswering, if_congr (and_iff_right hf) rfl rfl, if_pos hf]
    by_cases hb : b
    · rw [if_pos hb, if_pos hb]
      simp [Member.leave]
    · rw [if_neg hb, if_neg hb]
      exact ⟨rfl, rfl⟩

end Sys2Proof.Machine

/-! The response taken, as commands bring it (R83 to R92). -/

namespace Sys2Proof.Machine
open Sys2Proof

variable {q s t : Part} {i j : SlotId} {c d : Callout} {m : MemberId} {x y : Member} {source : Source} {f : ResponseForm}

/-- Settles O57. -/
theorem responsesTaken : Obligations.ResponsesTaken := by
  unfold Obligations.ResponsesTaken
  intro s i c m x e kind eta source hs hquiet hdistinct hc hclosing hx hbrings old comes hattending hold hcome hroom
  obtain ⟨f, p, rfl, rfl, hhears, hleads⟩ := hbrings.leads hs hdistinct hc hclosing hx
  have hst := hhears.stands
  have hxp : p.member? m = some x := by rw [Part.member?, hst.roster]; exact hx
  have hhasRoom : c.record? m = none → c.hasRoom = true := fun h => c.hasRoom_iff.mpr (hroom h)
  have htaken : p.applyResponse i c m f source = (p.takeResponse i c m f source, .taken) := by
    refine Part.applyResponse_taken hxp (fun h => (hattending h.1).1 h.2) (fun ⟨r, hr, hk⟩ => (hold r hr).1 hk)
      (fun h => (hattending h.1).2 h.2) (fun r hr hrep => ?_) (fun h => ?_) hhasRoom
    · obtain ⟨-, ha, hu⟩ := hold r hr
      exact ((f.repeats_iff r).mp hrep).elim ha hu
    · rw [hst.arrivedElsewhere, Part.arrivedElsewhere_iff hdistinct hx] at h
      obtain ⟨ha, j, d, r, hj, hd, he, hr, hk⟩ := h
      exact hcome ha j d hj hd he r hr hk
  rw [htaken, Part.takeResponse_answering] at hleads
  have hq := Part.recorded hst hquiet hdistinct hc hx hhasRoom f source
  generalize (p.answering i c m f source).reassessLeft (p.leftBy i m f) = q at hleads hq
  intro minute fresh record list a enters released final
  have hrecord : c.responseRecord m f source (c.record? m) = record :=
    c.responseRecord_eq m f source _ fresh (needsSequence_iff f _).symm
  have hlist : c.recorded m (c.responseRecord m f source (c.record? m)) = list := by
    rw [hrecord]
    rfl
  have hput : c.putResponse m f source = { c with
      responses := list
      sequence := if fresh then min (c.sequence + 1) 255 else c.sequence } := by
    rw [Callout.putResponse_frame, hlist, if_congr (needsSequence_iff f _) rfl rfl]
    rfl
  have hfound : list.find? (fun r => r.member == m) = some record := by
    have h := c.record?_putResponse m f source
    rw [hput, hrecord] at h
    exact h
  have hstate : (c.putResponse m f source).state ≠ .closing := by
    rw [hput]
    exact hclosing
  have hassessed : q.assessment (c.putResponse m f source) = a := by
    rw [hq.assessed, hput]
    rfl
  obtain ⟨c', hc', hre, hsequence⟩ := Part.callout?_taken hq.callout hstate hq.muted
  have hmember := Part.member?_taken hq.callout hstate hq.muted m
  have hcrew : a.outcome ≠ c.assessment.outcome → (q.reassess i).Noticed 2 := fun h => by
    refine Part.reassess_crew hq.callout hstate ?_
    rw [hassessed, hput]
    exact h
  rw [hassessed] at hre hmember
  rw [hput] at hre hmember hsequence
  rw [hq.member, Option.map_some] at hmember
  obtain ⟨hcstate, hcresponses, -⟩ := hre
  have hresponses : c'.responses = if enters then list.map fun r => if r.member ∈ a.surplus then released r else r else list := by
    rw [hcresponses]
    refine if_congr Iff.rfl (List.map_congr_left fun r _ => ?_) rfl
    by_cases hm : r.member ∈ a.surplus
    · rw [if_pos hm]
      by_cases hk : r.kind = .released
      · rw [if_neg (fun h => h.2 hk)]
        exact (if_pos hk).symm
      · rw [if_pos ⟨hm, hk⟩]
        exact (if_neg hk).symm
    · rw [if_neg hm, if_neg (fun h => hm h.1)]
  have hfinal : c'.record? m = some final := by
    unfold Callout.record?
    rw [hresponses]
    have hmr : record.member = m := rfl
    by_cases he : enters
    · have hg (r : Response) : (if r.member ∈ a.surplus then released r else r).member = r.member := by
        split
        · show (ite _ r _).member = _
          split <;> rfl
        · rfl
      rw [if_pos he, find?_member_map _ hg, hfound, Option.map_some]
      exact congrArg some (if_congr (and_iff_right he).symm rfl rfl)
    · rw [if_neg he, hfound]
      exact congrArg some (if_neg fun h => he h.1).symm
  refine hleads.imp fun t ht => ?_
  refine ⟨ht.configuration, fun l => ?_, fun h l => ?_, fun hcomes j d hj hd he hn => ?_, ⟨c', (ht.callout? i).trans hc', hcstate,
    hresponses, hsequence⟩, ?_, fun hcomes j d r hj hd he hr hk => ?_, ht.responseAnswered rfl ?_⟩
  · rw [ht.flags]
    exact (Part.raise_response_noticed _).finish l
  · rw [ht.flags]
    exact ((hcrew h).raise .response).finish l
  · intro withdrawn b
    obtain ⟨e, hee, -, hopen⟩ := hq.left hcomes j d hj hd he
    obtain ⟨hreassessed, hnoticed⟩ := hopen hn
    obtain ⟨d', hd', hcalm⟩ := Part.callout?_beside (Ne.symm hj) hee hq.muted
    refine ⟨⟨d', (ht.callout? j).trans hd', Calm.reassessed hcalm hreassessed⟩, fun hout l => ?_⟩
    rw [ht.flags]
    exact (((Part.reassess_moves (.unedited none False) i q).frame.lines.noticed (hnoticed hout)).raise .response).finish l
  · refine ⟨_, (ht.member? m).trans (hmember.trans (apply_ite some _ _ _).symm), ?_⟩
    obtain ⟨havailability, hengaged⟩ := x.answering_fields f c.number
      ((c.state = .alerting ∨ c.state = .counting) ∧ a.outcome = .crewed ∧ m ∈ a.surplus)
    refine ⟨havailability, hengaged.trans ?_⟩
    exact if_congr Iff.rfl (if_congr and_assoc.symm rfl rfl) rfl
  · obtain ⟨e, hee, hrecorded, -⟩ := hq.left hcomes j d hj hd he
    obtain ⟨d', hd', hcalm⟩ := Part.callout?_beside (Ne.symm hj) hee hq.muted
    refine ⟨d', (ht.callout? j).trans hd', ?_⟩
    have hsame : d'.responses = e.responses := (congrArg Callout.responses hcalm :)
    rw [hsame]
    exact hrecorded.trans (Callout.record?_withdrawing hr source)
  · rw [hc']
    exact hfinal

end Sys2Proof.Machine

/-! Work that ends no ALERT of one owner (R15, R136 to R140). -/

namespace Sys2Proof.Machine
open Sys2Proof

variable {p q r s t : Part} {i j : SlotId} {c d : Callout} {o w : Owner}

/-- An ALERT of this owner. -/
def AlertOf (o : Owner) (k : BatchKind) (w : Owner) : Prop := k = .alert ∧ w = o

theorem not_alertOf {k : BatchKind} (h : k ≠ .alert) : ¬ AlertOf o k w := fun k => h k.1

/-- The report takes an ALERT of this owner to its end. -/
def Report.EndsAlert (o : Owner) : Report → Prop
  | .pass _ _ _ => False
  | .ended w kind form _ => form ≠ .withdrawn ∧ AlertOf o kind w

/-- No ALERT of this owner waits, or ends by the reports that wait, or stands in the queue but at its head behind a site at work,
or withdrawing. -/
structure Part.Unalerted (o : Owner) (p : Part) : Prop where
  reports : ∀ x ∈ p.pages.reports, ¬ x.EndsAlert o
  demands : ∀ d ∈ p.pages.demands, ¬ AlertOf o d.kind d.owner
  behind  : ∀ b ∈ p.pages.queue.tail, ¬ AlertOf o b.kind b.owner
  head    : p.sites.sequencer = .idle → ∀ b ∈ p.pages.queue.head?, b.withdrawing = true ∨ ¬ AlertOf o b.kind b.owner

namespace Part.Unalerted

theorem of_same (h : p.Unalerted o) (hs : SamePages p q) : q.Unalerted o :=
  ⟨by rw [hs.1]; exact h.reports, by rw [hs.1]; exact h.demands, by rw [hs.1]; exact h.behind, by rw [hs.1, hs.2]; exact h.head⟩

theorem ite {b : Prop} [Decidable b] (hp : p.Unalerted o) (hq : q.Unalerted o) : (if b then p else q).Unalerted o := by
  split
  · exact hp
  · exact hq

theorem report (h : p.Unalerted o) {x : Report} (hx : ¬ x.EndsAlert o) : (p.report x).Unalerted o where
  reports y hy := (List.mem_append.mp hy).elim (h.reports y) fun hy => List.mem_singleton.mp hy ▸ hx
  demands := h.demands
  behind := h.behind
  head := h.head

theorem setDemands (h : p.Unalerted o) {l : List Demand} (hl : ∀ d ∈ l, ¬ AlertOf o d.kind d.owner) :
    (p.setDemands l).Unalerted o := ⟨h.reports, hl, h.behind, h.head⟩

/-- One more batch at the end. -/
theorem append (h : p.Unalerted o) {b : Batch} (hb : ¬ AlertOf o b.kind b.owner) : (p.withQueue (p.pages.queue ++ [b])).Unalerted o := by
  refine ⟨h.reports, h.demands, fun y hy => ?_, fun hidle y hy => ?_⟩
  · have hy : y ∈ (p.pages.queue ++ [b]).tail := hy
    cases hq : p.pages.queue with
    | nil =>
      rw [hq] at hy
      cases hy
    | cons z rest =>
      rw [hq] at hy
      rcases List.mem_append.mp hy with hy | hy
      · exact h.behind y (by rw [hq]; exact hy)
      · rw [List.mem_singleton.mp hy]
        exact hb
  · have hy : y ∈ (p.pages.queue ++ [b]).head? := hy
    cases hq : p.pages.queue with
    | nil =>
      rw [hq] at hy
      cases hy
      exact .inr hb
    | cons z rest =>
      rw [hq] at hy
      exact h.head hidle y (by rw [hq]; exact hy)

theorem admission (h : p.Unalerted o) {d : Demand} (hd : ¬ AlertOf o d.kind d.owner) : (p.admission d).Unalerted o := by
  have hflip : ({ p with sites := { p.sites with direction := p.sites.direction.flip } } : Part).Unalerted o :=
    ⟨h.reports, h.demands, h.behind, h.head⟩
  rw [Part.admission_eq]
  split
  · exact hflip.report fun k => hd k.2
  · split
    · exact hflip.report fun k => hd k.2
    · exact hflip.append (b := p.batchFor d) hd

theorem admitFrom {l : List Demand} (hl : ∀ d ∈ l, ¬ AlertOf o d.kind d.owner) (h : p.Unalerted o) :
    (Part.admitFrom l p).Unalerted o := by
  induction l generalizing p with
  | nil => exact h.setDemands hl
  | cons d rest ih =>
    unfold Part.admitFrom
    split
    · exact ih (fun e he => hl e (List.mem_cons_of_mem _ he)) (h.admission (hl d List.mem_cons_self))
    · exact h.setDemands hl

theorem tryAdmissions (h : p.Unalerted o) : p.tryAdmissions.Unalerted o := admitFrom h.demands h

theorem demand (h : p.Unalerted o) {d : Demand} (hd : ¬ AlertOf o d.kind d.owner) : (p.demand d).Unalerted o := by
  unfold Part.demand
  split
  · exact h.admission hd
  · split
    · exact h.setDemands fun e he => (List.mem_append.mp he).elim (h.demands e) fun he => List.mem_singleton.mp he ▸ hd
    · exact h.report fun k => hd k.2

theorem demandReleases (h : p.Unalerted o) (w : Owner) (ms : List MemberId) : (p.demandReleases w ms).Unalerted o := by
  have one {q : Part} (hq : q.Unalerted o) (l : List MemberId) :
      (if l = [] then q else q.demandMembers .release w l).Unalerted o := by
    split
    · exact hq
    · exact hq.demand (d := { kind := .release, owner := w, content := .members l, restrict := .all }) (not_alertOf nofun)
  exact one (one h _) _

theorem settle (h : p.Unalerted o) (hhead : ∀ b ∈ p.pages.queue.head?, ¬ AlertOf o b.kind b.owner) (k : SiteId) (x : PassOutcome) :
    (p.settle k x).Unalerted o := by
  cases hq : p.pages.queue with
  | nil =>
    unfold Part.settle Part.current?
    rw [hq]
    exact h
  | cons b rest =>
    have hb : ¬ AlertOf o b.kind b.owner := hhead b (by rw [hq]; rfl)
    rw [Part.settle_cons hq]
    refine ⟨fun y hy => ?_, h.demands, fun y hy => h.behind y (by rw [hq]; exact hy), fun _ y hy => ?_⟩
    · rcases List.mem_append.mp hy with hy | hy
      · exact h.reports y hy
      · rcases List.mem_cons.mp hy with rfl | hy
        · exact id
        · split at hy
          · rw [List.mem_singleton.mp hy]
            exact fun k => hb k.2
          · cases hy
    · cases hy
      exact .inr hb

theorem onCurrent (h : p.Unalerted o) (hhead : ∀ b ∈ p.pages.queue.head?, ¬ AlertOf o b.kind b.owner) {f : Batch → Batch}
    (hf : ∀ b, (f b).kind = b.kind ∧ (f b).owner = b.owner) : (p.onCurrent f).Unalerted o := by
  cases hq : p.pages.queue with
  | nil =>
    have hsame : (p.onCurrent f).pages = p.pages := by
      unfold Part.onCurrent Part.onPages
      simp only [hq]
    exact h.of_same ⟨hsame, rfl⟩
  | cons b rest =>
    rw [Part.onCurrent_withQueue hq]
    refine ⟨h.reports, h.demands, fun y hy => h.behind y (by rw [hq]; exact hy), fun _ y hy => ?_⟩
    cases hy
    refine .inr ?_
    rw [(hf b).1, (hf b).2]
    exact hhead b (by rw [hq]; rfl)

theorem clearCheck (h : p.Unalerted o) {b : Batch} {rest : List Batch} (hq : p.pages.queue = b :: rest) (k : SiteId) :
    (p.clearCheck k).Unalerted o := by
  rw [Part.clearCheck_eq hq]
  split
  · exact ⟨h.reports, h.demands, fun y hy => h.behind y (by rw [hq]; exact hy), nofun⟩
  · exact ⟨h.reports, h.demands, h.behind, nofun⟩

theorem turn (h : p.Unalerted o) (hhead : ∀ b ∈ p.pages.queue.head?, ¬ AlertOf o b.kind b.owner) : p.turn.Unalerted o := by
  cases hq : p.pages.queue with
  | nil =>
    unfold Part.turn Part.current?
    rw [hq]
    exact h
  | cons b rest =>
    unfold Part.turn Part.current?
    simp only [hq, List.head?_cons]
    split
    · exact h
    · split
      · exact h.settle hhead _ _
      · exact h.settle hhead _ _
      · exact h.onCurrent hhead fun _ => ⟨rfl, rfl⟩
      · exact h.clearCheck hq _

theorem leaveQueue (h : p.Unalerted o) : p.leaveQueue.Unalerted o := by
  refine tryAdmissions (p := p.onPages fun q => { q with queue := q.queue.tail })
    ⟨h.reports, h.demands, fun b hb => h.behind b (List.mem_of_mem_tail hb), fun _ b hb => .inr (h.behind b (List.mem_of_mem_head? hb))⟩

/-! ### A withdrawal -/

theorem without (h : p.Unalerted o) (w : Owner) (ks : BatchKind → Bool) : (p.without w ks).Unalerted o := by
  have hdemands : ∀ d ∈ p.pages.demands.filter (fun d => !(d.owner == w && ks d.kind)), ¬ AlertOf o d.kind d.owner :=
    fun d hd => h.demands d (List.mem_filter.mp hd).1
  have hbehind : ∀ b ∈ p.pages.queue.tail.filter (fun b => !(b.owner == w && ks b.kind)), ¬ AlertOf o b.kind b.owner :=
    fun b hb => h.behind b (List.mem_filter.mp hb).1
  unfold Part.without
  dsimp only
  split
  · exact ⟨h.reports, hdemands, nofun, fun _ => nofun⟩
  next b rest hq =>
    split
    · refine .ite ⟨h.reports, hdemands, hbehind, fun _ y hy => ?_⟩ ⟨h.reports, hdemands, ?_, ?_⟩
      · cases hy
        exact .inl rfl
      · exact fun y hy => hbehind y (List.mem_of_mem_tail hy)
      · exact fun _ y hy => .inr (hbehind y (List.mem_of_mem_head? hy))
    · refine ⟨h.reports, hdemands, hbehind, fun hidle y hy => ?_⟩
      cases hy
      exact h.head hidle b (by rw [hq]; rfl)

theorem withdrawFor (h : p.Unalerted o) (i : SlotId) (ks : BatchKind → Bool) : (p.withdrawFor i ks).2.Unalerted o := by
  cases hc : p.callout? i with
  | none =>
    unfold Part.withdrawFor
    rw [hc]
    exact h
  | some c =>
    rw [Part.withdrawFor_eq hc, Part.withdraw_part]
    have hwithdrawn := (h.without c.owner ks).tryAdmissions
    exact .ite (hwithdrawn.of_same (Part.degrade_pages i _)) hwithdrawn

/-! ### The rules the work runs -/

theorem enterCrewed (h : p.Unalerted o) (i : SlotId) : (p.enterCrewed i).Unalerted o := by
  have hentered : ((p.enter i .crewed).modify i Callout.stopWindow).Unalerted o :=
    h.of_same ((p.enter_pages i .crewed).trans (Part.modify_pages i _ _))
  unfold Part.enterCrewed
  dsimp only
  split
  · exact hentered
  · exact .ite hentered (((hentered.of_same (Part.releaseMembers_pages i _ _)).demandReleases _ _).of_same (Part.recompute_pages i _))

theorem takeOutcome (h : p.Unalerted o) (i : SlotId) : (p.takeOutcome i).Unalerted o := by
  cases hc : p.callout? i with
  | none =>
    unfold Part.takeOutcome
    rw [hc]
    exact h
  | some c =>
    by_cases he : c.Enters
    · rw [Part.takeOutcome_of_enters hc he]
      exact h.enterCrewed i
    · exact h.of_same (Part.takeOutcome_samePages hc he)

theorem becomeFree (h : p.Unalerted o) (i : SlotId) (endCode : Nat) : (p.becomeFree i endCode).Unalerted o := by
  have hwithdrawn := h.withdrawFor i everyKind
  unfold Part.becomeFree
  dsimp only
  generalize (p.withdrawFor i everyKind).2 = q at hwithdrawn ⊢
  split
  · exact hwithdrawn
  · exact hwithdrawn.of_same ⟨rfl, rfl⟩

theorem batchEnded (h : p.Unalerted o) (i : SlotId) (kind : BatchKind) : (p.batchEnded i kind).Unalerted o := by
  unfold Part.batchEnded
  split
  · exact h
  · cases kind with
    | alert =>
      have hended : (p.modify i fun c => { c with alertStatus := .ended }).Unalerted o := h.of_same (Part.modify_pages i _ p)
      unfold Part.alertEnded
      dsimp only
      split
      · exact hended
      · exact .ite ((hended.of_same (Paging.enterCounting i _).same).takeOutcome i) hended
    | standDown => exact .ite (h.becomeFree i 3) h
    | supplement | repage | escalate | release => exact h

theorem takeReport (h : p.Unalerted o) (x : Report) : (p.takeReport x).Unalerted o := by
  cases x with
  | pass w outcome groups =>
    cases hi : p.findOwner w with
    | none =>
      rw [(Part.takeReport_unowned hi outcome groups .alert .complete true).1]
      exact h
    | some i =>
      rw [Part.takeReport_pass hi]
      exact .ite (h.of_same (Part.modify_pages i _ p)) h
  | ended w kind form failed =>
    cases hi : p.findOwner w with
    | none =>
      rw [(Part.takeReport_unowned hi .done 0#16 kind form failed).2]
      exact h
    | some i =>
      have hdegraded : (if failed = true then p.degrade i else p).Unalerted o := .ite (h.of_same (Part.degrade_pages i p)) h
      rw [Part.takeReport_ended hi]
      exact .ite hdegraded (hdegraded.batchEnded i kind)

theorem workStep (h : p.Unalerted o) (hs : p.workStep = some q) : q.Unalerted o := by
  cases hr : p.pages.reports with
  | cons x rest =>
    rw [Part.workStep_reports hr] at hs
    cases hs
    exact takeReport (p := { p with pages := { p.pages with reports := rest } })
      ⟨fun y hy => h.reports y (by rw [hr]; exact List.mem_cons_of_mem _ hy), h.demands, h.behind, h.head⟩ x
  | nil =>
    unfold Part.workStep at hs
    rw [hr] at hs
    dsimp only at hs
    split at hs
    next hidle =>
      split at hs
      · cases hs
      · split at hs
        · cases hs
          exact h.leaveQueue
        · split at hs
          · cases hs
          next b rest hq _ hw =>
            cases hs
            refine h.turn fun y hy => (h.head hidle y hy).resolve_left ?_
            rw [hq] at hy
            cases hy
            exact hw
    · cases hs

end Part.Unalerted

/-! ### The callout through such work -/

/-- The callout keeps its owner, its state and its alert batch status. -/
structure Callout.Unended (c d : Callout) : Prop where
  owner  : d.owner = c.owner
  state  : d.state = c.state
  status : d.alertStatus = c.alertStatus

theorem Callout.Unended.refl (c : Callout) : c.Unended c := ⟨rfl, rfl, rfl⟩

theorem Callout.Unended.trans {e : Callout} (h : c.Unended d) (k : d.Unended e) : c.Unended e :=
  ⟨k.owner.trans h.owner, k.state.trans h.state, k.status.trans h.status⟩

/-- The callout once its ALERT has ended, with this assessment if it entered CREWED (R15). -/
def Callout.alertEnded (a : Assessment) (c : Callout) : Callout :=
  if c.state = .alerting then
    ({ c with alertStatus := .ended, state := .counting, responseWindow := .start c.window } : Callout).outcomeTaken a
  else { c with alertStatus := .ended }

/-- A callout that is not CLOSING keeps all but its PAGED marks and TX_DEGRADED when a report is taken, unless its ALERT ends. -/
theorem Part.takeReport_calm (hc : p.callout? i = some c) (hn : c.state ≠ .closing) (x : Report) :
    ∃ d, (p.takeReport x).callout? i = some d
      ∧ (d.calm = c.calm ∨ x.EndsAlert c.owner ∧ ∃ (a : Assessment) (e : Callout), e.calm = c.calm ∧ d = e.alertEnded a) := by
  cases x with
  | pass w outcome groups =>
    obtain ⟨d, hd, hcalm⟩ := (Calm.takeReport (x := .pass w outcome groups) trivial p).callout? hc
    exact ⟨d, hd, .inl hcalm⟩
  | ended w kind form failed =>
    cases hi : p.findOwner w with
    | none =>
      rw [(Part.takeReport_unowned hi .done 0#16 kind form failed).2]
      exact ⟨c, hc, .inl rfl⟩
    | some j =>
      obtain ⟨e, he, hce⟩ := (Calm.degradeIf failed j p).callout? hc
      rw [Part.takeReport_ended hi]
      split
      · exact ⟨e, he, .inl hce⟩
      next hform =>
        by_cases hj : j = i
        · subst hj
          have hw : w = c.owner := by
            obtain ⟨b, hb, howner⟩ := Part.findLive_eq_some hi
            obtain rfl := Option.some.inj (hc.symm.trans hb)
            obtain ⟨hn, ht⟩ := Bool.and_eq_true_iff.mp howner
            rw [Callout.owner, show c.number = w.number from eq_of_beq hn, show c.token = w.token from eq_of_beq ht]
          cases kind with
          | alert =>
            obtain ⟨a, ha⟩ := Part.callout?_alertEnded he
            unfold Part.batchEnded
            rw [he]
            exact ⟨_, ha, .inr ⟨⟨hform, rfl, hw⟩, a, e, hce, rfl⟩⟩
          | standDown =>
            have hstate : e.state = c.state := (congrArg Callout.state hce : e.calm.state = c.calm.state)
            rw [Part.batchEnded_standDown he (by rw [hstate]; exact hn)]
            exact ⟨e, he, .inl hce⟩
          | supplement | repage | escalate | release =>
            rw [Part.batchEnded_light j (by exact ⟨nofun, nofun⟩)]
            exact ⟨e, he, .inl hce⟩
        · exact ⟨e, (Part.callout?_batchEnded_ne hj kind _).trans he, .inl hce⟩

theorem Callout.Unended.of_calm (h : d.calm = c.calm) : c.Unended d :=
  ⟨(congrArg Callout.owner h : d.calm.owner = c.calm.owner), (congrArg Callout.state h : d.calm.state = c.calm.state),
    (congrArg Callout.alertStatus h : d.calm.alertStatus = c.calm.alertStatus)⟩

theorem Part.takeReport_unended (hc : p.callout? i = some c) (hn : c.state ≠ .closing) {x : Report} (hx : ¬ x.EndsAlert c.owner) :
    ∃ d, (p.takeReport x).callout? i = some d ∧ c.Unended d := by
  obtain ⟨d, hd, hcalm | ⟨hends, -⟩⟩ := Part.takeReport_calm hc hn x
  · exact ⟨d, hd, .of_calm hcalm⟩
  · exact absurd hends hx

/-- A step of work takes a report, or moves only page queue and sites. -/
theorem Part.workStep_takes (hs : p.workStep = some q) :
    (∃ x rest, p.pages.reports = x :: rest ∧ q = Part.takeReport x { p with pages := { p.pages with reports := rest } })
    ∨ OnlyPages p q := by
  cases hr : p.pages.reports with
  | cons x rest =>
    rw [Part.workStep_reports hr] at hs
    exact .inl ⟨x, rest, rfl, (Option.some.inj hs).symm⟩
  | nil =>
    refine .inr ?_
    unfold Part.workStep at hs
    rw [hr] at hs
    dsimp only at hs
    split at hs
    · split at hs
      · cases hs
      · split at hs
        · cases hs
          exact p.leaveQueue_onlyPages
        · split at hs
          · cases hs
          · cases hs
            exact p.turn_onlyPages
    · cases hs

theorem Part.workStep_unended (hc : p.callout? i = some c) (hn : c.state ≠ .closing) (h : p.Unalerted c.owner)
    (hs : p.workStep = some q) : ∃ d, q.callout? i = some d ∧ c.Unended d := by
  rcases Part.workStep_takes hs with ⟨x, rest, hr, rfl⟩ | hpages
  · exact Part.takeReport_unended (p := { p with pages := { p.pages with reports := rest } }) hc hn
      (h.reports x (by rw [hr]; exact List.mem_cons_self))
  · exact ⟨c, (hpages.callout? i).trans hc, .refl c⟩

/-- The work leaves a callout whose ALERT it cannot end in its state, with its alert batch status. -/
theorem Part.Unalerted.callout?_finish (h : p.Unalerted c.owner) (hc : p.callout? i = some c) (hn : c.state ≠ .closing) :
    ∃ d, p.finish.callout? i = some d ∧ c.Unended d := by
  have hwork := Part.work_keeps (p := p) (I := fun q => q.Unalerted c.owner ∧ ∃ d, q.callout? i = some d ∧ c.Unended d)
    (fun _ _ hs ⟨hq, d, hd, hcd⟩ => by
      obtain ⟨e, he, hde⟩ := Part.workStep_unended hd (by rw [hcd.state]; exact hn) (by rw [hcd.owner]; exact hq) hs
      exact ⟨hq.workStep hs, e, he, hcd.trans hde⟩)
    ⟨h, c, hc, .refl c⟩
  exact hwork.2

/-! ### A withdrawal of the call-out kinds takes an owner's ALERT -/

theorem Part.Quiet.unalerted_without (h : s.Quiet) (o : Owner) {ks : BatchKind → Bool} (hk : ks .alert = true) :
    (s.without o ks).Unalerted o := by
  have hspared {k : BatchKind} {w : Owner} (hs : (!(w == o && ks k)) = true) : ¬ AlertOf o k w := by
    rintro ⟨rfl, rfl⟩
    simp [hk] at hs
  have hdemands : ∀ d ∈ s.pages.demands.filter (fun d => !(d.owner == o && ks d.kind)), ¬ AlertOf o d.kind d.owner :=
    fun d hd => hspared (List.mem_filter.mp hd).2
  have hbehind : ∀ b ∈ s.pages.queue.tail.filter (fun b => !(b.owner == o && ks b.kind)), ¬ AlertOf o b.kind b.owner :=
    fun b hb => hspared (List.mem_filter.mp hb).2
  have hreports : ∀ x ∈ s.pages.reports, ¬ x.EndsAlert o := fun x hx => by
    rw [h.reports] at hx
    cases hx
  unfold Part.without
  dsimp only
  split
  · exact ⟨hreports, hdemands, nofun, fun _ => nofun⟩
  next b rest hq =>
    split
    · refine .ite ⟨hreports, hdemands, hbehind, fun _ y hy => ?_⟩ ⟨hreports, hdemands, ?_, ?_⟩
      · cases hy
        exact .inl rfl
      · exact fun y hy => hbehind y (List.mem_of_mem_tail hy)
      · exact fun _ y hy => .inr (hbehind y (List.mem_of_mem_head? hy))
    · refine ⟨hreports, hdemands, hbehind, fun hidle y hy => .inl ?_⟩
      cases hy
      exact ((s.quiet_iff.mp h).2 hidle b rest hq).2

end Sys2Proof.Machine

/-! What a withdrawal hands back (R138 to R140), and HOLD (R21). -/

namespace Sys2Proof.Machine
open Sys2Proof

variable {p q r s t : Part} {i j : SlotId} {c d : Callout} {o : Owner} {ks : BatchKind → Bool}

/-! ### What is handed back -/

/-- The current batch, handed back unless it has ended or is withdrawing already. -/
def Part.currentBack (o : Owner) (ks : BatchKind → Bool) (p : Part) : List Returned :=
  match p.pages.queue with
  | [] => []
  | b :: _ =>
    if named o ks b.owner b.kind && !b.withdrawing && !b.over then
      [match p.sites.sequencer.keyed? with
      | some k => b.handBackStarted (some k)
      | none => if b.started then b.handBackStarted none else b.handBackWhole]
    else []

theorem Part.withdraw_back (o : Owner) (ks : BatchKind → Bool) (p : Part) : (p.withdraw o ks).1
    = p.currentBack o ks ++ (p.pages.queue.tail.filter fun b => named o ks b.owner b.kind).map Batch.handBackWhole
      ++ (p.pages.demands.filter fun d => named o ks d.owner d.kind).map Demand.handBack := by
  unfold Part.withdraw Part.withdrawDemands Part.withdrawBehind Part.withdrawCurrent Part.currentBack Part.onPages
  cases hq : p.pages.queue with
  | nil => simp only [hq, List.tail_nil, List.filter_nil, List.map_nil, List.append_nil]
  | cons b rest =>
    simp only [hq, List.tail_cons]
    by_cases hn : (named o ks b.owner b.kind && !b.withdrawing && !b.over) = true
    · simp only [hn, if_true]
      cases p.sites.sequencer.keyed? <;> rfl
    · simp only [hn, Bool.false_eq_true, if_false]

/-- The entries are those that the definition of R21's list names. -/
theorem Part.handedBack_eq (o : Owner) (p : Part) :
    (p.withdraw o BatchKind.callOut).1.map Returned.entry = p.handedBack o := by
  have howed (b : Batch) (onAir : Option SiteId) : b.owed onAir = ([0, 1, 2, 3, 4, 5] : List SiteId).filter fun k =>
      onAir != some k && b.sites.any fun e => e.site == k
        && !(e.condition == .settled .done || e.condition == .settled .forced) := by
    unfold Batch.owed
    refine List.filter_congr fun k _ => congrArg (onAir != some k && ·) (congrArg b.sites.any (funext fun e => congrArg (e.site == k && ·) ?_))
    cases e.condition with
    | settled x => cases x <;> rfl
    | _ => rfl
  have hover (b : Batch) : (!b.over) = (b.remaining != []) := rfl
  rw [Part.withdraw_back, List.map_append, List.map_append, List.map_map, List.map_map]
  unfold Part.handedBack Part.currentBack
  dsimp only
  refine congr (congrArg HAppend.hAppend (congr (congrArg HAppend.hAppend ?_) rfl)) rfl
  cases hq : p.pages.queue with
  | nil => rfl
  | cons b rest =>
    have hleft (onAir : Option SiteId) : (b.handBackStarted onAir).entry = _ :=
      congrArg (fun l => ({ kind := b.kind, content := .formed b.pages, owed := .only l } : HeldEntry)) (howed b onAir)
    dsimp only
    unfold named
    rw [hover]
    split
    · cases p.sites.sequencer with
      | idle | clearWait _ _ =>
        cases hstarted : b.started
        · simp only [Sequencer.keyed?]
          rfl
        · simp only [Sequencer.keyed?, Bool.true_or, if_true]
          exact congrArg (fun e => [e]) (hleft none)
      | leadIn k _ _ | burst k _ _ =>
        simp only [Sequencer.keyed?, Option.isSome_some, Bool.or_true, if_true]
        exact congrArg (fun e => [e]) (hleft (some k))
    · rfl

/-- A batch of the kinds that had failed at a site is handed back between passes as failed. -/
theorem Part.withdraw_failed {b : Batch} {rest : List Batch} (hq : p.pages.queue = b :: rest) (ho : b.owner = o)
    (hk : ks b.kind = true) (hw : b.withdrawing = false) (hrem : b.remaining ≠ []) (hf : b.failed = true)
    (hs : p.sites.sequencer.keyed? = none) : (p.withdraw o ks).1.any Returned.failed = true := by
  have hnamed : (named o ks b.owner b.kind && !b.withdrawing && !b.over) = true := by
    unfold named Batch.over
    simp [ho, hk, hw, hrem]
  rw [Part.withdraw_back, List.any_append, List.any_append]
  unfold Part.currentBack
  simp only [hq, hnamed, if_true, hs]
  cases b.started <;> simp [Batch.handBackStarted, Batch.handBackWhole, hf]

/-! ### HOLD (R21) -/

/-- The held-back list made at a HOLD. -/
def Part.madeAtHold (o : Owner) (p : Part) : List HeldEntry :=
  (p.handedBack o).filter fun e => e.owed != .only []

/-- What a HOLD makes of the alert batch status. -/
def Part.statusAtHold (p : Part) (c : Callout) : BatchStatus :=
  if c.alertStatus = .outstanding ∧ (∃ e ∈ p.handedBack c.owner, e.kind = .alert)
      ∧ ∀ e ∈ (p.madeAtHold c.owner).take 8, e.kind ≠ .alert then .ended
  else c.alertStatus

/-- The callout as HOLD leaves it, with TX_DEGRADED set if `b`. -/
def Callout.held (p : Part) (b : Bool) (c : Callout) : Callout :=
  { c.holding.degradedIf b with
    heldBack := (p.madeAtHold c.owner).take 8
    alertStatus := p.statusAtHold c }

theorem Part.entered_held (hc : p.callout? i = some c) :
    ((p.modify i Callout.holding).raise .callout).callout? i = some c.holding
    ∧ SamePages p ((p.modify i Callout.holding).raise .callout) := by
  refine ⟨?_, Part.modify_pages i _ p⟩
  show (p.modify i Callout.holding).callout? i = _
  rw [Part.callout?_modify_self, hc]
  rfl

theorem SamePages.back (h : SamePages p q) (o : Owner) (ks : BatchKind → Bool) : (q.withdraw o ks).1 = (p.withdraw o ks).1 := by
  rw [Part.withdraw_back, Part.withdraw_back]
  unfold Part.currentBack
  rw [h.1, h.2]

/-- Keeping what is handed back, with the alert batch status it leaves. -/
def Callout.keeping (made : List HeldEntry) (gone : Bool) (c : Callout) : Callout :=
  { c with heldBack := made.take 8, alertStatus := if gone then .ended else c.alertStatus }

theorem Part.statusAtHold_eq (p : Part) (c : Callout) : p.statusAtHold c
    = if (decide (c.alertStatus = .outstanding) && ((p.withdraw c.owner BatchKind.callOut).1.any fun b => b.entry.kind == .alert)
      && !((p.madeAtHold c.owner).take 8).any fun e => e.kind == .alert) then .ended else c.alertStatus := by
  unfold Part.statusAtHold
  refine if_congr ?_ rfl rfl
  rw [Bool.and_eq_true, Bool.and_eq_true, decide_eq_true_eq, and_assoc, ← Part.handedBack_eq, List.any_eq_true, Bool.not_eq_true',
    List.any_eq_false]
  refine and_congr_right fun _ => and_congr ?_ ?_
  · simp
  · simp

/-- The part of a HOLD up to its list. -/
def Part.holdBack (i : SlotId) (p : Part) : Part :=
  (((p.modify i Callout.holding).raise .callout).withdrawFor i BatchKind.callOut).2

theorem Part.hold_split (hc : p.callout? i = some c) : p.hold i c =
    if 8 < (p.madeAtHold c.owner).length
    then ((p.holdBack i).modify i (Callout.keeping (p.madeAtHold c.owner) (decide (c.alertStatus = .outstanding)
      && ((p.withdraw c.owner BatchKind.callOut).1.any fun b => b.entry.kind == .alert)
      && !((p.madeAtHold c.owner).take 8).any fun e => e.kind == .alert))).degrade i
    else (p.holdBack i).modify i (Callout.keeping (p.madeAtHold c.owner) (decide (c.alertStatus = .outstanding)
      && ((p.withdraw c.owner BatchKind.callOut).1.any fun b => b.entry.kind == .alert)
      && !((p.madeAtHold c.owner).take 8).any fun e => e.kind == .alert)) := by
  obtain ⟨hheld, hsame⟩ := Part.entered_held hc
  have hback : (((p.modify i Callout.holding).raise .callout).withdrawFor i BatchKind.callOut).1
      = (p.withdraw c.owner BatchKind.callOut).1 := by
    rw [Part.withdrawFor_eq hheld]
    exact hsame.back c.owner BatchKind.callOut
  have hmade : ((p.withdraw c.owner BatchKind.callOut).1.map Returned.entry).filter (fun e => !e.owesNothing)
      = p.madeAtHold c.owner := by
    rw [Part.handedBack_eq]
    rfl
  rw [Part.hold_eq]
  unfold Part.holdBack
  generalize ((p.modify i Callout.holding).raise .callout).withdrawFor i BatchKind.callOut = w at hback
  dsimp only
  rw [hback, hmade]
  rfl

theorem Part.degrade_noticed (i : SlotId) (p : Part) : (p.degrade i).Noticed 5 := Part.raise_noticed .tx _

theorem Part.holdBack_spec (hc : p.callout? i = some c) :
    (p.holdBack i).callout? i = some (c.holding.degradedIf ((p.withdraw c.owner BatchKind.callOut).1.any Returned.failed))
    ∧ ((p.withdraw c.owner BatchKind.callOut).1.any Returned.failed = true → (p.holdBack i).Noticed 5)
    ∧ (p.holdBack i).Holds (SparedDemand c.owner BatchKind.callOut) (SparedBatch c.owner BatchKind.callOut)
    ∧ (p.Quiet → (p.holdBack i).Unalerted c.owner) := by
  obtain ⟨hheld, hsame⟩ := Part.entered_held hc
  have hback := hsame.back c.owner BatchKind.callOut
  have hcallout := Part.callout?_withdrawFor hheld BatchKind.callOut
  have hspared := Part.withdrawFor_spared hheld BatchKind.callOut
  have heq := Part.withdrawFor_eq hheld BatchKind.callOut
  have hwithdrawn := Part.withdraw_part c.owner BatchKind.callOut ((p.modify i Callout.holding).raise .callout)
  have hquiet (h : p.Quiet) := (Part.Quiet.unalerted_without (hsame.workStep.mpr h) c.owner
    (ks := BatchKind.callOut) rfl).tryAdmissions
  unfold Part.holdBack
  generalize (p.modify i Callout.holding).raise .callout = w at *
  have howner : c.holding.owner = c.owner := rfl
  rw [howner, hback] at hcallout heq
  rw [← hwithdrawn] at hquiet
  refine ⟨hcallout, fun hf => ?_, hspared, fun h => ?_⟩
  · rw [heq, if_pos hf]
    exact Part.degrade_noticed i _
  · rw [heq]
    exact .ite ((hquiet h).of_same (Part.degrade_pages i _)) (hquiet h)

/-- HOLD, the work that follows apart. -/
theorem Part.hold_spec (hc : p.callout? i = some c) : ∃ b, (p.hold i c).callout? i = some (c.held p b)
    ∧ (8 < (p.madeAtHold c.owner).length ∨ (p.withdraw c.owner BatchKind.callOut).1.any Returned.failed = true →
      b = true ∧ (p.hold i c).Noticed 5)
    ∧ SamePages (p.holdBack i) (p.hold i c) := by
  obtain ⟨hback, hnoticed, -, -⟩ := Part.holdBack_spec hc
  have hkept (gone : Bool) : ((p.holdBack i).modify i (Callout.keeping (p.madeAtHold c.owner) gone)).callout? i
      = some (Callout.keeping (p.madeAtHold c.owner) gone
        (c.holding.degradedIf ((p.withdraw c.owner BatchKind.callOut).1.any Returned.failed))) := by
    rw [Part.callout?_modify_self, hback]
    rfl
  have hpages (gone : Bool) := Part.modify_pages i (Callout.keeping (p.madeAtHold c.owner) gone) (p.holdBack i)
  have hheld (b : Bool) : c.held p b = Callout.keeping (p.madeAtHold c.owner) (decide (c.alertStatus = .outstanding)
      && ((p.withdraw c.owner BatchKind.callOut).1.any fun b => b.entry.kind == .alert)
      && !((p.madeAtHold c.owner).take 8).any fun e => e.kind == .alert) (c.holding.degradedIf b) := by
    unfold Callout.held Callout.keeping
    rw [p.statusAtHold_eq c]
    rfl
  rw [Part.hold_split hc]
  split
  next hmany =>
    refine ⟨true, ?_, fun _ => ⟨rfl, Part.degrade_noticed i _⟩, (hpages _).trans (Part.degrade_pages i _)⟩
    rw [Part.callout?_degrade, if_pos rfl, hkept, hheld]
    simp [Callout.keeping, Callout.degradedIf, Callout.withFlags]
  next hfew =>
    refine ⟨_, (hkept _).trans (congrArg some (hheld _).symm), fun h => ?_, hpages _⟩
    have hfailed := h.resolve_left hfew
    refine ⟨hfailed, ?_⟩
    rw [Part.modify_eq]
    exact hnoticed hfailed

end Sys2Proof.Machine

/-! HOLD and RESUME, the orders (R21, R23). -/

namespace Sys2Proof.Machine
open Sys2Proof

variable {p q r s t : Part} {i j : SlotId} {c d : Callout} {o : Owner}

theorem Stands.handedBack (h : Stands s p) (o : Owner) : p.handedBack o = s.handedBack o := by
  rw [← Part.handedBack_eq, ← Part.handedBack_eq, h.samePages.back]

/-- HOLD and the work that follows. -/
theorem Part.hold_finish (hc : p.callout? i = some c) : ∃ b d, (p.hold i c).finish.callout? i = some d
    ∧ d.core = (c.held p b).core ∧ (c.held p b).Still d
    ∧ (8 < (p.madeAtHold c.owner).length ∨ (p.withdraw c.owner BatchKind.callOut).1.any Returned.failed = true →
      d.flags.txDegraded = true ∧ (p.hold i c).finish.Noticed 5)
    ∧ (p.Quiet → d.alertStatus = p.statusAtHold c)
    ∧ (p.hold i c).finish.Holds (SparedDemand c.owner BatchKind.callOut) (SparedBatch c.owner BatchKind.callOut) := by
  obtain ⟨b, hheld, hdegraded, hsame⟩ := Part.hold_spec hc
  obtain ⟨-, -, hspared, hunalerted⟩ := Part.holdBack_spec hc
  have hstate : (c.held p b).state = .held := rfl
  obtain ⟨d, hd, hstep⟩ := Part.finish_callout?_of hheld (by rw [hstate]; nofun)
  refine ⟨b, d, hd, hstep.1, hstep.still (by rw [hstate]; nofun), fun h => ?_, fun hquiet => ?_, ?_⟩
  · obtain ⟨rfl, hnoticed⟩ := hdegraded h
    refine ⟨?_, hnoticed.finish⟩
    obtain ⟨e, he, hgrows⟩ := (Part.finish_moves (.unedited none False) (p.hold i c)).grows id i d hd
    obtain rfl := Option.some.inj (hheld.symm.trans he)
    have hset : (c.held p true).flags.txDegraded = true := by simp [Callout.held, Callout.degradedIf]
    exact hgrows.flags.txDegraded hset
  · obtain ⟨e, he, hunended⟩ := ((hunalerted hquiet).of_same hsame).callout?_finish (c := c.held p b) hheld (by rw [hstate]; nofun)
    obtain rfl := Option.some.inj (hd.symm.trans he)
    exact hunended.status
  · exact (hspared.of_pages hsame.1).finish fun q _ => Part.spared_fits rfl c.owner q

theorem hold_taken {s : State} {l : Line} (hs : s.condition = .running) (hlookup : s.lookup c.number.toNat = some (i, c))
    (hst : c.state = .inOpen ∨ c.state = .alerting ∨ c.state = .counting ∨ c.state = .crewed) :
    Leads (.hold l [num c.number.toNat]) s fun t => ∃ b d raised, t.callout? i = some d
      ∧ d.core = (c.held s.toPart b).core ∧ (c.held s.toPart b).Still d
      ∧ (8 < (s.madeAtHold c.owner).length ∨ (s.withdraw c.owner BatchKind.callOut).1.any Returned.failed = true →
        d.flags.txDegraded = true ∧ t.Noticed 5)
      ∧ (s.Quiet → d.alertStatus = s.statusAtHold c)
      ∧ t.Holds (SparedDemand c.owner BatchKind.callOut) (SparedBatch c.owner BatchKind.callOut)
      ∧ SameConfiguration s.toPart t
      ∧ Answered l none [num c.number.toNat, num 5] raised s.toPart t := by
  have hworking := Stands.working s.toPart l 4#8 [num c.number.toNat]
  have hw := (s.toPart.working_lookup l 4#8 [num c.number.toNat] _).trans hlookup
  obtain ⟨hc, -, hn⟩ := Part.lookup_spec hw
  have hv : orderRule (.hold l [num c.number.toNat]) (s.toPart.working l 4#8 [num c.number.toNat])
      = ((s.toPart.working l 4#8 [num c.number.toNat]).hold i c).takenFor c.number := by
    refine holdOrder_of_named.trans ?_
    rw [toInt_ofNat_of_lt (by omega), hw]
    rcases hst with h | h | h | h <;> simp only [h]
  have hm : Moves (.unedited none False) _ _ := Part.hold_moves _ hc hst
  obtain ⟨b, d, hd, hcore, hstill, hdegraded, hstatus, hspared⟩ := Part.hold_finish hc
  have hfound := (hm.trans (Part.finish_moves _ _)).findCallout id hn (by simp [hd])
  have hback := hworking.handedBack c.owner
  have hmade : (s.toPart.working l 4#8 [num c.number.toNat]).madeAtHold c.owner = s.madeAtHold c.owner :=
    congrArg (List.filter _) hback
  have hstatusAt : (s.toPart.working l 4#8 [num c.number.toNat]).statusAtHold c = s.statusAtHold c := by
    unfold Part.statusAtHold
    rw [hback, hmade]
  have hheld : c.held (s.toPart.working l 4#8 [num c.number.toNat]) b = c.held s.toPart b := by
    unfold Callout.held
    rw [hmade, hstatusAt]
  rw [hheld] at hcore hstill
  rw [hmade, hworking.samePages.back] at hdegraded
  rw [hstatusAt] at hstatus
  refine (leads_of_takenFor hs rfl hv hm id).imp fun t ht => ?_
  have hflags := ht.flags
  have hpages : t.pages = ((s.toPart.working l 4#8 [num c.number.toNat]).hold i c).finish.pages := by rw [ht.after]
  rw [Part.calloutResults_of hfound hd, hstill.1] at ht
  obtain ⟨raised, hanswered⟩ := ht.answered
  refine ⟨b, d, raised, (ht.callout? i).trans hd, hcore, hstill, fun h => ?_, fun h => hstatus (hworking.quiet h), ?_,
    ht.configuration, hanswered⟩
  · obtain ⟨hflag, hnoticed⟩ := hdegraded h
    exact ⟨hflag, fun k => (congrArg (BitVec.getLsbD · 5) (hflags k)).trans (hnoticed k)⟩
  · exact ⟨fun x hx => hspared.demands x (hpages ▸ hx), fun x hx => hspared.queue x (hpages ▸ hx)⟩

end Sys2Proof.Machine

/-! RESUME: the demands made again and the state reconciled (R23). -/

namespace Sys2Proof.Machine
open Sys2Proof

variable {p q r s t : Part} {i j : SlotId} {c d e : Callout} {o : Owner} {prior : CalloutState}

/-! ### The state reconciled -/

/-- The callout enters CREWED when its state is reconciled from this prior state. -/
abbrev Callout.EntersAfter (prior : CalloutState) (c : Callout) : Prop :=
  prior ≠ .inOpen ∧ c.assessment.outcome = .crewed

/-- Its response window starts again when its state is reconciled from this prior state. -/
abbrev Callout.CountsAfter (prior : CalloutState) (c : Callout) : Prop :=
  (prior = .alerting ∧ c.alertStatus = .ended) ∨ prior = .crewed

/-- The callout with its state reconciled, with this assessment if it entered CREWED. -/
def Callout.reconciled (prior : CalloutState) (a : Assessment) (c : Callout) : Callout :=
  if c.EntersAfter prior then c.inCrewed a
  else if c.CountsAfter prior then { c with state := .counting, responseWindow := .start c.window }
  else c

/-- The rows of R23's table: an entry into CREWED, with the pages of the callout as they were, or into COUNTING, or neither. -/
theorem Part.reconcile_cases (hc : p.callout? i = some c) (hs : c.state = prior)
    (hp : prior = .inOpen ∨ prior = .alerting ∨ prior = .counting ∨ prior = .crewed) :
    (c.EntersAfter prior → ∃ q d b, Paging p q ∧ q.roster = p.roster ∧ q.callout? i = some d
      ∧ d = { c with state := d.state, responseWindow := b } ∧ p.reconcile i prior = q.enterCrewed i)
    ∧ (¬ c.EntersAfter prior → p.reconcile i prior = if c.CountsAfter prior then p.enterCounting i else p) := by
  have hcounting : (p.enterCounting i).callout? i = some { c with state := .counting, responseWindow := .start c.window } := by
    rw [Part.callout?_enterCounting, if_pos rfl, hc]
    rfl
  have hroster : (p.enterCounting i).roster = p.roster := by
    rw [Part.enterCounting, Part.roster_modify, Part.enter, Part.raise_roster, Part.roster_modify]
  have hstays {q : Part} {d : Callout} (hd : q.callout? i = some d) (ho : d.assessment.outcome ≠ .crewed)
      (hn : d.state ≠ .crewed) : q.takeOutcome i = q := Part.takeOutcome_of_stays hd (fun h => ho h.2) fun h => hn h.1
  unfold Part.reconcile
  simp only [hc]
  rcases hp with rfl | rfl | rfl | rfl
  · exact ⟨fun h => absurd rfl h.1, fun _ => (if_neg (by nofun)).symm⟩
  · have hiff : c.CountsAfter .alerting ↔ c.alertStatus = .ended := by simp [Callout.CountsAfter]
    refine ⟨fun ⟨_, h⟩ => ?_, fun hno => ?_⟩
    · by_cases hended : c.alertStatus = .ended
      · refine ⟨p.enterCounting i, _, _, .enterCounting i p, hroster, hcounting, rfl, ?_⟩
        rw [if_pos hended, Part.takeOutcome_of_enters hcounting ⟨.inr rfl, h⟩]
      · refine ⟨p, c, c.responseWindow, .refl p, rfl, hc, rfl, ?_⟩
        rw [if_neg hended, Part.takeOutcome_of_enters hc ⟨.inl hs, h⟩]
    · have houtcome : c.assessment.outcome ≠ .crewed := fun h => hno ⟨nofun, h⟩
      rw [hstays hcounting houtcome (by nofun), hstays hc houtcome (by rw [hs]; nofun)]
      exact if_congr hiff.symm rfl rfl
  · refine ⟨fun ⟨_, h⟩ => ⟨p, c, c.responseWindow, .refl p, rfl, hc, rfl, Part.takeOutcome_of_enters hc ⟨.inr hs, h⟩⟩, fun hno => ?_⟩
    exact (hstays hc (fun h => hno ⟨nofun, h⟩) (by rw [hs]; nofun)).trans (if_neg (by nofun)).symm
  · refine ⟨fun ⟨_, h⟩ => ⟨p, c, c.responseWindow, .refl p, rfl, hc, rfl, if_pos h⟩, fun hno => ?_⟩
    exact (if_neg fun h => hno ⟨nofun, h⟩).trans (if_pos (.inr rfl : c.CountsAfter .crewed)).symm

/-- What an entry into CREWED hands to the page queue (R19). -/
theorem Part.enterCrewed_trails (hpg : Paging s p) (hc : p.callout? i = some c) :
    Trails (s.demandAll (releasesFor c.owner c.assessment.surplus)) (p.enterCrewed i) := by
  have hentered : Paging s ((p.enter i .crewed).modify i Callout.stopWindow) :=
    (hpg.trans (.enter i .crewed p)).trans (.modify (f := Callout.stopWindow) i _ fun _ _ => rfl)
  have hcallout : ((p.enter i .crewed).modify i Callout.stopWindow).callout? i
      = some { c with state := .crewed, responseWindow := .stopped } := by
    rw [Part.callout?_modify_self, Part.callout?_enter, if_pos rfl, hc]
    rfl
  unfold Part.enterCrewed
  simp only [hcallout]
  split
  next hnone =>
    rw [hnone]
    exact .of_paging hentered
  next =>
    rw [Part.demandReleases_eq]
    exact (Trails.of_paging ((hentered.trans (.releaseMembers i _ _)).demandAll _)).trans (.recompute i _)

/-- The state reconciled: what it leaves of callout, page queue and members. -/
theorem Part.reconcile_spec (hc : p.callout? i = some c) (hs : c.state = prior)
    (hp : prior = .inOpen ∨ prior = .alerting ∨ prior = .counting ∨ prior = .crewed) :
    (∃ a, (p.reconcile i prior).callout? i = some (c.reconciled prior a))
    ∧ (∀ {s}, Paging s p → Trails (s.demandAll (if c.EntersAfter prior then releasesFor c.owner c.assessment.surplus else []))
        (p.reconcile i prior))
    ∧ (p.Unalerted o → (p.reconcile i prior).Unalerted o)
    ∧ (c.EntersAfter prior → ∀ m ∈ c.assessment.surplus,
        (p.reconcile i prior).member? m = (p.member? m).map (Member.leave c.number)) := by
  obtain ⟨henters, hstays⟩ := Part.reconcile_cases hc hs hp
  unfold Callout.reconciled
  by_cases he : c.EntersAfter prior
  · obtain ⟨q, d, b, hpaging, hroster, hd, heq, hreconcile⟩ := henters he
    have hassessment : d.assessment = c.assessment := by rw [heq]
    have hresult (a : Assessment) : d.inCrewed a = c.inCrewed a := by
      rw [heq]
      rfl
    have howner : d.owner = c.owner := by
      rw [heq]
      rfl
    have hnumber : d.number = c.number := by rw [heq]
    rw [hreconcile]
    simp only [if_pos he]
    refine ⟨?_, fun hpg => ?_, fun h => (h.of_same hpaging.same).enterCrewed i, fun _ m hm => ?_⟩
    · obtain ⟨a, ha, -⟩ := Part.callout?_enterCrewed hd
      exact ⟨a, ha.trans (congrArg some (hresult a))⟩
    · rw [← howner, ← hassessment]
      exact Part.enterCrewed_trails (hpg.trans hpaging) hd
    · rw [Part.member?_enterCrewed hd, if_pos (hassessment ▸ hm), hnumber, Part.member?, hroster]
      rfl
  · rw [hstays he]
    simp only [if_neg he]
    have hsame : Paging p (if c.CountsAfter prior then p.enterCounting i else p) := .ite (.enterCounting i p) (.refl p)
    refine ⟨⟨c.assessment, ?_⟩, fun hpg => .of_paging (hpg.trans hsame), fun h => h.of_same hsame.same, fun h => absurd h he⟩
    by_cases hcounts : c.CountsAfter prior
    · rw [if_pos hcounts, if_pos hcounts, Part.callout?_enterCounting, if_pos rfl, hc]
      rfl
    · rw [if_neg hcounts, if_neg hcounts]
      exact hc

/-! ### The demands made again -/

/-- The demands of a held-back list, made again (R141). -/
def Callout.again (c : Callout) : List Demand := c.heldBack.map (HeldEntry.demand c.owner)

/-- The part with the callout in its prior state and its held-back list demanded again. -/
def Part.resumed (i : SlotId) (c : Callout) (prior : CalloutState) (p : Part) : Part :=
  ((p.modify i (Callout.resuming prior)).raise .callout).demandAll c.again

theorem Part.resume_resumed (i : SlotId) (c : Callout) (prior : CalloutState) (p : Part) :
    p.resume i c prior = (p.resumed i c prior).reconcile i prior := by
  rw [Part.resume_eq]
  unfold Part.resumed Part.demandAll Callout.again
  rw [List.foldl_map]

theorem Part.demandAll_onlyPages (ds : List Demand) (p : Part) : OnlyPages p (p.demandAll ds) :=
  Part.demandList_onlyPages id ds p

theorem Part.resumed_spec (hpg : Paging s p) (hc : p.callout? i = some c) (prior : CalloutState) :
    (p.resumed i c prior).callout? i = some (c.resuming prior)
    ∧ Paging (s.demandAll c.again) (p.resumed i c prior)
    ∧ (∀ m, (p.resumed i c prior).member? m = p.member? m)
    ∧ Calm (p.modify i (Callout.resuming prior)) (p.resumed i c prior) := by
  have hpages := Part.demandAll_onlyPages c.again ((p.modify i (Callout.resuming prior)).raise .callout)
  refine ⟨(hpages.callout? i).trans ?_, ?_, fun m => ?_, ?_⟩
  · rw [Part.callout?_raise, Part.callout?_modify_self, hc]
    rfl
  · exact ((hpg.trans (.modify (f := Callout.resuming prior) i p fun _ _ => rfl)).trans (.raise .callout _)).demandAll c.again
  · rw [Part.resumed, Part.member?, hpages.roster, Part.raise_roster, Part.roster_modify]
    rfl
  · exact (Calm.trans (q := (p.modify i (Callout.resuming prior)).raise .callout) ⟨rfl, rfl, fun _ => rfl⟩ (.of_pages hpages))

end Sys2Proof.Machine

/-! RESUME: what the work that follows leaves of the callout (R15, R23, R148 to R150). -/

namespace Sys2Proof.Machine
open Sys2Proof

variable {p q r s t : Part} {i j : SlotId} {c d e : Callout} {o : Owner} {ds : List Demand}

/-! ### A first turn taken -/

/-- The next turn finds its site free to use, and credit enough. -/
def Part.Turns (p : Part) : Prop :=
  p.sites.sequencer = .idle ∧ ∃ b rest e more, p.pages.queue = b :: rest ∧ b.remaining = e :: more ∧ b.withdrawing = false
    ∧ p.inhibited e.site = false ∧ p.turnCost e.site b.pages ≤ (p.sites.records.get e.site).credit
    ∧ (p.sites.records.get e.site).credit ≤ (p.sites.records.get e.site).ceiling

/-- Light reports and one turn write no more of the callouts than PAGED marks and TX_DEGRADED. -/
theorem Part.Turns.calm (h : p.Turns) (hlight : ∀ x ∈ p.pages.reports, x.light) : Calm p p.finish := by
  generalize hl : p.pages.reports = l at hlight
  induction l generalizing p with
  | nil =>
    obtain ⟨hidle, b, rest, e, more, hq, hrem, hw, hin, hcost, hcredit⟩ := h
    unfold Part.finish
    rw [Part.work_turn hl hidle hq hrem hw hin hcost hcredit, Part.clearCheck_eq hq]
    split <;> exact ⟨rfl, rfl, fun _ => rfl⟩
  | cons x rest ih =>
    have hx := hlight x List.mem_cons_self
    have hstep := Part.workStep_reports hl
    have htaken := Part.takeReport_light hx { p with pages := { p.pages with reports := rest } }
    have hcalm : Calm p (Part.takeReport x { p with pages := { p.pages with reports := rest } }) :=
      Calm.trans (q := { p with pages := { p.pages with reports := rest } }) ⟨rfl, rfl, fun _ => rfl⟩ (.takeReport hx _)
    rw [Part.finish_of_step hstep]
    refine hcalm.trans (ih ?_ (by rw [htaken.pages]) fun y hy => hlight y (List.mem_cons_of_mem _ hy))
    have hturns : ({ p with pages := { p.pages with reports := rest } } : Part).Turns := h
    unfold Part.Turns Part.inhibited Part.turnCost at hturns ⊢
    rw [htaken.sites, htaken.supply, htaken.pages]
    exact hturns

/-- Demands that the page queue can take, on a part with no work left over: a first turn follows them, or none. -/
theorem Trails.turns_or_quiet (hquiet : s.Quiet) (hcan : s.CanTake ds) (hne : ds ≠ [])
    (h : Trails (s.demandAll ds) p) :
    (∀ x ∈ p.pages.reports, x.light) ∧ (p.withoutReports.Quiet ∨ p.Turns) := by
  obtain ⟨hlen, hnone⟩ := hcan
  obtain ⟨queue, hqueue⟩ := h.queue
  obtain ⟨reports, hreports, hlight⟩ := h.reports
  have hlight' (hr : (s.demandAll ds).pages.reports = []) : ∀ x ∈ p.pages.reports, x.light := fun x hx =>
    hlight x (by rw [hreports, hr] at hx; exact hx)
  have hwaits := h.waits
  have stays (hseq : p.sites.sequencer = s.sites.sequencer)
      (hhead : ∀ b rest, p.pages.queue = b :: rest → ∃ rest', s.pages.queue = b :: rest') : p.withoutReports.Quiet :=
    hquiet.of_head rfl hseq hhead
  by_cases hd : s.pages.demands = []
  · obtain ⟨hok, hfirst⟩ := hnone hd
    obtain ⟨n, hn, heq, -⟩ := Part.demandAll_of_none (ds := ds) hd (by rw [hd] at hlen; simpa using hlen) hok
    rw [heq] at hlight' hqueue hwaits
    refine ⟨hlight' hquiet.reports, ?_⟩
    have hseq : p.sites.sequencer = s.sites.sequencer := by rw [h.sequencer, heq]; rfl
    have hqueue' : p.pages.queue = s.pages.queue ++ (((ds.take n).mapIdx fun j d => s.batchAt j d) ++ queue) := by
      rw [hqueue, ← List.append_assoc]
      rfl
    by_cases hq : s.pages.queue = []
    · obtain ⟨d, rest, rfl⟩ := List.exists_cons_of_ne_nil hne
      cases n with
      | zero =>
        have hnil : p.pages.queue = [] := by
          rw [hwaits (by show List.drop 0 (d :: rest) ≠ []; simp)]
          show s.pages.queue ++ _ = []
          rw [hq]
          rfl
        exact .inl (stays hseq fun b rest hb => by rw [hnil] at hb; cases hb)
      | succ n =>
        obtain ⟨hidle, hcredits⟩ := hfirst hq d rest rfl
        obtain ⟨e, more, he⟩ := List.exists_cons_of_ne_nil (hok 0 d rfl).2
        obtain ⟨hcost, hcredit⟩ := hcredits e more he
        have hrecords : p.sites.records = s.sites.records := by rw [h.records, heq]; rfl
        have hsupply : p.supply = s.supply := by rw [h.supply, heq]; rfl
        have hcons : p.pages.queue = s.batchAt 0 d :: ((rest.take n).mapIdx (fun j d => s.batchAt (j + 1) d) ++ queue) := by
          rw [hqueue', hq, List.take_succ_cons, List.mapIdx_cons]
          rfl
        refine .inr ⟨hseq.trans hidle, _, _, e, more, hcons, (s.batchAt_remaining 0 d).trans he, rfl, ?_, ?_, ?_⟩
        · unfold Part.inhibited
          rw [hsupply, hrecords]
          exact Part.batchAt_inhibited (d := d) (n := 0) (he ▸ List.mem_cons_self)
        · unfold Part.turnCost at hcost ⊢
          rw [hrecords]
          exact hcost
        · rw [hrecords]
          exact hcredit
    · obtain ⟨x, more, hx⟩ := List.exists_cons_of_ne_nil hq
      refine .inl (stays hseq fun b rest hb => ?_)
      rw [hqueue', hx, List.cons_append, List.cons.injEq] at hb
      exact ⟨more, by rw [hx, hb.1]⟩
  · have heq := Part.demandAll_of_waiting (ds := ds) hd hlen
    rw [heq] at hlight' hwaits
    have hsame : p.pages.queue = s.pages.queue := hwaits (by show s.pages.demands ++ ds ≠ []; simp [hd])
    exact ⟨hlight' hquiet.reports, .inl (stays (by rw [h.sequencer, heq]; rfl) fun b rest hb => ⟨rest, hsame ▸ hb⟩)⟩

/-- What is handed over, when the page queue can take it, writes no more of the callouts than PAGED marks and TX_DEGRADED. -/
theorem Trails.calm (hquiet : s.Quiet) (hcan : s.CanTake ds) (hne : ds ≠ []) (h : Trails (s.demandAll ds) p) : Calm p p.finish := by
  obtain ⟨hlight, hq | ht⟩ := h.turns_or_quiet hquiet hcan hne
  · exact Part.Muted.finish ⟨hlight, .inl hq⟩
  · exact ht.calm hlight

/-! ### The records of a callout without a crew -/

/-- The records and the assessment of a callout whose outcome is not CREWED stay; nor does it begin to close. -/
structure Callout.Answers (c d : Callout) : Prop where
  responses  : d.responses = c.responses
  assessment : d.assessment = c.assessment
  closing    : c.state ≠ .closing → d.state ≠ .closing

theorem Callout.Answers.refl (c : Callout) : c.Answers c := ⟨rfl, rfl, id⟩

theorem Callout.Answers.trans (h : c.Answers d) (k : d.Answers e) : c.Answers e :=
  ⟨k.responses.trans h.responses, k.assessment.trans h.assessment, k.closing ∘ h.closing⟩

theorem Callout.Answers.of_calm (h : d.calm = c.calm) : c.Answers d :=
  ⟨(congrArg Callout.responses h : d.calm.responses = c.calm.responses),
    (congrArg Callout.assessment h : d.calm.assessment = c.calm.assessment),
    fun hc => (congrArg Callout.state h : d.calm.state = c.calm.state) ▸ hc⟩

theorem Callout.answers_alertEnded (ho : c.assessment.outcome ≠ .crewed) (a : Assessment) : c.Answers (c.alertEnded a) := by
  unfold Callout.alertEnded Callout.outcomeTaken
  split
  · rw [if_neg fun h => ho h.2, if_neg (by rintro ⟨h, -⟩; cases h)]
    exact ⟨rfl, rfl, fun _ => nofun⟩
  · exact ⟨rfl, rfl, id⟩

theorem Part.takeReport_answers (hc : p.callout? i = some c) (hn : c.state ≠ .closing) (ho : c.assessment.outcome ≠ .crewed)
    (x : Report) : ∃ d, (p.takeReport x).callout? i = some d ∧ c.Answers d := by
  obtain ⟨d, hd, hcalm | ⟨-, a, e, hcalm, rfl⟩⟩ := Part.takeReport_calm hc hn x
  · exact ⟨d, hd, .of_calm hcalm⟩
  · have he : c.Answers e := .of_calm hcalm
    exact ⟨_, hd, he.trans (Callout.answers_alertEnded (by rw [he.assessment]; exact ho) a)⟩

theorem Part.workStep_answers (hc : p.callout? i = some c) (hn : c.state ≠ .closing) (ho : c.assessment.outcome ≠ .crewed)
    (hs : p.workStep = some q) : ∃ d, q.callout? i = some d ∧ c.Answers d := by
  rcases Part.workStep_takes hs with ⟨x, rest, -, rfl⟩ | hpages
  · exact Part.takeReport_answers (p := { p with pages := { p.pages with reports := rest } }) hc hn ho x
  · exact ⟨c, (hpages.callout? i).trans hc, .refl c⟩

theorem Part.finish_answers (hc : p.callout? i = some c) (hn : c.state ≠ .closing) (ho : c.assessment.outcome ≠ .crewed) :
    ∃ d, p.finish.callout? i = some d ∧ c.Answers d :=
  Part.work_keeps (p := p) (I := fun q => ∃ d, q.callout? i = some d ∧ c.Answers d)
    (fun _ _ hs ⟨d, hd, hcd⟩ => by
      obtain ⟨e, he, hde⟩ := Part.workStep_answers hd (hcd.closing hn) (by rw [hcd.assessment]; exact ho) hs
      exact ⟨e, he, hcd.trans hde⟩)
    ⟨c, hc, .refl c⟩

end Sys2Proof.Machine

/-! RESUME: the alert batch status where no ALERT is demanded again (R15, R23). -/

namespace Sys2Proof.Machine
open Sys2Proof

variable {p q r s t : Part} {i j : SlotId} {c d e : Callout} {o : Owner} {ds : List Demand} {prior : CalloutState}

/-! ### The owner of a report -/

/-- The first callout with a number is the first with that number and its token. -/
theorem Part.findOwner_of_findCallout (hi : p.findCallout c.number = some i) (hc : p.callout? i = some c) :
    p.findOwner c.owner = some i := by
  unfold Part.findCallout at hi
  unfold Part.findOwner
  rw [Part.findLive_eq_find, List.find?_eq_some_iff_append] at *
  obtain ⟨-, before, behind, hl, hbefore⟩ := hi
  refine ⟨by simp [hc, Callout.owner], before, behind, hl, fun j hj => ?_⟩
  have := hbefore j hj
  cases hd : p.callout? j with
  | none => rfl
  | some d =>
    rw [hd] at this
    have hne : ¬ d.number = c.number := by simpa using this
    simp [Callout.owner, hne]

theorem Moves.attends {g : Grants} (hg : ¬ g.makes) (h : Moves g p q) (hi : p.findOwner o = some i) (hd : q.callout? i = some d)
    (hn : d.state ≠ .closing) : q.Attends o i := by
  refine ⟨Part.findLive_stays hi (fun j e he => ?_) (by simp [hd]), d, hd, hn⟩
  obtain ⟨c, hc, hgrow⟩ := h.grows hg j e he
  have hnumber : e.number = c.number := congrArg Prod.fst hgrow.identity
  have htoken : e.token = c.token := congrArg (fun x => x.2.1) hgrow.identity
  exact ⟨c, hc, by rw [hnumber, htoken]⟩

/-! ### Reports that write no more than marks -/

/-- A report that sets nothing off while its owner `o` is not CLOSING: a light one, or the end of a STAND_DOWN of that owner. -/
def Report.Tame (o : Owner) (x : Report) : Prop :=
  x.light ∨ ∃ form b, x = .ended o .standDown form b

theorem Part.takeReport_tame {x : Report} (hp : p.Attends o i) (hx : x.Tame o) :
    Calm p (p.takeReport x) ∧ SamePages p (p.takeReport x) := by
  rcases hx with hx | ⟨form, b, rfl⟩
  · exact ⟨.takeReport hx p, (Part.takeReport_light hx p).samePages⟩
  · obtain ⟨ho, c, hc, hn⟩ := hp
    rw [Part.takeReport_ended_quietly ho hc b (.inr (.inr ⟨rfl, hn⟩))]
    refine ⟨.degradeIf b i p, ?_⟩
    split
    · exact p.degrade_pages i
    · exact .refl p

/-- Such reports are taken, and no work is left over. -/
theorem Part.finish_tame (hp : p.Attends o i) (htame : ∀ x ∈ p.pages.reports, x.Tame o) (hquiet : p.withoutReports.Quiet) :
    Calm p p.finish := by
  generalize hl : p.pages.reports = l at htame
  induction l generalizing p with
  | nil => exact Part.Muted.finish ⟨fun x hx => by rw [hl] at hx; exact absurd hx List.not_mem_nil, .inl hquiet⟩
  | cons x rest ih =>
    have hstep := Part.workStep_reports hl
    obtain ⟨hcalm, hpages⟩ := Part.takeReport_tame (p := { p with pages := { p.pages with reports := rest } }) (hp.congr rfl)
      (htame x List.mem_cons_self)
    have hreports : (Part.takeReport x { p with pages := { p.pages with reports := rest } }).pages.reports = rest := by
      rw [hpages.1]
    have hsame : SamePages p.withoutReports
        (Part.takeReport x { p with pages := { p.pages with reports := rest } }).withoutReports := by
      refine ⟨?_, hpages.2⟩
      unfold Part.withoutReports
      rw [hpages.1]
    have htaken : Calm p (Part.takeReport x { p with pages := { p.pages with reports := rest } }) :=
      Calm.trans (q := { p with pages := { p.pages with reports := rest } }) ⟨rfl, rfl, fun _ => rfl⟩ hcalm
    rw [Part.finish_of_step hstep]
    exact htaken.trans (ih (hp.work (Part.workStep_work hstep none)) (hsame.workStep.mpr hquiet) hreports
        fun y hy => htame y (List.mem_cons_of_mem _ hy))

/-! ### Demands of the one owner -/

/-- The later part has the page queue of the earlier with more behind it, and its new reports are tame. -/
structure Adds (o : Owner) (p q : Part) : Prop where
  queue     : ∃ l, q.pages.queue = p.pages.queue ++ l
  demands   : ∃ l, q.pages.demands = p.pages.demands ++ l
  reports   : ∃ l, q.pages.reports = p.pages.reports ++ l ∧ ∀ x ∈ l, x.Tame o
  sequencer : q.sites.sequencer = p.sites.sequencer
  waits     : p.pages.demands ≠ [] → q.pages.queue = p.pages.queue

namespace Adds

theorem of_trails (h : Trails p q) : Adds o p q where
  queue := h.queue
  demands := h.demands
  reports := by
    obtain ⟨l, hl, hlight⟩ := h.reports
    exact ⟨l, hl, fun x hx => .inl (hlight x hx)⟩
  sequencer := h.sequencer
  waits := h.waits

theorem trans (h : Adds o p q) (k : Adds o q r) : Adds o p r := by
  obtain ⟨a, ha⟩ := h.queue
  obtain ⟨a', ha'⟩ := k.queue
  obtain ⟨b, hb⟩ := h.demands
  obtain ⟨b', hb'⟩ := k.demands
  obtain ⟨x, hx, hxt⟩ := h.reports
  obtain ⟨x', hx', hxt'⟩ := k.reports
  exact
    { queue := ⟨a ++ a', by rw [ha', ha, List.append_assoc]⟩
      demands := ⟨b ++ b', by rw [hb', hb, List.append_assoc]⟩
      reports := ⟨x ++ x', by rw [hx', hx, List.append_assoc], fun y hy => (List.mem_append.mp hy).elim (hxt y) (hxt' y)⟩
      sequencer := k.sequencer.trans h.sequencer
      waits := fun hd => (k.waits (by rw [hb]; simp [hd])).trans (h.waits hd) }

theorem of_report {x : Report} (hx : x.Tame o) {q : Part} (hr : q.pages.reports = p.pages.reports ++ [x])
    (hq : q.pages.queue = p.pages.queue) (hd : q.pages.demands = p.pages.demands) (hs : q.sites.sequencer = p.sites.sequencer) :
    Adds o p q where
  queue := ⟨[], by rw [hq, List.append_nil]⟩
  demands := ⟨[], by rw [hd, List.append_nil]⟩
  reports := ⟨[x], hr, fun y hy => List.mem_singleton.mp hy ▸ hx⟩
  sequencer := hs
  waits := fun _ => hq

/-- A demand of the owner that is no ALERT. -/
theorem demand {x : Demand} (ho : x.owner = o) (hk : x.kind ≠ .alert) (p : Part) : Adds o p (p.demand x) := by
  have hended (form : EndForm) (b : Bool) : (Report.ended x.owner x.kind form b).Tame o := by
    by_cases hs : x.kind = .standDown
    · rw [ho, hs]
      exact .inr ⟨form, b, rfl⟩
    · exact .inl (.inr ⟨hk, hs⟩)
  unfold Part.demand
  split
  next hroom =>
    have hnone : p.pages.demands = [] := by simpa using (Bool.and_eq_true_iff.mp hroom).1
    rw [Part.admission_eq]
    split
    · exact .of_report (hended _ _) rfl rfl rfl rfl
    · split
      · exact .of_report (hended _ _) rfl rfl rfl rfl
      · exact ⟨⟨_, rfl⟩, ⟨[], (List.append_nil _).symm⟩, ⟨[], (List.append_nil _).symm, by simp⟩, rfl, fun h => absurd hnone h⟩
  next =>
    split
    · exact ⟨⟨[], (List.append_nil _).symm⟩, ⟨_, rfl⟩, ⟨[], (List.append_nil _).symm, by simp⟩, rfl, fun _ => rfl⟩
    · exact .of_report (hended _ _) rfl rfl rfl rfl

theorem demandAll (h : ∀ x ∈ ds, x.owner = o ∧ x.kind ≠ .alert) (p : Part) : Adds o p (p.demandAll ds) := by
  induction ds generalizing p with
  | nil => exact .of_trails (.refl p)
  | cons x rest ih =>
    obtain ⟨ho, hk⟩ := h x List.mem_cons_self
    exact (demand ho hk p).trans (ih (fun y hy => h y (List.mem_cons_of_mem _ hy)) _)

/-- No work comes of them but their reports, unless they came to an empty page queue. -/
theorem quiet (h : Adds o s p) (hquiet : s.Quiet)
    (hbusy : ¬ (s.sites.sequencer = .idle ∧ s.pages.queue = [] ∧ s.pages.demands = [])) :
    (∀ x ∈ p.pages.reports, x.Tame o) ∧ p.withoutReports.Quiet := by
  obtain ⟨queue, hqueue⟩ := h.queue
  obtain ⟨reports, hreports, htame⟩ := h.reports
  refine ⟨fun x hx => htame x (by rw [hreports, hquiet.reports] at hx; exact hx), ?_⟩
  by_cases hidle : s.sites.sequencer = .idle
  · refine hquiet.of_head rfl h.sequencer fun b rest hb => ?_
    have hb : p.pages.queue = b :: rest := hb
    cases hq : s.pages.queue with
    | nil =>
      have hwaits := h.waits fun hd => hbusy ⟨hidle, hq, hd⟩
      rw [hb, hq] at hwaits
      cases hwaits
    | cons x more =>
      rw [hqueue, hq, List.cons_append, List.cons.injEq] at hb
      exact ⟨more, by rw [hb.1]⟩
  · exact Part.quiet_of_busy rfl fun h' => hidle (h.sequencer ▸ h')

end Adds

theorem Part.Unalerted.demandAll (h : p.Unalerted o) (hk : ∀ x ∈ ds, x.kind ≠ .alert) : (p.demandAll ds).Unalerted o := by
  induction ds generalizing p with
  | nil => exact h
  | cons x rest ih =>
    exact ih (h.demand (not_alertOf (hk x List.mem_cons_self))) fun y hy => hk y (List.mem_cons_of_mem _ hy)

theorem Part.Unalerted.of_empty (hquiet : s.Quiet) (hq : s.pages.queue = []) (hd : s.pages.demands = []) : s.Unalerted o :=
  ⟨by simp [hquiet.reports], by simp [hd], by simp [hq], by simp [hq]⟩

end Sys2Proof.Machine

/-! RESUME, and the work that follows (R23). -/

namespace Sys2Proof.Machine
open Sys2Proof

variable {p q r s t : Part} {i j : SlotId} {c d e : Callout} {o : Owner} {prior : CalloutState}

theorem Callout.reconciled_core (prior : CalloutState) (a : Assessment) (c : Callout) : (c.reconciled prior a).core = c.core := by
  unfold Callout.reconciled
  split
  · rfl
  · split <;> rfl

theorem Callout.reconciled_status (prior : CalloutState) (a : Assessment) (c : Callout) :
    (c.reconciled prior a).alertStatus = c.alertStatus := by
  unfold Callout.reconciled
  split
  · rfl
  · split <;> rfl

/-- A state from which HOLD is taken, and which RESUME brings back. -/
abbrev CalloutState.Gathers (st : CalloutState) : Prop :=
  st = .inOpen ∨ st = .alerting ∨ st = .counting ∨ st = .crewed

theorem Callout.reconciled_gathers {prior : CalloutState} (h : c.state.Gathers) (a : Assessment) :
    (c.reconciled prior a).state.Gathers := by
  unfold Callout.reconciled
  split
  · exact .inr (.inr (.inr rfl))
  · split
    · exact .inr (.inr (.inl rfl))
    · exact h

theorem CalloutState.Gathers.not_closing {st : CalloutState} (h : st.Gathers) : st ≠ .closing := by
  rcases h with rfl | rfl | rfl | rfl <;> nofun

theorem Callout.entersAfter_resuming : (c.resuming prior).EntersAfter prior ↔ c.EntersAfter prior := Iff.rfl

/-- What RESUME leaves of callout, page queue and members, the work that follows apart. -/
theorem Part.resume_spec (hpg : Paging s p) (hc : p.callout? i = some c) (hp : prior.Gathers) :
    (∃ a, (p.resume i c prior).callout? i = some ((c.resuming prior).reconciled prior a))
    ∧ Trails (s.demandAll (c.again ++ if c.EntersAfter prior then releasesFor c.owner c.assessment.surplus else []))
        (p.resume i c prior)
    ∧ ((s.demandAll c.again).Unalerted o → (p.resume i c prior).Unalerted o)
    ∧ (c.EntersAfter prior → ∀ m ∈ c.assessment.surplus,
        (p.resume i c prior).member? m = (p.member? m).map (Member.leave c.number)) := by
  obtain ⟨hcallout, hpaging, hmember, -⟩ := Part.resumed_spec hpg hc prior
  rw [Part.resume_resumed]
  obtain ⟨hresult, htrails, hunalerted, hmembers⟩ := Part.reconcile_spec (o := o) (prior := prior) hcallout rfl hp
  refine ⟨hresult, ?_, fun h => hunalerted (h.of_same hpaging.same), fun he m hm => ?_⟩
  · rw [Part.demandAll_append]
    exact htrails hpaging
  · rw [hmembers he m hm, hmember]
    rfl

theorem releasesFor_kind (o : Owner) (ms : List MemberId) : ∀ d ∈ releasesFor o ms, d.kind ≠ .alert ∧ d.kind ≠ .standDown := by
  intro d hd
  obtain ⟨l, -, rfl⟩ := List.mem_map.mp hd
  exact ⟨nofun, nofun⟩

theorem Part.resume_trails (hpg : Paging s p) (hc : p.callout? i = some c) (hp : prior.Gathers) :
    Trails (s.demandAll c.again) (p.resume i c prior) := by
  obtain ⟨-, htrails, -, -⟩ := Part.resume_spec (o := c.owner) hpg hc hp
  rw [Part.demandAll_append] at htrails
  refine .trans (.demandAll ?_ _) htrails
  split
  · exact releasesFor_kind _ _
  · nofun

/-- A RESUME that demands no ALERT again leaves the alert batch status (R23). -/
theorem Part.resume_status (hpg : Paging s p) (hquiet : s.Quiet) (hc : p.callout? i = some c)
    (hfind : p.findCallout c.number = some i) (hprior : c.prior = some prior) (hp : prior.Gathers)
    (hno : ∀ e ∈ c.heldBack, e.kind ≠ .alert) :
    ∃ d, (p.resume i c prior).finish.callout? i = some d ∧ d.alertStatus = c.alertStatus := by
  obtain ⟨⟨a, hcallout⟩, -, hunalerted, -⟩ := Part.resume_spec (o := c.owner) hpg hc hp
  have hagain : ∀ x ∈ c.again, x.owner = c.owner ∧ x.kind ≠ .alert := by
    intro x hx
    obtain ⟨e, he, rfl⟩ := List.mem_map.mp hx
    exact ⟨rfl, hno e he⟩
  have hstatus : ((c.resuming prior).reconciled prior a).alertStatus = c.alertStatus := by
    rw [Callout.reconciled_status]
    show (if _ then _ else _) = _
    rw [if_neg]
    simpa using hno
  have hopen := (Callout.reconciled_gathers (c := c.resuming prior) (prior := prior) hp a).not_closing
  by_cases hempty : s.sites.sequencer = .idle ∧ s.pages.queue = [] ∧ s.pages.demands = []
  · have hidle := (Part.Unalerted.of_empty (o := c.owner) hquiet hempty.2.1 hempty.2.2).demandAll fun x hx => (hagain x hx).2
    have howner : ((c.resuming prior).reconciled prior a).owner = c.owner := by
      have hcore := congrArg Callout.owner (Callout.reconciled_core prior a (c.resuming prior))
      exact hcore
    obtain ⟨d, hd, hunended⟩ := Part.Unalerted.callout?_finish (by rw [howner]; exact hunalerted hidle) hcallout hopen
    exact ⟨d, hd, hunended.status.trans hstatus⟩
  · obtain ⟨htame, hsettled⟩ := (Adds.trans (.demandAll hagain s) (.of_trails (Part.resume_trails hpg hc hp))).quiet hquiet hempty
    have hattends : (p.resume i c prior).Attends c.owner i :=
      (Part.resume_moves (.unedited none False) hc hprior).attends id (Part.findOwner_of_findCallout hfind hc) hcallout hopen
    obtain ⟨d, hd, hcalm⟩ := (Part.finish_tame hattends htame hsettled).callout? hcallout
    exact ⟨d, hd, (congrArg Callout.alertStatus hcalm : d.calm.alertStatus = _).trans hstatus⟩

/-! ### The callout after a RESUME -/

/-- The records of a callout that enters CREWED (R19). -/
def Callout.goneAt (c : Callout) (r : Response) : Response :=
  if r.member ∈ c.assessment.surplus ∧ r.kind ≠ .released
  then { r with kind := .released, eta := none, estimate := none, lastChange := c.elapsed } else r

theorem Callout.inCrewed_responses (a : Assessment) (c : Callout) : (c.inCrewed a).responses = c.responses.map c.goneAt := by
  refine List.map_congr_left fun r _ => ?_
  unfold Callout.goneAt Response.release
  by_cases hm : r.member ∈ c.assessment.surplus <;> by_cases hk : r.kind = .released <;> simp [hm, hk]

/-- What RESUME and the work that follows leave of the callout, by its prior state. -/
structure Callout.Resumed (prior : CalloutState) (c d : Callout) : Prop where
  core     : d.core = (c.resuming prior).core
  inOpen   : prior = .inOpen → d.state = .inOpen
  alerting : prior = .alerting → d.state = .alerting ∨ d.state = .counting ∨ d.state = .crewed
  enters   : c.EntersAfter prior → d.state = .crewed ∧ d.responseWindow = .stopped ∧ d.responses = c.responses.map c.goneAt
  keeps    : ¬ c.EntersAfter prior → d.responses = c.responses
  counts   : ¬ c.EntersAfter prior → (c.resuming prior).CountsAfter prior → d.state = .counting ∧ d.responseWindow = .start c.window
  runs     : ¬ c.EntersAfter prior → prior = .counting → d.state = .counting ∧ d.responseWindow = c.responseWindow.thaw

theorem Part.resume_resumedAt (hpg : Paging s p) (hc : p.callout? i = some c) (hp : prior.Gathers) :
    ∃ d, (p.resume i c prior).finish.callout? i = some d ∧ c.Resumed prior d := by
  obtain ⟨⟨a, hcallout⟩, -⟩ := Part.resume_spec (o := c.owner) hpg hc hp
  have hgathers := Callout.reconciled_gathers (c := c.resuming prior) (prior := prior) hp a
  obtain ⟨d, hd, hstep⟩ := Part.finish_callout?_of hcallout hgathers.not_closing
  have hcore := hstep.1.trans (Callout.reconciled_core prior a (c.resuming prior))
  refine ⟨d, hd, ?_⟩
  by_cases he : c.EntersAfter prior
  · have heq : (c.resuming prior).reconciled prior a = (c.resuming prior).inCrewed a := if_pos he
    rw [heq] at hstep
    obtain ⟨hstate, hresponses, -, hwindow⟩ := hstep.still (by nofun)
    exact
      { core := hcore
        inOpen := fun h => absurd h he.1
        alerting := fun _ => .inr (.inr hstate)
        enters := fun _ => ⟨hstate, hwindow, hresponses.trans (Callout.inCrewed_responses a (c.resuming prior))⟩
        keeps := fun h => absurd he h
        counts := fun h => absurd he h
        runs := fun h => absurd he h }
  · have heq : (c.resuming prior).reconciled prior a = if (c.resuming prior).CountsAfter prior
        then { c.resuming prior with state := .counting, responseWindow := .start c.window } else c.resuming prior := if_neg he
    have hlive : prior = .alerting → d.state = .alerting ∨ d.state = .counting ∨ d.state = .crewed := by
      rintro rfl
      refine hstep.live ?_
      rw [heq]
      split
      · exact .inr (.inl rfl)
      · exact .inl rfl
    have hcounts (hcount : (c.resuming prior).CountsAfter prior) : d.state = .counting ∧ d.responseWindow = .start c.window := by
      rw [heq, if_pos hcount] at hstep
      obtain ⟨hstate, -, -, hwindow⟩ := hstep.still (by nofun)
      exact ⟨hstate, hwindow⟩
    have hstays (hcount : ¬ (c.resuming prior).CountsAfter prior) (hn : prior ≠ .alerting) : (c.resuming prior).Still d := by
      rw [heq, if_neg hcount] at hstep
      exact hstep.still hn
    have hresponses : ((c.resuming prior).reconciled prior a).responses = c.responses := by
      rw [heq]
      split <;> rfl
    have hassessment : ((c.resuming prior).reconciled prior a).assessment = c.assessment := by
      rw [heq]
      split <;> rfl
    refine ⟨hcore, ?_, hlive, fun h => absurd h he, fun _ => ?_, fun _ => hcounts, fun _ => ?_⟩
    · rintro rfl
      exact (hstays (by nofun) nofun).1
    · by_cases hopen : prior = .inOpen
      · subst hopen
        exact (hstays (by nofun) nofun).2.1
      · obtain ⟨e, hfinal, hanswers⟩ := Part.finish_answers hcallout hgathers.not_closing
          (by rw [hassessment]; exact fun h => he ⟨hopen, h⟩)
        obtain rfl := Option.some.inj (hd.symm.trans hfinal)
        exact hanswers.responses.trans hresponses
    · rintro rfl
      obtain ⟨hstate, -, -, hwindow⟩ := hstays (by nofun) nofun
      exact ⟨hstate, hwindow⟩

/-- A RESUME that demands an ALERT again, with the page queue able to take what it demands (R23). -/
theorem Part.resume_again (hpg : Paging s p) (hquiet : s.Quiet) (hcan : s.CanTake c.again) (hc : p.callout? i = some c)
    (hp : prior.Gathers) (hagain : ∃ e ∈ c.heldBack, e.kind = .alert) :
    ∃ d, (p.resume i c prior).finish.callout? i = some d ∧ d.alertStatus = .outstanding
      ∧ (¬ c.EntersAfter prior → prior = .alerting → d.state = .alerting ∧ d.responseWindow = c.responseWindow.thaw) := by
  obtain ⟨⟨a, hcallout⟩, -⟩ := Part.resume_spec (o := c.owner) hpg hc hp
  have hne : c.again ≠ [] := by
    obtain ⟨e, he, -⟩ := hagain
    exact List.ne_nil_of_mem (List.mem_map_of_mem he)
  have houtstanding : (c.resuming prior).alertStatus = .outstanding := by
    refine if_pos ?_
    simpa using hagain
  obtain ⟨d, hd, hcalm⟩ := ((Part.resume_trails hpg hc hp).calm hquiet hcan hne).callout? hcallout
  have hstatus := (congrArg Callout.alertStatus hcalm : d.calm.alertStatus = _)
  refine ⟨d, hd, hstatus.trans ((Callout.reconciled_status prior a _).trans houtstanding), fun hno halerting => ?_⟩
  have heq : (c.resuming prior).reconciled prior a = c.resuming prior := by
    refine (if_neg hno).trans (if_neg ?_)
    rintro (⟨-, h⟩ | h)
    · rw [houtstanding] at h
      cases h
    · rw [halerting] at h
      cases h
  rw [heq] at hcalm
  exact ⟨(congrArg Callout.state hcalm : d.calm.state = _).trans halerting,
    (congrArg Callout.responseWindow hcalm : d.calm.responseWindow = _)⟩

end Sys2Proof.Machine

/-! The orders HOLD and RESUME (R21, R23). -/

namespace Sys2Proof.Machine
open Sys2Proof

variable {p q r s t : Part} {i j : SlotId} {c d e : Callout} {o : Owner} {prior : CalloutState}

/-- The members a RESUME lets go when the callout enters CREWED (R19). -/
theorem Part.resume_members (hpg : Paging s p) (hc : p.callout? i = some c) (hp : prior.Gathers) (he : c.EntersAfter prior)
    {m : MemberId} (hm : m ∈ c.assessment.surplus) {y : Member} (hy : (p.resume i c prior).finish.member? m = some y) :
    y.engaged ≠ some c.number := by
  obtain ⟨-, -, -, hmembers⟩ := Part.resume_spec (o := c.owner) hpg hc hp
  have hleft := hmembers he m hm
  rcases Part.finish_eases (p.resume i c prior) m with h | ⟨z, -, h⟩
  · rw [h, hleft] at hy
    obtain ⟨x, -, rfl⟩ := Option.map_eq_some_iff.mp hy
    exact x.leave_engaged c.number
  · obtain rfl := Option.some.inj (h.symm.trans hy)
    nofun

/-- What RESUME leaves of the callout, the page queue and the members, for a part that stands where `s` stood. -/
structure ResumeDone (s : Part) (c : Callout) (prior : CalloutState) (d : Callout) (t : Part) : Prop where
  callout : c.Resumed prior d
  members : c.EntersAfter prior → ∀ m ∈ c.assessment.surplus, ∀ y, t.member? m = some y → y.engaged ≠ some c.number
  handed  : s.Quiet → s.CanTake c.again → HandedAll c.again s t
  again   : s.Quiet → s.CanTake c.again → (∃ e ∈ c.heldBack, e.kind = .alert) → d.alertStatus = .outstanding
    ∧ (¬ c.EntersAfter prior → prior = .alerting → d.state = .alerting ∧ d.responseWindow = c.responseWindow.thaw)
  release : c.EntersAfter prior → s.Quiet → s.CanTake (c.again ++ releasesFor c.owner c.assessment.surplus) →
    HandedAll (c.again ++ releasesFor c.owner c.assessment.surplus) s t
  status  : s.Quiet → (∀ e ∈ c.heldBack, e.kind ≠ .alert) → d.alertStatus = c.alertStatus

theorem Part.resume_finish (hst : Stands s p) (hc : p.callout? i = some c) (hfind : p.findCallout c.number = some i)
    (hprior : c.prior = some prior) (hp : prior.Gathers) :
    ∃ d, (p.resume i c prior).finish.callout? i = some d ∧ ResumeDone s c prior d (p.resume i c prior).finish := by
  have hpg := hst.paging
  obtain ⟨d, hd, hresumed⟩ := Part.resume_resumedAt hpg hc hp
  obtain ⟨-, htrails, -, -⟩ := Part.resume_spec (o := c.owner) hpg hc hp
  refine ⟨d, hd, hresumed, fun he m hm y hy => Part.resume_members hpg hc hp he hm hy,
    fun hquiet hcan => (Part.resume_trails hpg hc hp).handedAll hquiet hcan, fun hquiet hcan hagain => ?_,
    fun he hquiet hcan => ?_, fun hquiet hno => ?_⟩
  · obtain ⟨e, hfinal, h⟩ := Part.resume_again (prior := prior) hpg hquiet hcan hc hp hagain
    obtain rfl := Option.some.inj (hd.symm.trans hfinal)
    exact h
  · rw [if_pos he] at htrails
    exact htrails.handedAll hquiet hcan
  · obtain ⟨e, hfinal, h⟩ := Part.resume_status hpg hquiet hc hfind hprior hp hno
    obtain rfl := Option.some.inj (hd.symm.trans hfinal)
    exact h

theorem ResumeDone.answered {l : Line} {results : List Operand} (h : ResumeDone s c prior d q)
    (ht : OrderAnswered l results r q t) : ResumeDone s c prior d t where
  callout := h.callout
  members := fun he m hm y hy => h.members he m hm y (by rw [ht.after] at hy; exact hy)
  handed := fun hquiet hcan => (h.handed hquiet hcan).answered ht
  again := h.again
  release := fun he hquiet hcan => (h.release he hquiet hcan).answered ht
  status := h.status

theorem resume_taken {s : State} {l : Line} (hs : s.condition = .running) (hlookup : s.lookup c.number.toNat = some (i, c))
    (hheld : c.state = .held) (hprior : c.prior = some prior) (hp : prior.Gathers) :
    Leads (.resume l [num c.number.toNat]) s fun t => ∃ d raised, t.callout? i = some d
      ∧ ResumeDone s.toPart c prior d t ∧ SameConfiguration s.toPart t
      ∧ Answered l none [num c.number.toNat, num d.state.code] raised s.toPart t := by
  have hst := Stands.working s.toPart l 5#8 [num c.number.toNat]
  have hw := (s.toPart.working_lookup l 5#8 [num c.number.toNat] _).trans hlookup
  obtain ⟨hc, -, hn⟩ := Part.lookup_spec hw
  have hv : orderRule (.resume l [num c.number.toNat]) (s.toPart.working l 5#8 [num c.number.toNat])
      = ((s.toPart.working l 5#8 [num c.number.toNat]).resume i c prior).takenFor c.number := by
    refine resumeOrder_of_named.trans ?_
    rw [toInt_ofNat_of_lt (by omega), hw]
    simp only [hheld, hprior]
  have hm : Moves (.unedited none False) _ _ := Part.resume_moves _ hc hprior
  obtain ⟨d, hd, hdone⟩ := Part.resume_finish hst hc hn hprior hp
  have hfound := (hm.trans (Part.finish_moves _ _)).findCallout id hn (by simp [hd])
  refine (leads_of_takenFor hs rfl hv hm id).imp fun t ht => ?_
  rw [Part.calloutResults_of hfound hd] at ht
  obtain ⟨raised, hanswered⟩ := ht.answered
  exact ⟨d, raised, (ht.callout? i).trans hd, hdone.answered ht.toOrderAnswered, ht.configuration, hanswered⟩

/-- Settles O51. -/
theorem holdAndResumeTaken : Obligations.HoldAndResumeTaken := by
  unfold Obligations.HoldAndResumeTaken
  refine ⟨fun s l i c hs hlookup hst => ?_, fun s l i c prior hs hlookup hheld hprior hp => ?_⟩
  · refine (hold_taken hs hlookup hst).imp fun t ⟨b, d, raised, hd, hcore, hstill, hdegraded, hstatus, hspared, hconf, hanswered⟩ => ?_
    obtain ⟨hstate, hresponses, -, hwindow⟩ := hstill
    have hheldBack : d.heldBack = (s.madeAtHold c.owner).take 8 := congrArg Callout.heldBack hcore
    refine ⟨d, raised, hd, hstate, congrArg Callout.prior hcore, congrArg Callout.accumulation hcore, hwindow, ?_, hresponses,
      (congrArg Callout.level hcore : d.core.level = _), ⟨hheldBack, fun h => ?_, hstatus⟩, fun x hx howner => ?_, fun x hx howner hk => ?_, hconf,
      hanswered⟩
    · rw [hheldBack, List.length_take]
      exact Nat.min_le_left _ _
    · refine hdegraded (h.imp id ?_)
      rintro ⟨b, rest, hq, howner, hk, hwd, hrem, hf, hseq⟩
      refine Part.withdraw_failed hq howner hk hwd hrem hf ?_
      rcases hseq with h | ⟨k, n, h⟩ <;> rw [h] <;> rfl
    · exact hspared.demands x hx howner
    · rcases hspared.queue x hx with h | h | h
      · exact absurd hk (by rw [h howner]; nofun)
      · exact .inl h
      · exact .inr (Batch.over_iff.mpr h)
  · refine (resume_taken hs hlookup hheld hprior hp).imp fun t ⟨d, raised, hd, hdone, hconf, hanswered⟩ => ?_
    obtain ⟨hcallout, hmembers, hhanded, hagain, hrelease, hstatus⟩ := hdone
    have hcore := hcallout.core
    refine ⟨d, raised, hd, congrArg Callout.prior hcore, congrArg Callout.heldBack hcore, congrArg Callout.accumulation hcore,
      (congrArg Callout.level hcore : d.core.level = _), hcallout.inOpen, hcallout.alerting, ⟨fun he => ?_, fun hno => ?_, ?_, ?_⟩, hconf, hanswered⟩
    · obtain ⟨hstate, hwindow, hresponses⟩ := hcallout.enters he
      exact ⟨hstate, hwindow, hresponses, fun m y hm hy => hmembers he m hm y hy, hrelease he⟩
    · refine ⟨hcallout.keeps hno, fun ha hended hnone => ?_, fun ha halert hquiet hcan => (hagain hquiet hcan halert).2 hno ha,
        hcallout.runs hno, fun hcrewed => hcallout.counts hno (.inr hcrewed)⟩
      refine hcallout.counts hno (.inl ⟨ha, ?_⟩)
      refine (if_neg ?_).trans hended
      simpa using hnone
    · exact fun hquiet hcan => ⟨hhanded hquiet hcan, fun halert => (hagain hquiet hcan halert).1⟩
    · exact fun hquiet hnone => hstatus hquiet fun e he hk => hnone ⟨e, he, hk⟩

end Sys2Proof.Machine

/-! A warm restart: the lines, and the part with its page queue emptied (R144, R162, R180, R190, R196). -/

namespace Sys2Proof.Machine
open Sys2Proof

variable {p q r s t : Part} {i j : SlotId} {c d : Callout} {l k : Line}

/-! ### The lines -/

/-- What a break keeps of every controller, and the frame that goes on to its end on its own line (R180). -/
structure Unbroken (k : Line) (p q : Part) : Prop where
  state    : (q.ctl k).state = (p.ctl k).state
  flags    : (q.ctl k).flags = (p.ctl k).flags
  mask     : (q.ctl k).mask = (p.ctl k).mask
  tail     : (p.ctl k).tail ≠ none → (q.ctl k).tail ≠ none
  superP   : q.lines.superP = p.lines.superP
  superS   : q.lines.superS = p.lines.superS
  settings : q.settings = p.settings

theorem Unbroken.trans (h : Unbroken k p q) (h' : Unbroken k q r) : Unbroken k p r :=
  ⟨h'.state.trans h.state, h'.flags.trans h.flags, h'.mask.trans h.mask, h'.tail ∘ h.tail, h'.superP.trans h.superP,
    h'.superS.trans h.superS, h'.settings.trans h.settings⟩

theorem Part.breakReply_self (p : Part) (l : Line) : (p.breakReply l).ctl l =
    if (p.ctl l).state = .replying then { p.ctl l with
      tail := some ((p.ctl l).tail.getD { frame := p.frameUnderWay l, left := Config.frameTime l p.lines.breaks })
      reply := none }
    else p.ctl l := by
  rw [← p.breakOff_self l]
  exact congrArg (Lines.ctl · l) (p.breakOff_lines l).symm

theorem Part.breakReply_unbroken (p : Part) (l k : Line) : Unbroken k p (p.breakReply l) := by
  obtain ⟨hflags, hmask, -, -, hne⟩ := p.breakReply_ctl l k
  obtain ⟨hP, hS⟩ := p.breakReply_super l
  obtain ⟨hstate, htail⟩ : ((p.breakReply l).ctl k).state = (p.ctl k).state
      ∧ ((p.ctl k).tail ≠ none → ((p.breakReply l).ctl k).tail ≠ none) := by
    by_cases hkl : k = l
    · subst hkl
      rw [Part.breakReply_self]
      split
      · exact ⟨rfl, fun _ => nofun⟩
      · exact ⟨rfl, id⟩
    · rw [hne hkl]
      exact ⟨rfl, id⟩
  exact ⟨hstate, hflags, hmask, htail, hP, hS, by rw [p.breakReply_frame l]⟩

theorem Part.breakReply_tail (h : (p.ctl l).state = .replying) : ((p.breakReply l).ctl l).tail ≠ none := by
  rw [Part.breakReply_self, if_pos h]
  nofun

/-- The lines once every exchange has been broken off. -/
theorem Part.restartLines_ctl (p : Part) (l : Line) :
    (p.restartLines.ctl l).state = .idle ∧ (p.restartLines.ctl l).gap = none ∧ (p.restartLines.ctl l).reply = none
    ∧ (p.restartLines.ctl l).mask = (p.ctl l).mask ∧ (p.restartLines.ctl l).flags = (p.ctl l).flags ||| 1#16 <<< 9
    ∧ ((p.ctl l).state = .replying → (p.restartLines.ctl l).tail ≠ none) := by
  have hP := p.breakReply_unbroken .p l
  have hS := (p.breakReply .p).breakReply_unbroken .s l
  have hC := ((p.breakReply .p).breakReply .s).breakReply_unbroken .console l
  have hall := (hP.trans hS).trans hC
  have htail (h : (p.ctl l).state = .replying) : ((((p.breakReply .p).breakReply .s).breakReply .console).ctl l).tail ≠ none := by
    cases l with
    | p => exact hC.tail (hS.tail (Part.breakReply_tail h))
    | s => exact hC.tail (Part.breakReply_tail (hP.state.trans h))
    | console => exact Part.breakReply_tail ((hS.state.trans hP.state).trans h)
  have hctl : p.restartLines.ctl l = { (((p.breakReply .p).breakReply .s).breakReply .console).ctl l with
      state := .idle, operands := [], gap := none, reply := none
      flags := ((((p.breakReply .p).breakReply .s).breakReply .console).ctl l).flags ||| 1#16 <<< 9 } := by
    unfold Part.restartLines
    generalize ((p.breakReply .p).breakReply .s).breakReply .console = q
    cases l <;> rfl
  rw [hctl]
  exact ⟨rfl, rfl, rfl, hall.mask, congrArg (· ||| 1#16 <<< 9) hall.flags, htail⟩

theorem Supervision.reload_eq (n : Nat) (u : Supervision) :
    u.reload n = if u.up then { up := true, timer := some (n * 1000) } else u := by
  unfold Supervision.reload
  split
  next h =>
    show ({ up := u.up, timer := _ } : Supervision) = _
    rw [h]
  next => rfl

theorem Part.restartLines_frame (p : Part) : p.restartLines = { p with lines := p.restartLines.lines } := by
  have hbreak : ((p.breakReply .p).breakReply .s).breakReply .console
      = { p with lines := (((p.breakReply .p).breakReply .s).breakReply .console).lines } := by
    rw [((p.breakReply .p).breakReply .s).breakReply_frame .console, (p.breakReply .p).breakReply_frame .s,
      p.breakReply_frame .p]
  unfold Part.restartLines
  generalize ((p.breakReply .p).breakReply .s).breakReply .console = q at hbreak
  rw [hbreak]
  rfl

theorem Part.restartLines_super (p : Part) :
    p.restartLines.lines.superP = p.lines.superP.reload p.settings.periodP
    ∧ p.restartLines.lines.superS = p.lines.superS.reload p.settings.periodS := by
  have hall := ((p.breakReply_unbroken .p .p).trans ((p.breakReply .p).breakReply_unbroken .s .p)).trans
    (((p.breakReply .p).breakReply .s).breakReply_unbroken .console .p)
  unfold Part.restartLines
  generalize ((p.breakReply .p).breakReply .s).breakReply .console = q at hall
  rw [← hall.superP, ← hall.superS, ← hall.settings]
  exact ⟨rfl, rfl⟩

/-! ### The page queue emptied -/

/-- The part with its cause recorded, its page queue emptied and its lines idle, before anything is demanded again. -/
def Part.emptied (s : Part) : Part := ({ s with cause := .warm, restart := .none }).emptyPages.restartLines

theorem Part.emptied_eq (s : Part) : s.emptied = { s with
    cause := .warm
    restart := .none
    pages := PageQueue.cold
    sites := { s.sites with sequencer := .idle }
    lines := s.emptied.lines } :=
  ({ s with cause := .warm, restart := .none } : Part).emptyPages.restartLines_frame

theorem Part.emptied_configuration (s : Part) : SameConfiguration s s.emptied := by
  rw [s.emptied_eq]
  exact ⟨⟨rfl, rfl⟩, ⟨rfl, rfl, rfl⟩, fun _ => ⟨rfl, rfl⟩, fun _ => rfl, rfl, fun _ => rfl, rfl, rfl⟩

theorem Part.emptied_quiet (s : Part) : s.emptied.Quiet := by
  have hpages : s.emptied.pages = PageQueue.cold := by rw [s.emptied_eq]
  exact Part.quiet_of_empty (by rw [hpages]; rfl) (by rw [hpages]; rfl)

theorem Part.emptied_callout? (s : Part) (i : SlotId) : s.emptied.callout? i = s.callout? i := by
  rw [s.emptied_eq]
  rfl

end Sys2Proof.Machine

/-! A warm restart: the callouts marked, and their ALERT and STAND_DOWN demanded again (R36). -/

namespace Sys2Proof.Machine
open Sys2Proof

variable {p q r s t : Part} {i j : SlotId} {c d : Callout} {l : List SlotId} {lost : Owner → List BatchKind}

/-! ### One slot -/

/-- What a callout that owned batches of these kinds is marked with (log entry 16). -/
def Callout.restored (kinds : List BatchKind) (c : Callout) : Callout :=
  { c with
    flags := { c.flags with txDegraded := c.flags.txDegraded || kinds.any fun k => !c.state.redemands k }
    alertStatus := if c.state ≠ .alerting ∧ kinds.contains .alert ∧ c.alertStatus = .outstanding then .ended else c.alertStatus }

/-- The batch a callout demands again. -/
def Callout.redemand (c : Callout) : Option Demand :=
  if c.state = .alerting then
    some { kind := .alert, owner := c.owner, content := .groups (membersOf 16 c.alertGroups), restrict := .all }
  else if c.state = .closing then
    some { kind := .standDown, owner := c.owner, content := .groups (membersOf 16 (c.standDownGroups.getD 0#16)), restrict := .all }
  else none

/-- The batch that the callout of a slot demands again. -/
def Part.redemandAt (p : Part) (i : SlotId) : Option Demand := (p.callout? i).bind Callout.redemand

theorem Part.demandsAgain_eq (p : Part) : p.demandsAgain = slotIds.filterMap p.redemandAt := by
  unfold Part.demandsAgain Part.redemandAt Callout.redemand Part.callout?
  refine List.filterMap_congr fun i _ => ?_
  cases p.slot i <;> rfl

theorem Part.demandAgain_eq (c : Callout) (p : Part) : p.demandAgain c = p.demandAll c.redemand.toList := by
  unfold Part.demandAgain Callout.redemand
  cases c.state <;> rfl

/-- Only one slot, the lines and the page queue have changed. -/
structure Marks (i : SlotId) (f : Callout → Callout) (p q : Part) : Prop where
  slot     : q.callout? i = (p.callout? i).map f
  others   : ∀ j, i ≠ j → q.callout? j = p.callout? j
  roster   : q.roster = p.roster
  resolver : q.resolver = p.resolver

namespace Marks

theorem refl (i : SlotId) (p : Part) : Marks i id p p := ⟨Option.map_id.symm ▸ rfl, fun _ _ => rfl, rfl, rfl⟩

theorem trans {f g : Callout → Callout} (h : Marks i f p q) (k : Marks i g q r) : Marks i (g ∘ f) p r where
  slot := by rw [k.slot, h.slot, Option.map_map]
  others := fun j hj => (k.others j hj).trans (h.others j hj)
  roster := k.roster.trans h.roster
  resolver := k.resolver.trans h.resolver

theorem modify (i : SlotId) (f : Callout → Callout) (p : Part) : Marks i f p (p.modify i f) where
  slot := Part.callout?_modify_self ..
  others := fun _ h => Part.callout?_modify_ne _ h f
  roster := Part.roster_modify ..
  resolver := by rw [Part.modify_eq]

theorem degradeIf (b : Bool) (i : SlotId) (p : Part) : Marks i (Callout.degradedIf b) p (if b = true then p.degrade i else p) where
  slot := by rw [Part.callout?_degradeIf, if_pos rfl]
  others := fun j h => by rw [Part.callout?_degradeIf, if_neg h]
  roster := by
    split
    · rw [Part.degrade, Part.raise_roster, Part.roster_modify]
    · rfl
  resolver := by
    split
    · exact (modify i _ p).resolver
    · rfl

theorem pages (i : SlotId) (h : OnlyPages p q) : Marks i id p q :=
  ⟨by rw [h.callout? i, Option.map_id]; rfl, fun j _ => h.callout? j, h.roster, h.resolver⟩

end Marks

theorem Part.restoreSlot_free (h : p.callout? i = none) : p.restoreSlot lost i = p := by
  unfold Part.restoreSlot
  rw [h]

/-- The callout of one slot. -/
theorem Part.restoreSlot_spec (hc : p.callout? i = some c) :
    (p.restoreSlot lost i).callout? i = some (c.restored (lost c.owner))
    ∧ (∀ j, i ≠ j → (p.restoreSlot lost i).callout? j = p.callout? j)
    ∧ (p.restoreSlot lost i).roster = p.roster ∧ (p.restoreSlot lost i).resolver = p.resolver
    ∧ Paging (p.demandAll c.redemand.toList) (p.restoreSlot lost i) := by
  have hdegraded := Marks.degradeIf ((lost c.owner).any fun k => !c.state.redemands k) i p
  have hpaging : Paging p (if ((lost c.owner).any fun k => !c.state.redemands k) = true then p.degrade i else p) :=
    .ite (.degrade i p) (.refl p)
  unfold Part.restoreSlot
  simp only [hc, Part.demandAgain_eq]
  generalize (if ((lost c.owner).any fun k => !c.state.redemands k) = true then p.degrade i else p) = q at hdegraded hpaging
  have hended : ∃ f, Marks i f q (if c.state ≠ .alerting ∧ (lost c.owner).contains .alert = true ∧ c.alertStatus = .outstanding
        then q.modify i fun c => { c with alertStatus := .ended } else q)
      ∧ f (c.degradedIf ((lost c.owner).any fun k => !c.state.redemands k)) = c.restored (lost c.owner) := by
    unfold Callout.restored
    split
    · exact ⟨_, .modify i _ q, rfl⟩
    · exact ⟨id, .refl i q, rfl⟩
  have hpaging' : Paging p (if c.state ≠ .alerting ∧ (lost c.owner).contains .alert = true ∧ c.alertStatus = .outstanding
        then q.modify i fun c => { c with alertStatus := .ended } else q) :=
    hpaging.trans (.ite (.modify (f := fun c => { c with alertStatus := .ended }) i q fun _ _ => rfl) (.refl q))
  obtain ⟨f, hmarks, hf⟩ := hended
  have hall := (hdegraded.trans hmarks).trans (.pages i (Part.demandAll_onlyPages c.redemand.toList _))
  refine ⟨?_, hall.others, hall.roster, hall.resolver, hpaging'.demandAll _⟩
  rw [hall.slot, hc, ← hf]
  rfl

/-! ### All slots -/

/-- The callouts of these slots are marked, and what they demand again has been handed over. -/
structure Restored (lost : Owner → List BatchKind) (l : List SlotId) (p q : Part) : Prop where
  callouts : ∀ j, q.callout? j = if j ∈ l then (p.callout? j).map fun c => c.restored (lost c.owner) else p.callout? j
  roster   : q.roster = p.roster
  resolver : q.resolver = p.resolver
  paging   : Paging (p.demandAll (l.filterMap p.redemandAt)) q

theorem Part.restoreSlots_spec (lost : Owner → List BatchKind) (hl : l.Nodup) (p : Part) :
    Restored lost l p (l.foldl (Part.restoreSlot lost) p) := by
  induction l generalizing p with
  | nil => exact ⟨fun j => (if_neg List.not_mem_nil).symm, rfl, rfl, .refl p⟩
  | cons i rest ih =>
    obtain ⟨hi, hrest⟩ := List.nodup_cons.mp hl
    have hne (j : SlotId) (hj : j ∈ rest) : i ≠ j := fun h => hi (h ▸ hj)
    rw [List.foldl_cons]
    cases hc : p.callout? i with
    | none =>
      obtain ⟨hcallouts, hroster, hresolver, hpaging⟩ := ih hrest p
      rw [Part.restoreSlot_free hc]
      refine ⟨fun j => ?_, hroster, hresolver, ?_⟩
      · rw [hcallouts]
        by_cases hij : i = j
        · subst hij
          rw [if_neg hi, hc, if_pos List.mem_cons_self]
          rfl
        · simp [Ne.symm hij]
      · rw [List.filterMap_cons_none (by rw [Part.redemandAt, hc]; rfl)]
        exact hpaging
    | some c =>
      obtain ⟨hslot, hothers, hroster1, hresolver1, hpaging1⟩ := Part.restoreSlot_spec (lost := lost) hc
      obtain ⟨hcallouts, hroster, hresolver, hpaging⟩ := ih hrest (p.restoreSlot lost i)
      refine ⟨fun j => ?_, hroster.trans hroster1, hresolver.trans hresolver1, ?_⟩
      · rw [hcallouts]
        by_cases hij : i = j
        · subst hij
          rw [if_neg hi, if_pos List.mem_cons_self, hslot, hc]
          rfl
        · rw [hothers j hij]
          simp [Ne.symm hij]
      · have hsame : rest.filterMap (p.restoreSlot lost i).redemandAt = rest.filterMap p.redemandAt :=
          List.filterMap_congr fun j hj => by rw [Part.redemandAt, Part.redemandAt, hothers j (hne j hj)]
        have hsplit : (i :: rest).filterMap p.redemandAt = c.redemand.toList ++ rest.filterMap p.redemandAt := by
          have hat : p.redemandAt i = c.redemand := by rw [Part.redemandAt, hc]; rfl
          rw [List.filterMap_cons, hat]
          cases c.redemand <;> rfl
        rw [hsplit, Part.demandAll_append, ← hsame]
        exact (hpaging1.demandAll _).trans hpaging

theorem slotIds_nodup : slotIds.Nodup := by decide

theorem mem_slotIds (i : SlotId) : i ∈ slotIds := by
  revert i
  decide

/-- The part with its callouts marked and what they demand again handed over. -/
def Part.marked (s : Part) : Part := slotIds.foldl (Part.restoreSlot s.pages.kindsOf) s.emptied

theorem Part.warmRestart_marked (s : Part) : s.warmRestart = s.marked.finish := rfl

theorem Part.marked_spec (s : Part) :
    (∀ j, s.marked.callout? j = (s.callout? j).map fun c => c.restored (s.pages.kindsOf c.owner))
    ∧ s.marked.roster = s.roster ∧ s.marked.resolver = s.resolver
    ∧ Paging (s.emptied.demandAll s.demandsAgain) s.marked := by
  obtain ⟨hcallouts, hroster, hresolver, hpaging⟩ := Part.restoreSlots_spec s.pages.kindsOf slotIds_nodup s.emptied
  have hagain : slotIds.filterMap s.emptied.redemandAt = s.demandsAgain := by
    rw [Part.demandsAgain_eq]
    exact List.filterMap_congr fun j _ => by rw [Part.redemandAt, Part.redemandAt, s.emptied_callout?]
  rw [hagain] at hpaging
  unfold Part.marked
  refine ⟨fun j => ?_, hroster.trans (by rw [s.emptied_eq]), hresolver.trans (by rw [s.emptied_eq]), hpaging⟩
  rw [hcallouts, if_pos (mem_slotIds j), s.emptied_callout?]

/-- What the work within a warm restart leaves of the blocks. -/
theorem Part.marked_work (s : Part) : WorkFrame none s.emptied s.marked.work :=
  (Part.restoreSlots_work s.pages.kindsOf none slotIds s.emptied).trans s.marked.finish_work.1

theorem Part.marked_configuration (s : Part) : SameConfiguration s s.warmRestart :=
  s.emptied_configuration.trans (Moves.configuration (g := .unedited none False) id
    ((Part.restoreSlots_moves s.pages.kindsOf slotIds s.emptied).trans (Part.finish_moves _ _)))

end Sys2Proof.Machine

/-! A warm restart: the page queue after it, and the work that follows (R36, R144, R147 to R150). -/

namespace Sys2Proof.Machine
open Sys2Proof

variable {p q r s t : Part} {i j : SlotId} {c : Callout} {d : Demand}

/-! ### What is demanded again -/

theorem Part.mem_demandsAgain (h : d ∈ s.demandsAgain) : ∃ i c, s.callout? i = some c ∧ d.owner = c.owner ∧ d.restrict = .all
    ∧ ∃ gs, d.content = .groups (membersOf 16 gs) := by
  rw [Part.demandsAgain_eq] at h
  obtain ⟨i, -, hi⟩ := List.mem_filterMap.mp h
  obtain ⟨c, hc, hd⟩ := Option.bind_eq_some_iff.mp hi
  refine ⟨i, c, hc, ?_⟩
  unfold Callout.redemand at hd
  split at hd
  · cases hd
    exact ⟨rfl, rfl, _, rfl⟩
  · split at hd
    · cases hd
      exact ⟨rfl, rfl, _, rfl⟩
    · cases hd

theorem Part.demandsAgain_length (s : Part) : s.demandsAgain.length ≤ 8 := by
  rw [Part.demandsAgain_eq]
  exact List.length_filterMap_le _ slotIds

theorem membersOf_length (n : Nat) (gs : GroupSet) : (membersOf n gs).length ≤ n := by
  have hascending : (ascending n).length ≤ n := (List.length_filterMap_le _ _).trans (List.length_range).le
  exact (List.length_filter_le _ _).trans hascending

/-- The pages of a demand made again are formed from its callout, as many as its groups. -/
theorem Part.formPages_again (hdistinct : s.NumbersDistinct) (h : d ∈ s.demandsAgain) :
    1 + (s.formPages d).length = d.size ∧ (d.content ≠ .groups [] → s.formPages d ≠ []) ∧ d.size ≤ 17 := by
  obtain ⟨i, c, hc, howner, -, gs, hcontent⟩ := Part.mem_demandsAgain h
  have hfound : s.findOwner d.owner = some i := by
    rw [howner]
    unfold Part.findOwner
    rw [Part.findLive_eq_find]
    cases hj : slotIds.find? fun j => (s.callout? j).any fun e => e.number == c.owner.number && e.token == c.owner.token with
    | none =>
      have := List.find?_eq_none.mp hj i (mem_slotIds i)
      simp [hc, Callout.owner] at this
    | some j =>
      have hjs := List.find?_some hj
      obtain ⟨e, he, hnumber⟩ : ∃ e, s.callout? j = some e ∧ e.number = c.number := by
        cases he : s.callout? j with
        | none => simp [he] at hjs
        | some e =>
          rw [he] at hjs
          exact ⟨e, rfl, eq_of_beq (Bool.and_eq_true_iff.mp hjs).1⟩
      by_cases hij : j = i
      · rw [hij]
      · exact absurd hnumber (hdistinct.2 j i e c he hc hij).1
  have hpages : s.formPages d = (membersOf 16 gs).map fun g => pageFor d.kind c (.group g) (s.roster.groups.get g).address := by
    unfold Part.formPages
    rw [hcontent, hfound, Option.bind_some, hc]
    rfl
  have hsize : d.size = 1 + (membersOf 16 gs).length := by
    unfold Demand.size
    rw [hcontent]
    rfl
  refine ⟨?_, fun hne => ?_, ?_⟩
  · rw [hpages, List.length_map, hsize]
  · rw [hpages]
    simpa [hcontent] using hne
  · have := membersOf_length 16 gs
    omega

theorem Part.siteList_flip (s : Part) (n : Nat) (d : Direction) (h : s.siteList d ≠ []) : s.siteList (Direction.flip^[n] d) ≠ [] := by
  have hflip (d : Direction) : s.siteList d.flip = (s.siteList d).reverse := by
    unfold Part.siteList
    rw [← List.filter_reverse]
    cases d with
    | ascending => rfl
    | descending =>
      show List.filter _ siteIds = List.filter _ siteIds.reverse.reverse
      rw [List.reverse_reverse]
  induction n with
  | zero => exact h
  | succ n ih =>
    rw [Function.iterate_succ_apply', hflip]
    simpa using ih

/-- The batch of a demand made again. -/
theorem Part.emptied_batchAt (h : d ∈ s.demandsAgain) (n : Nat) : s.emptied.batchAt n d =
    { kind := d.kind, owner := d.owner, pages := s.formPages d
      sites := (s.siteList (Direction.flip^[n + 1] s.sites.direction)).map fun k => { site := k, condition := .toServe }
      started := false, withdrawing := false } := by
  obtain ⟨-, -, -, -, hall, -⟩ := Part.mem_demandsAgain h
  have hsites (l : List SiteId) : l.filter d.restrict.allows = l := by
    rw [hall]
    exact List.filter_eq_self.mpr fun _ _ => rfl
  unfold Part.batchAt
  rw [hsites, s.emptied_eq]
  rfl

/-! ### The work that follows -/

/-- The first batch demanded again finds a site with credit enough for its first turn. -/
def Part.FirstTurn (s : Part) : Prop :=
  ∀ d rest, s.demandsAgain = d :: rest → ∃ k more, s.siteList (Direction.flip^[1] s.sites.direction) = k :: more
    ∧ s.turnCost k (s.formPages d) ≤ (s.sites.records.get k).credit
    ∧ (s.sites.records.get k).credit ≤ (s.sites.records.get k).ceiling

/-- The page queue can take what is demanded again. -/
theorem Part.emptied_takes (hdistinct : s.NumbersDistinct) (hne : ∀ d ∈ s.demandsAgain, d.content ≠ .groups [])
    (hfirst : s.FirstTurn) (n : Nat) (hd : s.demandsAgain[n]? = some d) :
    (s.emptied.batchAt n d).pages ≠ [] ∧ (s.emptied.batchAt n d).sites ≠ [] := by
  have hmem := List.mem_of_getElem? hd
  rw [Part.emptied_batchAt hmem]
  refine ⟨(Part.formPages_again hdistinct hmem).2.1 (hne d hmem), ?_⟩
  obtain ⟨x, rest, hx⟩ := List.exists_cons_of_ne_nil (List.ne_nil_of_mem hmem)
  obtain ⟨k, more, hk, -⟩ := hfirst x rest hx
  have hsites := s.siteList_flip n _ (by rw [hk]; nofun)
  rw [← Function.iterate_add_apply] at hsites
  simpa using hsites

/-- Only lines, table, page queue and sites have changed, and of the table no callout. -/
structure Stays (p q : Part) : Prop where
  callouts : ∀ j, q.callout? j = p.callout? j
  roster   : q.roster = p.roster
  resolver : q.resolver = p.resolver

/-- The page queue after a warm restart, when it can take what is demanded again (R36). -/
structure Redemanded (n : Nat) (s t : Part) : Prop where
  count   : n ≤ s.demandsAgain.length
  fit     : ∀ j d, s.demandsAgain[j]? = some d → (j < n → s.emptied.usedAfter s.demandsAgain j + d.size ≤ 64)
    ∧ (j = n → 64 < s.emptied.usedAfter s.demandsAgain j + d.size)
  demands : t.pages.demands = s.demandsAgain.drop n
  queue   : t.pages.queue.length = n ∧ ∀ j d b, s.demandsAgain[j]? = some d → t.pages.queue[j]? = some b →
    b = { s.emptied.batchAt j d with started := b.started } ∧ (b.started = true → j = 0)
  turn    : ∀ d rest, s.demandsAgain = d :: rest → ∀ k more, s.siteList (Direction.flip^[1] s.sites.direction) = k :: more →
    TurnBegun k (s.formPages d) s t

theorem Part.clearCheck_stays {b : Batch} {rest : List Batch} (hq : p.pages.queue = b :: rest) (k : SiteId) :
    Stays p (p.clearCheck k).refreshLamps := by
  rw [Part.clearCheck_eq hq]
  split <;> exact ⟨fun _ => rfl, rfl, rfl⟩

/-- After a warm restart the first batch demanded again takes its first turn, and that is all the work there is. -/
theorem Part.redemanded_turn {k : SiteId} {more : List SiteId} {queue : List Batch} (hsupply : r.supply = s.emptied.supply)
    (hpins : r.pins = s.emptied.pins) (hidle : r.sites.sequencer = s.emptied.sites.sequencer)
    (hrecords : r.sites.records = s.emptied.sites.records) (hreports : r.pages.reports = [])
    (hcons : r.pages.queue = s.emptied.batchAt 0 d :: queue) (hmem : d ∈ s.demandsAgain)
    (hk : s.siteList (Direction.flip^[1] s.sites.direction) = k :: more)
    (hcost : s.turnCost k (s.formPages d) ≤ (s.sites.records.get k).credit)
    (hcredit : (s.sites.records.get k).credit ≤ (s.sites.records.get k).ceiling) :
    r.finish = (r.clearCheck k).refreshLamps ∧ TurnBegun k (s.formPages d) s (r.clearCheck k).refreshLamps
      ∧ (r.clearCheck k).pages.queue
        = { s.emptied.batchAt 0 d with started := (s.emptied.batchAt 0 d).started || s.pins.channelClear.get k } :: queue := by
  have hsites : (s.emptied.batchAt 0 d).sites
      = { site := k, condition := .toServe } :: more.map fun k => { site := k, condition := .toServe } := by
    rw [Part.emptied_batchAt hmem]
    show List.map _ (s.siteList (Direction.flip^[1] s.sites.direction)) = _
    rw [hk]
    rfl
  have hpages : (s.emptied.batchAt 0 d).pages = s.formPages d := by rw [Part.emptied_batchAt hmem]
  have hemptied : s.emptied.sites.records = s.sites.records := by rw [s.emptied_eq]
  have hidle : r.sites.sequencer = .idle := by rw [hidle, s.emptied_eq]
  have hin : r.inhibited k = false := by
    have h := Part.batchAt_inhibited (s := s.emptied) (n := 0) (d := d) (e := { site := k, condition := .toServe })
      (by rw [hsites]; exact List.mem_cons_self)
    unfold Part.inhibited at h ⊢
    rw [hsupply, hrecords]
    exact h
  rw [hemptied] at hrecords
  have hturn := Part.work_turn hreports hidle hcons ((s.emptied.batchAt_remaining 0 d).trans hsites) rfl hin
    (by unfold Part.turnCost at hcost ⊢; rw [hrecords, hpages]; exact hcost) (by rw [hrecords]; exact hcredit)
  obtain ⟨hbegun, hafter⟩ := r.clearCheck_turnBegun (s := s) hcons (k := k) hrecords (by rw [hpins, s.emptied_eq])
  refine ⟨?_, hpages ▸ hbegun, hafter⟩
  unfold Part.finish
  rw [hturn]

theorem Part.redemanded (hdistinct : s.NumbersDistinct) (hne : ∀ d ∈ s.demandsAgain, d.content ≠ .groups [])
    (hfirst : s.FirstTurn) (hr : Paging (s.emptied.demandAll s.demandsAgain) r) :
    Stays r r.finish ∧ ∃ n, Redemanded n s r.finish := by
  have hcold : s.emptied.pages = PageQueue.cold := by rw [s.emptied_eq]
  have hlen := s.demandsAgain_length
  obtain ⟨n, hn, htaken, hfit⟩ := Part.demandAll_of_none (s := s.emptied) (ds := s.demandsAgain) (by rw [hcold]; rfl)
    (by omega) fun j d hd => Part.emptied_takes hdistinct hne hfirst j hd
  rw [htaken] at hr
  have hqueue : r.pages.queue = (s.demandsAgain.take n).mapIdx fun j d => s.emptied.batchAt j d := by
    rw [hr.same.1]
    show s.emptied.pages.queue ++ _ = _
    rw [hcold]
    rfl
  have hdemands : r.pages.demands = s.demandsAgain.drop n := by
    rw [hr.same.1]
    rfl
  have hreports : r.pages.reports = [] := by
    rw [hr.same.1]
    show s.emptied.pages.reports = []
    rw [hcold]
    rfl
  have hentry (j : Nat) (d : Demand) (b : Batch) (hd : s.demandsAgain[j]? = some d)
      (hb : ((s.demandsAgain.take n).mapIdx fun j d => s.emptied.batchAt j d)[j]? = some b) : b = s.emptied.batchAt j d := by
    rw [List.getElem?_mapIdx, List.getElem?_take] at hb
    split at hb
    · rw [hd] at hb
      exact (Option.some.inj hb).symm
    · cases hb
  have hlength : ((s.demandsAgain.take n).mapIdx fun j d => s.emptied.batchAt j d).length = n := by
    rw [List.length_mapIdx, List.length_take]
    omega
  cases hagain : s.demandsAgain with
  | nil =>
    have hnil : r.pages.queue = [] := by
      rw [hqueue, hagain, List.take_nil, List.mapIdx_nil]
    rw [Part.finish_quiet (Part.quiet_of_empty hreports hnil)]
    refine ⟨⟨fun _ => rfl, rfl, rfl⟩, n, hn, hfit, hdemands, ⟨?_, ?_⟩, fun d rest h => ?_⟩
    · show r.pages.queue.length = n
      rw [hqueue, hlength]
    · intro j d b hd
      rw [hagain] at hd
      cases hd
    · rw [hagain] at h
      cases h
  | cons d rest =>
    have hmem : d ∈ s.demandsAgain := hagain ▸ List.mem_cons_self
    obtain ⟨-, -, hsize⟩ := Part.formPages_again hdistinct hmem
    obtain ⟨m, rfl⟩ : ∃ m, n = m + 1 := by
      refine Nat.exists_eq_succ_of_ne_zero fun h0 => ?_
      have hfull := (hfit 0 d (by rw [hagain]; rfl)).2 h0.symm
      have hused : s.emptied.usedAfter s.demandsAgain 0 = 0 := by
        unfold Part.usedAfter
        rw [hcold]
        rfl
      omega
    obtain ⟨k, more, hk, hcost, hcredit⟩ := hfirst d rest hagain
    have hcons : r.pages.queue = s.emptied.batchAt 0 d
        :: (rest.take m).mapIdx fun j d => s.emptied.batchAt (j + 1) d := by
      rw [hqueue, hagain, List.take_succ_cons, List.mapIdx_cons]
    have hsupply : r.supply = s.emptied.supply := hr.supply
    have hpins : r.pins = s.emptied.pins := hr.pins
    have hidle : r.sites.sequencer = s.emptied.sites.sequencer := by rw [hr.same.2]; rfl
    have hrecords : r.sites.records = s.emptied.sites.records := by rw [hr.same.2]; rfl
    obtain ⟨hfinish, hbegun, hafter⟩ :=
      Part.redemanded_turn hsupply hpins hidle hrecords hreports hcons hmem hk hcost hcredit
    rw [hfinish]
    refine ⟨Part.clearCheck_stays hcons k, m + 1, hn, hfit, ?_, ⟨?_, ?_⟩, fun e others h k' more' h' => ?_⟩
    · rw [← hdemands, Part.clearCheck_eq hcons]
      split <;> rfl
    · show (r.clearCheck k).pages.queue.length = m + 1
      rw [hafter, List.length_cons, ← hlength, ← hqueue, hcons, List.length_cons]
    · intro j e b he hb
      change (r.clearCheck k).pages.queue[j]? = some b at hb
      rw [hafter] at hb
      cases j with
      | zero =>
        rw [hagain] at he
        cases he
        cases hb
        exact ⟨rfl, fun _ => rfl⟩
      | succ j =>
        obtain rfl := hentry (j + 1) e b he (by rw [← hqueue, hcons]; exact hb)
        exact ⟨rfl, nofun⟩
    · rw [hagain] at h
      cases h
      rw [hk] at h'
      cases h'
      exact hbegun

end Sys2Proof.Machine

/-! The warm restart (R36, R52, R72, R144, R162, R190, R196). -/

namespace Sys2Proof.Machine
open Sys2Proof

variable {p q r s t : Part} {i j : SlotId} {c d : Callout}

/-- The lamps apart, the end of an event leaves what its work leaves. -/
theorem Part.finish_lines (p : Part) : p.finish.lines = p.work.lines := rfl

/-- The lines after a warm restart (R180, R190). -/
theorem Part.warmRestart_ctl (s : Part) (l : Line) :
    (s.warmRestart.ctl l).state = .idle ∧ (s.warmRestart.ctl l).gap = none ∧ (s.warmRestart.ctl l).reply = none
    ∧ (s.warmRestart.ctl l).mask = (s.ctl l).mask ∧ ((s.ctl l).state = .replying → (s.warmRestart.ctl l).tail ≠ none)
    ∧ ((s.ctl l).flags ||| 1#16 <<< 9) &&& ~~~(s.warmRestart.ctl l).flags = 0#16 := by
  obtain ⟨b, -, hlines⟩ := s.marked_work.lines
  obtain ⟨hstate, hgap, hreply, hmask, hflags, htail⟩ :=
    ({ s with cause := .warm, restart := .none } : Part).emptyPages.restartLines_ctl l
  have hctl : s.warmRestart.ctl l = { s.emptied.ctl l with flags := (s.emptied.ctl l).flags ||| b } := by
    rw [Part.warmRestart_marked, Part.ctl, Part.finish_lines, hlines, Lines.ctl_all]
    rfl
  rw [hctl]
  refine ⟨hstate, hgap, hreply, hmask, htail, ?_⟩
  show _ &&& ~~~((s.emptied.ctl l).flags ||| b) = 0#16
  have hflags : (s.emptied.ctl l).flags = (s.ctl l).flags ||| 1#16 <<< 9 := hflags
  rw [hflags]
  ext k hk
  simp only [BitVec.getElem_and, BitVec.getElem_or, BitVec.getElem_not, BitVec.getElem_zero]
  cases (s.ctl l).flags[k] <;> cases (1#16 <<< 9)[k] <;> rfl

theorem Part.warmRestart_super (s : Part) :
    s.warmRestart.lines.superP = (if s.lines.superP.up then { up := true, timer := some (s.settings.periodP * 1000) }
      else s.lines.superP)
    ∧ s.warmRestart.lines.superS = (if s.lines.superS.up then { up := true, timer := some (s.settings.periodS * 1000) }
      else s.lines.superS) := by
  obtain ⟨b, -, hlines⟩ := s.marked_work.lines
  obtain ⟨hP, hS⟩ := ({ s with cause := .warm, restart := .none } : Part).emptyPages.restartLines_super
  have hsuper : s.warmRestart.lines.superP = s.emptied.lines.superP ∧ s.warmRestart.lines.superS = s.emptied.lines.superS := by
    rw [Part.warmRestart_marked, Part.finish_lines, hlines]
    exact ⟨rfl, rfl⟩
  exact ⟨(hsuper.1.trans hP).trans (Supervision.reload_eq _ _), (hsuper.2.trans hS).trans (Supervision.reload_eq _ _)⟩

theorem Callout.eq_of_core_still (hcore : d.core = c.core) (hstill : c.Still d) : d = { c with
    alertStatus := d.alertStatus, paged := d.paged, flags := { c.flags with txDegraded := d.flags.txDegraded } } := by
  obtain ⟨hstate, hresponses, hassessment, hwindow⟩ := hstill
  have heta : d = { d.core with
      state := d.state, paged := d.paged, alertStatus := d.alertStatus, responses := d.responses, assessment := d.assessment
      responseWindow := d.responseWindow, flags := { d.core.flags with txDegraded := d.flags.txDegraded } } := rfl
  rw [heta, hcore, hstate, hresponses, hassessment, hwindow]
  rfl

/-- A callout that is neither ALERTING nor CLOSING (R36). -/
theorem Part.warmRestart_callout (hc : s.callout? i = some c) (ha : c.state ≠ .alerting) (hn : c.state ≠ .closing) :
    ∃ d, s.warmRestart.callout? i = some d ∧ d = { c with
      alertStatus := d.alertStatus, paged := d.paged, flags := { c.flags with txDegraded := d.flags.txDegraded } } := by
  obtain ⟨hcallouts, -⟩ := s.marked_spec
  have hmarked : s.marked.callout? i = some (c.restored (s.pages.kindsOf c.owner)) := by
    refine (hcallouts i).trans ?_
    rw [hc]
    rfl
  obtain ⟨d, hd, hstep⟩ := Part.finish_callout?_of hmarked hn
  exact ⟨d, hd, Callout.eq_of_core_still (c := c) (hstep.1.trans rfl) (hstep.still ha)⟩

/-- Nothing is demanded again without a callout ALERTING or CLOSING. -/
theorem Part.demandsAgain_nil (h : ∀ i c, s.callout? i = some c → c.state ≠ .alerting ∧ c.state ≠ .closing) :
    s.demandsAgain = [] := by
  rw [Part.demandsAgain_eq, List.filterMap_eq_nil_iff]
  intro i _
  rw [Part.redemandAt, Option.bind_eq_none_iff]
  intro c hc
  obtain ⟨ha, hn⟩ := h i c hc
  rw [Callout.redemand, if_neg ha, if_neg hn]

theorem Part.warmRestart_calm (h : ∀ i c, s.callout? i = some c → c.state ≠ .alerting ∧ c.state ≠ .closing) :
    s.warmRestart.pages = PageQueue.cold ∧ s.warmRestart.sites = { s.sites with sequencer := .idle }
    ∧ s.warmRestart.roster = s.roster ∧ s.warmRestart.resolver = s.resolver := by
  obtain ⟨-, hroster, hresolver, hpaging⟩ := s.marked_spec
  rw [s.demandsAgain_nil h] at hpaging
  have hpages : s.marked.pages = PageQueue.cold := hpaging.same.1.trans (congrArg Part.pages s.emptied_eq)
  have hsites : s.marked.sites = { s.sites with sequencer := .idle } := hpaging.same.2.trans (congrArg Part.sites s.emptied_eq)
  rw [Part.warmRestart_marked, Part.finish_quiet (Part.quiet_of_empty (by rw [hpages]; rfl) (by rw [hpages]; rfl))]
  generalize s.marked = r at hpages hsites hroster hresolver
  exact ⟨hpages, hsites, hroster, hresolver⟩

/-! ### What a callout owned -/

theorem Part.owns_iff (s : Part) (c : Callout) (k : BatchKind) : s.Owns c k ↔ k ∈ s.pages.kindsOf c.owner := by
  unfold Part.Owns PageQueue.kindsOf
  simp only [List.mem_append, List.mem_map, List.mem_filter, beq_iff_eq, and_assoc]

theorem CalloutState.redemands_iff (st : CalloutState) (k : BatchKind) :
    st.redemands k = true ↔ st = .alerting ∧ k = .alert ∨ st = .closing ∧ k = .standDown := by
  cases st <;> simp [CalloutState.redemands]

/-- The marks of a callout by what it owned. -/
theorem Callout.restored_spec (s : Part) (c : Callout) :
    ((c.restored (s.pages.kindsOf c.owner)).flags.txDegraded = true ↔ c.flags.txDegraded = true
      ∨ ∃ k, s.Owns c k ∧ ¬ (c.state = .alerting ∧ k = .alert ∨ c.state = .closing ∧ k = .standDown))
    ∧ (c.state ≠ .alerting ∧ c.alertStatus = .outstanding ∧ s.Owns c .alert →
        (c.restored (s.pages.kindsOf c.owner)).alertStatus = .ended)
    ∧ (¬ (c.state ≠ .alerting ∧ c.alertStatus = .outstanding ∧ s.Owns c .alert) →
        (c.restored (s.pages.kindsOf c.owner)).alertStatus = c.alertStatus) := by
  have howned : c.state ≠ .alerting ∧ (s.pages.kindsOf c.owner).contains .alert = true ∧ c.alertStatus = .outstanding
      ↔ c.state ≠ .alerting ∧ c.alertStatus = .outstanding ∧ s.Owns c .alert := by
    rw [s.owns_iff, List.contains_iff_mem]
    exact and_congr_right fun _ => and_comm
  refine ⟨?_, fun h => if_pos (howned.mpr h), fun h => if_neg fun k => h (howned.mp k)⟩
  show (c.flags.txDegraded || _) = true ↔ _
  rw [Bool.or_eq_true, List.any_eq_true]
  refine or_congr_right (exists_congr fun k => ?_)
  rw [s.owns_iff, ← c.state.redemands_iff, Bool.not_eq_true', Bool.not_eq_true]

/-! ### The pages in use -/

theorem Part.usedAfter_emptied (hdistinct : s.NumbersDistinct) {d : Demand} {j : Nat} (hd : s.demandsAgain[j]? = some d) :
    s.emptied.usedAfter s.demandsAgain j + d.size
      = ((s.demandsAgain.take (j + 1)).map fun d => 1 + (s.formPages d).length).sum := by
  have hcold : s.emptied.pages.queue = [] := by
    rw [s.emptied_eq]
    rfl
  have hform : s.emptied.formPages = s.formPages := by
    rw [s.emptied_eq]
    rfl
  unfold Part.usedAfter
  rw [hcold, hform, List.take_add_one, hd, List.map_append, List.sum_append,
    ← (Part.formPages_again hdistinct (List.mem_of_getElem? hd)).1]
  simp

/-- The blocks a warm restart keeps or sets. -/
theorem Part.warmRestart_blocks (s : Part) : s.warmRestart.cause = .warm ∧ s.warmRestart.restart = .none
    ∧ s.warmRestart.condition = s.condition ∧ s.warmRestart.pins = s.pins ∧ s.warmRestart.supply = s.supply
    ∧ s.warmRestart.station.run = s.station.run ∧ s.warmRestart.table.lastNumber = s.table.lastNumber
    ∧ s.warmRestart.table.lastToken = s.table.lastToken := by
  have hwork := s.marked_work
  rw [Part.warmRestart_marked]
  unfold Part.finish
  generalize s.marked.work = q at hwork
  rw [s.emptied_eq] at hwork
  exact ⟨hwork.cause, hwork.restart, hwork.condition, hwork.pins, hwork.supply, congrArg (fun x => x.run) hwork.station,
    hwork.last.1, hwork.last.2⟩

/-- Every callout, when the page queue can take what is demanded again. -/
theorem Part.warmRestart_stays (h : Stays s.marked s.warmRestart) (hc : s.callout? i = some c) :
    s.warmRestart.callout? i = some (c.restored (s.pages.kindsOf c.owner)) := by
  rw [h.callouts, s.marked_spec.1, hc]
  rfl

theorem Part.warmRestart_redemanded (hdistinct : s.NumbersDistinct) (hne : ∀ d ∈ s.demandsAgain, d.content ≠ .groups [])
    (hfirst : s.FirstTurn) : Stays s.marked s.warmRestart ∧ ∃ n, Redemanded n s s.warmRestart := by
  rw [Part.warmRestart_marked]
  exact Part.redemanded hdistinct hne hfirst s.marked_spec.2.2.2

/-- Settles O26. -/
theorem warmRestart : Obligations.WarmRestart := by
  unfold Obligations.WarmRestart
  intro s hs
  refine leads_of_event hs rfl ?_
  obtain ⟨hcause, hrestart, hcondition, hpins, hsupply, hrun, hnumber, htoken⟩ := s.toPart.warmRestart_blocks
  obtain ⟨hsuperP, hsuperS⟩ := s.toPart.warmRestart_super
  refine ⟨hcause, hrestart, hcondition.trans hs, hpins, s.toPart.warmRestart_ctl, hsuperP, hsuperS, s.toPart.marked_configuration,
    hsupply, hrun, hnumber, htoken, fun i c hc ha hn => Part.warmRestart_callout hc ha hn, fun hcalm => ?_, ?_⟩
  · obtain ⟨hpages, hsites, hroster, hresolver⟩ := Part.warmRestart_calm hcalm
    rw [hpages, hsites]
    exact ⟨rfl, rfl, rfl, hroster, hresolver, fun _ => rfl⟩
  · intro again pages sizes sitesOf hdistinct hne hfirst
    obtain ⟨-, hroster, hresolver, -⟩ := s.toPart.marked_spec
    obtain ⟨hstays, n, hcount, hfit, hdemands, ⟨hlength, hqueue⟩, hturn⟩ := Part.warmRestart_redemanded hdistinct hne hfirst
    have hsizes (j : Nat) (h : j < again.length) : s.emptied.usedAfter again j + again[j].size = sizes (j + 1) :=
      Part.usedAfter_emptied hdistinct (List.getElem?_eq_getElem h)
    refine ⟨fun i c hc => ?_, hstays.roster.trans hroster, hstays.resolver.trans hresolver, n, hcount, hdemands, hlength, ?_,
      fun h => ?_, fun j d b hd hb => ?_, hturn⟩
    · obtain ⟨hdegraded, hended, hkept⟩ := Callout.restored_spec s.toPart c
      exact ⟨_, Part.warmRestart_stays hstays hc, rfl, hdegraded, hended, hkept⟩
    · cases n with
      | zero => exact Nat.zero_le _
      | succ m =>
        rw [← hsizes m hcount]
        exact (hfit m _ (List.getElem?_eq_getElem hcount)).1 (Nat.lt_succ_self m)
    · rw [← hsizes n h]
      exact (hfit n _ (List.getElem?_eq_getElem h)).2 rfl
    · obtain ⟨hbatch, hstarted⟩ := hqueue j d b hd hb
      refine ⟨hbatch.trans ?_, hstarted⟩
      rw [Part.emptied_batchAt (List.mem_of_getElem? hd)]

end Sys2Proof.Machine
